-- ==== Sys2Proof/Word.lean ====
section
/-! DEFINITION. The words of the G9: 32-bit words, 64-bit pairs, bytes, and the plainest readings of them (R3, R47). -/
namespace Sys2Proof

/-- A register, instruction or stream word (R46, R300). -/
abbrev Word := BitVec 32
/-- A register pair or a 64-bit memory word, low half first (R3, R47). -/
abbrev DWord := BitVec 64
/-- One byte of memory. -/
abbrev Byte := BitVec 8
/-- The number of a register field: seven bits (R307). -/
abbrev Reg := BitVec 7

/-- The pair of two words, the low one first (R47). -/
def pairOf (lo hi : Word) : DWord := hi ++ lo
/-- The low word of a pair (R47). -/
def loWord (x : DWord) : Word := x.setWidth 32
/-- The high word of a pair (R47). -/
def hiWord (x : DWord) : Word := (x >>> 32).setWidth 32
/-- A pair field names an even register (R47). -/
def evenReg (r : Reg) : Bool := r.toNat % 2 == 0
/-- A four-register field names a multiple of four (R397, R458, R327). -/
def quadReg (r : Reg) : Bool := r.toNat % 4 == 0

end Sys2Proof
end

