-- ==== Sys2Proof/Syntax.lean ====
section
/-! DEFINITION. The syntax: one constructor per row of the opcode table, that is the instructions of the three
executors (R318, R320, R321) and the events of the machine's own units and of the outside world. -/
namespace Sys2Proof

/-- Issue control of an X word: lookahead L and the scoreboard field, 7 for none (R308, R311, R315). -/
structure Issue where
  la : BitVec 4
  sb : BitVec 3
  deriving DecidableEq, Repr

/-- A second source: a register, or the literal word that replaces it (R309). -/
inductive Src where
  | reg (r : Reg)
  | lit (w : Word)
  deriving DecidableEq, Repr

/-- A byte offset: imm11, or the literal word that replaces it (R309, R310). -/
inductive Off where
  | imm (i : BitVec 11)
  | lit (w : Word)
  deriving DecidableEq, Repr

/-- The memory class fields of the X word: SPACE, SIZE, SX, PV with POL, OPN (R310). -/
structure Mem where
  space : BitVec 2
  size  : BitVec 3
  sx    : Bool
  pv    : Bool
  pol   : Reg
  opn   : BitVec 4
  off   : Off
  is    : Issue
  deriving DecidableEq, Repr

/-- A packet of the packet plane or of a circuit's data flits, field by field (R200). -/
structure Packet where
  typ    : Nat
  op     : Nat
  ttl    : Nat
  lane   : Nat
  ctx    : Nat
  src    : Nat
  dst    : Nat
  serial : Nat
  pmask  : Nat
  off    : Nat
  va     : Nat
  data   : List Byte
  deriving DecidableEq, Repr

/-- How the code brought a flit: symbols corrected and codewords uncorrectable since the flit before it, and whether it
touches one that is (R189, R192). -/
structure FlitCode where
  fixed   : Nat := 0
  lost    : Nat := 0
  touched : Bool := false
  deriving DecidableEq, Repr

/-- A flit as it arrives: its 256 bytes and how the code brought it (R189, R191). -/
structure FlitIn where
  bytes : List Byte
  code  : FlitCode
  deriving DecidableEq, Repr

/-- A flit arriving at a port. -/
structure PortFlit where
  port : Nat
  flit : FlitIn
  deriving DecidableEq, Repr

/-- Who writes a register of a hub block (R238, R272, R281, R286). -/
inductive Agent where
  | host
  | hearth
  | bellows
  | mgmt
  deriving DecidableEq, Repr

/-- The instructions and events of the opcode table, one constructor per row. -/
inductive Instr where
  -- reset, freeze and the test port
  | dataRegisterScan (bits : List Bool)
  -- picking and placement
  | bundlePick (core picker : Nat) (fresh : Bool)
  | clauseChain (core picker : Nat) (fresh : Bool)
  | teamDispatch (launch : Nat)
  | gangReserve (core : Nat)
  | placementAging (launch : Nat)
  | teamPreempt (team : Nat)
  | teamResume (team : Nat)
  | teamComplete (team : Nat)
  | deferredMatrixTrap (thread : Nat)
  | bundleLeavePicker (core picker : Nat)
  | coreHang (core : Nat)
  -- translation and faults
  | faultRecordWrite (ctx : Nat)
  | translationWalkComplete (die ctx page : Nat)
  | xivcWrite (v : Word)
  | frplRetry (fid : Word)
  | frplRefuse (fid : Word)
  -- copies and the matrix engine
  | snapshotAsideComplete (core tag line : Nat)
  | matrixComputeStart (core : Nat)
  | matrixComplete (core : Nat)
  | copyLockRegistration (core : Nat)
  | copyChunkCommit (core tag : Nat)
  | copyResume (core tag : Nat)
  | copyComplete (core tag : Nat)
  | zeroCopyComplete (core tag : Nat)
  | circuitCopyStart (core tag : Nat)
  -- scout
  | scoutOutcome (thread : Nat)
  | scoutBudgetEnd (thread : Nat)
  | scoutRestore (thread : Nat)
  -- optical ports
  | wavelengthLock (port : Nat) (locked : BitVec 8)
  | wavelengthDead (port w : Nat)
  | retrainRelock (port : Nat)
  | portLockTimeout (port : Nat)
  | portTrained (port : Nat)
  | portTrainingTimeout (port : Nat)
  | helloSend (port : Nat)
  | hello (port : Nat) (bytes : List Byte) (fixed lost : Nat) (touched : Bool)
  | portHelloTimeout (port : Nat)
  | retrain (arrived : PortFlit)
  | lossOfLight (port : Nat)
  | engineFailure (engine : Nat)
  | dataFlit (port : Nat) (bytes : List Byte) (code : FlitCode)
  | idleFlit (port : Nat) (flit : FlitIn)
  | nak (port aseq : Nat)
  | ackReport (port : Nat)
  | replayLimit (port : Nat)
  -- packets
  | frameReceive (q : Nat) (bytes : List Byte)
  | store (p : Packet)
  | redPacket (p : Packet)
  | load (p : Packet)
  | atomPacket (p : Packet)
  | reply (p : Packet)
  | ack (p : Packet)
  | hold (p : Packet)
  | refuse (p : Packet)
  | busy (p : Packet)
  | chunk (p : Packet)
  | commit (p : Packet)
  | gdata (p : Packet)
  | gclear (p : Packet)
  | rdata (p : Packet)
  | rfree (p : Packet)
  | back (p : Packet)
  | swrep (p : Packet)
  | requestResend (chip lane serial : Nat)
  | leaseEnd (port : Nat)
  -- Bellows and Hearth events
  | scriptStart (k : Nat)
  | bellowsWaitTimeout (k : Nat)
  | graphOpComplete (slot op : Nat)
  | blockForward (index : Nat)
  | contextEnable (ctx : Nat)
  | contextDisable (ctx : Nat)
  | labrtWrite (ctx : Nat) (v : Word)
  | svrplWrite (ctx : Nat) (v : DWord)
  | tailObserve (ctx stream : Nat)
  | streamEnable (ctx stream : Nat)
  | streamStop (ctx stream : Nat)
  | journalRecordWrite (ctx : Nat)
  | groupReturn (team group : Nat)
  -- machine checks, host, management
  | cexclWrite (w : Nat) (v : DWord)
  | scrubPass (die : Nat) (corrected : Bool) (lost : List Nat)
  | hostRequest (write : Bool) (off : Nat) (data : List Byte)
  | huerilinkResponse (thread : Nat) (data : List Byte)
  | hipendWrite (half : Bool) (v : DWord)
  | himaskWrite (half : Bool) (v : DWord)
  | cxlLinkDown (port : Nat)
  | clockAdjust (pwravg tinlet tjmax : Nat)
  | sleepExpire (thread : Nat)
  | monwRepoll (thread : Nat)
  | registerWrite (who : Agent) (off size : Nat) (v : DWord)
  | instructionResultWrite (thread index : Nat)
  -- integer
  | iadd (d a b : Reg)
  | iaddLiteral (d a : Reg) (x : Word)
  | isub (d a b : Reg)
  | isubLiteral (d a : Reg) (x : Word)
  | imul (d a b : Reg)
  | imulLiteral (d a : Reg) (x : Word)
  | imulh (u : Bool) (d a b : Reg)
  | imulhLiteral (u : Bool) (d a : Reg) (x : Word)
  | imulw (u : Bool) (d a b : Reg)
  | imulwLiteral (u : Bool) (d a : Reg) (x : Word)
  | imad (d a : Reg) (b : Src) (e : Reg)
  | imin (u : Bool) (d a b : Reg)
  | iminLiteral (u : Bool) (d a : Reg) (x : Word)
  | imax (u : Bool) (d a b : Reg)
  | imaxLiteral (u : Bool) (d a : Reg) (x : Word)
  | iabs (d a : Reg)
  | ineg (d a : Reg)
  | icmp (c : BitVec 4) (d a b : Reg)
  | icmpLiteral (c : BitVec 4) (d a : Reg) (x : Word)
  | iadd64 (d a b : Reg)
  | lea (u : Bool) (sh : BitVec 3) (d a b : Reg)
  | leaLiteral (u : Bool) (sh : BitVec 3) (d a : Reg) (x : Word)
  | sel (d a : Reg) (b : Src) (e : Reg)
  | mov (d a : Reg)
  | movi (d : Reg) (imm : BitVec 11)
  | moviLiteral (d : Reg) (x : Word)
  | and (d a b : Reg)
  | andLiteral (d a : Reg) (x : Word)
  | or (d a b : Reg)
  | orLiteral (d a : Reg) (x : Word)
  | xor (d a b : Reg)
  | xorLiteral (d a : Reg) (x : Word)
  | not (d a : Reg)
  | shl (d a b : Reg)
  | shlLiteral (d a : Reg) (x : Word)
  | shr (d a b : Reg)
  | shrLiteral (d a : Reg) (x : Word)
  | sar (d a b : Reg)
  | sarLiteral (d a : Reg) (x : Word)
  | shl64 (d a b : Reg)
  | shl64Literal (d a : Reg) (x : Word)
  | shr64 (d a b : Reg)
  | shr64Literal (d a : Reg) (x : Word)
  | bfe (sx : Bool) (d a b : Reg)
  | bfeLiteral (sx : Bool) (d a : Reg) (x : Word)
  | bfi (d a : Reg) (b : Src) (e : Reg)
  | brev (d a : Reg)
  | popc (d a : Reg)
  | clz (d a : Reg)
  | bsrd (d a b : Reg)
  -- FP32, special functions, packed, conversion
  | fadd (rm : BitVec 2) (d a b : Reg)
  | faddLiteral (rm : BitVec 2) (d a : Reg) (x : Word)
  | fsub (rm : BitVec 2) (d a b : Reg)
  | fsubLiteral (rm : BitVec 2) (d a : Reg) (x : Word)
  | fmul (rm : BitVec 2) (d a b : Reg)
  | fmulLiteral (rm : BitVec 2) (d a : Reg) (x : Word)
  | ffma (rm : BitVec 2) (d a : Reg) (b : Src) (e : Reg)
  | fmin (d a b : Reg)
  | fminLiteral (d a : Reg) (x : Word)
  | fmax (d a b : Reg)
  | fmaxLiteral (d a : Reg) (x : Word)
  | fcmp (c : BitVec 4) (d a b : Reg)
  | fcmpLiteral (c : BitVec 4) (d a : Reg) (x : Word)
  | fclass (d a : Reg)
  | frnd (rm : BitVec 2) (d a : Reg)
  | exp2 (d a : Reg) (is : Issue)
  | log2 (d a : Reg) (is : Issue)
  | rcp (d a : Reg) (is : Issue)
  | rsq (d a : Reg) (is : Issue)
  | sqrt (rm : BitVec 2) (d a : Reg) (is : Issue)
  | tanh (d a : Reg) (is : Issue)
  | padd (t : BitVec 2) (sat rz : Bool) (d a b : Reg)
  | paddLiteral (t : BitVec 2) (sat rz : Bool) (d a : Reg) (x : Word)
  | pmul (t : BitVec 2) (sat rz : Bool) (d a b : Reg)
  | pmulLiteral (t : BitVec 2) (sat rz : Bool) (d a : Reg) (x : Word)
  | pfma (t : BitVec 2) (sat rz : Bool) (d a : Reg) (b : Src) (e : Reg)
  | pmin (t : BitVec 2) (d a b : Reg)
  | pminLiteral (t : BitVec 2) (d a : Reg) (x : Word)
  | pmax (t : BitVec 2) (d a b : Reg)
  | pmaxLiteral (t : BitVec 2) (d a : Reg) (x : Word)
  | cvt (df sf : BitVec 4) (rm : BitVec 2) (sat : Bool) (k : BitVec 3) (d a : Reg) (is : Issue)
  | cvtsr (df : BitVec 4) (sat : Bool) (d a e : Reg) (is : Issue)
  | pack (t : BitVec 2) (sat hi : Bool) (d a b : Reg)
  | packLiteral (t : BitVec 2) (sat hi : Bool) (d a : Reg) (x : Word)
  | unpk (t : BitVec 2) (hi : Bool) (d a : Reg)
  -- cross-lane
  | shfl (mode : BitVec 2) (d a b m : Reg) (is : Issue)
  | ballot (d a m : Reg) (is : Issue)
  | vote (kind : BitVec 2) (d a m : Reg) (is : Issue)
  | redl (op : BitVec 3) (ty : BitVec 2) (d a m : Reg) (is : Issue)
  | scanl (op : BitVec 3) (excl : Bool) (ty : BitVec 2) (d a m : Reg) (is : Issue)
  | elect (d a m : Reg) (is : Issue)
  -- control
  | bra (k : BitVec 18)
  | brc (c : Reg) (k : BitVec 18)
  | brx (a : Reg)
  | call (l : Reg) (k : BitVec 18)
  | callx (d a : Reg)
  | ret (a : Reg)
  | sleep (n : BitVec 11)
  | sleepLiteral (n : Word)
  | trap (code : Byte)
  | bar (all : Bool) (slot : BitVec 4) (a : Reg)
  | monw (m : Mem) (d a e : Reg)
  | fence (k : BitVec 2) (d : Reg)
  -- memory
  | ld (m : Mem) (d a : Reg)
  | st (m : Mem) (a e : Reg)
  | ldt (size : BitVec 3) (cnt : BitVec 3) (d a : Reg) (imm : BitVec 11) (p : Reg) (is : Issue)
  | atom (m : Mem) (d a e : Reg)
  | atomf (m : Mem) (d a e : Reg)
  | red (m : Mem) (a e : Reg)
  | pref (m : Mem) (a : Reg)
  -- matrix and copies
  | mcfg (c : BitVec 3) (a : Reg) (is : Issue)
  | mma (af bf : BitVec 3) (as : Bool) (c : BitVec 3) (d a b n : Reg) (is : Issue)
  | mmas (af bf : BitVec 3) (as : Bool) (c : BitVec 3) (d a b n e : Reg) (is : Issue)
  | mzero (a b : Reg) (is : Issue)
  | mrd (n : BitVec 3) (d a b : Reg) (is : Issue)
  | mwr (n : BitVec 3) (a b e : Reg) (is : Issue)
  | mst (fmt : BitVec 3) (sat : Bool) (n : BitVec 3) (c a : Reg) (off : Off) (e : Reg) (is : Issue)
  | mwait (c : BitVec 3) (is : Issue)
  | mchk (d a b : Reg) (is : Issue)
  | cpy (tag : BitVec 6) (d a b : Reg) (is : Issue)
  | tagw (any : Bool) (a : Reg) (is : Issue)
  | tagf (d a : Reg) (is : Issue)
  | tagc (a : Reg) (is : Issue)
  | racq (d a b : Reg) (is : Issue)
  | rrel (a b : Reg) (is : Issue)
  | srd (d : Reg) (n : Byte)
  | swr (a : Reg) (n : Byte)
  -- Bellows
  | creq (d a b : Reg)
  | cawt (d a b : Reg)
  | crel (d a : Reg)
  | csta (d a : Reg)
  | gload (d a b : Reg)
  | grun (d a b : Reg)
  | gwait (d a b : Reg)
  | rotb (d a b : Reg)
  | rote (d a b : Reg)
  | sems (d a b : Reg)
  | semw (d a b : Reg)
  -- Hearth
  | launch (rec : DWord)
  | ib (addr : DWord)
  | predw (cc : BitVec 3) (mark : BitVec 16) (addr : DWord) (val : Word)
  | jmark (mark : BitVec 16)
  | loop (count : Word)
  | mwri (wide : Bool) (addr val : DWord)
  | pin (va len : DWord)
  | unpin (va len : DWord)
  | biasDev (va len : DWord)
  | biasHost (va len : DWord)
  | tsw (addr : DWord)
  | bstrt (k : BitVec 2) (pc arg : DWord)
  | hearthSems (n : Byte) (val : DWord)
  | hearthSemw (dec : Bool) (n : Byte) (val : DWord)
  -- the rows without operands stand last
  | moduleReset
  | quenchPin
  | bypass
  | idcode
  | samplePreload
  | extest
  | qsel
  | qscan
  | invalidationComplete
  | biasFlipComplete
  | nakRepeat
  | sourceEntryExpire
  | remoteHoldExpire
  | rfreeRepeat
  | attest
  | loadFirmwareImage
  | reportIdentity
  | freeze
  | mgmtCommandComplete
  | thermalQuench
  | exit
  | nop
  | yield
  | svc
  | eret
  | bkpt
  | ibret
  | endl
  | ffence
  deriving DecidableEq, Repr

/-- The three classes of executor of a clause header (R300). -/
inductive Exec where
  | core
  | bellows
  | hearth
  deriving DecidableEq, Repr

end Sys2Proof
end

