-- ==== Sys2Proof/WellFormed.lean ====
section
/-! DEFINITION. Which terms of the syntax the encodings admit: the limits of every entry of the instruction reference
(R307, R322). An instruction outside them meets the fate of R322 when it is reached. -/
namespace Sys2Proof

/-- The scoreboard field names SB0-SB5 or none; 6 is reserved (R308). -/
def Issue.ok (is : Issue) : Bool := is.sb != 6

/-- The fields every memory-class word shares: SPACE, SX, POL and the scoreboard (R310, R396). -/
def Mem.ok (m : Mem) : Bool :=
  m.space.toNat ≤ 1 && (m.pv || m.pol == 0) && !(m.pv && m.space == 1) && m.is.ok

/-- The special registers of R56 that exist. -/
def sregListed (n : Byte) : Bool := n.toNat ≤ 0x17
/-- The 64-bit special registers of R56: %tags, %tagerr, %cycle, %epc, %eaddr. -/
def sregWide (n : Byte) : Bool := n == 0x0C || n == 0x0D || n == 0x0F || n == 0x11 || n == 0x13

/-- The data registers of an access of 2^size bytes: a pair for 8, a multiple of four for 16 (R397, R458). -/
def dataRegOk (size : BitVec 3) (r : Reg) : Bool :=
  if size == 3 then evenReg r else if size == 4 then quadReg r else true

/-- ATOM's OPN, SIZE and data registers (R327). -/
def atomOk (m : Mem) (d e : Reg) : Bool :=
  (m.size == 2 || m.size == 3) && !m.sx && m.opn.toNat ≤ 7 &&
  (m.size == 2 || evenReg d) &&
  (if m.opn == 7 then (if m.size == 2 then evenReg e else quadReg e) else (m.size == 2 || evenReg e))

/-- ATOMF's SIZE and OPN (R330). -/
def atomfOk (m : Mem) : Bool :=
  !m.sx && ((m.size == 2 && m.opn.toNat ≤ 2) ||
    (m.size == 1 && (m.opn.toNat ≤ 2 || (4 ≤ m.opn.toNat && m.opn.toNat ≤ 6))))

/-- RED's SIZE, OPN and data register (R434). -/
def redOk (m : Mem) (e : Reg) : Bool :=
  !m.sx && (((m.size == 2 || m.size == 3) && m.opn.toNat ≤ 5) ||
    (m.size == 2 && 8 ≤ m.opn.toNat && m.opn.toNat ≤ 10) ||
    (m.size == 1 && ((8 ≤ m.opn.toNat && m.opn.toNat ≤ 10) || (12 ≤ m.opn.toNat && m.opn.toNat ≤ 14)))) &&
  (m.size != 3 || evenReg e)

/-- The FP8 pairings (R134). -/
def fp8Pair (af bf : BitVec 3) : Bool := (af == 2 || af == 3) && (bf == 2 || bf == 3)
/-- The format pairs MMA admits (R406). -/
def mmaFmtOk (af bf : BitVec 3) : Bool :=
  (af == 0 && bf == 0) || (af == 1 && bf == 1) || (af == 4 && bf == 4) || fp8Pair af bf
/-- The format pairs MMAS admits (R407). -/
def mmasFmtOk (af bf : BitVec 3) : Bool := (af == 5 && bf == 5) || fp8Pair af bf

/-- The widths of CVT's formats (R353). -/
def cvtWidth (f : BitVec 4) : Nat :=
  match f.toNat with
  | 0 => 32 | 1 => 16 | 2 => 16 | 3 => 8 | 4 => 8 | 5 => 4 | 6 => 8 | 7 => 32 | 8 => 32 | _ => 0

/-- CVT's format pairs, SAT and SSEL (R354). -/
def cvtOk (df sf : BitVec 4) (sat : Bool) (k : BitVec 3) : Bool :=
  let fl := fun f : BitVec 4 => f.toNat ≤ 5
  let it := fun f : BitVec 4 => f == 7 || f == 8
  ((fl sf && fl df) || (fl sf && it df) || (it sf && fl df) || (sf == 0 && df == 6) || (sf == 6 && df == 0)) &&
  !(sat && !(fl df)) && k.toNat * cvtWidth sf < 32

/-- Cross-lane reduction codes (R436). -/
def redlOk (op : BitVec 3) (ty : BitVec 2) : Bool :=
  op.toNat ≤ 5 && ty.toNat ≤ 2 && !(3 ≤ op.toNat && ty == 2)

/-- The X word of a shared-format instruction names no reserved scoreboard, its operands obey its entry's limits. -/
def Instr.wf : Instr → Bool
  | .imulw _ d _ _ | .imulwLiteral _ d _ _ => evenReg d
  | .icmp c _ _ _ | .icmpLiteral c _ _ _ => c.toNat ≤ 9
  | .iadd64 d a b => evenReg d && evenReg a && evenReg b
  | .lea _ _ d a _ | .leaLiteral _ _ d a _ => evenReg d && evenReg a
  | .shl64 d a _ | .shl64Literal d a _ | .shr64 d a _ | .shr64Literal d a _ => evenReg d && evenReg a
  | .fcmp c _ _ _ | .fcmpLiteral c _ _ _ => c.toNat ≤ 7
  | .exp2 _ _ is | .log2 _ _ is | .rcp _ _ is | .rsq _ _ is | .sqrt _ _ _ is | .tanh _ _ is => is.ok
  | .cvt df sf _ sat k _ _ is => cvtOk df sf sat k && is.ok
  | .cvtsr df _ _ _ _ is => 1 ≤ df.toNat && df.toNat ≤ 5 && is.ok
  | .pack t _ hi _ _ _ | .packLiteral t _ hi _ _ _ => !hi || 2 ≤ t.toNat
  | .unpk t hi d _ => (!hi || 2 ≤ t.toNat) && evenReg d
  | .shfl _ _ _ _ m is => evenReg m && is.ok
  | .ballot d _ m is => evenReg d && evenReg m && is.ok
  | .vote k _ _ m is => k != 3 && evenReg m && is.ok
  | .redl op ty _ _ m is => redlOk op ty && evenReg m && is.ok
  | .scanl op _ ty _ _ m is => redlOk op ty && evenReg m && is.ok
  | .elect _ _ m is => evenReg m && is.ok
  | .brx a | .ret a => evenReg a
  | .call l _ => evenReg l
  | .callx d a => evenReg d && evenReg a
  | .sleep n => n.toNat < 1024
  | .trap c => 0x20 ≤ c.toNat
  | .bar all _ a => !all || a == 0
  | .monw m d a e => m.ok && (m.size == 2 || m.size == 3) && !m.sx && m.opn == 0 && (m.size == 2 || (evenReg d && evenReg e)) && (m.space == 1 || evenReg a)
  | .fence k d => k != 3 && (k == 0 || d == 0)
  | .ld m d a => m.ok && m.size.toNat ≤ 4 && (!m.sx || m.size.toNat ≤ 1) && m.opn == 0 && dataRegOk m.size d && (m.space == 1 || evenReg a)
  | .st m a e => m.ok && m.size.toNat ≤ 4 && !m.sx && m.opn == 0 && dataRegOk m.size e && (m.space == 1 || evenReg a)
  | .ldt size cnt _ _ _ _ is => size.toNat ≤ 2 && cnt.toNat ≤ 4 && is.ok
  | .atom m d a e => m.ok && atomOk m d e && (m.space == 1 || evenReg a)
  | .atomf m _ a _ => m.ok && atomfOk m && (m.space == 1 || evenReg a)
  | .red m a e => m.ok && redOk m e && (m.space == 1 || evenReg a)
  | .pref m a => m.ok && m.space == 0 && m.size == 0 && !m.sx && m.opn == 0 && evenReg a
  | .mcfg _ _ is | .mzero _ _ is | .mwait _ is => is.ok
  | .mma af bf as _ _ a b _ is => mmaFmtOk af bf && evenReg b && (!as || evenReg a) && is.ok
  | .mmas af bf as _ _ a b _ s is => mmasFmtOk af bf && evenReg b && evenReg s && (!as || evenReg a) && is.ok
  | .mrd n _ _ _ is => n.toNat ≤ 4 && is.ok
  | .mwr n _ _ _ is => n.toNat ≤ 4 && is.ok
  | .mst fmt sat n _ _ _ _ is => fmt.toNat ≤ 6 && (!sat || (1 ≤ fmt.toNat && fmt.toNat ≤ 4)) && n.toNat ≤ 4 && is.ok
  | .mchk d _ _ is => evenReg d && is.ok
  | .cpy _ d a b is => evenReg d && evenReg a && evenReg b && is.sb == 7
  | .tagw _ a is | .tagf _ a is | .tagc a is => evenReg a && is.ok
  | .racq d a _ is => evenReg d && evenReg a && is.ok
  | .rrel a _ is => evenReg a && is.ok
  | .srd d n => sregListed n && (!sregWide n || evenReg d)
  | .swr a n => sregListed n && (!sregWide n || evenReg a)
  | .creq _ a b => evenReg a && evenReg b
  | .cawt _ a _ => evenReg a
  | .gload _ _ b => evenReg b
  | .grun _ a b => evenReg a && evenReg b
  | .rotb _ _ b => evenReg b
  | .sems _ _ b => evenReg b
  | .semw _ a b => evenReg a && evenReg b
  | .predw cc _ _ _ => cc.toNat ≤ 5
  | .mwri wide _ val => wide || val.toNat < 2 ^ 32
  | _ => true

end Sys2Proof
end

