-- ==== Sys2Proof/Decode.lean ====
section
/-! DEFINITION. Decoding and encoding: from an instruction word and its continuation words to an instruction of the
executor's space or a refusal by name, and back (R300-R323, R244), each field pulled out here, once. -/
namespace Sys2Proof

/-- Why words are no instruction: an unassigned opcode, a non-zero reserved field, or a continuation run that the
opcode does not take (R322). -/
inductive DecodeErr where
  | unassigned
  | reserved
  | run
  deriving DecidableEq, Repr

/-- The fields of an instruction word (R306). -/
def fOp (w : Word) : Nat := (w.extractLsb' 25 7).toNat
def fD (w : Word) : Reg := w.extractLsb' 18 7
def fA (w : Word) : Reg := w.extractLsb' 11 7
def fB (w : Word) : Reg := w.extractLsb' 4 7
def fM (w : Word) : BitVec 4 := w.extractLsb' 0 4
def fImm (w : Word) : BitVec 11 := w.extractLsb' 0 11
def fK (w : Word) : BitVec 18 := w.extractLsb' 0 18
/-- The fields of an X word (R306, R308). -/
def xIs (x : Word) : Issue := ⟨x.extractLsb' 28 4, x.extractLsb' 25 3⟩
def xE (x : Word) : Reg := x.extractLsb' 18 7
def xX (x : Word) : BitVec 18 := x.extractLsb' 0 18

/-- Assemble the formats RRR, RI, B and X (R306). -/
def mkRRR (op : Nat) (d a b : Reg) (m : BitVec 4) : Word := BitVec.ofNat 7 op ++ d ++ a ++ b ++ m
def mkRI (op : Nat) (d a : Reg) (i : BitVec 11) : Word := BitVec.ofNat 7 op ++ d ++ a ++ i
def mkB (op : Nat) (c : Reg) (k : BitVec 18) : Word := BitVec.ofNat 7 op ++ c ++ k
def mkX (is : Issue) (e : Reg) (x : BitVec 18) : Word := is.la ++ is.sb ++ e ++ x
/-- The short X word: L = 0, scoreboard 7, the third source in e (R308). -/
def mkShortX (e : Reg) : Word := mkX ⟨0, 7⟩ e 0

abbrev Dec := Except DecodeErr Instr

/-- One word, no continuation. -/
def plain (ks : List Word) (ok : Bool) (i : Instr) : Dec :=
  match ks with
  | [] => if ok then .ok i else .error .reserved
  | _ => .error .run

/-- RRR with a permitted literal for b (R309). -/
def rrrLit (w : Word) (ks : List Word) (ok : Bool) (r : Reg → Reg → Reg → Instr) (l : Reg → Reg → Word → Instr) : Dec :=
  match ks with
  | [] => if ok then .ok (r (fD w) (fA w) (fB w)) else .error .reserved
  | [x] => if ok && fB w == 0 then .ok (l (fD w) (fA w) x) else .error .reserved
  | _ => .error .run

/-- RRR with a short X word and then a permitted literal for b (R308, R309). -/
def rrrShort (w : Word) (ks : List Word) (ok : Bool) (r : Reg → Reg → Src → Reg → Instr) : Dec :=
  let fine := fun x : Word => ok && xIs x == ⟨0, 7⟩ && xX x == 0
  match ks with
  | [x] => if fine x then .ok (r (fD w) (fA w) (.reg (fB w)) (xE x)) else .error .reserved
  | [x, y] => if fine x && fB w == 0 then .ok (r (fD w) (fA w) (.lit y) (xE x)) else .error .reserved
  | _ => .error .run

/-- Exactly one X word. -/
def withX (ks : List Word) (r : Word → Dec) : Dec :=
  match ks with
  | [x] => r x
  | _ => .error .run

/-- RI with an X word and then a permitted literal for imm11 (R309, R310). -/
def withXOff (w : Word) (ks : List Word) (r : Word → Off → Dec) : Dec :=
  match ks with
  | [x] => r x (.imm (fImm w))
  | [x, y] => if fImm w == 0 then r x (.lit y) else .error .reserved
  | _ => .error .run

/-- Accept when the reserved fields are zero. -/
def need (ok : Bool) (i : Instr) : Dec := if ok then .ok i else .error .reserved

/-- The memory-class fields of an X word (R310). -/
def xMem (x : Word) (off : Off) : Mem :=
  { space := x.extractLsb' 16 2, size := x.extractLsb' 13 3, sx := x.getLsbD 12, pv := x.getLsbD 11
    pol := x.extractLsb' 4 7, opn := x.extractLsb' 0 4, off := off, is := xIs x }

/-- The op-specific field of a memory-class X word (R310). -/
def memX (m : Mem) : BitVec 18 :=
  m.space ++ m.size ++ BitVec.ofBool m.sx ++ BitVec.ofBool m.pv ++ m.pol ++ m.opn

/-- The special functions: one source, an X word whose e and x are zero (R361). -/
def sfu (w : Word) (ks : List Word) (i : Reg → Reg → Issue → Instr) : Dec :=
  withX ks fun x => need (fB w == 0 && fM w == 0 && xE x == 0 && xX x == 0) (i (fD w) (fA w) (xIs x))

/-- One word of a Bellows instruction (R320). -/
def rrr0 (w : Word) (ks : List Word) (i : Reg → Reg → Reg → Instr) : Dec :=
  plain ks (fM w == 0) (i (fD w) (fA w) (fB w))

/-- The core space (R318, R319). -/
def decodeCore (w : Word) (ks : List Word) : Dec :=
  let d := fD w; let a := fA w; let b := fB w; let m := fM w
  let m0 := m == 0
  let u := m.getLsbD 0
  let mu := m.toNat ≤ 1
  let rm : BitVec 2 := m.extractLsb' 0 2
  let mr := m.toNat ≤ 3
  let t : BitVec 2 := m.extractLsb' 2 2
  let s1 := m.getLsbD 1
  match fOp w with
  | 0x01 => rrrLit w ks m0 .iadd .iaddLiteral
  | 0x02 => rrrLit w ks m0 .isub .isubLiteral
  | 0x03 => rrrLit w ks m0 .imul .imulLiteral
  | 0x04 => rrrLit w ks mu (.imulh u) (.imulhLiteral u)
  | 0x05 => rrrLit w ks mu (.imulw u) (.imulwLiteral u)
  | 0x06 => rrrShort w ks m0 .imad
  | 0x07 => rrrLit w ks mu (.imin u) (.iminLiteral u)
  | 0x08 => rrrLit w ks mu (.imax u) (.imaxLiteral u)
  | 0x09 => plain ks (m0 && b == 0) (.iabs d a)
  | 0x0A => plain ks (m0 && b == 0) (.ineg d a)
  | 0x0B => rrrLit w ks true (.icmp m) (.icmpLiteral m)
  | 0x0C => plain ks m0 (.iadd64 d a b)
  | 0x0D => rrrLit w ks true (.lea (m.getLsbD 3) (m.extractLsb' 0 3)) (.leaLiteral (m.getLsbD 3) (m.extractLsb' 0 3))
  | 0x0E => rrrShort w ks m0 .sel
  | 0x0F => plain ks (m0 && b == 0) (.mov d a)
  | 0x10 =>
    match ks with
    | [] => need (a == 0) (.movi d (fImm w))
    | [x] => need (a == 0 && fImm w == 0) (.moviLiteral d x)
    | _ => .error .run
  | 0x11 => rrrLit w ks m0 .and .andLiteral
  | 0x12 => rrrLit w ks m0 .or .orLiteral
  | 0x13 => rrrLit w ks m0 .xor .xorLiteral
  | 0x14 => plain ks (m0 && b == 0) (.not d a)
  | 0x15 => rrrLit w ks m0 .shl .shlLiteral
  | 0x16 => rrrLit w ks m0 .shr .shrLiteral
  | 0x17 => rrrLit w ks m0 .sar .sarLiteral
  | 0x18 => rrrLit w ks m0 .shl64 .shl64Literal
  | 0x19 => rrrLit w ks m0 .shr64 .shr64Literal
  | 0x1A => rrrLit w ks mu (.bfe u) (.bfeLiteral u)
  | 0x1B => rrrShort w ks m0 .bfi
  | 0x1C => plain ks (m0 && b == 0) (.brev d a)
  | 0x1D => plain ks (m0 && b == 0) (.popc d a)
  | 0x1E => plain ks (m0 && b == 0) (.clz d a)
  | 0x1F => plain ks m0 (.bsrd d a b)
  | 0x20 => rrrLit w ks mr (.fadd rm) (.faddLiteral rm)
  | 0x21 => rrrLit w ks mr (.fsub rm) (.fsubLiteral rm)
  | 0x22 => rrrLit w ks mr (.fmul rm) (.fmulLiteral rm)
  | 0x23 => rrrShort w ks mr (.ffma rm)
  | 0x24 => rrrLit w ks m0 .fmin .fminLiteral
  | 0x25 => rrrLit w ks m0 .fmax .fmaxLiteral
  | 0x26 => rrrLit w ks true (.fcmp m) (.fcmpLiteral m)
  | 0x27 => plain ks (m0 && b == 0) (.fclass d a)
  | 0x28 => plain ks (mr && b == 0) (.frnd rm d a)
  | 0x29 => sfu w ks .exp2
  | 0x2A => sfu w ks .log2
  | 0x2B => sfu w ks .rcp
  | 0x2C => sfu w ks .rsq
  | 0x2D => withX ks fun x => need (b == 0 && mr && xE x == 0 && xX x == 0) (.sqrt rm d a (xIs x))
  | 0x2E => sfu w ks .tanh
  | 0x30 => rrrLit w ks true (.padd t s1 u) (.paddLiteral t s1 u)
  | 0x31 => rrrLit w ks true (.pmul t s1 u) (.pmulLiteral t s1 u)
  | 0x32 => rrrShort w ks true (.pfma t s1 u)
  | 0x33 => rrrLit w ks (!s1 && !u) (.pmin t) (.pminLiteral t)
  | 0x34 => rrrLit w ks (!s1 && !u) (.pmax t) (.pmaxLiteral t)
  | 0x35 => withX ks fun x => need (b == 0 && m0 && xE x == 0 && x.extractLsb' 0 4 == (0 : BitVec 4))
      (.cvt (x.extractLsb' 14 4) (x.extractLsb' 10 4) (x.extractLsb' 8 2) (x.getLsbD 7) (x.extractLsb' 4 3) d a (xIs x))
  | 0x36 => withX ks fun x => need (b == 0 && m0 && x.extractLsb' 8 6 == (0 : BitVec 6) && x.extractLsb' 0 7 == (0 : BitVec 7))
      (.cvtsr (x.extractLsb' 14 4) (x.getLsbD 7) d a (xE x) (xIs x))
  | 0x37 => rrrLit w ks true (.pack t s1 u) (.packLiteral t s1 u)
  | 0x38 => plain ks (b == 0 && !u) (.unpk t s1 d a)
  | 0x40 => withX ks fun x => need (mr && xX x == 0) (.shfl rm d a b (xE x) (xIs x))
  | 0x41 => withX ks fun x => need (b == 0 && m0 && xX x == 0) (.ballot d a (xE x) (xIs x))
  | 0x42 => withX ks fun x => need (b == 0 && mr && xX x == 0) (.vote rm d a (xE x) (xIs x))
  | 0x43 => withX ks fun x => need (b == 0 && !(m.getLsbD 3) && x.extractLsb' 2 16 == (0 : BitVec 16))
      (.redl (m.extractLsb' 0 3) (x.extractLsb' 0 2) d a (xE x) (xIs x))
  | 0x44 => withX ks fun x => need (b == 0 && x.extractLsb' 2 16 == (0 : BitVec 16))
      (.scanl (m.extractLsb' 0 3) (m.getLsbD 3) (x.extractLsb' 0 2) d a (xE x) (xIs x))
  | 0x45 => withX ks fun x => need (b == 0 && m0 && xX x == 0) (.elect d a (xE x) (xIs x))
  | 0x48 => plain ks (d == 0) (.bra (fK w))
  | 0x49 => plain ks true (.brc d (fK w))
  | 0x4A => plain ks (d == 0 && b == 0 && m0) (.brx a)
  | 0x4B => plain ks true (.call d (fK w))
  | 0x4C => plain ks (b == 0 && m0) (.callx d a)
  | 0x4D => plain ks (d == 0 && b == 0 && m0) (.ret a)
  | 0x4E => plain ks (w.extractLsb' 0 25 == (0 : BitVec 25)) .exit
  | 0x4F => plain ks (w.extractLsb' 0 25 == (0 : BitVec 25)) .nop
  | 0x50 => plain ks (w.extractLsb' 0 25 == (0 : BitVec 25)) .yield
  | 0x51 =>
    match ks with
    | [] => need (d == 0 && a == 0) (.sleep (fImm w))
    | [x] => need (d == 0 && a == 0 && fImm w == 0) (.sleepLiteral x)
    | _ => .error .run
  | 0x52 => plain ks (w.extractLsb' 8 17 == (0 : BitVec 17)) (.trap (w.extractLsb' 0 8))
  | 0x53 => plain ks (w.extractLsb' 0 25 == (0 : BitVec 25)) .svc
  | 0x54 => plain ks (w.extractLsb' 0 25 == (0 : BitVec 25)) .eret
  | 0x55 => plain ks (w.extractLsb' 0 25 == (0 : BitVec 25)) .bkpt
  | 0x56 => plain ks (d == 0 && w.extractLsb' 5 6 == (0 : BitVec 6)) (.bar (w.getLsbD 4) (w.extractLsb' 0 4) a)
  | 0x57 => withXOff w ks fun x o => .ok (.monw (xMem x o) d a (xE x))
  | 0x58 => plain ks (a == 0 && b == 0 && mr) (.fence rm d)
  | 0x60 => withXOff w ks fun x o => need (xE x == 0) (.ld (xMem x o) d a)
  | 0x61 => withXOff w ks fun x o => need (d == 0) (.st (xMem x o) a (xE x))
  | 0x62 => withX ks fun x => need (x.extractLsb' 15 3 == (0 : BitVec 3) && x.extractLsb' 0 9 == (0 : BitVec 9))
      (.ldt (x.extractLsb' 12 3) (x.extractLsb' 9 3) d a (fImm w) (xE x) (xIs x))
  | 0x63 => withXOff w ks fun x o => .ok (.atom (xMem x o) d a (xE x))
  | 0x64 => withXOff w ks fun x o => .ok (.atomf (xMem x o) d a (xE x))
  | 0x65 => withXOff w ks fun x o => need (d == 0) (.red (xMem x o) a (xE x))
  | 0x66 => withXOff w ks fun x o => need (d == 0 && xE x == 0) (.pref (xMem x o) a)
  | 0x68 => withX ks fun x => need (d == 0 && b == 0 && m0 && xE x == 0 && x.extractLsb' 3 15 == (0 : BitVec 15))
      (.mcfg (x.extractLsb' 0 3) a (xIs x))
  | 0x69 => withX ks fun x => need (m0 && x.extractLsb' 3 8 == (0 : BitVec 8))
      (.mma (x.extractLsb' 15 3) (x.extractLsb' 12 3) (x.getLsbD 11) (x.extractLsb' 0 3) d a b (xE x) (xIs x))
  | 0x6A => withX ks fun x => need (m0 && !(x.getLsbD 3))
      (.mmas (x.extractLsb' 15 3) (x.extractLsb' 12 3) (x.getLsbD 11) (x.extractLsb' 0 3) d a b (xE x) (x.extractLsb' 4 7) (xIs x))
  | 0x6B => withX ks fun x => need (d == 0 && m0 && xE x == 0 && xX x == 0) (.mzero a b (xIs x))
  | 0x6C => withX ks fun x => need (!(m.getLsbD 3) && xE x == 0 && xX x == 0) (.mrd (m.extractLsb' 0 3) d a b (xIs x))
  | 0x6D => withX ks fun x => need (d == 0 && !(m.getLsbD 3) && xX x == 0) (.mwr (m.extractLsb' 0 3) a b (xE x) (xIs x))
  | 0x6E => withXOff w ks fun x o => need (x.extractLsb' 0 11 == (0 : BitVec 11))
      (.mst (x.extractLsb' 15 3) (x.getLsbD 14) (x.extractLsb' 11 3) d a o (xE x) (xIs x))
  | 0x6F => withX ks fun x => need (d == 0 && a == 0 && b == 0 && m0 && xE x == 0 && x.extractLsb' 3 15 == (0 : BitVec 15))
      (.mwait (x.extractLsb' 0 3) (xIs x))
  | 0x70 => withX ks fun x => need (m0 && xE x == 0 && xX x == 0) (.mchk d a b (xIs x))
  | 0x71 => withX ks fun x => need (m0 && xE x == 0 && x.extractLsb' 6 12 == (0 : BitVec 12))
      (.cpy (x.extractLsb' 0 6) d a b (xIs x))
  | 0x72 => withX ks fun x => need (d == 0 && b == 0 && mu && xE x == 0 && xX x == 0) (.tagw u a (xIs x))
  | 0x73 => withX ks fun x => need (b == 0 && m0 && xE x == 0 && xX x == 0) (.tagf d a (xIs x))
  | 0x74 => withX ks fun x => need (d == 0 && b == 0 && m0 && xE x == 0 && xX x == 0) (.tagc a (xIs x))
  | 0x75 => withX ks fun x => need (m0 && xE x == 0 && xX x == 0) (.racq d a b (xIs x))
  | 0x76 => withX ks fun x => need (d == 0 && m0 && xE x == 0 && xX x == 0) (.rrel a b (xIs x))
  | 0x77 => plain ks (a == 0 && w.extractLsb' 8 3 == (0 : BitVec 3)) (.srd d (w.extractLsb' 0 8))
  | 0x78 => plain ks (d == 0 && w.extractLsb' 8 3 == (0 : BitVec 3)) (.swr a (w.extractLsb' 0 8))
  | _ => .error .unassigned

/-- The instructions of the core space that scripts admit (R209, R320). -/
def scriptAdmits : Instr → Bool
  | .ld m _ _ | .st m _ _ => m.space == 0
  | .srd _ n => n == 0x0A || n == 0x0F
  | _ => true

/-- The opcodes of the core space that the Bellows space takes over (R320). -/
def scriptOpcode (n : Nat) : Bool :=
  (1 ≤ n && n ≤ 0x1F) || (0x48 ≤ n && n ≤ 0x4F) || n == 0x51 || n == 0x52 || n == 0x60 || n == 0x61 || n == 0x77
/-- An X word with the fields that scripts ignore put in order: the window and the scoreboard field of a short one, the
reserved scoreboard of an LD or ST (R208, R322). -/
def scriptX (n : Nat) (x : Word) : Word :=
  if n == 0x06 || n == 0x0E || n == 0x1B then mkX ⟨0, 7⟩ (xE x) (xX x)
  else if (n == 0x60 || n == 0x61) && (xIs x).sb == 6 then mkX ⟨(xIs x).la, 7⟩ (xE x) (xX x)
  else x
/-- The continuation words of a script's instruction, so put in order. -/
def scriptWords (w : Word) : List Word → List Word
  | [] => []
  | x :: ks => scriptX (fOp w) x :: ks

/-- The Bellows space: a part of the core space and eleven words of its own (R208, R320). -/
def decodeBellows (w : Word) (ks : List Word) : Dec :=
  match fOp w with
  | 0x59 => rrr0 w ks .creq
  | 0x5A => rrr0 w ks .cawt
  | 0x5B => plain ks (fB w == 0 && fM w == 0) (.crel (fD w) (fA w))
  | 0x5C => plain ks (fB w == 0 && fM w == 0) (.csta (fD w) (fA w))
  | 0x5D => rrr0 w ks .gload
  | 0x5E => rrr0 w ks .grun
  | 0x5F => rrr0 w ks .gwait
  | 0x79 => rrr0 w ks .rotb
  | 0x7A => rrr0 w ks .rote
  | 0x7B => rrr0 w ks .sems
  | 0x7C => rrr0 w ks .semw
  | n =>
    if scriptOpcode n then
      match decodeCore w (scriptWords w ks) with
      | .ok i => if scriptAdmits i then .ok i else .error .unassigned
      | .error e => .error e
    else .error .unassigned

/-- The low 25 bits of an operation word are zero (R244). -/
def fields0 (w : Word) : Bool := w.extractLsb' 0 25 == (0 : BitVec 25)

/-- The Hearth space (R244, R321). -/
def decodeHearth (w : Word) (ks : List Word) : Dec :=
  match fOp w, ks with
  | 0x01, [l, h] => need (fields0 w) (.launch (pairOf l h))
  | 0x02, [l, h] => need (fields0 w) (.ib (pairOf l h))
  | 0x03, [] => need (fields0 w) .ibret
  | 0x04, [l, h, v] => need (w.extractLsb' 16 6 == (0 : BitVec 6)) (.predw (w.extractLsb' 22 3) (w.extractLsb' 0 16) (pairOf l h) v)
  | 0x05, [] => need (w.extractLsb' 16 9 == (0 : BitVec 9)) (.jmark (w.extractLsb' 0 16))
  | 0x06, [c] => need (fields0 w) (.loop c)
  | 0x07, [] => need (fields0 w) .endl
  | 0x08, [l, h, v] => need (fields0 w) (.mwri false (pairOf l h) (pairOf v 0))
  | 0x08, [l, h, v, v'] => need (w.getLsbD 23 && w.extractLsb' 0 23 == (0 : BitVec 23) && !(w.getLsbD 24)) (.mwri true (pairOf l h) (pairOf v v'))
  | 0x09, [l, h, v, v'] => need (fields0 w) (.pin (pairOf l h) (pairOf v v'))
  | 0x0A, [l, h, v, v'] => need (fields0 w) (.unpin (pairOf l h) (pairOf v v'))
  | 0x0B, [l, h, v, v'] =>
    if w.extractLsb' 1 24 != (0 : BitVec 24) then .error .reserved
    else if w.getLsbD 0 then .ok (.biasHost (pairOf l h) (pairOf v v')) else .ok (.biasDev (pairOf l h) (pairOf v v'))
  | 0x0C, [] => need (fields0 w) .ffence
  | 0x0D, [l, h] => need (fields0 w) (.tsw (pairOf l h))
  | 0x0E, [l, h, v, v'] => need (w.extractLsb' 2 23 == (0 : BitVec 23)) (.bstrt (w.extractLsb' 0 2) (pairOf l h) (pairOf v v'))
  | 0x0F, [v, v'] => need (w.extractLsb' 8 17 == (0 : BitVec 17)) (.hearthSems (w.extractLsb' 0 8) (pairOf v v'))
  | 0x10, [v, v'] => need (w.extractLsb' 9 16 == (0 : BitVec 16)) (.hearthSemw (w.getLsbD 8) (w.extractLsb' 0 8) (pairOf v v'))
  | n, _ => if 1 ≤ n && n ≤ 0x10 then .error .run else .error .unassigned

/-- Decoding, total on any words, for each executor. -/
def decode (ex : Exec) (w : Word) (ks : List Word) : Dec :=
  match ex with
  | .core => decodeCore w ks
  | .bellows => decodeBellows w ks
  | .hearth => decodeHearth w ks

/-- The continuation runs an opcode of the core space takes: the least and the greatest; none when unassigned (R301, R319). -/
def coreRun (n : Nat) : Option (Nat × Nat) :=
  if n == 0 then none
  else if n == 0x06 || n == 0x0E || n == 0x1B || n == 0x23 || n == 0x32 then some (1, 2)
  else if n == 0x09 || n == 0x0A || n == 0x0C || n == 0x0F || n == 0x14 || (0x1C ≤ n && n ≤ 0x1F) || n == 0x27 || n == 0x28 || n == 0x38 then some (0, 0)
  else if n ≤ 0x26 then some (0, 1)
  else if 0x29 ≤ n && n ≤ 0x2E then some (1, 1)
  else if n == 0x2F then none
  else if n == 0x35 || n == 0x36 then some (1, 1)
  else if 0x30 ≤ n && n ≤ 0x37 then some (0, 1)
  else if n ≤ 0x3F then none
  else if n ≤ 0x45 then some (1, 1)
  else if n ≤ 0x47 then none
  else if n == 0x51 then some (0, 1)
  else if n == 0x57 then some (1, 2)
  else if n ≤ 0x58 then some (0, 0)
  else if n ≤ 0x5F then none
  else if n == 0x62 then some (1, 1)
  else if n ≤ 0x66 then some (1, 2)
  else if n == 0x67 then none
  else if n == 0x6E then some (1, 2)
  else if n ≤ 0x76 then some (1, 1)
  else if n ≤ 0x78 then some (0, 0)
  else none

/-- The control transfers of R302. -/
def isTransfer (n : Nat) : Bool := (0x48 ≤ n && n ≤ 0x4E) || n == 0x52 || n == 0x54 || n == 0x55
/-- The control transfers a script admits (R209). -/
def isScriptTransfer (n : Nat) : Bool := (0x48 ≤ n && n ≤ 0x4E) || n == 0x52
/-- The instructions of R22 that must end their clause. -/
def mustEnd (n : Nat) : Bool :=
  n == 0x56 || n == 0x57 || n == 0x51 || n == 0x50 || n == 0x72 || n == 0x6F || n == 0x75 || n == 0x53 || (0x40 ≤ n && n ≤ 0x45)
/-- The Hearth's control packets (R243). -/
def hearthMustEnd (n : Nat) : Bool := n == 2 || n == 3 || n == 4 || n == 6 || n == 7

/-- A second source as its field and its literal words. -/
def srcField : Src → Reg × List Word
  | .reg r => (r, [])
  | .lit w => (0, [w])
/-- An offset as its field and its literal words. -/
def offField : Off → BitVec 11 × List Word
  | .imm i => (i, [])
  | .lit w => (0, [w])

def encRRR (op : Nat) (d a b : Reg) (m : BitVec 4) : List Word := [mkRRR op d a b m]
def encLit (op : Nat) (d a : Reg) (m : BitVec 4) (x : Word) : List Word := [mkRRR op d a 0 m, x]
def encShort (op : Nat) (d a : Reg) (b : Src) (m : BitVec 4) (e : Reg) : List Word :=
  mkRRR op d a (srcField b).1 m :: mkShortX e :: (srcField b).2
def encX (op : Nat) (d a b : Reg) (m : BitVec 4) (is : Issue) (e : Reg) (x : BitVec 18) : List Word :=
  [mkRRR op d a b m, mkX is e x]
def encMem (op : Nat) (d a : Reg) (e : Reg) (m : Mem) : List Word :=
  mkRI op d a (offField m.off).1 :: mkX m.is e (memX m) :: (offField m.off).2
/-- A modifier of a two-bit mode, of the unsigned bit, and of a packed type. -/
def modRm (rm : BitVec 2) : BitVec 4 := (0 : BitVec 2) ++ rm
def modU (u : Bool) : BitVec 4 := (0 : BitVec 3) ++ BitVec.ofBool u
def modP (t : BitVec 2) (hi lo : Bool) : BitVec 4 := t ++ BitVec.ofBool hi ++ BitVec.ofBool lo
/-- A Hearth operation word (R244). -/
def mkH (op : Nat) (f : BitVec 25) : Word := BitVec.ofNat 7 op ++ f

/-- The encoder: the words of a well-formed instruction; events have none. -/
def encode : Instr → List Word
  | .iadd d a b => encRRR 0x01 d a b 0
  | .iaddLiteral d a x => encLit 0x01 d a 0 x
  | .isub d a b => encRRR 0x02 d a b 0
  | .isubLiteral d a x => encLit 0x02 d a 0 x
  | .imul d a b => encRRR 0x03 d a b 0
  | .imulLiteral d a x => encLit 0x03 d a 0 x
  | .imulh u d a b => encRRR 0x04 d a b (modU u)
  | .imulhLiteral u d a x => encLit 0x04 d a (modU u) x
  | .imulw u d a b => encRRR 0x05 d a b (modU u)
  | .imulwLiteral u d a x => encLit 0x05 d a (modU u) x
  | .imad d a b e => encShort 0x06 d a b 0 e
  | .imin u d a b => encRRR 0x07 d a b (modU u)
  | .iminLiteral u d a x => encLit 0x07 d a (modU u) x
  | .imax u d a b => encRRR 0x08 d a b (modU u)
  | .imaxLiteral u d a x => encLit 0x08 d a (modU u) x
  | .iabs d a => encRRR 0x09 d a 0 0
  | .ineg d a => encRRR 0x0A d a 0 0
  | .icmp c d a b => encRRR 0x0B d a b c
  | .icmpLiteral c d a x => encLit 0x0B d a c x
  | .iadd64 d a b => encRRR 0x0C d a b 0
  | .lea u sh d a b => encRRR 0x0D d a b (BitVec.ofBool u ++ sh)
  | .leaLiteral u sh d a x => encLit 0x0D d a (BitVec.ofBool u ++ sh) x
  | .sel d a b e => encShort 0x0E d a b 0 e
  | .mov d a => encRRR 0x0F d a 0 0
  | .movi d i => [mkRI 0x10 d 0 i]
  | .moviLiteral d x => [mkRI 0x10 d 0 0, x]
  | .and d a b => encRRR 0x11 d a b 0
  | .andLiteral d a x => encLit 0x11 d a 0 x
  | .or d a b => encRRR 0x12 d a b 0
  | .orLiteral d a x => encLit 0x12 d a 0 x
  | .xor d a b => encRRR 0x13 d a b 0
  | .xorLiteral d a x => encLit 0x13 d a 0 x
  | .not d a => encRRR 0x14 d a 0 0
  | .shl d a b => encRRR 0x15 d a b 0
  | .shlLiteral d a x => encLit 0x15 d a 0 x
  | .shr d a b => encRRR 0x16 d a b 0
  | .shrLiteral d a x => encLit 0x16 d a 0 x
  | .sar d a b => encRRR 0x17 d a b 0
  | .sarLiteral d a x => encLit 0x17 d a 0 x
  | .shl64 d a b => encRRR 0x18 d a b 0
  | .shl64Literal d a x => encLit 0x18 d a 0 x
  | .shr64 d a b => encRRR 0x19 d a b 0
  | .shr64Literal d a x => encLit 0x19 d a 0 x
  | .bfe sx d a b => encRRR 0x1A d a b (modU sx)
  | .bfeLiteral sx d a x => encLit 0x1A d a (modU sx) x
  | .bfi d a b e => encShort 0x1B d a b 0 e
  | .brev d a => encRRR 0x1C d a 0 0
  | .popc d a => encRRR 0x1D d a 0 0
  | .clz d a => encRRR 0x1E d a 0 0
  | .bsrd d a b => encRRR 0x1F d a b 0
  | .fadd rm d a b => encRRR 0x20 d a b (modRm rm)
  | .faddLiteral rm d a x => encLit 0x20 d a (modRm rm) x
  | .fsub rm d a b => encRRR 0x21 d a b (modRm rm)
  | .fsubLiteral rm d a x => encLit 0x21 d a (modRm rm) x
  | .fmul rm d a b => encRRR 0x22 d a b (modRm rm)
  | .fmulLiteral rm d a x => encLit 0x22 d a (modRm rm) x
  | .ffma rm d a b e => encShort 0x23 d a b (modRm rm) e
  | .fmin d a b => encRRR 0x24 d a b 0
  | .fminLiteral d a x => encLit 0x24 d a 0 x
  | .fmax d a b => encRRR 0x25 d a b 0
  | .fmaxLiteral d a x => encLit 0x25 d a 0 x
  | .fcmp c d a b => encRRR 0x26 d a b c
  | .fcmpLiteral c d a x => encLit 0x26 d a c x
  | .fclass d a => encRRR 0x27 d a 0 0
  | .frnd rm d a => encRRR 0x28 d a 0 (modRm rm)
  | .exp2 d a is => encX 0x29 d a 0 0 is 0 0
  | .log2 d a is => encX 0x2A d a 0 0 is 0 0
  | .rcp d a is => encX 0x2B d a 0 0 is 0 0
  | .rsq d a is => encX 0x2C d a 0 0 is 0 0
  | .sqrt rm d a is => encX 0x2D d a 0 (modRm rm) is 0 0
  | .tanh d a is => encX 0x2E d a 0 0 is 0 0
  | .padd t sat rz d a b => encRRR 0x30 d a b (modP t sat rz)
  | .paddLiteral t sat rz d a x => encLit 0x30 d a (modP t sat rz) x
  | .pmul t sat rz d a b => encRRR 0x31 d a b (modP t sat rz)
  | .pmulLiteral t sat rz d a x => encLit 0x31 d a (modP t sat rz) x
  | .pfma t sat rz d a b e => encShort 0x32 d a b (modP t sat rz) e
  | .pmin t d a b => encRRR 0x33 d a b (modP t false false)
  | .pminLiteral t d a x => encLit 0x33 d a (modP t false false) x
  | .pmax t d a b => encRRR 0x34 d a b (modP t false false)
  | .pmaxLiteral t d a x => encLit 0x34 d a (modP t false false) x
  | .cvt df sf rm sat k d a is => encX 0x35 d a 0 0 is 0 (df ++ sf ++ rm ++ BitVec.ofBool sat ++ k ++ (0 : BitVec 4))
  | .cvtsr df sat d a e is => encX 0x36 d a 0 0 is e (df ++ (0 : BitVec 6) ++ BitVec.ofBool sat ++ (0 : BitVec 7))
  | .pack t sat hi d a b => encRRR 0x37 d a b (modP t sat hi)
  | .packLiteral t sat hi d a x => encLit 0x37 d a (modP t sat hi) x
  | .unpk t hi d a => encRRR 0x38 d a 0 (modP t hi false)
  | .shfl mode d a b m is => encX 0x40 d a b (modRm mode) is m 0
  | .ballot d a m is => encX 0x41 d a 0 0 is m 0
  | .vote k d a m is => encX 0x42 d a 0 (modRm k) is m 0
  | .redl op ty d a m is => encX 0x43 d a 0 ((0 : BitVec 1) ++ op) is m ((0 : BitVec 16) ++ ty)
  | .scanl op ex ty d a m is => encX 0x44 d a 0 (BitVec.ofBool ex ++ op) is m ((0 : BitVec 16) ++ ty)
  | .elect d a m is => encX 0x45 d a 0 0 is m 0
  | .bra k => [mkB 0x48 0 k]
  | .brc c k => [mkB 0x49 c k]
  | .brx a => encRRR 0x4A 0 a 0 0
  | .call l k => [mkB 0x4B l k]
  | .callx d a => encRRR 0x4C d a 0 0
  | .ret a => encRRR 0x4D 0 a 0 0
  | .exit => encRRR 0x4E 0 0 0 0
  | .nop => encRRR 0x4F 0 0 0 0
  | .yield => encRRR 0x50 0 0 0 0
  | .sleep n => [mkRI 0x51 0 0 n]
  | .sleepLiteral n => [mkRI 0x51 0 0 0, n]
  | .trap c => [mkRI 0x52 0 0 ((0 : BitVec 3) ++ c)]
  | .svc => encRRR 0x53 0 0 0 0
  | .eret => encRRR 0x54 0 0 0 0
  | .bkpt => encRRR 0x55 0 0 0 0
  | .bar all slot a => [mkRI 0x56 0 a ((0 : BitVec 6) ++ BitVec.ofBool all ++ slot)]
  | .monw m d a e => encMem 0x57 d a e m
  | .fence k d => encRRR 0x58 d 0 0 (modRm k)
  | .ld m d a => encMem 0x60 d a 0 m
  | .st m a e => encMem 0x61 0 a e m
  | .ldt size cnt d a i p is => [mkRI 0x62 d a i, mkX is p ((0 : BitVec 3) ++ size ++ cnt ++ (0 : BitVec 9))]
  | .atom m d a e => encMem 0x63 d a e m
  | .atomf m d a e => encMem 0x64 d a e m
  | .red m a e => encMem 0x65 0 a e m
  | .pref m a => encMem 0x66 0 a 0 m
  | .mcfg c a is => encX 0x68 0 a 0 0 is 0 ((0 : BitVec 15) ++ c)
  | .mma af bf as c d a b n is => encX 0x69 d a b 0 is n (af ++ bf ++ BitVec.ofBool as ++ (0 : BitVec 8) ++ c)
  | .mmas af bf as c d a b n s is => encX 0x6A d a b 0 is n (af ++ bf ++ BitVec.ofBool as ++ s ++ (0 : BitVec 1) ++ c)
  | .mzero a b is => encX 0x6B 0 a b 0 is 0 0
  | .mrd n d a b is => encX 0x6C d a b ((0 : BitVec 1) ++ n) is 0 0
  | .mwr n a b e is => encX 0x6D 0 a b ((0 : BitVec 1) ++ n) is e 0
  | .mst fmt sat n c a off e is =>
    mkRI 0x6E c a (offField off).1 :: mkX is e (fmt ++ BitVec.ofBool sat ++ n ++ (0 : BitVec 11)) :: (offField off).2
  | .mwait c is => encX 0x6F 0 0 0 0 is 0 ((0 : BitVec 15) ++ c)
  | .mchk d a b is => encX 0x70 d a b 0 is 0 0
  | .cpy tag d a b is => encX 0x71 d a b 0 is 0 ((0 : BitVec 12) ++ tag)
  | .tagw any a is => encX 0x72 0 a 0 (modU any) is 0 0
  | .tagf d a is => encX 0x73 d a 0 0 is 0 0
  | .tagc a is => encX 0x74 0 a 0 0 is 0 0
  | .racq d a b is => encX 0x75 d a b 0 is 0 0
  | .rrel a b is => encX 0x76 0 a b 0 is 0 0
  | .srd d n => [mkRI 0x77 d 0 ((0 : BitVec 3) ++ n)]
  | .swr a n => [mkRI 0x78 0 a ((0 : BitVec 3) ++ n)]
  | .creq d a b => encRRR 0x59 d a b 0
  | .cawt d a b => encRRR 0x5A d a b 0
  | .crel d a => encRRR 0x5B d a 0 0
  | .csta d a => encRRR 0x5C d a 0 0
  | .gload d a b => encRRR 0x5D d a b 0
  | .grun d a b => encRRR 0x5E d a b 0
  | .gwait d a b => encRRR 0x5F d a b 0
  | .rotb d a b => encRRR 0x79 d a b 0
  | .rote d a b => encRRR 0x7A d a b 0
  | .sems d a b => encRRR 0x7B d a b 0
  | .semw d a b => encRRR 0x7C d a b 0
  | .launch r => [mkH 0x01 0, loWord r, hiWord r]
  | .ib r => [mkH 0x02 0, loWord r, hiWord r]
  | .ibret => [mkH 0x03 0]
  | .predw cc mark addr val => [mkH 0x04 (cc ++ (0 : BitVec 6) ++ mark), loWord addr, hiWord addr, val]
  | .jmark mark => [mkH 0x05 ((0 : BitVec 9) ++ mark)]
  | .loop c => [mkH 0x06 0, c]
  | .endl => [mkH 0x07 0]
  | .mwri false addr val => [mkH 0x08 0, loWord addr, hiWord addr, loWord val]
  | .mwri true addr val => [mkH 0x08 0x800000, loWord addr, hiWord addr, loWord val, hiWord val]
  | .pin va len => [mkH 0x09 0, loWord va, hiWord va, loWord len, hiWord len]
  | .unpin va len => [mkH 0x0A 0, loWord va, hiWord va, loWord len, hiWord len]
  | .biasDev va len => [mkH 0x0B 0, loWord va, hiWord va, loWord len, hiWord len]
  | .biasHost va len => [mkH 0x0B 1, loWord va, hiWord va, loWord len, hiWord len]
  | .ffence => [mkH 0x0C 0]
  | .tsw addr => [mkH 0x0D 0, loWord addr, hiWord addr]
  | .bstrt k pc arg => [mkH 0x0E ((0 : BitVec 23) ++ k), loWord pc, hiWord pc, loWord arg, hiWord arg]
  | .hearthSems n val => [mkH 0x0F ((0 : BitVec 17) ++ n), loWord val, hiWord val]
  | .hearthSemw dec n val => [mkH 0x10 ((0 : BitVec 16) ++ BitVec.ofBool dec ++ n), loWord val, hiWord val]
  | _ => []

/-- The space an instruction is encoded in; none for an event. -/
def Instr.space : Instr → Option Exec
  | .creq .. | .cawt .. | .crel .. | .csta .. | .gload .. | .grun .. | .gwait .. | .rotb .. | .rote .. | .sems .. | .semw .. => some .bellows
  | .launch .. | .ib .. | .ibret | .predw .. | .jmark .. | .loop .. | .endl | .mwri .. | .pin .. | .unpin .. | .biasDev .. | .biasHost ..
  | .ffence | .tsw .. | .bstrt .. | .hearthSems .. | .hearthSemw .. => some .hearth
  | i => if (encode i).isEmpty then none else some .core

/-- The test port's instruction register: any other code selects BYPASS (R277). -/
def decodeJtag (code : Nat) : Instr :=
  match code % 256 with
  | 0x01 => .idcode
  | 0x02 => .samplePreload
  | 0x00 => .extest
  | 0x20 => .qsel
  | 0x21 => .qscan
  | _ => .bypass

/-- The continuation words of zeros that the opcode table leaves out: as many as the opcode needs at least. -/
def zeroWords (w : Word) : List Word :=
  match coreRun (fOp w) with
  | some (k, _) => List.replicate k 0
  | none => []

/-- The executor whose space a table word belongs to: the four Hearth words of one word stand by their own bits, the
opcodes of R320 that only scripts have are theirs, every other word is the core's. -/
def tableSpace (w : Word) : Exec :=
  if w == 0x06000000 || w == 0x0E000000 || w == 0x18000000 || w.extractLsb' 16 16 == (0x0A00 : BitVec 16) then .hearth
  else if (0x59 ≤ fOp w && fOp w ≤ 0x5F) || (0x79 ≤ fOp w && fOp w ≤ 0x7C) then .bellows
  else .core

/-- What the decoder reads from a table word: an 8-bit code of the test port, or a 32-bit instruction word of the space
that holds it, with the operand words it needs all zero. -/
def decodeTableWord (nbits w : Nat) : Option Instr :=
  if nbits ≤ 8 then some (decodeJtag w)
  else
    let x := BitVec.ofNat 32 w
    match decode (tableSpace x) x (zeroWords x) with
    | .ok i => some i
    | .error _ => none

end Sys2Proof
end

