-- ==== Sys2Proof/Machine/State.lean ====
section
/-! DEFINITION. The state of one G9, plain data, holding everything the manual gives the machine; the faults and the
refusals; the state after module reset. Each field's comment gives: what it is; width; file and rule; reset value. -/
namespace Sys2Proof.Machine
open Sys2Proof

/-- A table of entries by number; a number that is not listed holds the entry's default. -/
abbrev Tab (α : Type) := List (Nat × α)

/-- What a thread that is not ready waits for (R19, R332, R408, R455, R465, R413, R231), its program counter at the instruction
it waits in; a sleep names the address after it; idle, a wait that only its save record names (R265, R266). -/
inductive Wait where
  | bar (slot : Nat)
  | rendezvous
  | monw
  | sleep (till : Nat) (next : DWord)
  | tags (any : Bool) (mask seen : DWord)
  | matrix (c : Nat)
  | racq (index : Nat) (inst k : Word)
  | idle
  deriving DecidableEq, Repr

/-- A thread's standing: the five of R265. -/
inductive Status where
  | ready
  | waiting (w : Wait)
  | parked (entry : Option Nat)
  | held
  | exited
  deriving DecidableEq, Repr

/-- Why an instruction cannot be performed yet and is tried again (R99, R100, R101, R108, R119, R128, R130, R133, R163, R204):
a walk; a fault; a store or RED whose walk has faulted and that goes into the side log; a refused fault; a place of the park
area; a full log; a remote answer; lack of lock capacity, or of room in a lane; a lock, an aside copy or a walker, waited for
in place; the step of coherence, waited for in place; a bias flip; a fence; an answer of the host; a result, in place. -/
inductive Hold where
  | walk (die ctx page : Nat) (write logs : Bool)
  | fault (ctx page : Nat)
  | logs (ctx page : Nat)
  | refused (ctx page : Nat)
  | park (ctx page : Nat)
  | log
  | remote (chip lane serial : Nat)
  | room
  | aside
  | bias
  | flip
  | fence
  | hostLink
  | result
  deriving DecidableEq, Repr

/-- A result under its lookahead window (R312): position and clause execution of its instruction, its window, the
registers with value, poison and the invalid bit of scout, the counter it decrements (7 none), whether the value is there
yet, the token by which it is filled, whether it was issued at or after an open checkpoint (R174), and the flags it sets
when it is written (R57). -/
structure Pending where
  pos   : Nat
  exe   : Nat
  la    : Nat
  regs  : List (Nat × Word × Bool × Bool)
  sb    : Nat
  ready : Bool
  tok   : Nat
  prov  : Bool := false
  fl    : BitVec 5 := 0
  deriving DecidableEq, Repr

/-- How far an access of several pieces has come: its bytes read so far, with poison; whether they are a shape record's
(R114, R132). -/
structure Part where
  done : Nat
  data : List Byte
  pois : Bool
  shape : Bool := false
  deriving DecidableEq, Repr

/-- A reply delivered to a held thread: data, poison, or the cause of a refusal (R128, R129, R133). -/
structure Delivery where
  data  : List Byte
  pois  : Bool
  cause : Nat
  chip  : Nat
  deriving DecidableEq, Repr

/-- What stopped a scout episode, by its counter (R180). -/
inductive ScoutEnd where
  | data
  | budget
  | saves
  | cond
  | instr
  deriving DecidableEq, Repr

/-- The eviction classes (R97). -/
inductive EClass where
  | keep
  | normal
  | stream
  deriving DecidableEq, Repr

/-- A load issued in the provisional period (R174): the token of its result, its space, pieces, size, extension,
destinations and class. -/
structure Late where
  tok  : Nat
  scr  : Bool
  ps   : List (Nat × Nat)
  size : Nat
  sx   : Bool
  dst  : List Nat
  cls  : EClass
  deriving DecidableEq, Repr

/-- A log slot (R178): checkpointed load, its header and ready stamp, invalid registers, saves (register, value, invalid,
poison), counts; the load's address, size, extension, destinations, class and token; the requests sent for it to another
chip (piece, chip, lane, serial) with the replies held, by piece; where the episode stands; and of the provisional period the
flags raised, the registers written and the loads issued. -/
structure Scout where
  pc      : DWord := 0
  header  : DWord := 0
  stamp   : Nat := 0
  long    : Bool := false
  stop    : Option ScoutEnd := none
  invalid : List Nat := []
  saves   : List (Nat × Word × Bool × Bool) := []
  count   : Nat := 0
  budget  : Nat := 0
  va      : DWord := 0
  size    : Nat := 0
  sx      : Bool := false
  dst     : List Nat := []
  cls     : EClass := .normal
  asked   : List (Nat × Nat × Nat × Nat) := []
  replies : List (Nat × List Byte × Bool) := []
  tok     : Nat := 0
  flags   : BitVec 5 := 0
  wrote   : List Nat := []
  later   : List Late := []
  deriving DecidableEq, Repr

/-- One thread (R15, R46, R56, R265). -/
structure Thread where
  /-- Identity of the thread in this model; number; the model's own; 0 -/
  uid     : Nat := 0
  /-- Identity of its team; number; the model's own; 0 -/
  team    : Nat := 0
  /-- %tid, team thread index; 32; 03_core_state R56; launch value -/
  tid     : Nat := 0
  /-- %core, core the thread lies on; 32; 03_core_state R56; fixed -/
  core    : Nat := 0
  /-- Core-local thread slot; 11; 02_execution R18; lowest free -/
  slot    : Nat := 0
  /-- v0 to v(n-1); 32 each; 03_core_state R46; v0:v1 argument address, others 0 (R48) -/
  regs    : List Word := []
  /-- Poison mark per register; 1 each; 13_faults R269; 0 -/
  pois    : List Bool := []
  /-- Program counter; 64; 02_execution R15; ENTRY -/
  pc      : DWord := 0
  /-- Header of the clause that holds the pc when it is inside a clause; 64; 15_encoding R314; none -/
  mid     : Option DWord := none
  /-- Standing: ready, waiting, parked, held, exited; 3; 13_faults R265; ready -/
  status  : Status := .ready
  /-- Why its instruction is tried again; choice; 05_memory R100; none -/
  hold    : Option Hold := none
  /-- Ready stamp; cycles; 02_execution R20; cycle of becoming ready -/
  stamp   : Nat := 0
  /-- HND, handler bit; 1; 13_faults R257; 0 -/
  hnd     : Bool := false
  /-- Value of %epc and clause header the last trap delivered; 64 each; 13_faults R259; none -/
  trapAt  : Option (DWord × Option DWord) := none
  /-- Deferred matrix traps due: %eaddr and %einfo; 64 and 32; 07_anvil R137; none -/
  defer   : List (DWord × Word) := []
  /-- SB0 to SB5; 6 each; 15_encoding R315; 0 -/
  sb      : List Nat := [0, 0, 0, 0, 0, 0]
  /-- %fstat, sticky flags NV DZ OF UF NX; 5; 03_core_state R57; 0 -/
  fstat   : BitVec 5 := 0
  /-- %scout.EN; 1; 03_core_state R58; 1 if the launch's scout budget is not 0 -/
  scoutEn : Bool := false
  /-- %scout.BUD; 9; 03_core_state R58; the launch's scout budget -/
  scoutBud : Nat := 0
  /-- %scout.EPI; 16; 03_core_state R58; 0 -/
  scoutEpi : BitVec 16 := 0
  /-- %epc; 64; 03_core_state R56; 0 -/
  epc     : DWord := 0
  /-- %ecode[7:0]; 8; 03_core_state R56; 0 -/
  ecode   : Byte := 0
  /-- %eaddr; 64; 03_core_state R56; 0 -/
  eaddr   : DWord := 0
  /-- %einfo; 32; 03_core_state R56; 0 -/
  einfo   : Word := 0
  /-- %policy, eviction-class word of CPY; 32; 03_core_state R56; 0 -/
  policy  : Word := 0
  /-- Deferred remote status in the layout of R130; 32; 06_ordering R130; 0 -/
  remerr  : Word := 0
  /-- Results under their windows; list; 15_encoding R312; empty -/
  window  : List Pending := []
  /-- Progress of an access of several pieces; record; 06_ordering R114; none -/
  part    : Option Part := none
  /-- A delivered reply; record; 06_ordering R128; none -/
  reply   : Option Delivery := none
  /-- Replies its checkpointed load's log slot held, by piece: bytes and poison; list; 09_scout R181; empty -/
  brought : List (Nat × List Byte × Bool) := []
  /-- Log slot of an open checkpoint; 512 bytes; 09_scout R178; none -/
  scout   : Option Scout := none
  /-- The next load is a re-execution and opens no checkpoint; 1; 09_scout R173; false -/
  rerun   : Bool := false
  /-- The load it stands at executes as an ordinary load; 1; 09_scout R173; false -/
  plain   : Bool := false
  /-- Path last used to each chip; list; 10_genane R203; empty -/
  paths   : List (Nat × Nat) := []
  /-- Host-window stores not yet acknowledged; count; 06_ordering R133; 0 -/
  hostOut : Nat := 0
  /-- The call it waits parked for room to make is a BKPT's; 1; 12_hearth R251; false -/
  brk     : Bool := false
  /-- STATE of its record as it was saved; 3; 13_faults R265; 0 -/
  kept    : Nat := 0
  /-- PC and SB of its record as they were saved; 64 and 36; 13_faults R262, R265; 0 -/
  keptPc  : DWord := 0
  keptSb  : List Nat := []
  /-- The counter that the instruction it stands at raised as it issued; 3; 15_encoding R315; none -/
  up      : Option Nat := none
  /-- Its clause execution; number, 0 when it stands in none; 15_encoding R312; 0 -/
  exe     : Nat := 0
  /-- Index of the instruction it stands at among its clause's instruction words; 4; 15_encoding R312; 0 -/
  ipos    : Nat := 0
  /-- The instruction it stands at is a MONW that reads its word; 1; 18_ref_j_p R408; false -/
  polls   : Bool := false
  /-- The tag whose copy it has issued and for whose lock entries it is held at CPY; 6; 08_tongs R163; none -/
  cpyTag  : Option Nat := none
  /-- A fence.rec has come since the read of its CPY's shape record began; 1; 06_ordering R132; false -/
  recOld  : Bool := false
  /-- Its registers and slot are in its group's park slot; 1; 12_hearth R252; false -/
  spilled : Bool := false
  deriving DecidableEq, Repr

/-- A bundle: its threads execute one clause (R20, R21). -/
structure Bundle where
  /-- Member threads in fill order; list; 02_execution R20 -/
  threads : List Nat := []
  /-- Address of the clause header; 64; 15_encoding R300 -/
  addr    : DWord := 0
  /-- The fetched header; 32; 15_encoding R300 -/
  hdr     : Word := 0
  /-- The fetched words 1 to N; 32 each; 15_encoding R301 -/
  words   : List Word := []
  /-- Index of the instruction word being executed, from 1; 4; 15_encoding R301 -/
  pos     : Nat := 1
  /-- Index among the instruction words; 4; 15_encoding R312 -/
  ipos    : Nat := 0
  /-- Number of this clause execution; number; 15_encoding R312 -/
  exe     : Nat := 0
  /-- Members that have not executed the instruction yet; list; 02_execution R21 -/
  todo    : List Nat := []
  /-- Clauses chained so far; 3; 02_execution R23 -/
  chain   : Nat := 1
  /-- The members scout; 1; 09_scout R183 -/
  scouting : Bool := false
  deriving DecidableEq, Repr

/-- A barrier slot: generation's target and arrivals (R30, R264). -/
structure Bar where
  active   : Bool := false
  target   : Nat := 0
  arrivals : Nat := 0
  deriving DecidableEq, Repr

/-- One row's signature: row, thread, address of its instruction, A row words with poison, A scales with poison (R136,
R137, R139). -/
structure Sign where
  row    : Nat
  thread : Nat
  addr   : DWord
  words  : List (Word × Bool)
  scale  : Word × Bool
  sb     : Nat
  deriving DecidableEq, Repr

/-- What the signatures of one operation must agree on (R137, R406). -/
structure MatForm where
  scaled : Bool := false
  af     : Nat := 0
  bf     : Nat := 0
  as     : Bool := false
  n      : Nat := 0
  unit   : Nat := 0
  da     : DWord := 0
  db     : DWord := 0
  bscale : Word := 0
  deriving DecidableEq, Repr

/-- A convergence register with its gathering instance (R135, R136). -/
structure Conv where
  /-- configured; 1; 13_faults R264; 0 -/
  configured : Bool := false
  /-- PAIR; 1; 07_anvil R135; 0 -/
  pair   : Bool := false
  /-- BASE; 11; 07_anvil R135; 0 -/
  base   : Nat := 0
  /-- Form of the gathering instance; record; 07_anvil R136; none -/
  form   : Option MatForm := none
  /-- Signatures of the gathering instance; list; 07_anvil R136; empty -/
  signs  : List Sign := []
  deriving DecidableEq, Repr

/-- A waiting rendezvous instance: group, address, mask, and the arrivals: lane, thread, value, poison, second operand (R27). -/
structure Rdv where
  group : Nat
  addr  : DWord
  mask  : DWord
  lanes : List (Nat × Nat × Word × Bool × Word)
  deriving DecidableEq, Repr

/-- What a side-log entry stores: a plain store, or a RED with its operation and size code (R101). -/
inductive LogOp where
  | store
  | red (opn size : Nat)
  deriving DecidableEq, Repr

/-- A side-log entry: its place in the order of retirement, address, bytes, poison mark, thread, operation (R101, R124). -/
structure LogEntry where
  seq    : Nat
  ctx    : Nat
  va     : DWord
  data   : List Byte
  pois   : Bool
  thread : Nat
  op     : LogOp
  deriving DecidableEq, Repr

/-- Where a team stands (R17, R39, R43). -/
inductive Place where
  | reserved
  | resident
  | saved (slot : Nat)
  deriving DecidableEq, Repr

/-- Phases of an issued matrix operation (R143). -/
inductive MatPhase where
  | issued
  | operands
  | compute
  deriving DecidableEq, Repr

/-- An issued matrix operation: captured operands, phase, and the steps of its operand phase that are read (R136, R143). -/
structure MatOp where
  team   : Nat := 0
  conv   : Nat := 0
  pair   : Bool := false
  form   : MatForm := {}
  signs  : List Sign := []
  phase  : MatPhase := .issued
  bytes  : List (Nat × Byte × Bool) := []
  steps  : Nat := 0
  deriving DecidableEq, Repr

/-- An accumulator access that waits behind a matrix operation (R146). -/
inductive AccKind where
  | mrd (thread tok unit row col n d : Nat)
  | mwr (unit row col : Nat) (vals : List (Word × Bool)) (thread sb : Nat)
  | mst (fmt : Nat) (sat : Bool) (unit row col n : Nat) (addr : Word) (thread sb : Nat)
  | mzero (unit n thread sb : Nat)
  | mchk (thread tok unit n d : Nat)
  deriving DecidableEq, Repr

/-- The queue of a core's Anvil, in issue order (R143, R146). -/
inductive AnvilItem where
  | op (o : MatOp)
  | acc (team half : Nat) (k : AccKind)
  deriving DecidableEq, Repr

/-- One dispatched team (R17, R36, R54). -/
structure Team where
  /-- Identity in this model; number; the model's own; 0 -/
  uid     : Nat := 0
  /-- Identity of its launch; number; the model's own; 0 -/
  launch  : Nat := 0
  /-- Linear team number, gives %team.x, %team.y, %team.z; 96; 02_execution R16; launch value -/
  n       : Nat := 0
  /-- First core of the team; 9; 02_execution R36; placement -/
  core    : Nat := 0
  /-- Core-local team position; 6; 13_faults R264; placement -/
  pos     : Nat := 0
  /-- Reserved, resident or saved; choice; 02_execution R39; placement -/
  place   : Place := .resident
  /-- Cycle of dispatch; cycles; 02_execution R43; placement -/
  born    : Nat := 0
  /-- Scratch area, byte by offset; S or 2S bytes; 03_core_state R51; 0 (R54) -/
  scratch : List Host.Cell := []
  /-- Poisoned scratch words of 8 bytes; 1 per word; 13_faults R269; 0 -/
  spois   : List Nat := []
  /-- Accumulator elements, by half × 2^24 + unit × 2^14 + row × 2^7 + column; 32 each; 03_core_state R53; 0 -/
  acc     : Tab Word := []
  /-- Row marks, by half × 2^16 + unit × 2^7 + row; 1 each; 07_anvil R147; 0 -/
  rmark   : List Nat := []
  /-- Column marks, by half × 2^16 + unit × 2^7 + column; 1 each; 07_anvil R147; 0 -/
  cmark   : List Nat := []
  /-- Barrier slots; 16 of 28 bits; 02_execution R30; inactive -/
  bars    : Tab Bar := []
  /-- Convergence registers c0-c7; 8 of 13 bits; 07_anvil R135; unconfigured -/
  convs   : Tab Conv := []
  /-- Waiting rendezvous instances; list; 02_execution R27; empty -/
  rdvs    : List Rdv := []
  /-- Side log; 256 entries; 05_memory R101; empty -/
  log     : List LogEntry := []
  /-- A deferred remote status of a thread that exited was unread; 1; 17_ref_e_i R360; false -/
  remErr  : Bool := false
  /-- Spilled groups; list; 12_hearth R252; empty -/
  spilled : List Nat := []
  /-- Its place in the order of pre-emptions; number; 02_execution R41; 0 -/
  gone    : Nat := 0
  /-- Its issued matrix operations and waiting accumulator accesses, while it is saved; list; 13_faults R262; empty -/
  anvil   : List (Nat × AnvilItem) := []
  /-- Where its saved image begins in its slots, by half: first thread record, pool offset; list; 13_faults R264; none -/
  image   : List (Nat × Nat) := []
  deriving DecidableEq, Repr

/-- The launch record, field by field (R247). -/
structure LaunchRec where
  entry   : DWord := 0
  handler : DWord := 0
  args    : DWord := 0
  x       : Nat := 0
  y       : Nat := 0
  z       : Nat := 0
  groups  : Nat := 1
  wcode   : Nat := 0
  nreg    : Nat := 8
  nbar    : Nat := 0
  nconv   : Nat := 0
  cgrp    : Nat := 0
  prio    : Nat := 0
  scout   : Nat := 0
  pair    : Bool := false
  strict  : Bool := false
  dup     : Bool := false
  pb1     : Nat := 0
  pb2     : Nat := 0
  pb3     : Nat := 0
  scratch : Nat := 0
  gang    : Nat := 0
  svbase  : DWord := 0
  park    : DWord := 0
  cse     : Bool := false
  svlog   : Nat := 0
  csem    : Nat := 0
  deriving DecidableEq, Repr

/-- One accepted launch that has not ended (R248). -/
structure Launch where
  /-- Identity in this model and order of acceptance; number; 12_hearth R248; next number -/
  uid    : Nat := 0
  /-- Context; 4; 12_hearth R248 -/
  ctx    : Nat := 0
  /-- Stream that launched; 6; 12_hearth R253 -/
  stream : Nat := 0
  /-- IB depth of the LAUNCH packet; 3; 12_hearth R253 -/
  level  : Nat := 0
  /-- SEQ of the LAUNCH record; 64; 12_hearth R253 -/
  seq    : Nat := 0
  /-- The captured launch record; 256 bytes; 12_hearth R247 -/
  rcd    : LaunchRec := {}
  /-- Priority it runs at; 2; 02_execution R43 -/
  prio   : Nat := 0
  /-- Next team in ascending order; 96; 02_execution R36; 0 -/
  next   : Nat := 0
  /-- Teams completed; 96; 02_execution R17; 0 -/
  done   : Nat := 0
  /-- Cycle its head unit began to wait; cycles; 02_execution R40 -/
  since  : Nat := 0
  /-- Cycle its head unit aged; cycles; 02_execution R40; none -/
  aged   : Option Nat := none
  /-- Status and DETAIL of the abort's first cause; 16 each; 13_faults R260; none -/
  abort  : Option (Nat × Nat) := none
  /-- A team completed with an unread deferred remote status; 1; 06_ordering R130; false -/
  remErr : Bool := false
  deriving DecidableEq, Repr

/-- The captured shape record (R151, R152). -/
structure Shape where
  ctrl : Word := 0
  cwa  : DWord := 0
  soff : DWord := 0
  cnt  : List Nat := []
  sstr : List DWord := []
  dstr : List DWord := []
  bad  : Bool := false
  deriving DecidableEq, Repr

/-- Where a copy stands; ended, it has its status and waits for the copies issued before it, and so does one that failed at its
registration and holds no lock (R110, R159, R163, R166, R168, R169). -/
inductive CopyPhase where
  | zero
  | queued
  | circuit
  | running
  | suspended (ctx page : Nat)
  | paused
  | ended (status : Nat)
  | failed (status : Nat)
  deriving DecidableEq, Repr

/-- One copy on its tag (R156, R159, R165). -/
structure Copy where
  /-- Issuing team; number; 08_tongs R158 -/
  team   : Nat := 0
  /-- Context; 4; 08_tongs R160 -/
  ctx    : Nat := 0
  /-- Issue serial on its core; 32; 08_tongs R167 -/
  serial : Nat := 0
  /-- Captured shape record; 192 bytes; 08_tongs R160 -/
  shape  : Shape := {}
  /-- Source base; 64; 08_tongs R156 -/
  src    : DWord := 0
  /-- Destination base; 64; 08_tongs R156 -/
  dst    : DWord := 0
  /-- Phase; choice; 08_tongs R159 -/
  phase  : CopyPhase := .queued
  /-- Cursor: committed chunks; 48; 08_tongs R165; 0 -/
  cursor : Nat := 0
  /-- Issue-time content set aside: byte address and value with poison; list; 06_ordering R119; empty -/
  aside  : List (Nat × Byte × Bool) := []
  /-- Destination bytes it has overwritten, as they were, by physical address with poison; list; 06_ordering R119; empty -/
  old    : List (Nat × Byte × Bool) := []
  /-- Source lines a writer waits on; list; 06_ordering R119; empty -/
  wanted : List Nat := []
  /-- %policy of the issuing thread; 32; 05_memory R97 -/
  policy : Word := 0
  /-- Path on which its next chunk was sent to another chip and is not acknowledged; 7; 10_genane R193; none -/
  flight : Option Nat := none
  /-- Its place in the order of retirements (LogEntry.seq); number; the model's own; next number -/
  order  : Nat := 0
  /-- Its lines in the context's aside pool: source line and pool line; list; 08_tongs R171; empty -/
  pool   : List (Nat × Nat) := []
  deriving DecidableEq, Repr

/-- A completion word not yet stored: its copy's core, context, launch and team, its address and value (R162). -/
structure CWord where
  core   : Nat
  ctx    : Nat
  launch : Word
  team   : Nat
  va     : DWord
  v      : DWord
  deriving DecidableEq, Repr

/-- The lock of a copy of another chip on bytes of this one: chip, core, tag and issue serial (mod 2^32) of the copy, local
offset and length, whether they are its destination (R163, R167). -/
structure FarLock where
  chip   : Nat
  core   : Nat
  tag    : Nat
  serial : Nat
  off  : Nat
  len  : Nat
  dst  : Bool
  deriving DecidableEq, Repr

/-- A tag that a team owns: pending or done with or without an error (R156). -/
structure Tag where
  team : Nat := 0
  done : Bool := false
  err  : Bool := false
  copy : Option Copy := none
  deriving DecidableEq, Repr

/-- A cached translation: context, first VA, level of its leaf, frame, write permission (R89, R90). -/
structure Xlate where
  ctx   : Nat
  va    : Nat
  level : Nat
  frame : Nat
  w     : Bool
  pins  : Nat
  deriving DecidableEq, Repr

/-- One core (R18, R49, R90, R160). -/
structure Core where
  /-- The bundles in pickers 0 and 1; bundle; 02_execution R20; none -/
  pick0  : Option Bundle := none
  pick1  : Option Bundle := none
  /-- Bundles that left their picker; list; 05_memory R100; empty -/
  out    : List Bundle := []
  /-- PB1, PB2, PB3 of the core's partition (%pb); 8 each; 03_core_state R49; 0 -/
  pb     : Nat × Nat × Nat := (0, 0, 0)
  /-- Translation cache; 64 entries; 05_memory R90; empty -/
  tlb    : List Xlate := []
  /-- L1 lines with class, most recent first; (192 - PB3) × 128 lines; 03_core_state R50; empty -/
  l1     : List (Nat × EClass) := []
  /-- Shape-record cache by context and address, most recent first; 16 records; 08_tongs R160; empty -/
  rcache : List (Nat × DWord × List Byte) := []
  /-- Fetched 16-byte pieces of code with poison; list; 06_ordering R112; empty -/
  icache : List (Nat × DWord × List Word) := []
  /-- Tags t0-t63 that are owned; 64; 08_tongs R156; all free -/
  tags   : Tab Tag := []
  /-- Next copy issue serial; 32; 08_tongs R167; 0 -/
  serial : Nat := 0
  /-- Anvil queue; list; 07_anvil R143; empty -/
  anvil  : List AnvilItem := []
  /-- Cycle of the last clause issue; cycles; 13_faults R275; 0 -/
  issued : Nat := 0
  /-- Clause executions so far; number; 15_encoding R312; 0 -/
  exes   : Nat := 0
  /-- On-chip CRC of each of the core's three save slots; 64; 13_faults R266; none -/
  saveCrc : Tab DWord := []
  deriving DecidableEq, Repr

/-- An outstanding demand fault of one fault page; its Retry is answered but its replay waits for a flip or a step of coherence
(R102, R103, R107, R108). -/
structure PageFault where
  fid     : Word
  ctx     : Nat
  page    : Nat
  agent   : Nat
  kind    : Nat
  level   : Nat
  flags   : Nat
  src     : Word
  launch  : Word
  va      : DWord
  time    : Nat
  written : Bool
  retry   : Bool
  deriving DecidableEq, Repr

/-- A request that waits for a walk, with what a fault record would say of it (R90, R102). -/
structure WalkReq where
  agent  : Nat
  src    : Word
  launch : Word
  flags  : Nat
  va     : DWord
  deriving DecidableEq, Repr

/-- A walk in flight on a die, with the requests that have joined it in their order; a scout's prefetch adds none (R90, R179). -/
structure Walk where
  die    : Nat
  ctx    : Nat
  page   : Nat
  reqs   : List WalkReq
  deriving DecidableEq, Repr

/-- A bias flip in progress: frames, direction, the stream that waits (R108). -/
structure Flip where
  ctx    : Nat
  stream : Nat
  toHost : Bool
  frames : List Nat
  deriving DecidableEq, Repr

/-- An open loop of a stream: where its body starts, its count and the passes done (R245, R358). -/
structure LoopSt where
  body  : DWord
  count : Nat
  done  : Nat
  deriving DecidableEq, Repr

/-- One buffer a stream has entered, the top level included: the clause and packet it stands at, its open loops, and its
fetched words by address (R242, R245). -/
structure Buffer where
  clause : DWord := 0
  word   : Nat := 0
  hdr    : Option Word := none
  loops  : List LoopSt := []
  fetched : List (DWord × Word) := []
  deriving DecidableEq, Repr

/-- A skip in progress: the mark of a PREDW, none for a loop of count 0, and the loops that lie inside it (R245). -/
structure Skip where
  mark  : Option (BitVec 16)
  loops : Nat
  deriving DecidableEq, Repr

/-- What a stream's packet waits for; held, a lock, a flip or a step of coherence lets it be tried again (R117, R241, R244). -/
inductive StreamWait where
  | semaphore (n : Nat) (val : DWord) (dec : Bool) (since : Nat)
  | script (k : Nat) (pc arg : DWord)
  | flip
  | launch
  | journal
  | fault (page : Nat)
  | host (cc : Nat) (mark : BitVec 16) (val : Word)
  | held
  deriving DecidableEq, Repr

/-- One stream as the Hearth runs it (R239, R240). -/
structure Stream where
  /-- EN as the Hearth last observed it; 1; 12_hearth R240; 0 -/
  en      : Bool := false
  /-- Fresh: not run since the context was enabled; 1; 12_hearth R240; true -/
  fresh   : Bool := true
  /-- BASE read at the fresh start; 64; 12_hearth R239; 0 -/
  base    : DWord := 0
  /-- LSIZE read at the fresh start; 5; 12_hearth R239; 0 -/
  lsize   : Nat := 0
  /-- PRIO; 2; 12_hearth R239; 0 -/
  prio    : Nat := 0
  /-- HEAD: words retired; 64; 12_hearth R239; 0 -/
  head    : Nat := 0
  /-- Reference tail; 64; 12_hearth R240; 0 -/
  tail    : Nat := 0
  /-- Entered buffers, innermost first, the top level last; at most 5; 12_hearth R245; empty -/
  bufs    : List Buffer := []
  /-- PREDW skip in progress; record; 12_hearth R245; none -/
  skip    : Option Skip := none
  /-- What the current packet waits for; choice; 12_hearth R241; none -/
  wait    : Option StreamWait := none
  /-- The packet being executed: its address, the address after it, its opcode; 64, 64, 7; 12_hearth R253; none -/
  pkt     : Option (DWord × DWord × Nat) := none
  /-- A bad TAIL was observed; 1; 12_hearth R249; false -/
  badTail : Bool := false
  /-- HTIME at which the current packet started; 64; 12_hearth R244; none -/
  began   : Option Nat := none
  /-- HEAD has advanced and is not written yet; 1; 12_hearth R240; false -/
  headDue : Bool := false
  deriving DecidableEq, Repr

/-- A journal record not yet written (R253). -/
structure JRec where
  seq    : Nat
  addr   : DWord
  kind   : Nat
  stream : Nat
  level  : Nat
  opc    : Nat
  detail : Nat
  status : Nat
  time   : Nat
  sem    : Option Nat
  deriving DecidableEq, Repr

/-- One Hearth context (R237, R238, R246, R254). -/
structure Ctx where
  /-- CXREC; 64; 12_hearth R238; 0 -/
  cxrec   : DWord := 0
  /-- CXCTL.EN; 1; 12_hearth R238; 0 -/
  en      : Bool := false
  /-- CXST.ACTIVE; 1; 12_hearth R238; 0 -/
  active  : Bool := false
  /-- CXST.ERR; 16; 12_hearth R238; 0 -/
  err     : Nat := 0
  /-- SVRPL, last 8-byte value written; 64; 12_hearth R238; 0 -/
  svrpl   : DWord := 0
  /-- LABRT, last value written; 32; 12_hearth R238; 0 -/
  labrt   : Word := 0
  /-- JOVW of the captured context record; 1; 12_hearth R237; 0 -/
  jovw    : Bool := false
  /-- ROOT × 16; 68; 12_hearth R237; 0 -/
  root    : Nat := 0
  /-- FRBASE × 16; 68; 12_hearth R237; 0 -/
  frbase  : Nat := 0
  /-- FRLOG; 5; 12_hearth R237; 0 -/
  frlog   : Nat := 0
  /-- JBASE × 16; 68; 12_hearth R237; 0 -/
  jbase   : Nat := 0
  /-- JLOG; 5; 12_hearth R237; 0 -/
  jlog    : Nat := 0
  /-- STAB × 16; 68; 12_hearth R237; 0 -/
  stab    : Nat := 0
  /-- ASBASE × 16; 68; 12_hearth R237; 0 -/
  asbase  : Nat := 0
  /-- ASLINES; 32; 12_hearth R237; 0 -/
  aslines : Nat := 0
  /-- SAVE × 16; 68; 12_hearth R237; 0 -/
  save    : Nat := 0
  /-- Semaphores 0-255; 64 each; 12_hearth R246; 0 -/
  sems    : Tab DWord := []
  /-- Streams 0-63; record each; 12_hearth R239; off -/
  streams : Tab Stream := []
  /-- SEQ of the next journal record; 64; 12_hearth R253; 0 -/
  seq     : Nat := 0
  /-- JPROD as the Hearth writes it; 64; 12_hearth R254; 0 -/
  jprod   : Nat := 0
  /-- Records that wait to be written, oldest first; list; 12_hearth R254; empty -/
  jqueue  : List JRec := []
  /-- Fault ring producer count; 32; 05_memory R102; 0 -/
  frprod  : Nat := 0
  deriving DecidableEq, Repr

/-- What a script's instruction waits for, with the HTIME at which its wait began (R207, R212). -/
inductive ScriptWait where
  | port (p want : Nat) (d : Reg)
  | graph (g : Nat) (d : Reg)
  | rotation (i : Nat) (d : Reg)
  | semaphore (n : Nat) (val : DWord) (dec : Bool) (d : Reg)
  | sleep (till : Nat)
  | fault (page : Nat)
  | host (d : Reg) (size : Nat) (sx : Bool)
  deriving DecidableEq, Repr

/-- One of the four script contexts (R207, R210, R236). -/
structure Script where
  /-- SCST.STATE idle or running; 3; 11_bellows R236; 0 -/
  running : Bool := false
  /-- SCST.CTX; 4; 11_bellows R236; 0 -/
  ctx     : Nat := 0
  /-- SCST.CODE of the last end; 8; 11_bellows R236; 0 -/
  code    : Nat := 0
  /-- SCPC: PC of the running or last ended instruction; 64; 11_bellows R236; 0 -/
  pc      : DWord := 0
  /-- v0 to v31; 32 each; 11_bellows R207; v0:v1 = arg, others 0 -/
  regs    : List Word := []
  /-- Address of the running clause's header; 64; 11_bellows R208; none -/
  header  : Option DWord := none
  /-- The running clause's header and words; 32 each; 11_bellows R208; empty -/
  words   : List Word := []
  /-- Index of the instruction word in the clause; 4; 11_bellows R208; 0 -/
  pos     : Nat := 0
  /-- What it waits for; choice; 11_bellows R207; none -/
  wait    : Option ScriptWait := none
  /-- HTIME and timeout of the wait; 64 and 32; 11_bellows R212; 0 -/
  began   : Nat := 0
  timeout : Word := 0
  /-- SEQ, stream and level of the BSTRT record; 64, 6, 3; 12_hearth R253; 0 -/
  seq     : Nat := 0
  stream  : Nat := 0
  level   : Nat := 0
  deriving DecidableEq, Repr

/-- One operation of a graph record (R219). -/
structure GOp where
  kind  : Nat := 0
  rop   : Nat := 0
  fmt   : Nat := 0
  sbi   : Nat := 0
  dbi   : Nat := 0
  path  : Nat := 0
  deps  : Nat := 0
  soff  : DWord := 0
  doff  : DWord := 0
  len   : Nat := 0
  mtch  : Word := 0
  peer  : Nat := 0
  succ  : List Nat := []
  deriving DecidableEq, Repr

/-- Where an operation of a run stands: remaining dependencies, CLEAR received or sent, bytes moved, done, the page of the
fault it waits on, data packets that have arrived and wait, and the chunk's bytes with poison, which a send has read and a
receive has been given (R99, R122, R221, R222). -/
structure GRun where
  deps    : Nat := 0
  clear   : Bool := false
  bytes   : Nat := 0
  done    : Bool := false
  fault   : Option Nat := none
  pend    : List Packet := []
  buf     : List (Byte × Bool) := []
  deriving DecidableEq, Repr

/-- One of the eight graph slots (R220, R221, R236). -/
structure Graph where
  /-- GSTAT.STATE 0 empty, 1 loaded, 2 running; 2; 11_bellows R236; 0 -/
  state  : Nat := 0
  /-- GSTAT.CTX; 4; 11_bellows R236; 0 -/
  ctx    : Nat := 0
  /-- GSTAT last run status; 8; 11_bellows R236; 0 -/
  status : Nat := 0
  /-- GRUNN; 32; 11_bellows R236; 0 -/
  run    : Word := 0
  /-- GDONE; 32; 11_bellows R236; 0 -/
  ndone  : Nat := 0
  /-- The loaded operations; 64 bytes each; 11_bellows R219; empty -/
  ops    : List GOp := []
  /-- The run's operations; record each; 11_bellows R221; empty -/
  runs   : List GRun := []
  /-- The run's base table; 16 of 64; 11_bellows R221; empty -/
  bases  : List DWord := []
  deriving DecidableEq, Repr

/-- One of the four rotation indices (R226-R230, R236). -/
structure Rotation where
  /-- RSTAT.STATE 0 none, 1 running, 2 complete, 3 ended; 2; 11_bellows R236; 0 -/
  state  : Nat := 0
  /-- RSTAT.CTX; 4; 11_bellows R236; 0 -/
  ctx    : Nat := 0
  /-- RSTAT status; 8; 11_bellows R236; 0 -/
  status : Nat := 0
  /-- RINST; 32; 11_bellows R236; 0 -/
  inst   : Word := 0
  /-- GEN; 16; 11_bellows R226; 0 -/
  gen    : Nat := 0
  /-- RING; 13; 11_bellows R226; 0 -/
  ring   : Nat := 0
  /-- SLOTS; 5; 11_bellows R226; 0 -/
  slots  : Nat := 0
  /-- CONS; 16; 11_bellows R226; 0 -/
  cons   : Nat := 0
  /-- BLK; 32; 11_bellows R226; 0 -/
  blk    : Nat := 0
  /-- SLOTBASE; 64; 11_bellows R226; 0 -/
  base   : DWord := 0
  /-- NEXT, PREV, NPATH, POS; 21, 21, 7, 12; 11_bellows R226; 0 -/
  nextc  : Nat := 0
  prevc  : Nat := 0
  npath  : Nat := 0
  posn   : Nat := 0
  /-- SE and SEM; 1 and 8; 11_bellows R226; 0 -/
  se     : Bool := false
  sem    : Nat := 0
  /-- RFOWN, own credit F; 32; 11_bellows R236; 0 -/
  own    : Nat := 0
  /-- RFNXT, latest F from NEXT; 32; 11_bellows R236; 0 -/
  fnxt   : Nat := 0
  /-- RDRPI; 32; 11_bellows R236; 0 -/
  rdrpi  : Word := 0
  /-- RDRPG; 32; 11_bellows R236; 0 -/
  rdrpg  : Word := 0
  /-- Bytes of each arriving block committed; list; 11_bellows R229; empty -/
  got    : Tab Nat := []
  /-- Blocks forwarded so far; 13; 11_bellows R228; 0 -/
  fwd    : Nat := 0
  /-- Releases of each block; 16 each; 11_bellows R230; 0 -/
  rels   : Tab Nat := []
  /-- Source chip of each block that has come; 21 each; 11_bellows R231; none -/
  orig   : Tab Nat := []
  /-- Bytes of the block being forwarded that have been read and sent; number; 11_bellows R228; 0 -/
  fsent  : Nat := 0
  /-- Fault page it waits on; number; 11_bellows R233; none -/
  fault  : Option Nat := none
  /-- Data packets that have arrived and wait; list; 11_bellows R229; empty -/
  pend   : List Packet := []
  deriving DecidableEq, Repr

/-- The five states of a port (R194). -/
inductive PState where
  | dark
  | locking
  | trained
  | live
  | fault
  deriving DecidableEq, Repr

/-- One Genane port (R194-R198). -/
structure Port where
  /-- PSTAT.STATE; 3; 10_genane R197; DARK -/
  state   : PState := .dark
  /-- PSTAT.CAUSE; 4; 10_genane R197; 0 -/
  cause   : Nat := 0
  /-- PSTAT.DEADW; 8; 10_genane R197; 0 -/
  dead    : BitVec 8 := 0
  /-- RETRAIN flits are being sent before LOCKING is entered again; 1; 10_genane R195; false -/
  retrain : Bool := false
  /-- Wavelengths locked in LOCKING; 8; 10_genane R195; 0 -/
  locked  : BitVec 8 := 0
  /-- HTIME of entry into the phase; 64; 10_genane R195; 0 -/
  since   : Nat := 0
  /-- Wavelength lock reached at this HTIME; 64; 10_genane R195; none -/
  wlock   : Option Nat := none
  /-- PSTAT.LEASED; 1; 10_genane R197; 0 -/
  leased  : Bool := false
  /-- PSTAT.CTX, the lease's context; 4; 10_genane R197; 0 -/
  ctx     : Nat := 0
  /-- PPEER.PORT of the last HELLO; 6; 10_genane R197; 0 -/
  ppeer   : Nat := 0
  /-- PPEER lease peer chip; 21; 10_genane R197; 0 -/
  peer    : Nat := 0
  /-- Switch port of the lease; 32; 10_genane R198; 0 -/
  swport  : Word := 0
  /-- PLEND; 64; 10_genane R197; 0 -/
  lend    : Nat := 0
  /-- PLTAG; 32; 10_genane R197; 0 -/
  ltag    : Word := 0
  /-- PCORR; 64; 10_genane R197; 0 -/
  pcorr   : DWord := 0
  /-- PUNC; 32; 10_genane R197; 0 -/
  punc    : Word := 0
  /-- PRPL; 32; 10_genane R197; 0 -/
  prpl    : Word := 0
  /-- PTRN; 32; 10_genane R197; 0 -/
  ptrn    : Word := 0
  /-- Pending circuit request: context, number, peer, switch port, length in µs; 4, 32, 21, 32, 32; 11_bellows R213; none -/
  request : Option (Nat × Word × Nat × Word × Nat) := none
  /-- Refused flag; 1; 11_bellows R213; false -/
  refused : Bool := false
  /-- Requests that CREL cancelled: number and context; 32 and 4 each; 11_bellows R216; none -/
  cancelled : List (Word × Nat) := []
  /-- Packets that wait for a data flit: class (R203) and bytes, oldest first; list; 10_genane R203; empty -/
  queue   : List (Nat × List Byte) := []
  /-- Next SEQ to send; 24; 10_genane R191; 0 -/
  txseq   : Nat := 0
  /-- Replay buffer: SEQ, body, times sent; 4,096 flits; 10_genane R192; empty -/
  replay  : List (Nat × List Byte × Nat) := []
  /-- SEQ of the last flit replayed and not yet acknowledged; 24; 10_genane R193; none -/
  replayed : Option Nat := none
  /-- Next SEQ expected; 24; 10_genane R192; 0 -/
  rxseq   : Nat := 0
  /-- NAK outstanding; 1; 10_genane R192; false -/
  nakOut  : Bool := false
  /-- Bytes of a packet that spans into the next flit; list; 10_genane R191; empty -/
  rxpart  : List Byte := []
  deriving DecidableEq, Repr

/-- A request sent and not finished: packet, resends, HTIME sent, whether held or busy, path, thread (R204). -/
structure Req where
  packet  : Packet
  resends : Nat
  sent    : Nat
  held    : Bool
  busy    : Bool
  path    : Nat
  thread  : Nat
  deriving DecidableEq, Repr

/-- A lane at the source: next serial and what is outstanding (R204). -/
structure SrcLane where
  chip : Nat
  lane : Nat
  next : Nat
  reqs : List Req
  deriving DecidableEq, Repr

/-- A lane at the target: next expected serial, early arrivals, kept results, a request held for a fault (R204, R205). -/
structure TgtLane where
  chip  : Nat
  lane  : Nat
  want  : Nat
  early : List Packet
  kept  : List (Nat × Packet)
  held  : Option (Packet × Nat)
  deriving DecidableEq, Repr

/-- A copy chunk received from another chip, staged until its COMMIT (R167, R202). -/
structure Staged where
  chip   : Nat
  serial : Nat
  off    : Nat
  data   : List Byte
  pmask  : Nat
  deriving DecidableEq, Repr

/-- A request of the host: a write of data or a read of as many bytes, at a local offset, the bytes performed so far, and those
read with their poison (R110, R280). -/
structure HostReq where
  write : Bool
  off   : Nat
  data  : List Byte
  done  : Nat := 0
  back  : List (Byte × Bool) := []
  deriving DecidableEq, Repr

/-- What leaves the machine: frames, flits, messages on HueriLink. -/
inductive Sent where
  | frame (q : Nat) (bytes : List Byte)
  | flit (port : Nat) (bytes : List Byte)
  | interrupt (v : Nat)
  | hostWrite (addr : Nat) (data : List Byte)
  | hostRead (addr : Nat) (size : Nat) (thread : Nat)
  | hostReply (data : List Byte) (pois : List Bool) (ok : Bool)
  | snoop (frames : List Nat)
  | badPopulation
  deriving DecidableEq, Repr

/-- An executor: a thread, a script, a stream of a context. -/
inductive Who where
  | thread (uid : Nat)
  | script (k : Nat)
  | stream (ctx n : Nat)
  deriving DecidableEq, Repr

/-- The instruction being executed: who, its address and word, the address after its last continuation, the address of
its clause header, whether it is the last of its clause, its position and clause execution (R312). -/
structure Cur where
  who  : Who
  addr : DWord
  word : Word
  next : DWord
  hdr  : DWord
  last : Bool
  pos  : Nat
  exe  : Nat
  deriving DecidableEq, Repr

/-- An error in stored bits as its code finds it: corrected, with the unit and physical address of its record; not
correctable in a register of a thread, a scratch word of 8 bytes, an accumulator row, an L1 line of a core, a granule of
L2, DRAM or second tier; in an entry of a core's or a die's translation cache or of a record cache; or in the state of a
unit (R147, R268, R273). -/
inductive StorageError where
  | corrected (uclass unit addr : Nat)
  | register (thread r : Nat)
  | scratch (team word : Nat)
  | accumulator (team half unit row : Nat)
  | l1 (core line : Nat)
  | l2 (granule : Nat)
  | dram (granule : Nat)
  | tier (granule : Nat)
  | coreEntry (core i : Nat)
  | dieEntry (die i : Nat)
  | recordEntry (core i : Nat)
  | state (uclass unit : Nat)
  deriving DecidableEq, Repr

/-- What a turn does: a picker executes its bundle's instruction for one thread, a script or a stream its next one, the
test port takes a code, an event comes about, the code of a storage finds an error, or a copy of another chip takes or
releases a lock here. -/
inductive Act where
  | picker (core p k : Nat)
  | script (k : Nat)
  | stream (ctx n ahead : Nat)
  | jtag (code : Nat)
  | event (i : Instr)
  | error (e : StorageError)
  | farLock (l : FarLock) (held : Bool)
  deriving DecidableEq, Repr

/-- One turn: the core cycles and nanoseconds that pass before it, and what it does. -/
structure Turn where
  cycles : Nat := 0
  ns     : Nat := 0
  act    : Act
  deriving DecidableEq, Repr

/-- A write of the hub's own, or the enabling of a context, that waits for a lock, a bias flip, logged stores or the step of
coherence: a machine check with its record's fields and time, the end of a stream's run with the offset of its entry and its
status, bytes at an offset, the reading of a context's record (R107, R108, R117, R123, R238, R249, R273). -/
inductive HubDue where
  | check (sev kind uclass unit : Nat) (launch : Word) (addr time : Nat)
  | stop (entry status : Nat)
  | put (off : Nat) (data : List Byte)
  | enable (ctx : Nat)
  deriving DecidableEq, Repr

/-- The hub's registers that belong to no context, port or script. -/
structure Hub where
  /-- XIVA; 64; 05_memory R96; 0 -/
  xiva   : DWord := 0
  /-- XIVC; 32; 05_memory R96; 0 -/
  xivc   : Word := 0
  /-- XISQ; 32; 05_memory R96; 0 -/
  xisq   : Word := 0
  /-- FRPL, last 8-byte value; 64; 05_memory R96; 0 -/
  frpl   : DWord := 0
  /-- Invalidations queued: XIVA and XIVC of each; at most 64; 05_memory R91; empty -/
  invq   : List (DWord × Word) := []
  /-- Scout counter blocks, by ctx × 32 + offset / 8; 13 of 64 per context; 09_scout R186; 0 -/
  scoutc : Tab DWord := []
  /-- GRT; 2048 of 32; 10_genane R201; 0 -/
  grt    : Tab Word := []
  /-- LRT; 1024 of 32; 10_genane R201; 0 -/
  lrt    : Tab Word := []
  /-- PLET; 16; 10_genane R201; 0x88B5 -/
  plet   : Word := 0x88B5
  /-- SWCM; 49; 10_genane R201; 0 -/
  swcm   : DWord := 0
  /-- PDROP; 64; 10_genane R201; 0 -/
  pdrop  : DWord := 0
  /-- MCBASE; 64; 13_faults R272; 0 -/
  mcbase : DWord := 0
  /-- MCLOG; 5; 13_faults R272; 0 -/
  mclog  : Word := 0
  /-- MCCTL; 1; 13_faults R272; 1 -/
  mcctl  : Word := 1
  /-- MCPROD; 64; 13_faults R272; 0 -/
  mcprod : DWord := 0
  /-- MCCONS; 64; 13_faults R272; 0 -/
  mccons : DWord := 0
  /-- Units (class and number) with the HTIME of their last record of a corrected error; list; 13_faults R274; none -/
  merged : List (Nat × Nat × Nat) := []
  /-- CEXCL[0-5] as the excluded cores; 384 of 1; 13_faults R272; none -/
  cexcl  : List Nat := []
  /-- HWBASE[0-7]; 64 each; 14_system R281; 0 -/
  hwbase : Tab DWord := []
  /-- HWCTL[0-7].EN, the enabled windows; 8 of 1; 14_system R281; none -/
  hwen   : List Nat := []
  /-- HIPEND and HIPEND1 as the pending vectors; 128; 14_system R281; none -/
  hipend : BitVec 128 := 0
  /-- HIMASK and HIMASK1; 128; 14_system R281; 0 -/
  himask : BitVec 128 := 0
  /-- MGST.STAGE; 4; 14_system R286; 0 -/
  stage  : Nat := 0
  /-- MGST.FSTEP; 4; 14_system R286; 0 -/
  fstep  : Nat := 0
  /-- MGCMD.CMD and BUSY; 8 and 1; 14_system R286; 0 -/
  mgcmd  : Byte := 0
  mgbusy : Bool := false
  /-- Result the running command will leave; 8; 14_system R286; 0 -/
  mgnext : Byte := 0
  /-- MGARG; 64; 14_system R286; 0 -/
  mgarg  : DWord := 0
  /-- MGRSP; 8; 14_system R286; 0 -/
  mgrsp  : Byte := 0
  /-- Bytes of the command's buffer that the host has answered; list; 14_system R286; empty -/
  mgbuf  : List Byte := []
  /-- PWRAVG; 32; 14_system R288; 0 -/
  pwravg : Word := 0
  /-- PWRLIM; 32; 14_system R288; 3,600 -/
  pwrlim : Word := 3600
  /-- TINLET; 32; 14_system R288; 0 -/
  tinlet : Word := 0
  /-- TJMAX; 32; 14_system R288; 0 -/
  tjmax  : Word := 0
  /-- FCLK; 32; 14_system R288; 2,100 -/
  fclk   : Word := 2100
  /-- HTIME since which TINLET has been above 50 °C; 64; 14_system R289; none -/
  hotSince : Option Nat := none
  /-- %chip; 21; 03_core_state R56; 0 until boot -/
  chip   : Nat := 0
  /-- Installed CXL ports trained; 8; 14_system R283; 0 until boot -/
  cxl    : Nat := 0
  /-- Capacity of each installed CXL port in bytes; 41; 14_system R283; 0 until boot -/
  cxlcap : Nat := 0
  /-- CXL ports whose link is down; 8; 14_system R284; none -/
  cxldn  : List Nat := []
  /-- HueriLink open to every block; 1; 14_system R285; false -/
  hlopen : Bool := false
  /-- Next fault identifier; 32; 05_memory R102; 0 -/
  nextfid : Word := 0
  /-- Next circuit request number; 32; 10_genane R198; 0 -/
  nextreq : Word := 0
  /-- Engines that failed; 12; 10_genane R195; none -/
  engines : List Nat := []
  /-- Round-robin pointer per priority; 4 of 9; 02_execution R36; 0 -/
  rr     : Tab Nat := []
  /-- The script context whose turn comes first in the Bellows' round robin; 2; 11_bellows R207; DESIGN CHOICE 0 (log entry 142) -/
  scriptTurn : Nat := 0
  /-- Per PRIO, the stream (ctx × 64 + stream) whose turn comes first in the Hearth's round robin; 4 of 10; 12_hearth R241; DESIGN CHOICE 0 (log entry 142) -/
  streamTurn : Tab Nat := []
  deriving DecidableEq, Repr

/-- The test port (R277). -/
structure Jtag where
  /-- Instruction register; 8; 13_faults R277; BYPASS, DESIGN CHOICE (log entry 5) -/
  ir   : Nat := 0xFF
  /-- Data register being shifted; list; 13_faults R277; empty -/
  dr   : List Bool := []
  /-- QSEL chain number; 16; 13_faults R277; 0, DESIGN CHOICE (log entry 5) -/
  sel  : Nat := 0
  /-- Position in the ring shift of the chosen chain; number; 13_faults R277; 0 -/
  at_  : Nat := 0
  /-- Bits shifted out by the last scan; list; 13_faults R277; empty -/
  tdo  : List Bool := []
  /-- Value of the draw counter at the last freeze; number; the model's own; 0 -/
  key  : Nat := 0
  deriving DecidableEq, Repr

/-- The whole machine. -/
structure State where
  /-- Stacked DRAM and second tier, byte by local offset, in canonical form; 8 each; 05_memory R92; nothing listed, reads 0, DESIGN CHOICE (log entry 1) -/
  mem    : List Host.Cell := []
  /-- Poisoned 16-byte granules of memory, by offset / 16; 1 each; 13_faults R269; none -/
  poison : List Nat := []
  /-- Bias bits set (host bias), by offset / 64 KiB; 1 each; 05_memory R107; 0 -/
  bias   : List Nat := []
  /-- %cycle; 64; 03_core_state R56; 0 -/
  cycle  : Nat := 0
  /-- HTIME; 64; 10_genane R201; 0 -/
  htime  : Nat := 0
  /-- Frozen by Quench; 1; 13_faults R276; false -/
  frozen : Bool := false
  /-- Hub registers; record; the rules of each field; as listed -/
  hub    : Hub := {}
  /-- Cores 0-383; record each; 01_device R9; as listed -/
  cores  : Tab Core := []
  /-- Threads of dispatched teams; list; 02_execution R15; none -/
  threads : List Thread := []
  /-- Dispatched teams; list; 02_execution R17; none -/
  teams  : List Team := []
  /-- Launches accepted and not ended; list; 12_hearth R248; none -/
  launches : List Launch := []
  /-- Contexts 0-15; record each; 12_hearth R237; off -/
  ctxs   : Tab Ctx := []
  /-- Script contexts 0-3; record each; 11_bellows R207; idle -/
  scripts : Tab Script := []
  /-- Graph slots 0-7; record each; 11_bellows R220; empty -/
  graphs : Tab Graph := []
  /-- Rotation indices 0-3; record each; 11_bellows R227; none -/
  rots   : Tab Rotation := []
  /-- Ports p0-p47; record each; 10_genane R194; DARK -/
  ports  : Tab Port := []
  /-- Die translation caches, by die; 16,384 entries each; 05_memory R90; empty -/
  dtlb   : Tab (List Xlate) := []
  /-- Pinned store, the same on every die; 65,536 entries; 05_memory R104; empty -/
  pinned : List Xlate := []
  /-- Walks in flight; 256 per die; 05_memory R90; none -/
  walks  : List Walk := []
  /-- Outstanding faults; list; 05_memory R102; none -/
  faults : List PageFault := []
  /-- L2 lines present with class, by set, most recent first; 16 ways; 05_memory R98; empty -/
  l2     : Tab (List (Nat × EClass)) := []
  /-- Second-tier lines written while they lie in L2; list; 14_system R284; none -/
  dirty  : List Nat := []
  /-- Frames of 64 KiB in host bias whose coherence step is asked of the host; list; 05_memory R107; none -/
  snoops : List Nat := []
  /-- Frames whose coherence step is done for one access to come; list; 05_memory R107; none -/
  coherent : List Nat := []
  /-- Bias flips, the running one first; list; 05_memory R108; none -/
  flips  : List Flip := []
  /-- Request lanes as source; list; 10_genane R204; none -/
  lanes  : List SrcLane := []
  /-- Request lanes as target; list; 10_genane R204; none -/
  served : List TgtLane := []
  /-- Tracked requesting chips with the HTIME of their last acknowledgement; 16,384; 10_genane R204; none -/
  chips  : Tab Nat := []
  /-- Chunks of other chips' copies staged; list; 08_tongs R167; none -/
  staged : List Staged := []
  /-- COMMITs of other chips' copies that wait for a lock, a flip or the step of coherence, oldest first; list; 06_ordering R117; none -/
  commitq : List Packet := []
  /-- Highest chunk committed, by chip, core, tag and serial; list; 08_tongs R167; none -/
  commits : List ((Nat × Nat × Nat × Nat) × Nat) := []
  /-- Completion words of copies not yet stored, oldest first; list; 08_tongs R162; empty -/
  cwords : List CWord := []
  /-- Locks that copies of other chips hold here; list; 08_tongs R163; none -/
  farLocks : List FarLock := []
  /-- Requests of the host, in order of arrival; list; 06_ordering R110; empty -/
  hostq  : List HostReq := []
  /-- Writes of the hub's own that wait, oldest first; list; 06_ordering R117, R123; empty -/
  hubq   : List HubDue := []
  /-- Stores to EN (0) and TAIL (1) not yet observed: context, stream, which, value; list; 12_hearth R240; empty -/
  noted  : List (Nat × Nat × Nat × Nat) := []
  /-- The gang that reserves: launch; number; 02_execution R39; none -/
  gang   : Option Nat := none
  /-- Test port; record; 13_faults R277; as listed -/
  jtag   : Jtag := {}
  /-- Firmware image in the management controller's flash; bytes; 14_system R285; empty, DESIGN CHOICE (log entry 6) -/
  flash  : List Byte := []
  /-- What has left the machine, oldest first; list; the model's own; empty -/
  sent   : List Sent := []
  /-- The turns to come; list; the model's own; empty -/
  agenda : List Turn := []
  /-- The instruction being executed; record; the model's own; none -/
  cur    : Option Cur := none
  /-- Free values drawn so far; number; the model's own; 0, DESIGN CHOICE (log entry 3) -/
  draws  : Nat := 0
  /-- Next identity of a launch, team or thread; number; the model's own; 0 -/
  nextUid : Nat := 0
  deriving DecidableEq, Repr

/-- How a step can stop for good. -/
inductive Fault where
  /-- Raised by exec when the instruction is an executor's and none stands in `cur`: the agenda named it as an event; safe. -/
  | noExecutor
  deriving DecidableEq, Repr

/-- How a step can refuse. -/
inductive Refusal where
  /-- Raised by an arm of exec whose instruction has no meaning yet; safe. -/
  | notModelled (mnemonic : String)
  deriving DecidableEq, Repr

/-- The machine right after module reset (R5, R194, R278): every field at the value its comment gives. -/
def State.reset : State := {}

end Sys2Proof.Machine
end

