-- ==== Sys2Proof/Config.lean ====
section
/-! DEFINITION. What the manual leaves open or each module has of its own: free values, constants with no body that
nothing can evaluate, and the fused and supplied values of boot. -/
namespace Sys2Proof.Config
open Sys2Proof Sys2Proof.Machine

/-- Free words, one for each value of the draw counter; the manual fixes none of them (log entry 3). -/
opaque freeWord : Nat → Word
/-- Which agent moves next when the agenda is empty, and after how long; none lets a cycle pass (log entry 2). -/
opaque freeTurn : Nat → Option Turn
/-- The special-function unit's fixed mapping, by function and operand, free within the bound of R78 (log entry 4). -/
opaque sfu : Nat → Word → Word
/-- Which entry a full translation cache replaces (R90 states none; log entry 7). -/
opaque xlateVictim : Nat → Nat
/-- Which of the 256 sets of its slice holds an L2 line (R98 states none; log entry 7). -/
opaque l2Set : Nat → Nat
/-- The bits a chain or the boundary register shifts out beyond what R277 gives (scan map VGN-9480-SM; log entry 8). -/
opaque scanBit : Nat → Nat → Bool
/-- SHAKE256, 64-byte output (R285; log entry 9). -/
opaque shake256 : List Byte → List Byte
/-- Falcon-1024 verification: key, digest, signature (R285; log entry 9). -/
opaque falconVerify : List Byte → List Byte → List Byte → Bool
/-- Falcon-1024 signature with the identity key, over a digest (R287; log entry 9). -/
opaque falconSign : List Byte → List Byte
/-- A firmware image's public key, signature, security version and body; none when it cannot be read (R285; log entry 9). -/
opaque imageParts : List Byte → Option (List Byte × List Byte × Nat × List Byte)
/-- The root-key digest fused at manufacture (R285). -/
opaque fusedKeyDigest : List Byte
/-- The fused security version (R285). -/
opaque fusedVersion : Nat
/-- The 1,793 bytes of the public identity key (R286, R287). -/
opaque identityKey : List Byte
/-- The module serial number (R287). -/
opaque serialNumber : DWord
/-- The chip number the management controller supplies (R11, R285). -/
opaque suppliedChip : BitVec 21
/-- The installed CXL ports and the capacity of each in bytes (R283). -/
opaque cxlPopulation : List (Nat × Nat)

end Sys2Proof.Config
end

