-- ==== Sys2Proof/Machine/Bits.lean ====
section
/-! DEFINITION. Tables, byte lists, byte order and checksums: the small helpers every operation uses (R3, R149, R191). -/
namespace Sys2Proof.Machine
open Sys2Proof

/-- Read a table whose unlisted numbers hold the default. -/
def tget {α : Type} (d : α) : Tab α → Nat → α
  | [], _ => d
  | (k, v) :: t, n => if n == k then v else tget d t n

/-- Remove a number from a table. -/
def tdel {α : Type} : Tab α → Nat → Tab α
  | [], _ => []
  | (k, v) :: t, n => if n == k then tdel t n else (k, v) :: tdel t n

/-- Put an entry in its place in ascending order. -/
def tins {α : Type} : Tab α → Nat → α → Tab α
  | [], n, x => [(n, x)]
  | (k, v) :: t, n, x =>
    if n < k then (n, x) :: (k, v) :: t
    else if n == k then (n, x) :: t
    else (k, v) :: tins t n x

/-- Write a table, keeping the canonical form: ascending numbers, no entry equal to the default. -/
def tset {α : Type} [DecidableEq α] (d : α) (t : Tab α) (n : Nat) (x : α) : Tab α :=
  if x = d then tdel t n else tins t n x

/-- The canonical form of a table: numbers strictly rising, no entry equal to the default. -/
def twf {α : Type} [DecidableEq α] (d : α) : Tab α → Bool
  | [] => true
  | [(_, v)] => !(decide (v = d))
  | (k, v) :: (k', v') :: t => k < k' && !(decide (v = d)) && twf d ((k', v') :: t)

/-- Membership and update of a list of numbers kept strictly rising. -/
def nmem : List Nat → Nat → Bool
  | [], _ => false
  | k :: t, n => n == k || nmem t n
def nins : List Nat → Nat → List Nat
  | [], n => [n]
  | k :: t, n => if n < k then n :: k :: t else if n == k then k :: t else k :: nins t n
def ndel : List Nat → Nat → List Nat
  | [], _ => []
  | k :: t, n => if n == k then ndel t n else k :: ndel t n
/-- Set or clear a number's mark. -/
def nput (l : List Nat) (n : Nat) (on : Bool) : List Nat := if on then nins l n else ndel l n

/-- The numbers from a, n of them. -/
def from_ (a n : Nat) : List Nat := (List.range n).map (a + ·)

/-- The n low bytes of a number, lowest first (R3). -/
def bytesOf (x n : Nat) : List Byte := (List.range n).map fun i => BitVec.ofNat 8 (x >>> (8 * i))
/-- The number whose bytes, lowest first, these are (R3). -/
def natOf : List Byte → Nat
  | [] => 0
  | b :: t => b.toNat + 256 * natOf t

/-- Bits [hi:lo] of a number, by low bit and width. -/
def bits (x lo n : Nat) : Nat := (x >>> lo) % 2 ^ n

/-- Sign-extension of the low n bits of a number to an integer. -/
def sext (x n : Nat) : Int := let y := x % 2 ^ n; if y < 2 ^ (n - 1) then (y : Int) else (y : Int) - (2 ^ n : Nat)

/-- An integer modulo 2^64 and modulo 2^32. -/
def dword (x : Int) : DWord := BitVec.ofInt 64 x
def word (x : Int) : Word := BitVec.ofInt 32 x

/-- Set element i of a list. -/
def lset {α : Type} (l : List α) (i : Nat) (x : α) : List α := l.set i x

/-- The n-bit reflection of a number. -/
def reflect (n x : Nat) : Nat := (List.range n).foldl (fun a i => a * 2 + (x >>> i) % 2) 0

/-- A fold over a number that is computed at every element, not built up unevaluated. -/
def foldNat {α : Type} (f : Nat → α → Nat) : List α → Nat → Nat
  | [], n => n
  | x :: t, n =>
    match f n x with
    | 0 => foldNat f t 0
    | m + 1 => foldNat f t (m + 1)

/-- One byte of the reflected CRC-32 of polynomial 0x04C1_1DB7 (R191). -/
def crc32byte (c : Nat) (b : Byte) : Nat :=
  (List.range 8).foldl (fun a _ => if a % 2 == 1 then (a / 2) ^^^ 0xEDB88320 else a / 2) (c ^^^ b.toNat)
/-- CRC-32 over bytes: initial value and final XOR all ones (R191). -/
def crc32 (l : List Byte) : Nat := (foldNat crc32byte l 0xFFFFFFFF) ^^^ 0xFFFFFFFF

/-- One byte of the CRC-64 of polynomial 0x42F0_E1EB_A9EA_3693, no reflection (R149). -/
def crc64byte (c : Nat) (b : Byte) : Nat :=
  (List.range 8).foldl
    (fun a _ => if 2 ^ 63 ≤ a then ((a * 2) % 2 ^ 64) ^^^ 0x42F0E1EBA9EA3693 else (a * 2) % 2 ^ 64)
    (c ^^^ (b.toNat <<< 56))
/-- CRC-64 over bytes: initial value 0, no final XOR (R149). -/
def crc64 (l : List Byte) : DWord := BitVec.ofNat 64 (foldNat crc64byte l 0)

/-- Put an element before the first one that does not precede it. -/
def orderIn {α : Type} (le : α → α → Bool) (x : α) : List α → List α
  | [] => [x]
  | y :: t => if le x y then x :: y :: t else y :: orderIn le x t
/-- A list in order, elements that precede each other as they stood. -/
def ordered {α : Type} (l : List α) (le : α → α → Bool) : List α := l.foldr (orderIn le) []

/-- The first element that satisfies a test, and its replacement everywhere it holds. -/
def modWhere {α : Type} (p : α → Bool) (f : α → α) (l : List α) : List α := l.map fun x => if p x then f x else x

end Sys2Proof.Machine
end

