-- ==== Sys2Proof/Machine/Flags.lean ====
section
/-! DEFINITION. Numbers: the formats of R62-R64, exact values, Round of R66-R68, the exact operations of R69 and R77, and
the exception flags of R70. Which instructions write %fstat is R71; nothing here depends on more than its operands (R85).
-/
namespace Sys2Proof.Machine
open Sys2Proof

/-- The sticky flags as bits of %fstat (R57). -/
abbrev Flags := BitVec 5
def fNV : Flags := 16
def fDZ : Flags := 8
def fOF : Flags := 4
def fUF : Flags := 2
def fNX : Flags := 1

/-- The rounding modes (R66), in the order of the mode field (R362). -/
inductive RMode where
  | rne
  | rz
  | ru
  | rd
  deriving DecidableEq, Repr

/-- The mode a two-bit field names. -/
def rmode (b : BitVec 2) : RMode := match b.toNat with | 0 => .rne | 1 => .rz | 2 => .ru | _ => .rd

/-- A floating-point format (R62): exponent and mantissa widths, bias, the largest finite magnitude's bits, infinity's
bits if it has one, the canonical NaN if it has NaNs (R65). -/
structure Fmt where
  e    : Nat
  m    : Nat
  bias : Nat
  max  : Nat
  inf  : Option Nat
  nan  : Option Nat
  deriving DecidableEq, Repr

def fp32 : Fmt := ⟨8, 23, 127, 0x7F7FFFFF, some 0x7F800000, some 0x7FC00000⟩
def fp16 : Fmt := ⟨5, 10, 15, 0x7BFF, some 0x7C00, some 0x7E00⟩
def bf16 : Fmt := ⟨8, 7, 127, 0x7F7F, some 0x7F80, some 0x7FC0⟩
def e4m3 : Fmt := ⟨4, 3, 7, 0x7E, none, some 0x7F⟩
def e5m2 : Fmt := ⟨5, 2, 15, 0x7B, some 0x7C, some 0x7E⟩
def e2m1 : Fmt := ⟨2, 1, 1, 0x7, none, none⟩

/-- An exact value (R6): a finite non-zero one is (-1)^neg × m × 2^e with m > 0. -/
inductive Val where
  | nan
  | inf (neg : Bool)
  | zero (neg : Bool)
  | fin (neg : Bool) (m : Nat) (e : Int)
  deriving DecidableEq, Repr

/-- The width of a format in bits. -/
def Fmt.width (f : Fmt) : Nat := 1 + f.e + f.m
/-- The exponent of a format's least unit: that of the minimum subnormal. -/
def Fmt.qmin (f : Fmt) : Int := 1 - (f.bias : Int) - (f.m : Int)

/-- The exact value of a bit pattern (R62, R63). -/
def valOf (f : Fmt) (x : Nat) : Val :=
  let neg := (x >>> (f.e + f.m)) % 2 == 1
  let mag := x % 2 ^ (f.e + f.m)
  if mag == 0 then .zero neg
  else if mag ≤ f.max then
    let e := mag >>> f.m
    let m := mag % 2 ^ f.m
    if e == 0 then .fin neg m f.qmin else .fin neg (m + 2 ^ f.m) (f.qmin + (e : Int) - 1)
  else if f.inf == some mag then .inf neg
  else .nan

/-- A signed magnitude's bit pattern. -/
def patOf (f : Fmt) (neg : Bool) (mag : Nat) : Nat := (if neg then 2 ^ (f.e + f.m) else 0) + mag

/-- Whether the magnitude takes the step away from zero: mode, sign, the kept part's last bit, the dropped part against
half of the step (R66). -/
def roundsUp (mode : RMode) (neg odd : Bool) (rest half : Nat) : Bool :=
  match mode with
  | .rne => half < rest || (rest == half && odd)
  | .rz => false
  | .ru => !neg && rest != 0
  | .rd => neg && rest != 0

/-- The magnitude m × 2^e rounded on the grid of a format with an unbounded exponent range: the magnitude's bits counted
on beyond the greatest finite, and whether it differs from the exact value (R66 step 2). -/
def roundMag (f : Fmt) (mode : RMode) (neg : Bool) (m : Nat) (e : Int) : Nat × Bool :=
  let top : Int := (Nat.log2 m : Int) + e
  let q : Int := max (top - (f.m : Int)) f.qmin
  let base := (q - f.qmin).toNat <<< f.m
  if q ≤ e then (base + m <<< (e - q).toNat, false)
  else
    let s := (q - e).toNat
    let n := m >>> s
    let rest := m % 2 ^ s
    let up := roundsUp mode neg (n % 2 == 1) rest (2 ^ (s - 1))
    (base + n + (if up then 1 else 0), rest != 0)

/-- Whether a finite magnitude lies below the format's minimum normal (R70). -/
def tiny (f : Fmt) (m : Nat) (e : Int) : Bool := (Nat.log2 m : Int) + e < f.qmin + (f.m : Int)

/-- The result of an overflow (R67). -/
def overflowPat (f : Fmt) (mode : RMode) (sat neg : Bool) : Nat :=
  if sat || f.nan == none then patOf f neg f.max
  else match f.inf with
    | none => f.nan.getD 0
    | some i =>
      match mode with
      | .rne => patOf f neg i
      | .rz => patOf f neg f.max
      | .ru => patOf f neg (if neg then f.max else i)
      | .rd => patOf f neg (if neg then i else f.max)

/-- Round(x, fmt, mode, sat) with the flags of R70: the bits stored and the flags raised (R66-R68, R70). -/
def roundTo (f : Fmt) (mode : RMode) (sat : Bool) : Val → Nat × Flags
  | .zero neg => (patOf f neg 0, 0)
  | .nan =>
    match f.nan with
    | some n => (n, if f.inf == none then fNV else 0)
    | none => (0, fNV ||| fNX)
  | .inf neg =>
    match f.inf with
    | some i => if sat then (patOf f neg f.max, fOF ||| fNX) else (patOf f neg i, 0)
    | none =>
      match f.nan with
      | some n => if sat then (patOf f neg f.max, fNV ||| fNX) else (n, fNV)
      | none => (patOf f neg f.max, fNV ||| fNX)
  | .fin neg m e =>
    let (mag, inexact) := roundMag f mode neg m e
    if mag ≤ f.max then
      (patOf f neg mag, if inexact then (if tiny f m e then fUF ||| fNX else fNX) else 0)
    else (overflowPat f mode sat neg, fOF ||| fNX)

/-- The canonical NaN, or what stands for it (R65, R68). -/
def nanPat (f : Fmt) : Nat := f.nan.getD 0

/-- The sign of a value that is not a NaN. -/
def Val.neg : Val → Bool
  | .nan => false
  | .inf n | .zero n | .fin n _ _ => n

/-- The negative of a value. -/
def Val.negate : Val → Val
  | .nan => .nan
  | .inf n => .inf !n
  | .zero n => .zero !n
  | .fin n m e => .fin (!n) m e

/-- An integer multiple of a power of two as a value; zero takes the given sign. -/
def valInt (x : Int) (e : Int) (zneg : Bool) : Val :=
  if x == 0 then .zero zneg else .fin (x < 0) x.natAbs e

/-- The signed integer of a finite value on the grid 2^q, q at most its exponent. -/
def Val.onGrid (q : Int) : Val → Int
  | .fin n m e => let x : Int := ((m <<< (e - q).toNat : Nat) : Int); if n then -x else x
  | _ => 0

/-- The exact sum, with the sign of an exact zero sum under the mode (R69); true when it is inf - inf. -/
def vadd (mode : RMode) : Val → Val → Val × Bool
  | .nan, _ => (.nan, false)
  | _, .nan => (.nan, false)
  | .inf a, .inf b => if a == b then (.inf a, false) else (.nan, true)
  | .inf a, _ => (.inf a, false)
  | _, .inf b => (.inf b, false)
  | .zero a, .zero b => (.zero (if a == b then a else mode == .rd), false)
  | .zero _, y => (y, false)
  | x, .zero _ => (x, false)
  | .fin a m e, .fin b n g =>
    let q := min e g
    (valInt ((Val.fin a m e).onGrid q + (Val.fin b n g).onGrid q) q (mode == .rd), false)

/-- The exact product; true when it is 0 × inf. -/
def vmul : Val → Val → Val × Bool
  | .nan, _ => (.nan, false)
  | _, .nan => (.nan, false)
  | .inf _, .zero _ => (.nan, true)
  | .zero _, .inf _ => (.nan, true)
  | .inf a, y => (.inf (a != y.neg), false)
  | x, .inf b => (.inf (x.neg != b), false)
  | .zero a, y => (.zero (a != y.neg), false)
  | x, .zero b => (.zero (x.neg != b), false)
  | .fin a m e, .fin b n g => (.fin (a != b) (m * n) (e + g), false)

/-- Round of an arithmetic result: a NaN is canonical and raises NV only when the operation made it (R65, R70). -/
def arith (f : Fmt) (mode : RMode) (sat : Bool) (r : Val × Bool) : Nat × Flags :=
  match r with
  | (.nan, invalid) => (nanPat f, if invalid then fNV else 0)
  | (v, _) => roundTo f mode sat v

/-- Sum, product and fused multiply-add in a format (R69, R77, R369). -/
def fAdd (f : Fmt) (mode : RMode) (sat : Bool) (a b : Nat) : Nat × Flags :=
  arith f mode sat (vadd mode (valOf f a) (valOf f b))
def fSub (f : Fmt) (mode : RMode) (sat : Bool) (a b : Nat) : Nat × Flags :=
  arith f mode sat (vadd mode (valOf f a) (valOf f b).negate)
def fMul (f : Fmt) (mode : RMode) (sat : Bool) (a b : Nat) : Nat × Flags :=
  arith f mode sat (vmul (valOf f a) (valOf f b))
def fFma (f : Fmt) (mode : RMode) (sat : Bool) (a b c : Nat) : Nat × Flags :=
  let (p, inv) := vmul (valOf f a) (valOf f b)
  let (s, inv') := vadd mode p (valOf f c)
  arith f mode sat (s, inv || inv')

/-- The order of two values that are not NaNs, -0 below +0 (R69). -/
def vle0 : Val → Val → Bool
  | .inf true, _ => true
  | _, .inf false => true
  | .inf false, _ => false
  | _, .inf true => false
  | .zero a, .zero b => a || !b
  | .zero _, .fin n _ _ => !n
  | .fin n _ _, .zero _ => n
  | .fin a m e, .fin b n g => let q := min e g; decide ((Val.fin a m e).onGrid q ≤ (Val.fin b n g).onGrid q)
  | _, _ => true

/-- The lesser and the greater operand's pattern (R69). -/
def fMin (f : Fmt) (a b : Nat) : Nat :=
  match valOf f a, valOf f b with
  | .nan, .nan => nanPat f
  | .nan, _ => b
  | _, .nan => a
  | x, y => if vle0 x y then a else b
def fMax (f : Fmt) (a b : Nat) : Nat :=
  match valOf f a, valOf f b with
  | .nan, .nan => nanPat f
  | .nan, _ => b
  | _, .nan => a
  | x, y => if vle0 x y then b else a

/-- The comparison of two values: none when either is a NaN, else less, equal or greater, zeros equal (R365). -/
def vcmp (a b : Val) : Option Ordering :=
  match a, b with
  | .nan, _ => none
  | _, .nan => none
  | .zero _, .zero _ => some .eq
  | x, y => if vle0 x y then (if vle0 y x then some .eq else some .lt) else some .gt

/-- A value rounded to an integer under a mode, with an unbounded range; true when inexact (R73, R373). -/
def roundInt (mode : RMode) (neg : Bool) (m : Nat) (e : Int) : Nat × Bool :=
  if 0 ≤ e then (m <<< e.toNat, false)
  else
    let s := (-e).toNat
    let n := m >>> s
    let rest := m % 2 ^ s
    (n + (if roundsUp mode neg (n % 2 == 1) rest (2 ^ (s - 1)) then 1 else 0), rest != 0)

/-- The integer square root of n < 4^k, two bits at a time (R78). -/
def isqrtGo : Nat → Nat → Nat
  | 0, _ => 0
  | k + 1, n =>
    let r := 2 * isqrtGo k (n / 4)
    if (r + 1) * (r + 1) ≤ n then r + 1 else r
/-- The integer square root, rounded down (R78). -/
def isqrt (n : Nat) : Nat := isqrtGo (Nat.log2 n / 2 + 1) n

/-- The exact square root of a positive value to beyond any format's precision, an odd last bit marking the rest (R78). -/
def vsqrt (m : Nat) (e : Int) : Val :=
  let e' := if e % 2 == 0 then e - 60 else e - 61
  let n := m <<< (e - e').toNat
  let r := isqrt n
  .fin false (2 * r + (if r * r == n then 0 else 1)) (e' / 2 - 1)

/-- The minimum and maximum formats of RED and ATOMF: FP32, FP16, BF16 (R330, R434). -/
def roundNE (f : Fmt) (v : Val × Bool) : Nat := (arith f .rne false v).1

/-- The formats of CVT by code, the floating ones (R353). -/
def cvtFmt (n : Nat) : Fmt :=
  match n with
  | 0 => fp32 | 1 => fp16 | 2 => bf16 | 3 => e4m3 | 4 => e5m2 | _ => e2m1

/-- The packed types (R76): format and width of a sub-element. -/
def packFmt (t : BitVec 2) : Fmt × Nat :=
  match t.toNat with
  | 0 => (bf16, 16) | 1 => (fp16, 16) | 2 => (e4m3, 8) | _ => (e5m2, 8)

end Sys2Proof.Machine
end

