-- ==== Sys2Proof/Machine/Ops.lean ====
section
/-! DEFINITION. The named operations over the machine's parts: memory with poison, interrupts, machine checks, the
journal, semaphores, aborting and ending a launch, and taking an exception and returning from one. -/
namespace Sys2Proof.Machine
open Sys2Proof

/-! ### Parts of the state -/

def State.core (s : State) (c : Nat) : Core := tget {} s.cores c
def State.setCore (s : State) (c : Nat) (x : Core) : State := { s with cores := tset {} s.cores c x }
def State.ctx (s : State) (c : Nat) : Ctx := tget {} s.ctxs c
def State.setCtx (s : State) (c : Nat) (x : Ctx) : State := { s with ctxs := tset {} s.ctxs c x }
def State.script (s : State) (k : Nat) : Script := tget {} s.scripts k
def State.setScript (s : State) (k : Nat) (x : Script) : State := { s with scripts := tset {} s.scripts k x }
def State.port (s : State) (p : Nat) : Port := tget {} s.ports p
def State.setPort (s : State) (p : Nat) (x : Port) : State := { s with ports := tset {} s.ports p x }
def State.graph (s : State) (g : Nat) : Graph := tget {} s.graphs g
def State.setGraph (s : State) (g : Nat) (x : Graph) : State := { s with graphs := tset {} s.graphs g x }
def State.rot (s : State) (i : Nat) : Rotation := tget {} s.rots i
def State.setRot (s : State) (i : Nat) (x : Rotation) : State := { s with rots := tset {} s.rots i x }
def Ctx.stream (c : Ctx) (n : Nat) : Stream := tget {} c.streams n
def Ctx.setStream (c : Ctx) (n : Nat) (x : Stream) : Ctx := { c with streams := tset {} c.streams n x }
def State.stream (s : State) (c n : Nat) : Stream := (s.ctx c).stream n
def State.setStream (s : State) (c n : Nat) (x : Stream) : State := s.setCtx c ((s.ctx c).setStream n x)

/-- The thread, team or launch of an identity; the default when there is none. -/
def State.thread (s : State) (u : Nat) : Thread := (s.threads.find? (·.uid == u)).getD {}
def State.hasThread (s : State) (u : Nat) : Bool := s.threads.any (·.uid == u)
def State.setThread (s : State) (t : Thread) : State :=
  { s with threads := modWhere (fun x => x.uid == t.uid) (fun _ => t) s.threads }
def State.team (s : State) (u : Nat) : Team := (s.teams.find? (·.uid == u)).getD {}
def State.hasTeam (s : State) (u : Nat) : Bool := s.teams.any (·.uid == u)
def State.setTeam (s : State) (t : Team) : State :=
  { s with teams := modWhere (fun x => x.uid == t.uid) (fun _ => t) s.teams }
def State.launchOf (s : State) (u : Nat) : Launch := (s.launches.find? (·.uid == u)).getD {}
def State.setLaunch (s : State) (l : Launch) : State :=
  { s with launches := modWhere (fun x => x.uid == l.uid) (fun _ => l) s.launches }
/-- The team and the launch of a thread. -/
def State.teamOf (s : State) (t : Thread) : Team := s.team t.team
def State.launchOfThread (s : State) (t : Thread) : Launch := s.launchOf (s.team t.team).launch

/-- W, from WCODE (R247). -/
def LaunchRec.width (r : LaunchRec) : Nat := 16 <<< r.wcode
/-- %nthr: threads of a team (R56). -/
def LaunchRec.nthr (r : LaunchRec) : Nat := r.groups * r.width
/-- Threads of a team on one core (R37). -/
def LaunchRec.perCore (r : LaunchRec) : Nat := if r.pair then r.nthr / 2 else r.nthr
/-- %launch (R56). -/
def Launch.id (l : Launch) : Word := BitVec.ofNat 32 (l.ctx * 2 ^ 28 + l.seq % 2 ^ 28)
/-- Teams of the grid (R15). -/
def LaunchRec.total (r : LaunchRec) : Nat := r.x * r.y * r.z
/-- The copy core of a team: the core that holds its copy group (R158). -/
def copyCore (tm : Team) (r : LaunchRec) : Nat :=
  if r.pair && r.groups / 2 ≤ r.cgrp then tm.core + 1 else tm.core
/-- Which half of a pair team a thread's core is (R42). -/
def halfOf (tm : Team) (t : Thread) : Nat := t.core - tm.core

/-! ### Memory (R92, R268, R284) -/

/-- The stacked DRAM's offsets. -/
def isDram (off : Nat) : Bool := off < 0x6000000000
/-- The first offset of the second tier. -/
def tierBase : Nat := 0x40000000000
/-- The installed second tier's offsets. -/
def isTier (s : State) (off : Nat) : Bool :=
  tierBase ≤ off && off < tierBase + s.hub.cxl * s.hub.cxlcap
/-- The offset is backed by DRAM or by the installed second tier. -/
def isMemory (s : State) (off : Nat) : Bool := isDram off || isTier s off
/-- What an unlisted byte of memory reads as (log entry 1). -/
def unlisted : Byte := 0
/-- One byte of memory. -/
def State.byte (s : State) (off : Nat) : Byte := tget unlisted s.mem off
/-- Memory's canonical form: offsets strictly rising, no entry equal to what an unlisted one reads as. -/
abbrev Memory.wf (m : List Host.Cell) : Bool := twf unlisted m
/-- Write bytes at consecutive offsets. -/
def putBytes (m : List Host.Cell) (off : Nat) : List Byte → List Host.Cell
  | [] => m
  | b :: t => putBytes (tset unlisted m off b) (off + 1) t
/-- Read n bytes at consecutive offsets. -/
def State.bytes (s : State) (off n : Nat) : List Byte := (List.range n).map fun i => s.byte (off + i)
/-- A little-endian number in memory. -/
def State.num (s : State) (off n : Nat) : Nat := natOf (s.bytes off n)
/-- The poison mark of the granule of an offset. -/
def State.poisoned (s : State) (off : Nat) : Bool := nmem s.poison (off / 16)
/-- Whether any of n bytes at an offset lies in a poisoned granule. -/
def State.anyPoison (s : State) (off n : Nat) : Bool := (List.range n).any fun i => s.poisoned (off + i)
/-- Set or clear the marks of the granules that n bytes touch: a poisoned store sets each, an unpoisoned one clears those
it covers whole (R269). -/
def markGranules (p : List Nat) (off n : Nat) (pois : Bool) : List Nat :=
  (List.range ((off + n + 15) / 16 - off / 16)).foldl
    (fun p i =>
      let g := off / 16 + i
      if pois then nins p g else if off ≤ g * 16 && g * 16 + 16 ≤ off + n then ndel p g else p) p
/-- The physical address of a local offset (R92). -/
def physOf (s : State) (off : Nat) : Nat := s.hub.chip * 2 ^ 47 + off
/-- The CXL port of a second-tier offset (R283). -/
def tierPort (s : State) (off : Nat) : Nat := ((off - tierBase) / 4096) % s.hub.cxl
/-- The address inside that port's device (R283). -/
def deviceAddress (s : State) (off : Nat) : Nat := (off - tierBase) / 4096 / s.hub.cxl * 4096 + (off - tierBase) % 4096
/-- The L2 home of an offset: die and slice (R95). -/
def homeDie (off : Nat) : Nat := bits off 12 2
def homeSlice (off : Nat) : Nat :=
  let l := off / 128
  (l ^^^ (l >>> 9) ^^^ (l >>> 18) ^^^ (l >>> 27)) % 192
/-- The key of the L2 set of an offset. -/
def l2Key (off : Nat) : Nat := (homeDie off * 192 + homeSlice off) * 256 + Config.l2Set (off / 128) % 256
/-- The line of an offset lies in its L2 home. -/
def inL2 (s : State) (off : Nat) : Bool := (tget [] s.l2 (l2Key off)).any fun e => e.1 == off / 128
/-- The offset lies behind a CXL port whose link is down, its line not in L2 (R284). -/
def lost (s : State) (off : Nat) : Bool := isTier s off && nmem s.hub.cxldn (tierPort s off) && !(inL2 s off)
/-- The lines that n bytes at an offset touch, and those of them that are lost (R284). -/
def linesAt (off n : Nat) : List Nat := if n == 0 then [] else (List.range ((off + n - 1) / 128 - off / 128 + 1)).map (off / 128 + ·)
def lostLines (s : State) (off n : Nat) : List Nat := (linesAt off n).filter fun l => lost s (128 * l)
/-- Any of n bytes at an offset is lost. -/
def anyLost (s : State) (off n : Nat) : Bool := lostLines s off n != []

/-! ### Interrupts and machine checks (R272-R274, R282) -/

/-- Something leaves the machine. -/
def State.send (s : State) (x : Sent) : State := { s with sent := s.sent ++ [x] }
/-- Raise an interrupt vector: set its pending bit, and send a message when the bit was clear and the vector is
unmasked (R282). -/
def raise (s : State) (v : Nat) : State :=
  let h := s.hub
  let s1 := { s with hub := { h with hipend := h.hipend ||| (1#128 <<< v) } }
  if !(h.hipend.getLsbD v) && !(h.himask.getLsbD v) then s1.send (.interrupt v) else s1

/-- What n bytes stored at an offset do to the stream entries of running contexts, as they were and as they are: a change of
EN, and a store to TAIL while EN is 1 (R240). -/
def notedIn (old s : State) (off n : Nat) : List (Nat × Nat × Nat × Nat) :=
  s.ctxs.flatMap fun (c, x) =>
    let base := x.stab % 2 ^ 47
    if !x.active || off + n ≤ base || base + 2048 ≤ off then []
    else (List.range 64).flatMap fun i =>
      let e := base + 32 * i
      let meets := fun a k => decide (off < a + k) && decide (a < off + n)
      let en := fun (s : State) => bits (s.num (e + 8) 4) 31 1
      (if meets (e + 8) 4 && en old != en s then [(c, i, 0, en s)] else []) ++
        if meets (e + 16) 8 && en s == 1 then [(c, i, 1, s.num (e + 16) 8)] else []
/-- Write bytes to memory as they are, dropping those behind a CXL port that is down; the Hearth will observe those it
watches (R240). -/
def State.poke (s : State) (off : Nat) (data : List Byte) (pois : Bool) : State :=
  if lost s off then s
  else
    let s1 : State :=
      { s with mem := putBytes s.mem off data, poison := markGranules s.poison off data.length pois
               dirty := if isTier s off && inL2 s off then nins s.dirty (off / 128) else s.dirty }
    { s1 with noted := s1.noted ++ notedIn s s1 off data.length }

/-- Nothing can make a write of the hub's own at an offset wait: its frames are in device bias, and no flip, no copy and no
logged store is under way, nor does an earlier such write wait (R107, R108, R117, R124). -/
def quietAt (s : State) (off n : Nat) : Bool :=
  s.hubq == [] && s.flips == [] && s.farLocks == [] && !(nmem s.bias (off / 65536)) && !(nmem s.bias ((off + n - 1) / 65536)) &&
    s.teams.all (fun t => t.log == []) && s.cores.all fun (_, c) => c.tags.all fun (_, t) => t.copy.isNone
/-- The hub writes bytes, or they wait behind what holds them (R117, R123). -/
def hubPut (s : State) (off : Nat) (data : List Byte) : State :=
  if quietAt s off data.length then s.poke off data false else { s with hubq := s.hubq ++ [.put off data] }

/-- Where the next machine-check record lies (R272). -/
def recordPlace (s : State) : Nat :=
  (s.hub.mcbase.toNat * 16 + 32 * (s.hub.mcprod.toNat % 2 ^ (s.hub.mclog.toNat % 32))) % 2 ^ 47
/-- Write one machine-check record and raise vector 64 (R272, R273). -/
def putCheck (s : State) (sev kind uclass unit : Nat) (launch : Word) (addr time : Nat) : State :=
  let rec_ := bytesOf s.hub.mcprod.toNat 8 ++ bytesOf (sev * 2 ^ 28 + kind * 2 ^ 24 + uclass * 2 ^ 16 + unit) 4 ++ bytesOf launch.toNat 4 ++
    bytesOf addr 8 ++ bytesOf time 8
  raise { s.poke (recordPlace s) rec_ false with hub := { s.hub with mcprod := s.hub.mcprod + 1 } } 64
/-- A machine check is recorded, unless records are off; its record waits where a write of the hub waits, but for a fatal one,
upon which the machine stops (R117, R272, R274). -/
def mcRecord (s : State) (sev kind uclass unit : Nat) (launch : Word) (addr : Nat) : State :=
  if s.hub.mcbase == 0 then s
  else if sev == 2 || quietAt s (recordPlace s) 32 then putCheck s sev kind uclass unit launch addr s.htime
  else { s with hubq := s.hubq ++ [.check sev kind uclass unit launch addr s.htime] }
/-- A corrected error is recorded; those of one unit within 1 ms are merged into one record (R274). -/
def corrected (s : State) (uclass unit addr : Nat) : State :=
  let same := fun x : Nat × Nat × Nat => x.1 == uclass && x.2.1 == unit
  if s.hub.merged.any fun x => same x && s.htime < x.2.2 + 1000000 then s
  else
    let s1 := mcRecord s 0 1 uclass unit 0 addr
    { s1 with hub := { s1.hub with merged := s1.hub.merged.filter (fun x => !(same x)) ++ [(uclass, unit, s.htime)] } }

/-- Accesses of lost lines are recorded, one record a line, at the first byte accessed (R284). -/
def recordLost (s : State) (off : Nat) (ls : List Nat) : State :=
  ls.foldl (fun s l => mcRecord s 1 2 6 (tierPort s (128 * l)) 0 (physOf s (max off (128 * l)))) s
/-- The parts of bytes at an offset that lie in one line each. -/
def lineParts (off : Nat) (data : List Byte) : List (Nat × List Byte) :=
  (linesAt off data.length).map fun l =>
    let a := max off (128 * l)
    (a, (data.drop (a - off)).take (128 * l + 128 - a))
/-- Write to memory; the part of a write behind a CXL port that is down is dropped and recorded (R284). -/
def State.write (s : State) (off : Nat) (data : List Byte) (pois : Bool) : State :=
  match lostLines s off data.length with
  | [] => s.poke off data pois
  | ls => recordLost ((lineParts off data).foldl (fun s x => s.poke x.1 x.2 pois) s) off ls
/-- Read from memory: bytes and whether they are poisoned; behind a CXL port that is down they are, and it is
recorded (R269, R284). -/
def State.read (s : State) (off n : Nat) : State × List Byte × Bool :=
  match lostLines s off n with
  | [] => (s, s.bytes off n, s.anyPoison off n)
  | ls => (recordLost s off ls, s.bytes off n, true)

/-! ### Threads, bundles and results -/

/-- The number of words of a header's clause, and the continuations that follow word i (R300, R301). -/
def hdrN (h : Word) : Nat := (h.extractLsb' 28 4).toNat
def contAt (h : Word) (i : Nat) : Bool := 1 ≤ i && i ≤ 15 && h.getLsbD (i - 1)
def contRun (h : Word) (i : Nat) : Nat :=
  let rec go (fuel i n : Nat) : Nat :=
    match fuel with
    | 0 => n
    | f + 1 => if contAt h i && i ≤ hdrN h then go f (i + 1) (n + 1) else n
  go 15 (i + 1) 0

/-- Remove a thread from the instruction its bundle executes (R257). -/
def Bundle.drop (b : Bundle) (u : Nat) : Bundle := { b with todo := b.todo.filter (· != u) }
/-- Apply a change to every bundle of a core. -/
def Core.mapBundles (c : Core) (f : Bundle → Bundle) : Core :=
  { c with pick0 := c.pick0.map f, pick1 := c.pick1.map f, out := c.out.map f }
/-- The instruction at a bundle's position is the last of its clause. -/
def Bundle.atLast (b : Bundle) : Bool := hdrN b.hdr ≤ b.pos + contRun b.hdr b.pos
/-- The bundles of a core. -/
def Core.bundles (c : Core) : List Bundle := c.pick0.toList ++ c.pick1.toList ++ c.out
/-- When a clause ends, its threads that are ready get a new ready stamp (R20, R23). -/
def stampEnd (s : State) (b : Bundle) : State :=
  if b.todo == [] && b.atLast then
    { s with threads := modWhere (fun t => b.threads.contains t.uid && t.status == .ready && t.mid == none)
                          (fun t => { t with stamp := s.cycle }) s.threads }
  else s
/-- A thread has nothing left to do in the instruction its bundle executes. -/
def leaveClause (s : State) (t : Thread) : State :=
  let c := s.core t.core
  let bs := (c.bundles.filter fun b => b.todo.contains t.uid).map fun b => b.drop t.uid
  bs.foldl stampEnd (s.setCore t.core (c.mapBundles fun b => b.drop t.uid))

/-- Remove a thread from every bundle of its core. -/
def unbundle (s : State) (t : Thread) : State :=
  let s1 := leaveClause s t
  s1.setCore t.core ((s1.core t.core).mapBundles fun b => { b with threads := b.threads.filter (· != t.uid) })

/-- Put a value into a register, with its poison; discard older results that wait for it (R312). -/
def Thread.put (t : Thread) (r : Nat) (v : Word) (p : Bool) : Thread :=
  { t with regs := lset t.regs r v, pois := lset t.pois r p }
/-- Discard the waiting results for registers that a later instruction has written (R312). -/
def discardFor (w : List Pending) (rs : List Nat) : List Pending :=
  w.map fun p => { p with regs := p.regs.filter fun x => !(rs.contains x.1) }
/-- The same for results issued at or after an open checkpoint; older ones go into the saves (R177). -/
def discardProv (w : List Pending) (rs : List Nat) : List Pending :=
  w.map fun p => if p.prov then { p with regs := p.regs.filter fun x => !(rs.contains x.1) } else p
/-- What a write of registers discards: with a checkpoint open, the results issued since it (R177, R312). -/
def Thread.discard (t : Thread) (rs : List Nat) (w : List Pending) : List Pending :=
  if t.scout.isSome then discardProv w rs else discardFor w rs
/-- Flags an instruction raises: into %fstat, or, since an open checkpoint, into its log slot (R57, R175, R184). -/
def Thread.flag (t : Thread) (fl : BitVec 5) : Thread :=
  match t.scout with
  | none => { t with fstat := t.fstat ||| fl }
  | some sc => { t with scout := some { sc with flags := sc.flags ||| fl } }
/-- Decrement a scoreboard counter (R316). -/
def Thread.sbDown (t : Thread) (k : Nat) : Thread :=
  if k < 6 then { t with sb := lset t.sb k ((t.sb.getD k 0) - 1) } else t
/-- Increment a scoreboard counter (R315). -/
def Thread.sbUp (t : Thread) (k : Nat) : Thread :=
  if k < 6 then { t with sb := lset t.sb k ((t.sb.getD k 0) + 1) } else t

/-- The counter that the unfinished instruction raised falls: it traps, or has completed (R315, R316). -/
def Thread.lower (t : Thread) : Thread :=
  match t.up with
  | some k => { t.sbDown k with up := none }
  | none => t
/-- The counter that an instruction names counts on for what it has issued; it rises now where it did not as the instruction
issued (R315, R316). -/
def Thread.charge (t : Thread) (k : Nat) : Thread := match t.up with | some _ => { t with up := none } | none => t.sbUp k

/-- A scout's saved value of a register, if it has one. -/
def Scout.saved (sc : Scout) (r : Nat) : Bool := sc.saves.any (·.1 == r)

/-- Land one result: into its registers; a result older than a checkpoint goes into the saves, and an invalid one only
marks its registers (R176, R177); its flags are set now (R57). -/
def landOne (t : Thread) (p : Pending) : Thread :=
  let t1 := p.regs.foldl
    (fun (t : Thread) x =>
      match t.scout with
      | none => t.put x.1 x.2.1 x.2.2.1
      | some sc =>
        if !p.prov && sc.saved x.1 then
          { t with scout := some { sc with saves := sc.saves.map fun y => if y.1 == x.1 then (y.1, x.2.1, false, x.2.2.1) else y } }
        else
          let t := if x.2.2.2 then t else t.put x.1 x.2.1 x.2.2.1
          { t with scout := some { sc with invalid := nput sc.invalid x.1 x.2.2.2, wrote := if p.prov then nins sc.wrote x.1 else sc.wrote } }) t
  let t2 := if p.prov then t1.flag p.fl else { t1 with fstat := t1.fstat ||| p.fl }
  t2.sbDown p.sb

/-- Land, oldest first, the results that a test picks out and whose values are there; a result that lands discards the
same registers of older ones (R312). -/
def landWhere (t : Thread) (pick : Pending → Bool) : Thread :=
  let rec go (t : Thread) (older : List Pending) : List Pending → Thread
    | [] => { t with window := older }
    | p :: rest =>
      if pick p && p.ready then
        go (landOne t p) (if p.prov then t.discard (p.regs.map (·.1)) older else discardFor older (p.regs.map (·.1))) rest
      else go t (older ++ [p]) rest
  go t [] t.window

/-- Land everything whose value is there (R257, R313). -/
def landAll (t : Thread) : Thread := landWhere t fun _ => true

/-- A result visible to the instruction at position pos of clause execution exe (R312). -/
def visibleAt (p : Pending) (exe pos : Nat) : Bool := p.exe != exe || p.la + p.pos < pos

/-! ### The journal (R253, R254) -/

/-- Put a record into the queue of a context's journal; its SEQ is the next. -/
def journal (s : State) (c : Nat) (r : JRec) : State :=
  let x := s.ctx c
  s.setCtx c { x with seq := x.seq + 1, jqueue := x.jqueue ++ [{ r with seq := x.seq, time := s.htime }] }

/-- The ring has room for the next record (R254). -/
def journalRoom (s : State) (c : Nat) : Bool :=
  let x := s.ctx c
  x.jovw || (x.jprod + 2 ^ 64 - s.num (x.jbase % 2 ^ 47 + 32 * 2 ^ x.jlog + 8) 8) % 2 ^ 64 < 2 ^ x.jlog

/-- The journal has room for a packet's record behind those that wait (R254). -/
def streamRoom (s : State) (c : Nat) : Bool :=
  let x := s.ctx c
  x.jovw || (x.jprod + x.jqueue.length + 2 ^ 64 - s.num (x.jbase % 2 ^ 47 + 32 * 2 ^ x.jlog + 8) 8) % 2 ^ 64 < 2 ^ x.jlog

/-! ### Save slots (R261, R263, R264) -/

/-- A save slot's offset (R261). -/
def slotBase (s : State) (ctx n : Nat) : Nat := (s.ctx ctx).save % 2 ^ 47 + n * 0x380000
/-- The teams of a context in a save slot, each with its half there (R261). -/
def slotTeams (s : State) (ctx n : Nat) : List (Team × Nat) :=
  s.teams.filterMap fun t =>
    let l := s.launchOf t.launch
    match t.place with
    | .saved m => if l.ctx != ctx then none else if m == n then some (t, 0) else if l.rcd.pair && m + 3 == n then some (t, 1) else none
    | _ => none
/-- A saved team leaves its slots: its entries hold no team, and NTEAMS counts the others (R45, R263, R264). -/
def leaveSlots (s : State) (tm : Team) : State :=
  match tm.place with
  | .saved m =>
    let l := s.launchOf tm.launch
    (if l.rcd.pair then [m, m + 3] else [m]).foldl
      (fun s n =>
        let base := slotBase s l.ctx n
        (s.write (base + 0x100 + 256 * tm.pos + 4) (bytesOf 0 4) false).write base
          (bytesOf ((slotTeams s l.ctx n).filter (·.1.uid != tm.uid)).length 4) false) s
  | _ => s

/-! ### Ending and aborting launches (R17, R248, R260) -/

/-- Remove a team with its threads: from bundles, tags, matrix queues and save slots; its resources are free (R17, R260). -/
def removeTeam (s0 : State) (u : Nat) : State :=
  let s := leaveSlots s0 (s0.team u)
  let us := (s.threads.filter (·.team == u)).map (·.uid)
  let clean := fun b : Bundle => { b with threads := b.threads.filter (fun x => !us.contains x), todo := b.todo.filter (fun x => !us.contains x) }
  let cores := s.cores.map fun (n, c) =>
    (n, { c.mapBundles clean with
          tags := c.tags.filter (fun x => x.2.team != u)
          anvil := c.anvil.filter (fun
            | .op o => o.team != u
            | .acc t _ _ => t != u) })
  { s with threads := s.threads.filter (·.team != u), teams := s.teams.filter (·.uid != u), cores := cores
           cwords := s.cwords.filter (·.team != u) }

/-- Write the end of a launch: its record, behind which the completion semaphore waits (R248, R254). -/
def launchEnd (s : State) (l : Launch) (status detail : Nat) : State :=
  let s1 := { s with launches := s.launches.filter (·.uid != l.uid), gang := if s.gang == some l.uid then none else s.gang }
  journal s1 l.ctx
    { seq := 0, addr := BitVec.ofNat 64 l.seq, kind := 1, stream := l.stream, level := l.level, opc := 1
      detail := detail, status := status, time := 0, sem := if l.rcd.cse then some l.rcd.csem else none }

/-- The episode has stopped, or its instruction count has reached the budget (R180). -/
def Scout.spent (sc : Scout) : Bool := sc.stop.isSome || (sc.long && sc.budget ≤ sc.count)
/-- A thread whose episode has stopped is not ready (R180, R183). -/
def Thread.scoutOver (t : Thread) : Bool := match t.scout with | some sc => sc.spent | none => false

/-- A wait in place, inside a clause: for a result, a walk, a lock, an aside copy or the step of coherence (R21, R119). -/
def Hold.inPlace : Hold → Bool
  | .walk _ _ _ _ _ | .aside | .bias | .result => true
  | _ => false
/-- A thread goes on inside its clause, to whose end an abort lets it run: nothing holds it, and a wait in place is no hold
(R21, R260). -/
def Thread.inClause (t : Thread) : Bool := t.status == .ready && t.mid.isSome && !t.scoutOver && t.hold.all Hold.inPlace
/-- Add to a scout counter of the thread's context (R186). -/
def scoutCount (s : State) (t : Thread) (off : Nat) : State :=
  let i := (s.launchOfThread t).ctx * 32 + off / 8
  { s with hub := { s.hub with scoutc := tset 0 s.hub.scoutc i (tget 0 s.hub.scoutc i + 1) } }
/-- The thread scouts, and nothing has stopped its episode yet. -/
def Thread.scouting (t : Thread) : Bool := match t.scout with | some sc => sc.long && sc.stop.isNone | none => false
/-- A thread stops for good; that an episode which ends so counts as abandoned, as R479 counts every episode once, is the model's
choice (R180, R260; log entry 152). -/
def stopForGood (s : State) (t : Thread) : State :=
  let s1 := if t.scouting then scoutCount s t 0x50 else s
  unbundle (s1.setThread { t with status := .exited, hold := none, part := none, reply := none, brought := [],
                                       rerun := false, plain := false, polls := false, mid := none, window := [],
                                       scout := none }) t

/-- An aborted launch goes on to its end: threads that stand outside a clause, are held in one, or are saved, stop; when all have, and no
matrix operation computes, its teams free their resources and its end is journalled with the first cause (R260). -/
def abortStep (s : State) (u : Nat) : State :=
  let l := s.launchOf u
  match l.abort with
  | none => s
  | some (status, detail) =>
    let ts := (s.teams.filter (·.launch == u)).map (·.uid)
    let s1 := (s.threads.filter fun t => ts.contains t.team && t.status != .exited && !(t.inClause && (s.teamOf t).place == .resident)).foldl (fun s t => stopForGood s (s.thread t.uid)) s
    let busy := s1.threads.any (fun t => ts.contains t.team && t.status != .exited) ||
      s1.cores.any fun (_, c) => c.anvil.any fun | .op o => ts.contains o.team && o.phase == .compute | .acc _ _ _ => false
    if busy then s1 else launchEnd (ts.foldl removeTeam s1) l status detail

/-- The results that discarded accumulator reads would have brought come no more (R260). -/
def AnvilItem.token : AnvilItem → Option Nat
  | .acc _ _ (.mrd _ tok _ _ _ _ _) | .acc _ _ (.mchk _ tok _ _ _) => some tok
  | _ => none
def Thread.lose (toks : List Nat) (t : Thread) : Thread := { t with window := t.window.filter fun w => w.ready || !(toks.contains w.tok) }
/-- What an abort discards of a team at once: gathering instances, rendezvous, its side log (R260). -/
def Team.discard (tm : Team) : Team :=
  { tm with log := [], rdvs := [], convs := tm.convs.map fun (i, v) => (i, { v with form := none, signs := [] }) }

/-- Abort a launch: its matrix operations that do not compute and its gathering instances, rendezvous and logs are discarded,
its copies release their locks without an event, and its threads stop; only the first cause counts (R260). -/
def abortLaunch (s : State) (u status detail : Nat) : State :=
  if s.launches.any (fun l => l.uid == u && l.abort.isNone) then
    let ts := (s.teams.filter (·.launch == u)).map (·.uid)
    let cores := s.cores.map fun (n, c) =>
      (n, { c with tags := c.tags.filter (fun x => !(ts.contains x.2.team))
                   anvil := c.anvil.filter (fun
                     | .op o => !(ts.contains o.team) || o.phase == .compute
                     | .acc t _ _ => !(ts.contains t)) })
    let s1 := { s.setLaunch { s.launchOf u with abort := some (status, detail) } with
                cores := cores, cwords := s.cwords.filter (fun w => !(ts.contains w.team)), gang := if s.gang == some u then none else s.gang }
    let toks := s.cores.flatMap fun (_, c) => c.anvil.filterMap AnvilItem.token
    abortStep { s1 with teams := s1.teams.map fun t => if t.launch == u then t.discard else t
                        threads := modWhere (fun t => ts.contains t.team) (Thread.lose toks) s1.threads } u
  else s

/-! ### Traps (R255-R259) -/

/-- The counter of each cause that stops an episode (R180, R186). -/
def ScoutEnd.counter : ScoutEnd → Nat
  | .data => 0x28
  | .budget => 0x30
  | .saves => 0x38
  | .cond => 0x40
  | .instr => 0x48

/-- A scouting thread stops: it keeps its slot and is not ready until it is restored; a spent budget has stopped it first; in
the provisional period the instruction waits until the outcome is known (R174, R180). -/
def scoutStop (s : State) (t : Thread) (why : ScoutEnd) : State :=
  match t.scout with
  | none => s
  | some sc =>
    if !sc.long then s.setThread { t with hold := some .result }
    else
      let why := if sc.budget ≤ sc.count then .budget else why
      leaveClause (scoutCount (s.setThread { t with scout := some { sc with stop := some why } }) t why.counter) t

/-- Take an exception (R7, R257, R258): the earlier results are written; the counter the
instruction raised falls; with HND set, or without a handler, the thread stops and the launch is aborted; else the four trap registers are written, HND is set, and the thread is ready at HANDLER with a new stamp. -/
def takeTrap (s : State) (u code : Nat) (addr : DWord) (info : Word) (epc : DWord) : State :=
  let t := (landAll (s.thread u)).lower
  let l := s.launchOfThread t
  if !(s.hasThread u) then s
  else if t.hnd || l.rcd.handler == 0 then abortLaunch (stopForGood (s.setThread t) t) l.uid 0x20 code
  else
    leaveClause
      (s.setThread
        { t with epc := epc, ecode := BitVec.ofNat 8 code, eaddr := addr, einfo := info, hnd := true
                 trapAt := some (epc, t.mid), pc := l.rcd.handler, mid := none, status := .ready, hold := none
                 part := none, reply := none, brought := [], rerun := false, plain := false, exe := 0, polls := false, stamp := s.cycle }) t

/-- Return from an exception (R259): HND is cleared and the thread is ready at %epc, inside the clause when %epc is the
value the trap delivered and lies inside one, else at a clause header. -/
def returnFromTrap (s : State) (u : Nat) : State :=
  let t := s.thread u
  let mid := match t.trapAt with
    | some (e, m) => if e == t.epc then m else none
    | none => none
  s.setThread { t with hnd := false, trapAt := none, pc := t.epc, mid := mid, status := .ready, exe := 0, stamp := s.cycle }

/-- Stop a scout episode where an instruction would trap, wait in the provisional period, else trap (R174, R180). -/
def trapOr (s : State) (u code : Nat) (addr : DWord) (info : Word) (epc : DWord) : State :=
  let t := s.thread u
  match t.scout with
  | some sc => if sc.long then scoutStop s t .instr else s.setThread { t with hold := some .result }
  | none => takeTrap s u code addr info epc

/-! ### Scripts and streams: their ends and their packets -/

/-- End a script with a code; it becomes idle and the Hearth journals it (R210, R253). -/
def endScript (s : State) (k code : Nat) : State :=
  let sc := s.script k
  let s1 := s.setScript k { sc with running := false, code := code, wait := none, header := none, words := [], pos := 0 }
  journal s1 sc.ctx
    { seq := 0, addr := BitVec.ofNat 64 sc.seq, kind := 2, stream := sc.stream, level := sc.level, opc := 0x0E
      detail := code, status := 0, time := 0, sem := none }

/-- The offset of a stream table entry (R239). -/
def entryAt (x : Ctx) (n : Nat) : Nat := x.stab % 2 ^ 47 + 32 * n

/-- A stream's entry is told of a stream error: ERR takes the status and EN clears, which the Hearth does not observe (R249). -/
def stopEntry (s : State) (e status : Nat) : State :=
  let w := s.num (e + 8) 4
  { (s.write (e + 14) (bytesOf status 2) false).write (e + 8) (bytesOf (w % 2 ^ 31) 4) false with noted := s.noted }
/-- A stream error: journal the failing packet, write ERR, clear EN (R249). -/
def streamError (s : State) (c n : Nat) (opc level : Nat) (addr : DWord) (detail status : Nat) : State :=
  let s1 := journal s c
    { seq := 0, addr := addr, kind := 0, stream := n, level := level, opc := opc, detail := detail, status := status
      time := 0, sem := none }
  let e := entryAt (s1.ctx c) n
  let s2 := if quietAt s1 e 32 then stopEntry s1 e status else { s1 with hubq := s1.hubq ++ [.stop e status] }
  let st := s2.stream c n
  s2.setStream c n { st with en := false, wait := none, badTail := false, began := none }

/-- The level of a stream: how many buffers it has entered (R253). -/
def Stream.level (st : Stream) : Nat := st.bufs.length - 1

/-- The address of word i of the clause a stream stands at: in its ring at top level, else in its buffer (R239, R382). -/
def Stream.wordVa (st : Stream) (i : Nat) : DWord :=
  let b := st.bufs.headD {}
  if st.bufs.length ≤ 1 then st.base + BitVec.ofNat 64 (4 * ((b.clause.toNat + i) % 2 ^ st.lsize)) else b.clause + BitVec.ofNat 64 (4 * i)
/-- Change the innermost buffer. -/
def Stream.mapBuf (st : Stream) (f : Buffer → Buffer) : Stream :=
  { st with bufs := match st.bufs with | b :: r => f b :: r | [] => [] }
/-- Go to a clause of the innermost buffer. -/
def Stream.atClause (st : Stream) (c : DWord) : Stream := st.mapBuf fun b => { b with clause := c, word := 0, hdr := none }
/-- The place of the clause after the one a stream stands in: an offset at top level, else an address. -/
def Stream.afterClause (st : Stream) : DWord :=
  let b := st.bufs.headD {}
  let n := hdrN (b.hdr.getD 0) + 1
  if st.bufs.length ≤ 1 then b.clause + BitVec.ofNat 64 n else b.clause + BitVec.ofNat 64 (4 * n)
/-- A top-level clause has completed: HEAD is the offset past it (R240). -/
def Stream.retireClause (st : Stream) : Stream := if st.bufs.length ≤ 1 then { st with head := st.afterClause.toNat } else st
/-- Go past the packet a stream stands at; its fetched words are used up (R240, R242). -/
def Stream.advance (st : Stream) : Stream :=
  let b := st.bufs.headD {}
  match b.hdr with
  | none => st
  | some h =>
    let p := b.word + 1 + contRun h b.word
    let lo := if p ≤ hdrN h then b.word else 0
    let used := (from_ lo (p - lo)).map st.wordVa
    let st1 := st.mapBuf fun b => { b with fetched := b.fetched.filter fun x => !(used.contains x.1) }
    if p ≤ hdrN h then st1.mapBuf fun b => { b with word := p } else (st1.retireClause).atClause st1.afterClause

/-- A stream's current packet completes: its record is queued, the stream goes to its next packet and waits until the
record is written (R253). -/
def packetDoneTo (s : State) (c n : Nat) (detail status : Nat) (go : Stream → Stream) : State :=
  let st := s.stream c n
  let (a, _, op) := st.pkt.getD (0, 0, 0)
  let s1 := journal s c
    { seq := 0, addr := a, kind := 0, stream := n, level := st.level, opc := op, detail := detail, status := status
      time := 0, sem := none }
  s1.setStream c n { go (s1.stream c n) with wait := some .journal, began := none }
def packetDone (s : State) (c n : Nat) (detail status : Nat) : State := packetDoneTo s c n detail status Stream.advance

/-- Fail the current packet with a stream error (R249). -/
def packetError (s : State) (c n status : Nat) : State :=
  let st := s.stream c n
  let (a, _, op) := st.pkt.getD (0, 0, 0)
  streamError s c n op st.level a 0 status

/-! ### Semaphores (R246, R449) -/

/-- A semaphore's value. -/
def State.sem (s : State) (c n : Nat) : DWord := tget 0 (s.ctx c).sems n
/-- Write a semaphore without waking anyone. -/
def State.setSem (s : State) (c n : Nat) (v : DWord) : State :=
  let x := s.ctx c
  s.setCtx c { x with sems := tset 0 x.sems n v }

/-- The script goes on to the instruction word after the current one, or to the next clause (R208, R303). -/
def scriptNext (s : State) (k : Nat) : State :=
  let sc := s.script k
  let h := sc.words.headD 0
  let p := sc.pos + 1 + contRun h sc.pos
  let base := sc.header.getD sc.pc
  if p ≤ hdrN h then s.setScript k { sc with pos := p, pc := base + BitVec.ofNat 64 (4 * p), wait := none }
  else s.setScript k { sc with header := none, words := [], pos := 0, pc := base + BitVec.ofNat 64 (4 * (hdrN h + 1)), wait := none }

/-- The script transfers to an address, read as a clause header (R303). -/
def scriptJump (s : State) (k : Nat) (pc : DWord) : State :=
  s.setScript k { s.script k with header := none, words := [], pos := 0, pc := pc, wait := none }

/-- A script's instruction completes with a value in vD: the next one follows (R208, R211). -/
def scriptAnswer (s : State) (k : Nat) (d : Nat) (v : Word) : State :=
  let sc := s.script k
  scriptNext (s.setScript k { sc with regs := lset sc.regs d v }) k

/-- The waiting stream to be served first: greater PRIO, then longer waiting (R246). -/
def nextWaiter (s : State) (c n : Nat) : Option (Nat × DWord × Bool) :=
  let v := s.sem c n
  let pick := (s.ctx c).streams.filterMap fun (i, st) =>
    match st.wait with
    | some (.semaphore m val dec since) => if m == n && val ≤ v then some (st.prio, since, i, val, dec) else none
    | _ => none
  let best := pick.foldl
    (fun (b : Option (Nat × Nat × Nat × DWord × Bool)) x =>
      match b with
      | none => some x
      | some y => if y.1 < x.1 || (x.1 == y.1 && x.2.1 < y.2.1) then some x else b) none
  best.map fun x => x.2.2

/-- The waiting script to be served first: longer waiting (R449). -/
def nextScript (s : State) (c n : Nat) : Option (Nat × DWord × Bool × Reg) :=
  let v := s.sem c n
  let pick := s.scripts.filterMap fun (k, sc) =>
    match sc.wait with
    | some (.semaphore m val dec d) => if sc.ctx == c && m == n && val ≤ v then some (sc.began, k, val, dec, d) else none
    | _ => none
  let best := pick.foldl
    (fun (b : Option (Nat × Nat × DWord × Bool × Reg)) x =>
      match b with
      | none => some x
      | some y => if x.1 < y.1 then some x else b) none
  best.map fun x => x.2

/-- Wake the waiters of a semaphore after a write, one atomic at a time, the Hearth's first (R246, R449). A stream whose journal
has no room does not complete its packet: it tries it again when there is room (R254). -/
def semWake : Nat → State → Nat → Nat → State
  | 0, s, _, _ => s
  | fuel + 1, s, c, n =>
    match nextWaiter s c n with
    | some (i, val, dec) =>
      if !(streamRoom s c) then semWake fuel (s.setStream c i { s.stream c i with wait := some .held }) c n
      else
      let s1 := if dec then s.setSem c n (s.sem c n - val) else s
      semWake fuel (packetDone s1 c i 0 0) c n
    | none =>
      match nextScript s c n with
      | some (k, val, dec, d) =>
        let s1 := if dec then s.setSem c n (s.sem c n - val) else s
        semWake fuel (scriptAnswer s1 k d.toNat 0) c n
      | none => s

/-- Every stream and script can be woken at most once by one write. -/
def semWrite (s : State) (c n : Nat) (v : DWord) : State := semWake 68 (s.setSem c n v) c n
/-- Add to a semaphore as one atomic (R246). -/
def semAdd (s : State) (c n : Nat) (v : DWord) : State := semWrite s c n (s.sem c n + v)

/-! ### Free values -/

/-- Draw a free word (log entry 3). -/
def draw (s : State) : State × Word := ({ s with draws := s.draws + 1 }, Config.freeWord s.draws)
/-- Draw n free bytes (log entry 3). -/
def drawBytes : Nat → State → State × List Byte
  | 0, s => (s, [])
  | n + 1, s =>
    let (s1, w) := draw s
    let (s2, l) := drawBytes n s1
    (s2, w.setWidth 8 :: l)

end Sys2Proof.Machine
end

