-- ==== Sys2Proof/Machine/Operands.lean ====
section
/-! DEFINITION. Every operand form: what an instruction names and reads, the checks it meets in the order of R256, and
how its results are written: at once, under a lookahead window, or into the saves of a scout (R46, R47, R176, R256, R312). -/
namespace Sys2Proof.Machine
open Sys2Proof

/-- A state change by the current instruction, when there is one. -/
def withCur (s : State) (f : Cur → State) : Host.Outcome State Fault Refusal :=
  match s.cur with
  | none => .fault .noExecutor
  | some c => .next (f c)

/-- Registers n from r. -/
def regsFrom (r : Reg) (n : Nat) : List Nat := from_ r.toNat n
/-- The two registers of a pair. -/
def pairRegs (r : Reg) : List Nat := [r.toNat, r.toNat + 1]

/-- A thread's register with its poison; 0 where it has none. -/
def Thread.reg (t : Thread) (r : Nat) : Word × Bool := (t.regs.getD r 0, t.pois.getD r false)
/-- A thread's register value. -/
def Thread.val (t : Thread) (r : Reg) : Word := t.regs.getD r.toNat 0
/-- A thread's pair value (R47). -/
def Thread.pair (t : Thread) (r : Reg) : DWord := pairOf (t.regs.getD r.toNat 0) (t.regs.getD (r.toNat + 1) 0)
/-- A script's register and pair values. -/
def Script.val (sc : Script) (r : Reg) : Word := sc.regs.getD r.toNat 0
def Script.pair (sc : Script) (r : Reg) : DWord := pairOf (sc.regs.getD r.toNat 0) (sc.regs.getD (r.toNat + 1) 0)

/-- The register a second source names, and its value from a reader (R309). -/
def srcRegs : Src → List Nat
  | .reg r => [r.toNat]
  | .lit _ => []

/-- A scout's invalid bit of a register (R176). -/
def Thread.invalid (t : Thread) (r : Nat) : Bool :=
  match t.scout with
  | some sc => nmem sc.invalid r
  | none => false

/-- The register checks of R256, items 2 to 4: an encoding limit, a register beyond the declared count, a poisoned
source; each with its code, address and information (R255, R270). That the first such register in the order of
destinations, then sources, is named is the model's choice (log entry 126). -/
def regChecks (t : Thread) (c : Cur) (ill : Bool) (uses hot : List Nat) : Option (Nat × DWord × Word) :=
  if ill then some (0x01, c.addr, c.word)
  else
    match uses.find? (fun r => t.regs.length ≤ r) with
    | some r => some (0x0C, c.addr, BitVec.ofNat 32 r)
    | none =>
      match hot.find? (fun r => (t.reg r).2 && !(t.invalid r)) with
      | some r => some (0x07, c.addr, BitVec.ofNat 32 r)
      | none => none

/-- A limit that hangs on register values: it is seen only where the registers exist and a scout knows them; then it comes
before the bound and the poison of other registers (R46, R176, R256). -/
def limited (t : Thread) (rs : List Nat) (bad : Bool) : Bool := bad && rs.all fun r => r < t.regs.length && !(t.invalid r)
/-- A scout does not know the value of one of these registers (R176). -/
def Thread.unknown (t : Thread) (rs : List Nat) : Bool := rs.any t.invalid

/-- The thread is in a scout episode, or in the provisional period before its outcome is known (R174). -/
def Thread.inEpisode (t : Thread) : Bool := match t.scout with | some sc => sc.long | none => false
def Thread.provisional (t : Thread) : Bool := match t.scout with | some sc => !sc.long | none => false

/-- Make the results visible that this instruction may read; none when one of them is not there yet (R312, R313). -/
def prepare (t : Thread) (c : Cur) : Option Thread :=
  let t1 := landWhere t fun p => visibleAt p c.exe c.pos
  if t1.window.any fun p => visibleAt p c.exe c.pos then none else some t1

/-- The counter a scoreboard field names. -/
def sbIndex (is : Option Issue) : Nat := match is with | some i => i.sb.toNat | none => 7

/-- The number under which an event or an answer of the host names a script among the threads. -/
def scriptAsker (k : Nat) : Nat := 2 ^ 32 + k

/-- Hold the thread at its instruction; it is tried again (R100). -/
def holdAt (s : State) (t : Thread) (h : Hold) : State := s.setThread { t with hold := some h }

/-- An instruction issues: the counter it names rises once (R315). -/
def Thread.raised (t : Thread) (is : Option Issue) : Thread :=
  if sbIndex is < 6 && t.up.isNone then { t.sbUp (sbIndex is) with up := some (sbIndex is) } else t

/-- A thread at an instruction with its issue control: results land, a full counter and a spent scout budget hold or
stop it, then it executes; a bundle never waits for a scouting thread (R180, R183, R312, R313, R315). -/
def onThread (s : State) (u : Nat) (c : Cur) (is : Option Issue) (k : State → Thread → State) : State :=
  let t0 := s.thread u
  let full := fun t : Thread => sbIndex is < 6 && t.up.isNone && t.sb.getD (sbIndex is) 0 == 63
  match prepare t0 c with
  | none => if t0.inEpisode then unbundle (holdAt s t0 .result) t0 else holdAt s t0 .result
  | some t =>
    match t.scout with
    | some sc =>
      if sc.stop.isSome then s
      else if sc.long && sc.budget ≤ sc.count then scoutStop (s.setThread t) t .budget
      else if !sc.long && full t then holdAt s t .result
      else k (s.setThread t) t
    | none => if full t then holdAt s t .result else k (s.setThread (t.raised is)) (t.raised is)

/-- The thread has executed its instruction: it goes on at pc, and the counter that nothing it issued counts on falls; a scout
counts it (R179, R257, R316). -/
def retireAt (s : State) (t : Thread) (c : Cur) (pc : DWord) (transfer : Bool) : State :=
  let t1 := { t.lower with pc := pc, mid := if c.last || transfer then none else some c.hdr, hold := none, part := none, reply := none, brought := [],
                           rerun := false, plain := false, ipos := if c.last || transfer then 0 else c.pos + 1, polls := false }
  let t2 := match t1.scout with
    | some sc => { t1 with scout := some { sc with count := sc.count + 1 } }
    | none => t1
  let s1 := leaveClause (s.setThread t2) t2
  if t.inEpisode then scoutCount s1 t 0x08 else s1

/-- The thread goes on to the next instruction word. -/
def retire (s : State) (t : Thread) (c : Cur) : State := retireAt s t c c.next false

/-- Save, before their first write of the episode, the registers an instruction writes; none when that would take more
than 48 saves (R177). -/
def scoutSave (t : Thread) (ds : List Nat) : Option Thread :=
  match t.scout with
  | none => some t
  | some sc =>
    let fresh := ds.filter fun r => !(sc.saved r)
    if 48 < sc.saves.length + fresh.length then none
    else some { t with scout := some { sc with
      saves := sc.saves ++ fresh.map fun r => (r, (t.reg r).1, nmem sc.invalid r, (t.reg r).2) } }

/-- Write results at once: older waiting results for these registers are discarded (R177, R312). -/
def writeNow (t : Thread) (rs : List (Nat × Word × Bool)) (inv : Bool) : Thread :=
  let t1 := { t with window := t.discard (rs.map (·.1)) t.window }
  rs.foldl
    (fun (t : Thread) x =>
      let t := if inv then t else t.put x.1 x.2.1 x.2.2
      match t.scout with
      | some sc => { t with scout := some { sc with invalid := nput sc.invalid x.1 inv, wrote := nins sc.wrote x.1 } }
      | none => t) t1

/-- A result goes under the window of its X word; the counter has risen and falls when it lands, but an episode changes none
(R311, R315, R316). -/
def Thread.issued (t : Thread) (c : Cur) (is : Issue) (regs : List (Nat × Word × Bool × Bool)) (ready : Bool) (tok : Nat) (fl : BitVec 5) : Thread :=
  let sb := if t.inEpisode then 7 else is.sb.toNat
  let t1 := t.charge sb
  { t1 with window := t1.window ++
    [{ pos := c.pos, exe := c.exe, la := is.la.toNat, regs := regs, sb := sb, ready := ready, tok := tok, prov := t.scout.isSome, fl := fl }] }
/-- A new token for a result that comes later; never 0. -/
def newTok (s : State) : State × Nat := ({ s with nextUid := s.nextUid + 1 }, s.nextUid + 2)
/-- A result that is not there yet, to be filled by its token. -/
def Thread.await (t : Thread) (c : Cur) (is : Issue) (tok : Nat) (dst : List Nat) : Thread :=
  t.issued c is (dst.map fun r => (r, 0, false, false)) false tok 0
/-- The value of a waiting result is there: each register it still writes takes its own word (R312). -/
def Thread.fill (t : Thread) (tok : Nat) (vs : List (Nat × Word × Bool)) : Thread :=
  { t with window := t.window.map fun w =>
      if w.tok == tok && !w.ready then
        { w with ready := true, tok := 0
                 regs := w.regs.map fun x => match vs.find? (·.1 == x.1) with | some v => (x.1, v.2.1, v.2.2, x.2.2.2) | none => x }
      else w }

/-- Write results as the issue control says: at once with their flags, or under a window (R57). -/
def writeFlags (t : Thread) (c : Cur) (is : Option Issue) (rs : List (Nat × Word × Bool)) (inv : Bool) (fl : BitVec 5) : Thread :=
  match is with
  | none => (writeNow t rs inv).flag fl
  | some i => t.issued c i (rs.map fun x => (x.1, x.2.1, x.2.2, inv)) true 0 fl
/-- Results without flags. -/
def writeOut (t : Thread) (c : Cur) (is : Option Issue) (rs : List (Nat × Word × Bool)) (inv : Bool) : Thread :=
  match is with
  | none => writeNow t rs inv
  | some i => t.issued c i (rs.map fun x => (x.1, x.2.1, x.2.2, inv)) true 0 0

/-- A script's registers end at v31 (R207, R210). -/
def scriptChecks (ill : Bool) (uses : List Nat) : Option Nat :=
  if ill then some 0x01 else if uses.any (32 ≤ ·) then some 0x03 else none

/-- An instruction that reads registers and writes registers: the limits of its entry, every register it names, those
whose poison traps, those it reads, those it writes, its issue control if it has an X word, whether scripts have it, and
its results from its operands with the flags it raises. -/
structure RegOp where
  ill    : Bool
  uses   : List Nat
  hot    : List Nat
  srcs   : List Nat
  dst    : List Nat
  is     : Option Issue
  script : Bool
  run    : List (Word × Bool) → List (Word × Bool) × Flags

/-- A register instruction of a thread (R46, R57, R176, R179, R256, R312). -/
def regThread (s : State) (t : Thread) (c : Cur) (o : RegOp) : State :=
  match regChecks t c o.ill o.uses o.hot with
  | some (code, a, i) => trapOr s t.uid code a i c.addr
  | none =>
    match scoutSave t o.dst with
    | none => scoutStop s t .saves
    | some t1 =>
      let (res, fl) := o.run (o.srcs.map t1.reg)
      let inv := o.srcs.any t1.invalid
      retire s (writeFlags t1 c o.is (o.dst.zip res) inv fl) c

/-- A register instruction of a script (R208-R210). -/
def regScript (s : State) (k : Nat) (o : RegOp) : State :=
  match scriptChecks (o.ill || !o.script) o.uses with
  | some code => endScript s k code
  | none =>
    let sc := s.script k
    let (res, _) := o.run (o.srcs.map fun r => (sc.regs.getD r 0, false))
    scriptNext (s.setScript k { sc with regs := (o.dst.zip res).foldl (fun l x => lset l x.1 x.2.1) sc.regs }) k

/-- A register instruction of whoever executes it; a stream has none (R322). -/
def regOp (s : State) (o : RegOp) : Host.Outcome State Fault Refusal :=
  withCur s fun c =>
    match c.who with
    | .thread u => onThread s u c o.is fun s t => regThread s t c o
    | .script k => regScript s k o
    | .stream x n => packetError s x n 0x0001

/-- A meaning that core threads alone have: a script's ends with illegal instruction, a stream's with bad-encoding (R322). -/
def threadOp (s : State) (is : Option Issue) (k : State → Thread → Cur → State) : Host.Outcome State Fault Refusal :=
  withCur s fun c =>
    match c.who with
    | .thread u => onThread s u c is fun s t => k s t c
    | .script j => endScript s j 0x01
    | .stream x n => packetError s x n 0x0001

/-- An instruction that ends scout: it stops an episode and waits in the provisional period (R174, R180). -/
def endsScout (s : State) (t : Thread) (k : State) : State :=
  match t.scout with
  | none => k
  | some sc => if sc.long then scoutStop s t .instr else holdAt s t .result

/-- An instruction that an episode skips and that waits in the provisional period (R174, R179). -/
def skipsScout (s : State) (t : Thread) (c : Cur) (k : State) : State :=
  match t.scout with
  | none => k
  | some sc => if sc.long then retire s t c else holdAt s t .result

/-- Traps of a list of checks, the first that holds, else the effect (R256). -/
def checked (s : State) (t : Thread) (c : Cur) (bad : Option (Nat × DWord × Word)) (k : State) : State :=
  match bad with
  | some (code, a, i) => trapOr s t.uid code a i c.addr
  | none => k

/-- The instruction a thread waits in is done: its counter falls, and the thread becomes ready at an address outside a clause,
with a new ready stamp (R19, R20, R316). -/
def Thread.readyAt (t : Thread) (pc : DWord) (now : Nat) : Thread :=
  { t.lower with status := .ready, pc := pc, mid := none, hold := none, part := none, stamp := now }

/-- A thread waits in the instruction it executes, at which its program counter stays (R19, R265). -/
def waitIn (s : State) (t : Thread) (w : Wait) : State :=
  leaveClause (s.setThread { t with status := .waiting w, hold := none, part := none, polls := false }) t

/-- Results without poison. -/
def clean (l : List Word) : List (Word × Bool) := l.map fun w => (w, false)
/-- The operands' values. -/
def vals (l : List (Word × Bool)) : List Word := l.map (·.1)
/-- The value of operand i. -/
def opd (l : List (Word × Bool)) (i : Nat) : Word := (l.getD i (0, false)).1

/-- An integer instruction of one, two or three source registers and one result (R324). -/
def intOp (s : State) (ill : Bool) (d : Reg) (srcs : List Nat) (f : List (Word × Bool) → Word) : Host.Outcome State Fault Refusal :=
  regOp s { ill := ill, uses := d.toNat :: srcs, hot := srcs, srcs := srcs, dst := [d.toNat], is := none, script := true
            run := fun l => (clean [f l], 0) }

/-- An integer instruction with a pair result (R47, R324). -/
def pairOp (s : State) (ill : Bool) (d : Reg) (srcs : List Nat) (f : List (Word × Bool) → DWord) : Host.Outcome State Fault Refusal :=
  regOp s { ill := ill, uses := pairRegs d ++ srcs, hot := srcs, srcs := srcs, dst := pairRegs d, is := none, script := true
            run := fun l => (clean [loWord (f l), hiWord (f l)], 0) }

/-- An FP32 or packed instruction with flags (R362, R421); scripts have none. -/
def fpOp (s : State) (ill : Bool) (d : Reg) (srcs : List Nat) (is : Option Issue) (f : List (Word × Bool) → Word × Flags) : Host.Outcome State Fault Refusal :=
  regOp s { ill := ill, uses := d.toNat :: srcs, hot := srcs, srcs := srcs, dst := [d.toNat], is := is, script := false
            run := fun l => (clean [(f l).1], (f l).2) }

end Sys2Proof.Machine
end

