-- ==== Sys2Proof/Machine/Integer.lean ====
section
/-! DEFINITION. The integer instructions of core threads and scripts (R61, R324, R378, R399, R444). -/
namespace Sys2Proof.Machine
open Sys2Proof

/-- The comparison of ICMP by condition (R384). -/
def icmpHolds (c : Nat) (a b : Word) : Bool :=
  match c with
  | 0 => a == b
  | 1 => a != b
  | 2 => a.slt b
  | 3 => !(b.slt a)
  | 4 => b.slt a
  | 5 => !(a.slt b)
  | 6 => a.ult b
  | 7 => !(b.ult a)
  | 8 => b.ult a
  | _ => !(a.ult b)

/-- The high and full products, signed or unsigned (R389, R390). -/
def prod64 (u : Bool) (a b : Word) : DWord :=
  if u then a.setWidth 64 * b.setWidth 64 else a.signExtend 64 * b.signExtend 64

/-- The lesser and the greater, signed or unsigned (R386, R387). -/
def wmin (u : Bool) (a b : Word) : Word := if (if u then a.ult b else a.slt b) then a else b
def wmax (u : Bool) (a b : Word) : Word := if (if u then a.ult b else a.slt b) then b else a

/-- Shifts by an unsigned count, which may reach the width (R444). -/
def shlW (a x : Word) : Word := if x.toNat < 32 then a <<< x.toNat else 0
def shrW (a x : Word) : Word := if x.toNat < 32 then a >>> x.toNat else 0
def sarW (a x : Word) : Word := if x.toNat < 32 then a.sshiftRight x.toNat else if a.msb then 0xFFFFFFFF else 0
def shlD (a : DWord) (x : Word) : DWord := if x.toNat < 64 then a <<< x.toNat else 0
def shrD (a : DWord) (x : Word) : DWord := if x.toNat < 64 then a >>> x.toNat else 0

/-- The scaled sum of LEA (R400). -/
def leaSum (u : Bool) (sh : BitVec 3) (a : DWord) (x : Word) : DWord :=
  a + ((if u then x.setWidth 64 else x.signExtend 64) <<< sh.toNat)

/-- Position and length of a bit-field control word, the length cut at the top (R333). -/
def fieldPos (c : Word) : Nat := bits c.toNat 0 5
def fieldLen (c : Word) : Nat := min (bits c.toNat 8 6) (32 - fieldPos c)
/-- Bit-field extract (R333). -/
def bfeW (sx : Bool) (a c : Word) : Word :=
  let len := fieldLen c
  if len == 0 then 0
  else
    let f := bits a.toNat (fieldPos c) len
    if sx then word (sext f len) else BitVec.ofNat 32 f
/-- Bit-field insert (R334). -/
def bfiW (a base c : Word) : Word :=
  let m : Word := BitVec.ofNat 32 ((2 ^ fieldLen c - 1) <<< fieldPos c)
  (base &&& ~~~m) ||| ((a <<< fieldPos c) &&& m)
/-- Bit i becomes bit 31 - i (R339). -/
def brevW (a : Word) : Word := BitVec.ofNat 32 (reflect 32 a.toNat)
/-- The number of set bits (R428). -/
def popcW (a : Word) : Word := BitVec.ofNat 32 ((List.range 32).filter a.getLsbD).length
/-- The number of zero bits above the highest set bit (R347). -/
def clzW (a : Word) : Word := BitVec.ofNat 32 (if a == 0 then 32 else 31 - Nat.log2 a.toNat)
/-- One byte of BSRD (R341). -/
def bsrdByte (a : Word) (s : Nat) : Nat :=
  let b := bits a.toNat (8 * (s % 4)) 8
  if s / 4 % 2 == 1 then 0 else if s / 8 == 1 then (if 128 ≤ b then 0xFF else 0) else b
/-- Byte select and replicate (R341). -/
def bsrdW (a b : Word) : Word :=
  BitVec.ofNat 32 ((List.range 4).foldl (fun r k => r + bsrdByte a (bits b.toNat (4 * k) 4) * 2 ^ (8 * k)) 0)

/-- Addition (R380). -/
def execIadd (d a b : Reg) (s : State) : Host.Outcome State Fault Refusal :=
  intOp s (!(Instr.wf (.iadd d a b))) d [a.toNat, b.toNat] fun l => opd l 0 + opd l 1
/-- Addition, of a literal (R380). -/
def execIaddLiteral (d a : Reg) (x : Word) (s : State) : Host.Outcome State Fault Refusal :=
  intOp s (!(Instr.wf (.iaddLiteral d a x))) d [a.toNat] fun l => opd l 0 + x

/-- Subtraction (R392). -/
def execIsub (d a b : Reg) (s : State) : Host.Outcome State Fault Refusal :=
  intOp s (!(Instr.wf (.isub d a b))) d [a.toNat, b.toNat] fun l => opd l 0 - opd l 1
/-- Subtraction, of a literal (R392). -/
def execIsubLiteral (d a : Reg) (x : Word) (s : State) : Host.Outcome State Fault Refusal :=
  intOp s (!(Instr.wf (.isubLiteral d a x))) d [a.toNat] fun l => opd l 0 - x

/-- The low half of the product (R388). -/
def execImul (d a b : Reg) (s : State) : Host.Outcome State Fault Refusal :=
  intOp s (!(Instr.wf (.imul d a b))) d [a.toNat, b.toNat] fun l => (opd l 0) * (opd l 1)
/-- The low half of the product, of a literal (R388). -/
def execImulLiteral (d a : Reg) (x : Word) (s : State) : Host.Outcome State Fault Refusal :=
  intOp s (!(Instr.wf (.imulLiteral d a x))) d [a.toNat] fun l => opd l 0 * x

/-- The high half of the product (R389). -/
def execImulh (u : Bool) (d a b : Reg) (s : State) : Host.Outcome State Fault Refusal :=
  intOp s (!(Instr.wf (.imulh u d a b))) d [a.toNat, b.toNat] fun l => hiWord (prod64 u (opd l 0) (opd l 1))
/-- The high half of the product, of a literal (R389). -/
def execImulhLiteral (u : Bool) (d a : Reg) (x : Word) (s : State) : Host.Outcome State Fault Refusal :=
  intOp s (!(Instr.wf (.imulhLiteral u d a x))) d [a.toNat] fun l => hiWord (prod64 u (opd l 0) (x))

/-- The whole product, into a pair (R390). -/
def execImulw (u : Bool) (d a b : Reg) (s : State) : Host.Outcome State Fault Refusal :=
  pairOp s (!(Instr.wf (.imulw u d a b))) d [a.toNat, b.toNat] fun l => prod64 u (opd l 0) (opd l 1)
/-- The whole product, into a pair, of a literal (R390). -/
def execImulwLiteral (u : Bool) (d a : Reg) (x : Word) (s : State) : Host.Outcome State Fault Refusal :=
  pairOp s (!(Instr.wf (.imulwLiteral u d a x))) d [a.toNat] fun l => prod64 u (opd l 0) (x)

/-- The lesser (R387). -/
def execImin (u : Bool) (d a b : Reg) (s : State) : Host.Outcome State Fault Refusal :=
  intOp s (!(Instr.wf (.imin u d a b))) d [a.toNat, b.toNat] fun l => wmin u (opd l 0) (opd l 1)
/-- The lesser, of a literal (R387). -/
def execIminLiteral (u : Bool) (d a : Reg) (x : Word) (s : State) : Host.Outcome State Fault Refusal :=
  intOp s (!(Instr.wf (.iminLiteral u d a x))) d [a.toNat] fun l => wmin u (opd l 0) (x)

/-- The greater (R386). -/
def execImax (u : Bool) (d a b : Reg) (s : State) : Host.Outcome State Fault Refusal :=
  intOp s (!(Instr.wf (.imax u d a b))) d [a.toNat, b.toNat] fun l => wmax u (opd l 0) (opd l 1)
/-- The greater, of a literal (R386). -/
def execImaxLiteral (u : Bool) (d a : Reg) (x : Word) (s : State) : Host.Outcome State Fault Refusal :=
  intOp s (!(Instr.wf (.imaxLiteral u d a x))) d [a.toNat] fun l => wmax u (opd l 0) (x)

/-- Comparison: 1 when it holds, else 0 (R384). -/
def execIcmp (c : BitVec 4) (d a b : Reg) (s : State) : Host.Outcome State Fault Refusal :=
  intOp s (!(Instr.wf (.icmp c d a b))) d [a.toNat, b.toNat] fun l => if icmpHolds c.toNat (opd l 0) (opd l 1) then 1 else 0
/-- Comparison: 1 when it holds, else 0, of a literal (R384). -/
def execIcmpLiteral (c : BitVec 4) (d a : Reg) (x : Word) (s : State) : Host.Outcome State Fault Refusal :=
  intOp s (!(Instr.wf (.icmpLiteral c d a x))) d [a.toNat] fun l => if icmpHolds c.toNat (opd l 0) (x) then 1 else 0

/-- Bitwise and (R326). -/
def execAnd (d a b : Reg) (s : State) : Host.Outcome State Fault Refusal :=
  intOp s (!(Instr.wf (.and d a b))) d [a.toNat, b.toNat] fun l => opd l 0 &&& opd l 1
/-- Bitwise and, of a literal (R326). -/
def execAndLiteral (d a : Reg) (x : Word) (s : State) : Host.Outcome State Fault Refusal :=
  intOp s (!(Instr.wf (.andLiteral d a x))) d [a.toNat] fun l => opd l 0 &&& x

/-- Bitwise or (R419). -/
def execOr (d a b : Reg) (s : State) : Host.Outcome State Fault Refusal :=
  intOp s (!(Instr.wf (.or d a b))) d [a.toNat, b.toNat] fun l => opd l 0 ||| opd l 1
/-- Bitwise or, of a literal (R419). -/
def execOrLiteral (d a : Reg) (x : Word) (s : State) : Host.Outcome State Fault Refusal :=
  intOp s (!(Instr.wf (.orLiteral d a x))) d [a.toNat] fun l => opd l 0 ||| x

/-- Bitwise exclusive or (R472). -/
def execXor (d a b : Reg) (s : State) : Host.Outcome State Fault Refusal :=
  intOp s (!(Instr.wf (.xor d a b))) d [a.toNat, b.toNat] fun l => opd l 0 ^^^ opd l 1
/-- Bitwise exclusive or, of a literal (R472). -/
def execXorLiteral (d a : Reg) (x : Word) (s : State) : Host.Outcome State Fault Refusal :=
  intOp s (!(Instr.wf (.xorLiteral d a x))) d [a.toNat] fun l => opd l 0 ^^^ x

/-- Shift left (R451). -/
def execShl (d a b : Reg) (s : State) : Host.Outcome State Fault Refusal :=
  intOp s (!(Instr.wf (.shl d a b))) d [a.toNat, b.toNat] fun l => shlW (opd l 0) (opd l 1)
/-- Shift left, of a literal (R451). -/
def execShlLiteral (d a : Reg) (x : Word) (s : State) : Host.Outcome State Fault Refusal :=
  intOp s (!(Instr.wf (.shlLiteral d a x))) d [a.toNat] fun l => shlW (opd l 0) (x)

/-- Shift right, zeros entering (R453). -/
def execShr (d a b : Reg) (s : State) : Host.Outcome State Fault Refusal :=
  intOp s (!(Instr.wf (.shr d a b))) d [a.toNat, b.toNat] fun l => shrW (opd l 0) (opd l 1)
/-- Shift right, zeros entering, of a literal (R453). -/
def execShrLiteral (d a : Reg) (x : Word) (s : State) : Host.Outcome State Fault Refusal :=
  intOp s (!(Instr.wf (.shrLiteral d a x))) d [a.toNat] fun l => shrW (opd l 0) (x)

/-- Shift right arithmetically (R445). -/
def execSar (d a b : Reg) (s : State) : Host.Outcome State Fault Refusal :=
  intOp s (!(Instr.wf (.sar d a b))) d [a.toNat, b.toNat] fun l => sarW (opd l 0) (opd l 1)
/-- Shift right arithmetically, of a literal (R445). -/
def execSarLiteral (d a : Reg) (x : Word) (s : State) : Host.Outcome State Fault Refusal :=
  intOp s (!(Instr.wf (.sarLiteral d a x))) d [a.toNat] fun l => sarW (opd l 0) (x)

/-- Bit-field extract (R333). -/
def execBfe (sx : Bool) (d a b : Reg) (s : State) : Host.Outcome State Fault Refusal :=
  intOp s (!(Instr.wf (.bfe sx d a b))) d [a.toNat, b.toNat] fun l => bfeW sx (opd l 0) (opd l 1)
/-- Bit-field extract, of a literal (R333). -/
def execBfeLiteral (sx : Bool) (d a : Reg) (x : Word) (s : State) : Host.Outcome State Fault Refusal :=
  intOp s (!(Instr.wf (.bfeLiteral sx d a x))) d [a.toNat] fun l => bfeW sx (opd l 0) (x)

/-- Shift a pair left (R452). -/
def execShl64 (d a b : Reg) (s : State) : Host.Outcome State Fault Refusal :=
  pairOp s (!(Instr.wf (.shl64 d a b))) d (pairRegs a ++ [b.toNat]) fun l => shlD (pairOf (opd l 0) (opd l 1)) (opd l 2)
/-- Shift a pair left, by a literal (R452). -/
def execShl64Literal (d a : Reg) (x : Word) (s : State) : Host.Outcome State Fault Refusal :=
  pairOp s (!(Instr.wf (.shl64Literal d a x))) d (pairRegs a) fun l => shlD (pairOf (opd l 0) (opd l 1)) x

/-- Shift a pair right (R454). -/
def execShr64 (d a b : Reg) (s : State) : Host.Outcome State Fault Refusal :=
  pairOp s (!(Instr.wf (.shr64 d a b))) d (pairRegs a ++ [b.toNat]) fun l => shrD (pairOf (opd l 0) (opd l 1)) (opd l 2)
/-- Shift a pair right, by a literal (R454). -/
def execShr64Literal (d a : Reg) (x : Word) (s : State) : Host.Outcome State Fault Refusal :=
  pairOp s (!(Instr.wf (.shr64Literal d a x))) d (pairRegs a) fun l => shrD (pairOf (opd l 0) (opd l 1)) x

/-- Scaled 64-bit address (R400). -/
def execLea (u : Bool) (sh : BitVec 3) (d a b : Reg) (s : State) : Host.Outcome State Fault Refusal :=
  pairOp s (!(Instr.wf (.lea u sh d a b))) d (pairRegs a ++ [b.toNat]) fun l => leaSum u sh (pairOf (opd l 0) (opd l 1)) (opd l 2)
/-- Scaled 64-bit address of a literal index (R400). -/
def execLeaLiteral (u : Bool) (sh : BitVec 3) (d a : Reg) (x : Word) (s : State) : Host.Outcome State Fault Refusal :=
  pairOp s (!(Instr.wf (.leaLiteral u sh d a x))) d (pairRegs a) fun l => leaSum u sh (pairOf (opd l 0) (opd l 1)) x
/-- 64-bit addition (R381). -/
def execIadd64 (d a b : Reg) (s : State) : Host.Outcome State Fault Refusal :=
  pairOp s (!(Instr.wf (.iadd64 d a b))) d (pairRegs a ++ pairRegs b) fun l =>
    pairOf (opd l 0) (opd l 1) + pairOf (opd l 2) (opd l 3)
/-- Multiply-add (R385). -/
def execImad (d a : Reg) (b : Src) (e : Reg) (s : State) : Host.Outcome State Fault Refusal :=
  match b with
  | .reg r => intOp s false d [a.toNat, r.toNat, e.toNat] fun l => (opd l 0) * (opd l 1) + opd l 2
  | .lit x => intOp s false d [a.toNat, e.toNat] fun l => (opd l 0) * x + opd l 1
/-- Bit-field insert (R334). -/
def execBfi (d a : Reg) (b : Src) (e : Reg) (s : State) : Host.Outcome State Fault Refusal :=
  match b with
  | .reg r => intOp s false d [a.toNat, r.toNat, e.toNat] fun l => bfiW (opd l 0) (opd l 1) (opd l 2)
  | .lit x => intOp s false d [a.toNat, e.toNat] fun l => bfiW (opd l 0) x (opd l 1)
/-- Select: the selected operand passes its poison, the other's is ignored, a poisoned condition traps (R447, R269). -/
def execSel (d a : Reg) (b : Src) (e : Reg) (s : State) : Host.Outcome State Fault Refusal :=
  regOp s { ill := false, uses := [d.toNat, a.toNat] ++ srcRegs b ++ [e.toNat], hot := [e.toNat]
            srcs := [e.toNat, a.toNat] ++ srcRegs b, dst := [d.toNat], is := none, script := true
            run := fun l =>
              let y := match b with | .reg _ => l.getD 2 (0, false) | .lit x => (x, false)
              ([if opd l 0 != 0 then l.getD 1 (0, false) else y], 0) }
/-- Move, passing poison (R409). -/
def execMov (d a : Reg) (s : State) : Host.Outcome State Fault Refusal :=
  regOp s { ill := false, uses := [d.toNat, a.toNat], hot := [], srcs := [a.toNat], dst := [d.toNat], is := none, script := true
            run := fun l => (l, 0) }
/-- Move of a sign-extended immediate (R410). -/
def execMovi (d : Reg) (i : BitVec 11) (s : State) : Host.Outcome State Fault Refusal :=
  intOp s false d [] fun _ => i.signExtend 32
/-- Move of a literal (R410). -/
def execMoviLiteral (d : Reg) (x : Word) (s : State) : Host.Outcome State Fault Refusal :=
  intOp s false d [] fun _ => x

/-- Absolute value (R379). -/
def execIabs (d a : Reg) (s : State) : Host.Outcome State Fault Refusal :=
  intOp s false d [a.toNat] fun l => if (opd l 0).msb then 0 - opd l 0 else opd l 0

/-- Negation (R391). -/
def execIneg (d a : Reg) (s : State) : Host.Outcome State Fault Refusal :=
  intOp s false d [a.toNat] fun l => 0 - opd l 0

/-- Bitwise not (R418). -/
def execNot (d a : Reg) (s : State) : Host.Outcome State Fault Refusal :=
  intOp s false d [a.toNat] fun l => ~~~(opd l 0)

/-- Bit reversal (R339). -/
def execBrev (d a : Reg) (s : State) : Host.Outcome State Fault Refusal :=
  intOp s false d [a.toNat] fun l => brevW (opd l 0)

/-- Population count (R428). -/
def execPopc (d a : Reg) (s : State) : Host.Outcome State Fault Refusal :=
  intOp s false d [a.toNat] fun l => popcW (opd l 0)

/-- Count of leading zeros (R347). -/
def execClz (d a : Reg) (s : State) : Host.Outcome State Fault Refusal :=
  intOp s false d [a.toNat] fun l => clzW (opd l 0)

/-- Byte select and replicate (R341). -/
def execBsrd (d a b : Reg) (s : State) : Host.Outcome State Fault Refusal :=
  intOp s false d [a.toNat, b.toNat] fun l => bsrdW (opd l 0) (opd l 1)

end Sys2Proof.Machine
end

