-- ==== Sys2Proof/Machine/Float.lean ====
section
/-! DEFINITION. The FP32 and packed instructions (R69, R77, R362, R421) and the conversions between formats
(R72-R75, R353-R355, R420, R470). -/
namespace Sys2Proof.Machine
open Sys2Proof

/-- A pattern and its flags as a register word. -/
def asWord (r : Nat × Flags) : Word × Flags := (BitVec.ofNat 32 r.1, r.2)

/-- The comparison of FCMP by condition (R365). -/
def fcmpHolds (c : Nat) (a b : Word) : Bool :=
  let r := vcmp (valOf fp32 a.toNat) (valOf fp32 b.toNat)
  match c with
  | 0 => r == some .eq
  | 1 => r != some .eq
  | 2 => r == some .lt
  | 3 => r == some .lt || r == some .eq
  | 4 => r == some .gt
  | 5 => r == some .gt || r == some .eq
  | 6 => r == none
  | _ => r != none

/-- The class bit of FCLASS (R364). -/
def fclassW (a : Word) : Word :=
  match valOf fp32 a.toNat with
  | .nan => 256
  | .inf n => if n then 1 else 128
  | .zero n => if n then 8 else 16
  | .fin n m e => if tiny fp32 m e then (if n then 4 else 32) else (if n then 2 else 64)

/-- Rounding to an integral value (R373). -/
def frndW (mode : RMode) (a : Word) : Word × Flags :=
  match valOf fp32 a.toNat with
  | .nan => (0x7FC00000, 0)
  | .inf _ => (a, 0)
  | .zero _ => (a, 0)
  | .fin n m e =>
    let (k, inexact) := roundInt mode n m e
    let v := if k == 0 then Val.zero n else .fin n k 0
    (BitVec.ofNat 32 (roundTo fp32 .rne false v).1, if inexact then fNX else 0)

/-- Sub-element k of a packed register (R76). -/
def subEl (w k : Nat) (x : Word) : Nat := bits x.toNat (w * k) w
/-- A packed result: each sub-element alone, the flags together (R77). -/
def packed (w : Nat) (f : Nat → Nat × Flags) : Word × Flags :=
  (BitVec.ofNat 32 ((List.range (32 / w)).foldl (fun r k => r + (f k).1 * 2 ^ (w * k)) 0),
   (List.range (32 / w)).foldl (fun r k => r ||| (f k).2) 0)
/-- The rounding mode of the packed pipes (R421). -/
def pmode (rz : Bool) : RMode := if rz then .rz else .rne
/-- A packed operation of two operands. -/
def packed2 (t : BitVec 2) (f : Fmt → Nat → Nat → Nat × Flags) (a b : Word) : Word × Flags :=
  let (fm, w) := packFmt t
  packed w fun k => f fm (subEl w k a) (subEl w k b)
/-- A packed operation of three operands. -/
def packed3 (t : BitVec 2) (f : Fmt → Nat → Nat → Nat → Nat × Flags) (a b c : Word) : Word × Flags :=
  let (fm, w) := packFmt t
  packed w fun k => f fm (subEl w k a) (subEl w k b) (subEl w k c)

/-- The integer range of CVT's destinations (R73). -/
def cvtInt (signed : Bool) (mode : RMode) (v : Val) : Word × Flags :=
  let hi : Int := if signed then 0x7FFFFFFF else 0xFFFFFFFF
  let lo : Int := if signed then -0x80000000 else 0
  match v with
  | .nan => (0, fNV)
  | .inf n => (word (if n then lo else hi), fNV)
  | .zero _ => (0, 0)
  | .fin n m e =>
    let (k, inexact) := roundInt mode n m e
    let x : Int := if n then -(k : Int) else k
    if hi < x then (word hi, fNV) else if x < lo then (word lo, fNV)
    else (word x, if inexact then fNX else 0)

/-- FP32 to E8M0 (R74). -/
def cvtE8m0 (mode : RMode) (v : Val) : Word × Flags :=
  match v with
  | .fin _ m e =>
    let p : Int := (Nat.log2 m : Int) + e
    let exact := m == 2 ^ Nat.log2 m
    let up := match mode with
      | .ru => !exact
      | .rne => 3 * 2 ^ Nat.log2 m ≤ 2 * m
      | _ => false
    let q := if up then p + 1 else p
    if q < -127 then (0, fUF ||| fNX)
    else if 127 < q then (0xFE, fOF ||| fNX)
    else (word (q + 127), if exact then 0 else fNX)
  | _ => (0xFF, fNV)

/-- E8M0 to FP32 (R74). -/
def fromE8m0 (x : Nat) : Word :=
  if x == 0xFF then 0x7FC00000
  else BitVec.ofNat 32 (roundTo fp32 .rne false (.fin false 1 ((x : Int) - 127))).1

/-- CVT of one source element (R72-R74, R354). -/
def cvtW (df sf : BitVec 4) (rm : BitVec 2) (sat : Bool) (k : BitVec 3) (a : Word) : Word × Flags :=
  let w := cvtWidth sf
  let x := bits a.toNat (w * k.toNat) w
  let mode := rmode rm
  let v : Val := match sf.toNat with
    | 7 => valInt (sext x 32) 0 false
    | 8 => valInt x 0 false
    | n => valOf (cvtFmt n) x
  match df.toNat with
  | 7 => cvtInt true mode v
  | 8 => cvtInt false mode v
  | 6 => cvtE8m0 mode v
  | n => if sf == 6 then (fromE8m0 x, 0) else asWord (roundTo (cvtFmt n) mode sat v)

/-- CVTSR: the value kept toward zero or taken away from zero by 32 random bits (R75). -/
def cvtsrW (f : Fmt) (sat : Bool) (a rbits : Word) : Word × Flags :=
  match valOf fp32 a.toNat with
  | .fin neg m e =>
    let (lo, inexact) := roundMag f .rz neg m e
    if !inexact then asWord (roundTo f .rne sat (.fin neg m e))
    else
      let top : Int := (Nat.log2 m : Int) + e
      let q : Int := max (top - (f.m : Int)) f.qmin
      let sh := (q - e).toNat
      let d := ((m % 2 ^ sh) <<< 32) >>> sh
      let mag := if rbits.toNat < d then lo + 1 else lo
      if mag ≤ f.max then asWord (patOf f neg mag, if tiny f m e then fUF ||| fNX else fNX)
      else (BitVec.ofNat 32 (overflowPat f .rne sat neg), fOF ||| fNX)
  | v => asWord (roundTo f .rne sat v)

/-- PACK: two FP32 values into sub-elements, the others from the prior register for the four-element types (R420). -/
def packW (t : BitVec 2) (sat hi : Bool) (a b prior : Word) : Word × Flags :=
  let (f, w) := packFmt t
  let x0 := roundTo f .rne sat (valOf fp32 a.toNat)
  let x1 := roundTo f .rne sat (valOf fp32 b.toNat)
  let fl := x0.2 ||| x1.2
  if w == 16 then (BitVec.ofNat 32 (x0.1 + x1.1 * 2 ^ 16), fl)
  else
    let y := x0.1 + x1.1 * 2 ^ 8
    (BitVec.ofNat 32 (if hi then bits prior.toNat 0 16 + y * 2 ^ 16 else (prior.toNat >>> 16) * 2 ^ 16 + y), fl)

/-- UNPK of one sub-element (R470). -/
def unpkW (t : BitVec 2) (k : Nat) (a : Word) : Word :=
  let (f, w) := packFmt t
  match valOf f (subEl w k a) with
  | .nan => 0x7FC00000
  | v => BitVec.ofNat 32 (roundTo fp32 .rne false v).1

/-- Floating-point addition (R363). -/
def execFadd (rm : BitVec 2) (d a b : Reg) (s : State) : Host.Outcome State Fault Refusal :=
  fpOp s false d [a.toNat, b.toNat] none fun l => asWord (fAdd fp32 (rmode rm) false (opd l 0).toNat (opd l 1).toNat)
/-- Floating-point addition, of a literal (R363). -/
def execFaddLiteral (rm : BitVec 2) (d a : Reg) (x : Word) (s : State) : Host.Outcome State Fault Refusal :=
  fpOp s false d [a.toNat] none fun l => asWord (fAdd fp32 (rmode rm) false (opd l 0).toNat x.toNat)

/-- Floating-point subtraction (R374). -/
def execFsub (rm : BitVec 2) (d a b : Reg) (s : State) : Host.Outcome State Fault Refusal :=
  fpOp s false d [a.toNat, b.toNat] none fun l => asWord (fSub fp32 (rmode rm) false (opd l 0).toNat (opd l 1).toNat)
/-- Floating-point subtraction, of a literal (R374). -/
def execFsubLiteral (rm : BitVec 2) (d a : Reg) (x : Word) (s : State) : Host.Outcome State Fault Refusal :=
  fpOp s false d [a.toNat] none fun l => asWord (fSub fp32 (rmode rm) false (opd l 0).toNat x.toNat)

/-- Floating-point multiplication (R372). -/
def execFmul (rm : BitVec 2) (d a b : Reg) (s : State) : Host.Outcome State Fault Refusal :=
  fpOp s false d [a.toNat, b.toNat] none fun l => asWord (fMul fp32 (rmode rm) false (opd l 0).toNat (opd l 1).toNat)
/-- Floating-point multiplication, of a literal (R372). -/
def execFmulLiteral (rm : BitVec 2) (d a : Reg) (x : Word) (s : State) : Host.Outcome State Fault Refusal :=
  fpOp s false d [a.toNat] none fun l => asWord (fMul fp32 (rmode rm) false (opd l 0).toNat x.toNat)

/-- The lesser of two FP32 values (R371). -/
def execFmin (d a b : Reg) (s : State) : Host.Outcome State Fault Refusal :=
  fpOp s false d [a.toNat, b.toNat] none fun l => asWord (fMin fp32 (opd l 0).toNat (opd l 1).toNat, 0)
/-- The lesser of two FP32 values, of a literal (R371). -/
def execFminLiteral (d a : Reg) (x : Word) (s : State) : Host.Outcome State Fault Refusal :=
  fpOp s false d [a.toNat] none fun l => asWord (fMin fp32 (opd l 0).toNat x.toNat, 0)

/-- The greater of two FP32 values (R370). -/
def execFmax (d a b : Reg) (s : State) : Host.Outcome State Fault Refusal :=
  fpOp s false d [a.toNat, b.toNat] none fun l => asWord (fMax fp32 (opd l 0).toNat (opd l 1).toNat, 0)
/-- The greater of two FP32 values, of a literal (R370). -/
def execFmaxLiteral (d a : Reg) (x : Word) (s : State) : Host.Outcome State Fault Refusal :=
  fpOp s false d [a.toNat] none fun l => asWord (fMax fp32 (opd l 0).toNat x.toNat, 0)

/-- FP32 comparison: 1 when it holds, else 0 (R365). -/
def execFcmp (c : BitVec 4) (d a b : Reg) (s : State) : Host.Outcome State Fault Refusal :=
  fpOp s (!(Instr.wf (.fcmp c d a b))) d [a.toNat, b.toNat] none fun l => (if fcmpHolds c.toNat (opd l 0) (opd l 1) then 1 else 0, 0)
/-- FP32 comparison: 1 when it holds, else 0, of a literal (R365). -/
def execFcmpLiteral (c : BitVec 4) (d a : Reg) (x : Word) (s : State) : Host.Outcome State Fault Refusal :=
  fpOp s (!(Instr.wf (.fcmpLiteral c d a x))) d [a.toNat] none fun l => (if fcmpHolds c.toNat (opd l 0) x then 1 else 0, 0)

/-- Fused multiply-add, one rounding (R369). -/
def execFfma (rm : BitVec 2) (d a : Reg) (b : Src) (e : Reg) (s : State) : Host.Outcome State Fault Refusal :=
  match b with
  | .reg r => fpOp s false d [a.toNat, r.toNat, e.toNat] none fun l =>
      asWord (fFma fp32 (rmode rm) false (opd l 0).toNat (opd l 1).toNat (opd l 2).toNat)
  | .lit x => fpOp s false d [a.toNat, e.toNat] none fun l => asWord (fFma fp32 (rmode rm) false (opd l 0).toNat x.toNat (opd l 1).toNat)
/-- Classification (R364). -/
def execFclass (d a : Reg) (s : State) : Host.Outcome State Fault Refusal :=
  fpOp s false d [a.toNat] none fun l => (fclassW (opd l 0), 0)
/-- Rounding to an integral value (R373). -/
def execFrnd (rm : BitVec 2) (d a : Reg) (s : State) : Host.Outcome State Fault Refusal :=
  fpOp s false d [a.toNat] none fun l => frndW (rmode rm) (opd l 0)

/-- Packed addition (R422). -/
def execPadd (t : BitVec 2) (sat rz : Bool) (d a b : Reg) (s : State) : Host.Outcome State Fault Refusal :=
  fpOp s false d [a.toNat, b.toNat] none fun l => packed2 t (fun f p q => fAdd f (pmode rz) sat p q) (opd l 0) (opd l 1)
/-- Packed addition, of a literal (R422). -/
def execPaddLiteral (t : BitVec 2) (sat rz : Bool) (d a : Reg) (x : Word) (s : State) : Host.Outcome State Fault Refusal :=
  fpOp s false d [a.toNat] none fun l => packed2 t (fun f p q => fAdd f (pmode rz) sat p q) (opd l 0) x

/-- Packed multiplication (R427). -/
def execPmul (t : BitVec 2) (sat rz : Bool) (d a b : Reg) (s : State) : Host.Outcome State Fault Refusal :=
  fpOp s false d [a.toNat, b.toNat] none fun l => packed2 t (fun f p q => fMul f (pmode rz) sat p q) (opd l 0) (opd l 1)
/-- Packed multiplication, of a literal (R427). -/
def execPmulLiteral (t : BitVec 2) (sat rz : Bool) (d a : Reg) (x : Word) (s : State) : Host.Outcome State Fault Refusal :=
  fpOp s false d [a.toNat] none fun l => packed2 t (fun f p q => fMul f (pmode rz) sat p q) (opd l 0) x

/-- Packed minimum (R426). -/
def execPmin (t : BitVec 2) (d a b : Reg) (s : State) : Host.Outcome State Fault Refusal :=
  fpOp s false d [a.toNat, b.toNat] none fun l => packed2 t (fun f p q => (fMin f p q, 0)) (opd l 0) (opd l 1)
/-- Packed minimum, of a literal (R426). -/
def execPminLiteral (t : BitVec 2) (d a : Reg) (x : Word) (s : State) : Host.Outcome State Fault Refusal :=
  fpOp s false d [a.toNat] none fun l => packed2 t (fun f p q => (fMin f p q, 0)) (opd l 0) x

/-- Packed maximum (R425). -/
def execPmax (t : BitVec 2) (d a b : Reg) (s : State) : Host.Outcome State Fault Refusal :=
  fpOp s false d [a.toNat, b.toNat] none fun l => packed2 t (fun f p q => (fMax f p q, 0)) (opd l 0) (opd l 1)
/-- Packed maximum, of a literal (R425). -/
def execPmaxLiteral (t : BitVec 2) (d a : Reg) (x : Word) (s : State) : Host.Outcome State Fault Refusal :=
  fpOp s false d [a.toNat] none fun l => packed2 t (fun f p q => (fMax f p q, 0)) (opd l 0) x

/-- Packed fused multiply-add (R423). -/
def execPfma (t : BitVec 2) (sat rz : Bool) (d a : Reg) (b : Src) (e : Reg) (s : State) : Host.Outcome State Fault Refusal :=
  match b with
  | .reg r => fpOp s false d [a.toNat, r.toNat, e.toNat] none fun l =>
      packed3 t (fun f p q c => fFma f (pmode rz) sat p q c) (opd l 0) (opd l 1) (opd l 2)
  | .lit x => fpOp s false d [a.toNat, e.toNat] none fun l =>
      packed3 t (fun f p q c => fFma f (pmode rz) sat p q c) (opd l 0) x (opd l 1)
/-- Conversion between formats (R353, R354). -/
def execCvt (df sf : BitVec 4) (rm : BitVec 2) (sat : Bool) (k : BitVec 3) (d a : Reg) (is : Issue) (s : State) : Host.Outcome State Fault Refusal :=
  fpOp s (!(Instr.wf (.cvt df sf rm sat k d a is))) d [a.toNat] (some is) fun l => cvtW df sf rm sat k (opd l 0)
/-- Conversion with stochastic rounding (R75, R355). -/
def execCvtsr (df : BitVec 4) (sat : Bool) (d a e : Reg) (is : Issue) (s : State) : Host.Outcome State Fault Refusal :=
  fpOp s (!(Instr.wf (.cvtsr df sat d a e is))) d [a.toNat, e.toNat] (some is) fun l =>
    cvtsrW (cvtFmt df.toNat) sat (opd l 0) (opd l 1)
/-- Pack two FP32 values; for the four-element types the prior vD is a source whose poison passes (R420). -/
def packOp (t : BitVec 2) (sat hi ill : Bool) (d a : Reg) (b : Src) (s : State) : Host.Outcome State Fault Refusal :=
  let four := 2 ≤ t.toNat
  regOp s { ill := ill, uses := [d.toNat, a.toNat] ++ srcRegs b, hot := a.toNat :: srcRegs b
            srcs := a.toNat :: srcRegs b ++ (if four then [d.toNat] else []), dst := [d.toNat], is := none, script := false
            run := fun l =>
              let y := match b with | .reg _ => opd l 1 | .lit x => x
              let p := l.getLastD (0, false)
              let r := packW t sat hi (opd l 0) y p.1
              ([(r.1, four && p.2)], r.2) }
/-- PACK of two registers (R420). -/
def execPack (t : BitVec 2) (sat hi : Bool) (d a b : Reg) (s : State) : Host.Outcome State Fault Refusal :=
  packOp t sat hi (!(Instr.wf (.pack t sat hi d a b))) d a (.reg b) s
/-- PACK of a register and a literal (R420). -/
def execPackLiteral (t : BitVec 2) (sat hi : Bool) (d a : Reg) (x : Word) (s : State) : Host.Outcome State Fault Refusal :=
  packOp t sat hi (!(Instr.wf (.packLiteral t sat hi d a x))) d a (.lit x) s
/-- Widen two sub-elements (R470). -/
def execUnpk (t : BitVec 2) (hi : Bool) (d a : Reg) (s : State) : Host.Outcome State Fault Refusal :=
  let k := if hi then 2 else 0
  regOp s { ill := !(Instr.wf (.unpk t hi d a)), uses := pairRegs d ++ [a.toNat], hot := [a.toNat], srcs := [a.toNat]
            dst := pairRegs d, is := none, script := false
            run := fun l => (clean [unpkW t k (opd l 0), unpkW t (k + 1) (opd l 0)], 0) }

end Sys2Proof.Machine
end

