-- ==== Sys2Proof/Machine/Special.lean ====
section
/-! DEFINITION. The special functions (R78, R79, R361, R398, R432): their special and exact cases, the
flags, SQRT, and for the others a free value within the bound of R78. -/
namespace Sys2Proof.Machine
open Sys2Proof

/-- An enclosure of an exact value: lo × 2^q ≤ f ≤ hi × 2^q. -/
structure Enc where
  lo : Int
  hi : Int
  q  : Int
  deriving DecidableEq, Repr

/-- The exponent of the ulp at a non-zero enclosed value, FP32 spacing, 2^-149 among the subnormals (R78); the end nearer to
zero tells the binade, since no enclosed value reaches the power of two above it. -/
def Enc.ulp (x : Enc) : Int := max ((Nat.log2 (min x.lo.natAbs x.hi.natAbs) : Int) + x.q - 23) (-149)

/-- An integer times a power of two on the grid 2^g. -/
def onG (x : Int) (e g : Int) : Int := x * ((2 ^ (e - g).toNat : Nat) : Int)

/-- A finite pattern lies within k × 2^t of every enclosed value. -/
def Enc.within (x : Enc) (k : Nat) (t : Int) (c : Nat) : Bool :=
  let v := valOf fp32 c
  match v with
  | .nan | .inf _ => false
  | _ =>
    let e : Int := match v with | .fin _ _ e => e | _ => 0
    let g := min (min x.q t) e
    let y := v.onGrid g
    let tol := onG k t g
    decide (onG x.hi x.q g - tol ≤ y ∧ y ≤ onG x.lo x.q g + tol)

/-- The value of the unit's mapping when it lies within the bound, else the enclosed value rounded (log entry 4). -/
def freeWithin (fn : Nat) (a : Word) (x : Enc) (k : Nat) (t : Int) : Word :=
  let c := Config.sfu fn a
  if x.within k t c.toNat then c else BitVec.ofNat 32 (roundTo fp32 .rne false (valInt x.lo x.q (x.lo < 0))).1

/-- 2^f on the grid 2^-96 for a fraction f of 96 bits, from below: the product of the roots 2^(1/2), 2^(1/4), … whose bits
are set, each root the square root of the one before, rounded down. -/
def exp2Frac (f : Nat) : Nat :=
  ((List.range 96).foldl (fun x i =>
    let root := isqrt (x.2 <<< 96)
    (if (f >>> (95 - i)) % 2 == 1 then (x.1 * root) >>> 96 else x.1, root)) (2 ^ 96, 2 ^ 97)).1

/-- 2^x enclosed, for x on the grid 2^-96 rounded down: the lost parts stay far below 2^-80 of the value, which stays below
the next power of two. -/
def exp2Enc (x : Int) : Enc :=
  let n := x / (2 ^ 96 : Nat)
  let v := exp2Frac (x % (2 ^ 96 : Nat)).toNat
  ⟨v, min (v + 2 ^ 15) (2 ^ 97), n - 96⟩

/-- The binary logarithm's fraction of a number in [1, 2) on the grid 2^-400, n bits by squaring. -/
def log2Frac : Nat → Nat → Nat
  | 0, _ => 0
  | n + 1, y =>
    let z := (y * y) >>> 400
    if 2 ^ 401 ≤ z then 2 ^ n + log2Frac n (z / 2) else log2Frac n z

/-- log2 of m × 2^e enclosed. -/
def log2Enc (m : Nat) (e : Int) : Enc :=
  let k := Nat.log2 m
  let l := log2Frac 160 (m <<< (400 - k))
  let x : Int := ((k : Int) + e) * (2 ^ 160 : Nat) + l
  ⟨x, x + 4, -160⟩

/-- 1 / (m × 2^e) enclosed. -/
def rcpEnc (m : Nat) (e : Int) : Enc :=
  let r : Nat := 2 ^ 200 / m
  ⟨r, r + 1, -200 - e⟩

/-- 1 / sqrt(m × 2^e) enclosed. -/
def rsqEnc (m : Nat) (e : Int) : Enc :=
  let (m, e) := if e % 2 == 0 then (m, e) else (2 * m, e - 1)
  let r : Nat := isqrt (2 ^ 240 / m)
  ⟨r, r + 1, -120 - e / 2⟩

/-- log2 of Euler's number on the grid 2^-128, rounded down. -/
def log2e : Nat := 0x171547652b82fe1777d0ffda0d23a7d11

/-- tanh of a positive m × 2^e enclosed: between x - x × 2^-40 and x for the smallest x, else by (y - 1) / (y + 1) with
y = e^(2x). -/
def tanhEnc (m : Nat) (e : Int) : Enc :=
  if (Nat.log2 m : Int) + e < -20 then
    let y : Nat := m <<< 60
    ⟨(y - y / 2 ^ 40 - 1 : Nat), y, e - 60⟩
  else
    let x := if 0 ≤ e + 1 then ((m <<< (e + 1).toNat) * log2e) >>> 32 else (m * log2e) >>> (32 + (-(e + 1)).toNat)
    let y := exp2Enc x
    let one := 2 ^ (-y.q).toNat
    let lo : Nat := (y.lo.toNat - one) * 2 ^ 120 / (y.lo.toNat + one)
    ⟨lo, lo + 2 ^ 40, -120⟩

/-- The sign of an odd function's enclosure. -/
def Enc.negateIf (x : Enc) (neg : Bool) : Enc := if neg then ⟨-x.hi, -x.lo, x.q⟩ else x

/-- A positive number is a power of two. -/
def isPow2 (m : Nat) : Bool := m == 2 ^ Nat.log2 m

/-- The FP32 pattern of a value that FP32 holds exactly. -/
def exact32 (v : Val) : Word := BitVec.ofNat 32 (roundTo fp32 .rne false v).1

/-- A finite value is less than an integer. -/
def vlt (v : Val) (n : Int) : Bool :=
  match v with
  | .fin _ _ e => let g := min e 0; decide (v.onGrid g < onG n 0 g)
  | _ => decide (0 < n)

/-- EXP2 (R78, R79, R361). -/
def exp2W (a : Word) : Word × Flags :=
  match valOf fp32 a.toNat with
  | .nan => (0x7FC00000, 0)
  | .inf n => (if n then 0 else 0x7F800000, 0)
  | .zero _ => (0x3F800000, 0)
  | .fin neg m e =>
    let v := Val.fin neg m e
    if vlt v (-149) then (0, fUF ||| fNX)
    else if !(vlt v 128) then (0x7F800000, fOF ||| fNX)
    else
      let g := min e 0
      let x := v.onGrid g
      let one : Int := (2 ^ (-g).toNat : Nat)
      if x % one == 0 then (exact32 (.fin false 1 (x / one)), 0)
      else
        let s : Int := if -96 ≤ g then onG x g (-96) else x / (2 ^ (-96 - g).toNat : Nat)
        let y := exp2Enc s
        if vlt v (-126) then (freeWithin 0 a y 2 (-149), fUF ||| fNX)
        else (freeWithin 0 a y 2 y.ulp, fNX)

/-- LOG2 (R78, R79, R401, R432). -/
def log2W (a : Word) : Word × Flags :=
  match valOf fp32 a.toNat with
  | .nan => (0x7FC00000, 0)
  | .zero _ => (0xFF800000, fDZ)
  | .inf n => if n then (0x7FC00000, fNV) else (0x7F800000, 0)
  | .fin neg m e =>
    if neg then (0x7FC00000, fNV)
    else if isPow2 m then (exact32 (valInt ((Nat.log2 m : Int) + e) 0 false), 0)
    else
      let y := log2Enc m e
      let p := (Nat.log2 m : Int) + e
      if p == -1 || p == 0 then (freeWithin 1 a y 1 (-22), fNX) else (freeWithin 1 a y 2 y.ulp, fNX)

/-- RCP; beyond the greatest finite magnitude an infinity (R78, R79, R432). -/
def rcpW (a : Word) : Word × Flags :=
  match valOf fp32 a.toNat with
  | .nan => (0x7FC00000, 0)
  | .zero n => (if n then 0xFF800000 else 0x7F800000, fDZ)
  | .inf n => (if n then 0x80000000 else 0, 0)
  | .fin neg m e =>
    let p := (Nat.log2 m : Int) + e
    if p < -128 || (p == -128 && isPow2 m) then (if neg then 0xFF800000 else 0x7F800000, fOF ||| fNX)
    else if isPow2 m then (exact32 (.fin neg 1 (-p)), 0)
    else
      let y := (rcpEnc m e).negateIf neg
      (freeWithin 2 a y 1 y.ulp, if 126 ≤ p then fUF ||| fNX else fNX)

/-- RSQ (R78, R79, R432, R443). -/
def rsqW (a : Word) : Word × Flags :=
  match valOf fp32 a.toNat with
  | .nan => (0x7FC00000, 0)
  | .zero n => (if n then 0xFF800000 else 0x7F800000, fDZ)
  | .inf n => if n then (0x7FC00000, fNV) else (0, 0)
  | .fin neg m e =>
    if neg then (0x7FC00000, fNV)
    else
      let p := (Nat.log2 m : Int) + e
      if isPow2 m && p % 2 == 0 then (exact32 (.fin false 1 (-(p / 2))), 0)
      else let y := rsqEnc m e; (freeWithin 3 a y 2 y.ulp, fNX)

/-- SQRT, correctly rounded (R78, R79, R432, R456). -/
def sqrtW (mode : RMode) (a : Word) : Word × Flags :=
  match valOf fp32 a.toNat with
  | .nan => (0x7FC00000, 0)
  | .zero _ => (a, 0)
  | .inf n => if n then (0x7FC00000, fNV) else (0x7F800000, 0)
  | .fin neg m e => if neg then (0x7FC00000, fNV) else asWord (roundTo fp32 mode false (vsqrt m e))

/-- TANH (R78, R432, R466). -/
def tanhW (a : Word) : Word × Flags :=
  match valOf fp32 a.toNat with
  | .nan => (0x7FC00000, 0)
  | .zero _ => (a, 0)
  | .inf n => (if n then 0xBF800000 else 0x3F800000, 0)
  | .fin neg m e =>
    if onG 91 0 (min e 0) ≤ 10 * onG m e (min e 0) then (if neg then 0xBF800000 else 0x3F800000, fNX)
    else
      let y := (tanhEnc m e).negateIf neg
      (freeWithin 4 a y 2 y.ulp, if (Nat.log2 m : Int) + e < -126 || (isPow2 m && (Nat.log2 m : Int) + e == -126) then fUF ||| fNX else fNX)

/-- 2 to the power of a value (R361). -/
def execExp2 (d a : Reg) (is : Issue) (s : State) : Host.Outcome State Fault Refusal :=
  fpOp s (!(Instr.wf (.exp2 d a is))) d [a.toNat] (some is) fun l => exp2W (opd l 0)
/-- Binary logarithm (R432). -/
def execLog2 (d a : Reg) (is : Issue) (s : State) : Host.Outcome State Fault Refusal :=
  fpOp s (!(Instr.wf (.log2 d a is))) d [a.toNat] (some is) fun l => log2W (opd l 0)
/-- Reciprocal (R432). -/
def execRcp (d a : Reg) (is : Issue) (s : State) : Host.Outcome State Fault Refusal :=
  fpOp s (!(Instr.wf (.rcp d a is))) d [a.toNat] (some is) fun l => rcpW (opd l 0)
/-- Reciprocal square root (R432). -/
def execRsq (d a : Reg) (is : Issue) (s : State) : Host.Outcome State Fault Refusal :=
  fpOp s (!(Instr.wf (.rsq d a is))) d [a.toNat] (some is) fun l => rsqW (opd l 0)
/-- Square root (R432). -/
def execSqrt (rm : BitVec 2) (d a : Reg) (is : Issue) (s : State) : Host.Outcome State Fault Refusal :=
  fpOp s (!(Instr.wf (.sqrt rm d a is))) d [a.toNat] (some is) fun l => sqrtW (rmode rm) (opd l 0)
/-- Hyperbolic tangent (R432). -/
def execTanh (d a : Reg) (is : Issue) (s : State) : Host.Outcome State Fault Refusal :=
  fpOp s (!(Instr.wf (.tanh d a is))) d [a.toNat] (some is) fun l => tanhW (opd l 0)

end Sys2Proof.Machine
end

