-- ==== Sys2Proof/Machine/CrossLane.lean ====
section
/-! DEFINITION. Group rendezvous (R26-R29) and the cross-lane instructions (R331, R356, R436, R437, R446, R450, R471),
and the team barrier (R30-R32, R332). -/
namespace Sys2Proof.Machine
open Sys2Proof

/-- A member's operands at arrival: lane, value, its poison, second operand (R27). -/
abbrev Arrived := Nat × Word × Bool × Word

/-- The lanes of a mask in ascending order. -/
def maskLanes (m : DWord) : List Nat := (List.range 64).filter m.getLsbD
/-- A thread's lane and group (R16). -/
def laneOf (t : Thread) (r : LaunchRec) : Nat := t.tid % r.width
def groupOf (t : Thread) (r : LaunchRec) : Nat := t.tid / r.width

/-- The mask a group of W lanes reads: beyond 32 lanes the pair, else one register (R26). -/
def readMask (t : Thread) (w : Nat) (m : Reg) : DWord := if w ≤ 32 then (t.val m).setWidth 64 else t.pair m
/-- A mask names lanes of the group alone, the reader's among them (R26). -/
def maskOk (mask : DWord) (w lane : Nat) : Bool := mask.toNat < 2 ^ w && mask.getLsbD lane

/-- The thread of a group's lane, if it lives in the team. -/
def laneThread (s : State) (t : Thread) (r : LaunchRec) (g lane : Nat) : Option Thread :=
  s.threads.find? fun x => x.team == t.team && groupOf x r == g && laneOf x r == lane

/-- Every thread that waits in an instance traps with the row's number; the instance ends (R28). -/
def failInstance (s : State) (team : Nat) (v : Rdv) (row : Nat) : State :=
  let tm := s.team team
  let s1 := s.setTeam { tm with rdvs := tm.rdvs.filter (fun x => !(decide (x = v))) }
  v.lanes.foldl (fun s x => takeTrap s x.2.1 0x05 v.addr (BitVec.ofNat 32 row) v.addr) s1

/-- The row of R28 by which an arrival conflicts with a waiting instance. -/
def conflictRow (v : Rdv) (g : Nat) (a : DWord) (mask : DWord) (lane : Nat) : Option Nat :=
  if v.group != g || (v.addr == a && v.mask == mask) then none
  else if v.lanes.any (fun x => mask.getLsbD x.1) then some 1
  else if v.mask.getLsbD lane then some 2
  else none

/-- The arrivals of an instance as the operations read them, by ascending lane. -/
def Rdv.arrived (v : Rdv) : List Arrived :=
  ordered (v.lanes.map fun (l, _, x, p, b) => (l, x, p, b)) fun x y => x.1 ≤ y.1

/-- The instance completes: every member's result is written and its counter falls, and it is ready at the next
instruction (R27, R436). -/
def completeInstance (s : State) (team : Nat) (v : Rdv) (c : Cur) (d : List Nat)
    (res : List Arrived → Nat → List (Word × Bool)) : State :=
  let tm := s.team team
  let s1 := s.setTeam { tm with rdvs := tm.rdvs.filter (fun x => !(x.group == v.group && x.addr == v.addr && x.mask == v.mask)) }
  v.lanes.foldl
    (fun s x =>
      let t := landAll (s.thread x.2.1)
      s.setThread ((writeNow t (d.zip (res v.arrived x.1)) false).readyAt c.next s.cycle)) s1

/-- A cross-lane instruction: checks, the mask, conflicts, arrival, and completion when all members are there
(R26-R28, R436). Where several rows of R28 hold at one arrival the model takes row 5, then 1, then 2, then 4, by its own
choice (log entry 73). -/
def crossOp (s : State) (ill : Bool) (d : List Nat) (a m : Reg) (b : Option Reg) (poisonPasses : Bool) (is : Issue)
    (res : Nat → List Arrived → Nat → List (Word × Bool)) : Host.Outcome State Fault Refusal :=
  threadOp s (some is) fun s t c =>
    endsScout s t <|
      let r := (s.launchOfThread t).rcd
      let w := r.width
      let bs := b.toList.map (·.toNat)
      let mhot := if w ≤ 32 then [m.toNat] else pairRegs m
      checked s t c (regChecks t c ill (d ++ [a.toNat] ++ bs ++ pairRegs m) ((if poisonPasses then [] else [a.toNat]) ++ bs ++ mhot)) <|
        let mask := readMask t w m
        let lane := laneOf t r
        let g := groupOf t r
        let tm := s.teamOf t
        if !(maskOk mask w lane) then takeTrap s t.uid 0x05 c.addr 5 c.addr
        else
          let bad := tm.rdvs.filterMap fun v => (conflictRow v g c.addr mask lane).map fun row => (v, row)
          if bad != [] then
            let row := if bad.any (·.2 == 1) then 1 else 2
            takeTrap (bad.foldl (fun s x => failInstance s tm.uid x.1 x.2) s) t.uid 0x05 c.addr row c.addr
          else if (maskLanes mask).any (fun l => match laneThread s t r g l with | some x => x.status == .exited | none => true) then
            takeTrap s t.uid 0x05 c.addr 4 c.addr
          else
            let v := (tm.rdvs.find? fun v => v.group == g && v.addr == c.addr && v.mask == mask).getD ⟨g, c.addr, mask, []⟩
            let x := t.reg a.toNat
            let v1 := { v with lanes := v.lanes ++ [(lane, t.uid, x.1, x.2, match b with | some r => t.val r | none => 0)] }
            let s1 := waitIn s t .rendezvous
            if v1.lanes.length == (maskLanes mask).length then completeInstance s1 tm.uid v1 c d (res w)
            else
              let tm1 := s1.team tm.uid
              s1.setTeam { tm1 with rdvs := (tm1.rdvs.filter fun x => !(x.group == g && x.addr == c.addr && x.mask == mask)) ++ [v1] }

/-- A lane's value among the arrivals. -/
def arrivedAt (l : List Arrived) (lane : Nat) : Option (Word × Bool) :=
  (l.find? fun x => x.1 == lane).map fun x => (x.2.1, x.2.2.1)

/-- The predicate bits of the members (R331). -/
def ballotRes (l : List Arrived) : DWord :=
  l.foldl (fun (r : DWord) (x : Arrived) => if x.2.1 != 0 then r ||| (1#64 <<< x.1) else r) 0

/-- ELECT: 1 in the lowest candidate (R356). -/
def electRes (l : List Arrived) (lane : Nat) : Word :=
  match l.find? (fun x => x.2.1 != 0) with
  | some x => if x.1 == lane then 1 else 0
  | none => 0

/-- The source lane of SHFL (R450). -/
def shflSource (mode : Nat) (w : Nat) (l : List Arrived) (lane : Nat) (b : Word) : Nat :=
  let g := min (bits b.toNat 0 3) (Nat.log2 w)
  match mode with
  | 0 => b.toNat % w
  | 1 =>
    let p := (l.filter fun x => x.1 < lane).length
    (l.getD ((p + b.toNat) % l.length) (lane, 0, false, 0)).1
  | 2 => lane / 2 ^ g * 2 ^ g + bits b.toNat 8 8 % 2 ^ g
  | _ => lane ^^^ (2 ^ g - 1)

/-- SHFL's value of a member: its source's, else its own (R450). -/
def shflRes (mode w : Nat) (l : List Arrived) (lane : Nat) : Word × Bool :=
  let own := (l.find? fun x => x.1 == lane).getD (lane, 0, false, 0)
  match arrivedAt l (shflSource mode w l lane own.2.2.2) with
  | some x => x
  | none => (own.2.1, own.2.2.1)

/-- The predicate of VOTE (R471). -/
def voteTest (kind : Nat) (l : List Arrived) (x : Word) : Bool :=
  match kind with
  | 0 => x != 0
  | 1 => some x == (l.head?.map (·.2.1))
  | _ => x.msb

/-- VOTE's summary word (R471). -/
def voteRes (kind : Nat) (l : List Arrived) : Word :=
  let t := l.filter fun x => voteTest kind l x.2.1
  let all := t.length == l.length
  BitVec.ofNat 32 ((if all then 2 ^ 31 else 0) + (if t == [] then 2 ^ 30 else 0) + t.length * 2 ^ 16 +
    ((t.getLast?.map (·.1)).getD 0xFF) * 2 ^ 8 + ((t.head?.map (·.1)).getD 0xFF))

/-- The exact sum of FP32 patterns, rounded once (R437). -/
def sumFp (l : List Word) : Word :=
  let vs := l.map fun x => valOf fp32 x.toNat
  let inf := fun n => vs.any fun v => decide (v = Val.inf n)
  if vs.any (fun v => decide (v = Val.nan)) || (inf true && inf false) then 0x7FC00000
  else if inf false then 0x7F800000
  else if inf true then 0xFF800000
  else
    let sum := (vs.map (Val.onGrid (-149))).foldl (· + ·) 0
    if sum == 0 then (if vs.all fun v => decide (v = Val.zero true) then 0x80000000 else 0)
    else BitVec.ofNat 32 (roundTo fp32 .rne false (valInt sum (-149) false)).1

/-- A cross-lane reduction over the values of its members, at least one (R437). -/
def reduce (op ty : Nat) (l : List Word) : Word :=
  match op, ty with
  | 0, 2 => sumFp l
  | 1, 2 => l.foldl (fun a x => BitVec.ofNat 32 (fMin fp32 a.toNat x.toNat)) 0x7FC00000
  | 2, 2 => l.foldl (fun a x => BitVec.ofNat 32 (fMax fp32 a.toNat x.toNat)) 0x7FC00000
  | 0, _ => l.foldl (· + ·) 0
  | 1, _ => l.foldl (wmin (ty == 1)) (if ty == 1 then 0xFFFFFFFF else 0x7FFFFFFF)
  | 2, _ => l.foldl (wmax (ty == 1)) (if ty == 1 then 0 else 0x80000000)
  | 3, _ => l.foldl (· &&& ·) 0xFFFFFFFF
  | 4, _ => l.foldl (· ||| ·) 0
  | _, _ => l.foldl (· ^^^ ·) 0

/-- The value an exclusive scan's lowest member receives (R446). -/
def scanIdentity (op ty : Nat) : Word :=
  match op, ty with
  | 1, 2 => 0x7F800000
  | 2, 2 => 0xFF800000
  | 0, 2 => 0
  | _, _ => reduce op ty []

/-- SCANL's value of a member (R446). -/
def scanRes (op ty : Nat) (excl : Bool) (l : List Arrived) (lane : Nat) : Word :=
  let ms := (l.filter fun x => if excl then x.1 < lane else x.1 ≤ lane).map (·.2.1)
  if ms == [] then scanIdentity op ty else reduce op ty ms

/-- BALLOT (R331). -/
def execBallot (d a m : Reg) (is : Issue) (s : State) : Host.Outcome State Fault Refusal :=
  crossOp s (!(Instr.wf (.ballot d a m is))) (pairRegs d) a m none false is
    fun _ l _ => let r := ballotRes l; clean [loWord r, hiWord r]
/-- ELECT (R356, R357). -/
def execElect (d a m : Reg) (is : Issue) (s : State) : Host.Outcome State Fault Refusal :=
  crossOp s (!(Instr.wf (.elect d a m is))) [d.toNat] a m none false is fun _ l lane => clean [electRes l lane]
/-- SHFL (R450). -/
def execShfl (mode : BitVec 2) (d a b m : Reg) (is : Issue) (s : State) : Host.Outcome State Fault Refusal :=
  crossOp s (!(Instr.wf (.shfl mode d a b m is))) [d.toNat] a m (some b) true is
    fun w l lane => [shflRes mode.toNat w l lane]
/-- VOTE (R471). -/
def execVote (kind : BitVec 2) (d a m : Reg) (is : Issue) (s : State) : Host.Outcome State Fault Refusal :=
  crossOp s (!(Instr.wf (.vote kind d a m is))) [d.toNat] a m none false is fun _ l _ => clean [voteRes kind.toNat l]
/-- REDL (R437). -/
def execRedl (op : BitVec 3) (ty : BitVec 2) (d a m : Reg) (is : Issue) (s : State) : Host.Outcome State Fault Refusal :=
  crossOp s (!(Instr.wf (.redl op ty d a m is))) [d.toNat] a m none false is
    fun _ l _ => clean [reduce op.toNat ty.toNat (l.map (·.2.1))]
/-- SCANL (R446). -/
def execScanl (op : BitVec 3) (excl : Bool) (ty : BitVec 2) (d a m : Reg) (is : Issue) (s : State) : Host.Outcome State Fault Refusal :=
  crossOp s (!(Instr.wf (.scanl op excl ty d a m is))) [d.toNat] a m none false is
    fun _ l lane => clean [scanRes op.toNat ty.toNat excl l lane]

/-! ### Barriers -/

/-- The generation completes: every waiting thread is ready after its BAR, and the slot starts anew (R30). -/
def completeBarrier (s : State) (team slot : Nat) : State :=
  let tm := s.team team
  let s1 := s.setTeam { tm with bars := tset {} tm.bars slot {} }
  let woken := fun t : Thread => t.team == team && t.status == .waiting (.bar slot)
  { s1 with threads := modWhere woken (fun t => t.readyAt (t.pc + 4) s.cycle) s1.threads }

/-- An arrival at a slot that names a count (R30, R31). -/
def arriveBar (s : State) (t : Thread) (c : Cur) (slot count : Nat) : State :=
  let tm := s.teamOf t
  let b := tget {} tm.bars slot
  if b.active && b.target != count then takeTrap s t.uid 0x05 c.addr 6 c.addr
  else
    let s1 := waitIn s t (.bar slot)
    let nb : Bar := ⟨true, count, b.arrivals + 1⟩
    let tm1 := s1.team tm.uid
    let s2 := s1.setTeam { tm1 with bars := tset {} tm1.bars slot nb }
    if b.arrivals + 1 == count then completeBarrier s2 tm.uid slot else s2

/-- BAR (R332). -/
def execBar (all : Bool) (slot : BitVec 4) (a : Reg) (s : State) : Host.Outcome State Fault Refusal :=
  threadOp s none fun s t c =>
    endsScout s t <|
      let rs := if all then [] else [a.toNat]
      let r := (s.launchOfThread t).rcd
      let count := if all then r.nthr else (t.val a).toNat
      let ill := !(Instr.wf (.bar all slot a)) || r.nbar ≤ slot.toNat || limited t rs (count == 0 || r.nthr < count)
      checked s t c (regChecks t c ill rs rs) (arriveBar s t c slot.toNat count)

end Sys2Proof.Machine
end

