-- ==== Sys2Proof/Machine/Translate.lean ====
section
/-! DEFINITION. Translation: walks, caches, demand faults, eviction classes and what the caches hold (R87-R90, R97-R99,
R102, R105, R107). -/
namespace Sys2Proof.Machine
open Sys2Proof

/-- A canonical virtual address: bits 63 to 57 equal bit 56 (R87). -/
def canonical (va : DWord) : Bool := va.extractLsb' 56 8 == (0 : Byte) || va.extractLsb' 56 8 == (0xFF : Byte)

/-- The low 57 bits of a virtual address, those a walk uses (R88). -/
def vaKey (va : DWord) : Nat := va.toNat % 2 ^ 57
/-- The number of the 64 KiB fault page of an address (R102). -/
def faultPage (va : DWord) : Nat := vaKey va / 65536
/-- A fault page's first address, canonical. -/
def pageVa (page : Nat) : DWord := (BitVec.ofNat 57 (page * 65536)).signExtend 64

/-- The chip and the local offset of a physical address (R92). -/
def chipOf (phys : Nat) : Nat := phys / 2 ^ 47
def offOf (phys : Nat) : Nat := phys % 2 ^ 47
/-- A physical address lies on this chip (R92). -/
def isLocal (s : State) (phys : Nat) : Bool := chipOf phys == s.hub.chip

/-- How a walk ends: at a leaf with its frame, level and write permission, or with a fault's kind and level, and the
offset of the poisoned entry it met (R89, R102, R270). -/
inductive WalkEnd where
  | leaf (frame level : Nat) (w : Bool)
  | bad (kind level : Nat) (pois : Option Nat)
  deriving DecidableEq, Repr

/-- The index of an address at a level (R88). -/
def walkIndex (va level : Nat) : Nat :=
  match level with
  | 3 => bits va 39 18
  | 2 => bits va 30 9
  | 1 => bits va 21 9
  | _ => bits va 16 5

/-- The low bits of an address inside a page of a leaf's level (R88). -/
def pageBits (level : Nat) : Nat := match level with | 0 => 16 | 1 => 21 | _ => 30

/-- A present entry's frame when it is a leaf, or none, and whether it is malformed, the table it names apart (R89). -/
def leafFrame (e _level : Nat) : Option Nat := if e / 2 % 2 == 1 then some (e / 4096 * 65536) else none
def leafMalformed (e level : Nat) : Bool :=
  let f := e / 4096 * 65536
  bits e 3 5 != 0 || bits e 8 4 != 0 || level == 3 || (level == 1 && bits f 16 5 != 0) || (level == 2 && bits f 16 14 != 0)
def tableMalformed (s : State) (e level : Nat) : Bool :=
  let n := e / 256 * 4096
  bits e 2 6 != 0 || level == 0 || !(isLocal s n) || !(isMemory s (offOf n))

/-- Walk from a table of a level (R88, R89). -/
def walkAt (s : State) (va : Nat) : Nat → Nat → WalkEnd
  | level, base =>
    let at_ := base + 8 * walkIndex va level
    if s.anyPoison at_ 8 || lost s at_ then .bad 2 level (some at_)
    else
      let e := s.num at_ 8
      if e % 2 == 0 then .bad 0 level none
      else match leafFrame e level with
        | some f => if leafMalformed e level then .bad 2 level none else .leaf f level (e / 4 % 2 == 1)
        | none =>
          if tableMalformed s e level then .bad 2 level none
          else match level with
            | 0 => .bad 2 0 none
            | l + 1 => walkAt s va l (offOf (e / 256 * 4096))

/-- Walk a context's tables for an address. -/
def walk (s : State) (ctx : Nat) (va : Nat) : WalkEnd := walkAt s va 3 (offOf (s.ctx ctx).root)

/-- A cached translation of an address. -/
def Xlate.covers (x : Xlate) (ctx va : Nat) : Bool :=
  x.ctx == ctx && x.va >>> pageBits x.level == va >>> pageBits x.level
/-- The physical address a translation gives (R89). -/
def Xlate.phys (x : Xlate) (va : Nat) : Nat := x.frame + va % 2 ^ pageBits x.level
/-- The die of a core (R9). -/
def dieOf (core : Nat) : Nat := core / 96

/-- Put a translation into a cache of a capacity; a full one drops an entry of its choice (log entry 7). -/
def cacheXlate (cap victim : Nat) (l : List Xlate) (x : Xlate) : List Xlate :=
  let l := l.filter fun y => !(y.ctx == x.ctx && y.va == x.va && y.level == x.level)
  if l.length < cap then x :: l else x :: l.eraseIdx (victim % cap)

/-- The cache entry a walk's leaf makes. -/
def leafXlate (ctx va frame level : Nat) (w : Bool) : Xlate :=
  ⟨ctx, va >>> pageBits level <<< pageBits level, level, frame, w, 0⟩

/-- Fill a die's shared cache, and a core's (R90). -/
def fillDie (s : State) (die : Nat) (x : Xlate) : State :=
  { s with dtlb := tset [] s.dtlb die (cacheXlate 16384 (Config.xlateVictim s.draws) (tget [] s.dtlb die) x), draws := s.draws + 1 }
def fillCore (s : State) (core : Nat) (x : Xlate) : State :=
  let c := s.core core
  { s.setCore core { c with tlb := cacheXlate 64 (Config.xlateVictim s.draws) c.tlb { x with pins := 0 } } with draws := s.draws + 1 }

/-- A translation found without a walk in the pinned store or in a die's shared cache (R90, R106). -/
def findDie (s : State) (die ctx va : Nat) : Option Xlate :=
  match s.pinned.find? (·.covers ctx va) with
  | some x => some x
  | none => (tget [] s.dtlb die).find? (·.covers ctx va)
/-- A translation in a core's cache. -/
def inCore (s : State) (core ctx va : Nat) : Option Xlate := (s.core core).tlb.find? (·.covers ctx va)
/-- A translation found without a walk for a core: pinned, in the core's cache, or in its die's (R90, R106). -/
def findXlate (s : State) (core ctx va : Nat) : Option Xlate :=
  match s.pinned.find? (·.covers ctx va) with
  | some x => some x
  | none =>
    match inCore s core ctx va with
    | some x => some x
    | none => findDie s (dieOf core) ctx va

/-- A machine check for a poisoned table entry, behind that of an access through a CXL port that is down (R270, R284). -/
def walkCheck (s : State) (die : Nat) (pois : Option Nat) : State :=
  match pois with
  | some a => mcRecord (recordLost s a (lostLines s a 8)) 1 2 3 die 0 (physOf s a)
  | none => s

/-! ### Demand faults -/

/-- The outstanding fault of a fault page. -/
def faultOf (s : State) (ctx page : Nat) : Option PageFault := s.faults.find? fun f => f.ctx == ctx && f.page == page

/-- Side-log entries of a fault page that wait, of every team (R101). -/
def logged (s : State) (ctx page : Nat) : List LogEntry :=
  s.teams.flatMap fun t => t.log.filter fun e => e.ctx == ctx && faultPage e.va == page

/-- Start the service of a fault, or join the one outstanding (R102). That FID counts up from 0 is the model's choice (log
entry 132). -/
def demandFault (s : State) (ctx : Nat) (va : DWord) (agent kind level flags : Nat) (src launch : Word) : State :=
  match faultOf s ctx (faultPage va) with
  | some _ => s
  | none =>
    { s with
      faults := s.faults ++ [{ fid := s.hub.nextfid, ctx := ctx, page := faultPage va, agent := agent, kind := kind, level := level
                               flags := flags, src := src, launch := launch, va := va, time := s.cycle, written := false, retry := false }]
      hub := { s.hub with nextfid := s.hub.nextfid + 1 } }

/-- What a translation without a hold comes to: a physical address, a fault of a kind and level, or no walker is free. -/
inductive Trans where
  | ok (phys : Nat)
  | fault (kind level : Nat)
  | busy
  deriving DecidableEq, Repr

/-- A walk of a die's unit, by its key (R90). -/
def Walk.is (die ctx page : Nat) (w : Walk) : Bool := w.die == die && w.ctx == ctx && w.page == page
/-- The walks a die's unit runs: the first 256 of its list; the others wait for a walker (R90). -/
def running (s : State) (die : Nat) : List Walk := (s.walks.filter (·.die == die)).take 256
/-- A joined thread meets the walk's result in the cycle it comes: a fault, for it or for its write, holds it, or sends a store
or RED into the side log; else it goes on (R90, R99, R100). -/
def Thread.walked (die ctx page : Nat) (faults readOnly : Bool) (t : Thread) : Thread :=
  match t.hold with
  | some (.walk d c p w g) =>
    if d == die && c == ctx && p == page then
      { t with hold := if faults || (readOnly && w) then some (if g then .logs ctx page else .fault ctx page) else none } else t
  | _ => t
/-- The thread waits for a walk. -/
def Thread.walks (die ctx page : Nat) (t : Thread) : Bool :=
  match t.hold with | some (.walk d c p _ _) => d == die && c == ctx && p == page | _ => false
/-- Keep a translation in a core's cache (R90). -/
def keepXlate (s : State) (core ctx va : Nat) (x : Xlate) : State :=
  if (inCore s core ctx va).isSome then s else fillCore s core x
/-- A walk ends in a demand fault, whose record names the first request that meets it; a prefetch alone meets none (R102, R179). -/
def walkFault (s : State) (w : Walk) (meets : WalkReq → Bool) (kind level : Nat) : State :=
  match w.reqs.find? meets with
  | some q => demandFault s w.ctx q.va q.agent kind level q.flags q.src q.launch
  | none => s
/-- A walk ends: its leaf goes into the die's cache and those of the cores that joined, or it is a demand fault, which a joined
write to a read-only leaf meets as well; every request that joined gets the result in this cycle (R90, R99, R102). -/
def endWalk (s : State) (w : Walk) : State :=
  let s1 := { s with walks := s.walks.filter fun x => !(x.is w.die w.ctx w.page) }
  let va := w.page * 65536
  match walk s1 w.ctx va with
  | .leaf f level wr =>
    let x := leafXlate w.ctx va f level wr
    let s2 := fillDie s1 w.die x
    let s3 := if wr then s2 else walkFault s2 w (fun q => q.flags % 2 == 1) 1 level
    let cores := ((s3.threads.filter (Thread.walks w.die w.ctx w.page)).map (·.core)).eraseDups
    let s4 := cores.foldl (fun s core => keepXlate s core w.ctx va x) s3
    { s4 with threads := s4.threads.map (Thread.walked w.die w.ctx w.page false !wr) }
  | .bad kind level pois =>
    let s2 := walkFault (walkCheck s1 w.die pois) w (fun _ => true) kind level
    { s2 with threads := s2.threads.map (Thread.walked w.die w.ctx w.page true false) }

/-- The walker a die's unit gives a walk that ends at once: the walk of the page in flight, which ends now for all that joined
it; else a free one; none when all 256 are taken (R90; log entry 11). -/
def walker (s : State) (die ctx page : Nat) : Option State :=
  let run := running s die
  match run.find? (Walk.is die ctx page) with
  | some w => some (endWalk s w)
  | none => if 256 ≤ run.length then none else some s

/-- A walk for an agent at once; with no walker free it waits (R90; log entry 11). -/
def walkNow (s : State) (die ctx : Nat) (va : DWord) (write : Bool) : State × Trans :=
  let k := vaKey va
  match walker s die ctx (faultPage va) with
  | none => (s, .busy)
  | some s0 => match walk s0 ctx k with
    | .bad kind level pois => (walkCheck s0 die pois, .fault kind level)
    | .leaf f level w =>
      let x := leafXlate ctx k f level w
      (fillDie s0 die x, if write && !w then .fault 1 level else .ok (x.phys k))

/-- Translate for one of the hub's agents through a die's unit (R90). -/
def translateNow (s : State) (die ctx : Nat) (va : DWord) (write : Bool) : State × Trans :=
  if logged s ctx (faultPage va) != [] then (s, .fault 0 0)
  else match findDie s die ctx (vaKey va) with
    | some x => (s, if write && !x.w then .fault 1 x.level else .ok (x.phys (vaKey va)))
    | none => walkNow s die ctx va write

/-- Translate for an access of a core that holds no thread: its Tongs engine, a prefetch, a scout; through the core's cache
and its die's (R90). -/
def translateCore (s : State) (core ctx : Nat) (va : DWord) (write : Bool) : State × Trans :=
  let k := vaKey va
  if logged s ctx (faultPage va) != [] then (s, .fault 0 0)
  else match findXlate s core ctx k with
    | some x => if write && !x.w then (s, .fault 1 x.level) else (keepXlate s core ctx k x, .ok (x.phys k))
    | none =>
      let (s1, r) := walkNow s (dieOf core) ctx va write
      match r, findDie s1 (dieOf core) ctx k with
      | .ok _, some x => (keepXlate s1 core ctx k x, r)
      | _, _ => (s1, r)

/-! ### Eviction classes and what the caches hold (R97, R98, R107) -/

/-- The class a policy word gives the line of an address (R97). -/
def classOf (pol : Word) (va : DWord) : EClass :=
  let v := vaKey va / 128
  let h := bits v 0 8 ^^^ bits v 8 8 ^^^ bits v 16 8 ^^^ bits v 24 8 ^^^ bits v 32 8 ^^^ bits v 40 8 ^^^ bits v 48 2 ^^^ bits pol.toNat 8 8
  if h < bits pol.toNat 24 8 then .keep else if h < bits pol.toNat 16 8 then .normal else .stream

/-- The offset lies in host bias (R107). -/
def hostBias (s : State) (off : Nat) : Bool := nmem s.bias (off / 65536)

/-- The coherence step of an agent's access to offsets in host bias: it goes on once the host has answered for each of their
frames, which are asked for here (R107). -/
def cohere (s : State) (offs : List Nat) : State × Bool :=
  let fs := ((offs.filter (hostBias s)).map (· / 65536)).eraseDups
  let due := fs.filter fun f => !(s.coherent.contains f)
  if due == [] then ({ s with coherent := s.coherent.filter fun f => !(fs.contains f) }, true)
  else
    let ask := due.filter fun f => !(s.snoops.contains f)
    let s1 := { s with snoops := s.snoops ++ ask }
    (if ask == [] then s1 else { s1 with sent := s1.sent ++ [.snoop ask] }, false)

/-- Remove the last element that satisfies a test. -/
def dropLast {α : Type} (p : α → Bool) (l : List α) : List α := (l.reverse.eraseP p).reverse

/-- Evict the least recently used stream line, else normal, else keep (R98). -/
def evict (l : List (Nat × EClass)) : List (Nat × EClass) :=
  if l.any (·.2 == .stream) then dropLast (·.2 == .stream) l
  else if l.any (·.2 == .normal) then dropLast (·.2 == .normal) l
  else l.dropLast

/-- Demote the least recently used keep line when a set already holds 12 (R98). -/
def demote (l : List (Nat × EClass)) : List (Nat × EClass) :=
  if (l.filter (·.2 == .keep)).length < 12 then l
  else
    let last := (l.filter (·.2 == .keep)).getLast?
    l.map fun e => if some e == last then (e.1, .normal) else e

/-- Evict until at most n lines are left. -/
def evictTo (n : Nat) : Nat → List (Nat × EClass) → List (Nat × EClass)
  | 0, l => l
  | f + 1, l => if l.length ≤ n then l else evictTo n f (evict l)

/-- Touch a line of a set of n ways: a hit moves it to the front in the access's class, a miss allocates it; a keep
line first demotes one, then a full set evicts (R98). -/
def touchSet (ways : Nat) (l : List (Nat × EClass)) (line : Nat) (cl : EClass) : List (Nat × EClass) :=
  let rest := l.filter (·.1 != line)
  let kept := if cl == .keep then demote rest else rest
  (line, cl) :: evictTo (ways - 1) kept.length kept

/-- A line has left L2: what was written to it is written back, or dropped and recorded behind a CXL port that is down (R284). -/
def writeBack (s : State) (line : Nat) : State :=
  if nmem s.dirty line then
    let s1 := { s with dirty := ndel s.dirty line }
    if lost s1 (line * 128) then mcRecord s1 1 2 6 (tierPort s1 (line * 128)) 0 (physOf s1 (line * 128)) else s1
  else s
/-- Bring a line into its L2 set; nothing comes from behind a CXL port that is down (R95, R98, R284). -/
def touchL2 (s : State) (off : Nat) (cl : EClass) : State :=
  if lost s off then s else
  let old := tget [] s.l2 (l2Key off)
  let new := touchSet 16 old (off / 128) cl
  (old.filter fun e => !(new.any (·.1 == e.1))).foldl (fun s e => writeBack s e.1) { s with l2 := tset [] s.l2 (l2Key off) new }

/-- The log slots a core's threads hold, and the lines its L1 holds besides (R50). -/
def slotsUsed (s : State) (core : Nat) : Nat := (s.threads.filter fun t => t.core == core && t.scout.isSome).length
def l1Lines (s : State) (core : Nat) : Nat := (192 - (s.core core).pb.2.2) * 128 - 4 * slotsUsed s core
/-- A core's L1 gives up the lines beyond those its region holds (R50, R178). -/
def trimL1 (s : State) (core : Nat) : State :=
  let c := s.core core
  s.setCore core { c with l1 := evictTo (l1Lines s core) c.l1.length c.l1 }
/-- A line lies in a core's L1. -/
def inL1 (s : State) (core off : Nat) : Bool := (s.core core).l1.any fun e => e.1 == off / 128

/-- An access of a core brings its line into L2 and, unless it is a stream line, into L1; a line in host bias and what is
not memory are never cached, nor is what is lost (R95, R98, R107, R284). -/
def touch (s : State) (core off : Nat) (cl : EClass) : State :=
  if !(isMemory s off) || hostBias s off || lost s off then s
  else
    let hit := inL1 s core off
    let s1 := if hit then s else touchL2 s off cl
    let c := s1.core core
    let n := l1Lines s1 core
    if hit || (cl != .stream && n != 0) then s1.setCore core { c with l1 := touchSet n c.l1 (off / 128) cl } else s1

end Sys2Proof.Machine
end

