-- ==== Sys2Proof/Machine/Control.lean ====
section
/-! DEFINITION. Control transfers and the instructions that only wait or end their clause (R303, R325, R337, R338, R340,
R343, R344, R359, R417, R438, R455, R467, R473). -/
namespace Sys2Proof.Machine
open Sys2Proof

/-- A branch word's target (R303). -/
def branchTarget (c : Cur) (k : BitVec 18) : DWord := c.addr + 4 * k.signExtend 64

/-- The checks of a transfer's target: alignment, when a register gives it, then canonical form (R256, R303). -/
def targetBad (c : Cur) (fromReg : Bool) (to_ : DWord) : Option (Nat × DWord × Word) :=
  if fromReg && to_.toNat % 4 != 0 then some (0x01, c.addr, c.word)
  else if !(canonical to_) then some (0x08, to_, 1)
  else none

/-- A transfer: the registers it names, its condition and target sources, the link registers it writes, whether it is
taken and where to (R303, R325). -/
structure Jump where
  ill   : Bool
  uses  : List Nat
  srcs  : List Nat
  link  : List Nat
  reg   : Bool
  go    : List Word → Bool
  to_   : Cur → List Word → DWord

/-- A transfer of a thread or a script (R209, R210, R325). -/
def jumpOp (s : State) (j : Jump) : Host.Outcome State Fault Refusal :=
  withCur s fun c =>
    let linkRes := [loWord c.next, hiWord c.next]
    match c.who with
    | .thread u => onThread s u c none fun s t =>
      if t.inEpisode && j.srcs.any t.invalid then scoutStop s t .cond
      else
        let v := j.srcs.map fun r => (t.reg r).1
        let taken := j.go v
        let ill := j.ill || limited t j.srcs (taken && j.reg && (j.to_ c v).toNat % 4 != 0)
        checked s t c (regChecks t c ill j.uses j.srcs) <|
          checked s t c (if taken then targetBad c j.reg (j.to_ c v) else none) <|
            match scoutSave t j.link with
            | none => scoutStop s t .saves
            | some t1 =>
              let t2 := writeNow t1 (j.link.zip (clean linkRes)) false
              if taken then retireAt s t2 c (j.to_ c v) true else retireAt s t2 c c.next true
    | .script k =>
      let sc := s.script k
      match scriptChecks j.ill j.uses with
      | some code => endScript s k code
      | none =>
        let v := j.srcs.map fun r => sc.regs.getD r 0
        if !(j.go v) then scriptNext s k
        else match targetBad c j.reg (j.to_ c v) with
          | some (code, _, _) => endScript s k (if code == 0x01 then 0x01 else 0x05)
          | none => scriptJump (s.setScript k { sc with regs := (j.link.zip linkRes).foldl (fun l x => lset l x.1 x.2) sc.regs }) k (j.to_ c v)
    | .stream x n => packetError s x n 0x0001

/-- The target a pair holds. -/
def pairTarget (v : List Word) : DWord := pairOf (v.getD 0 0) (v.getD 1 0)

/-- BRA (R337). -/
def execBra (k : BitVec 18) (s : State) : Host.Outcome State Fault Refusal :=
  jumpOp s { ill := false, uses := [], srcs := [], link := [], reg := false, go := fun _ => true, to_ := fun c _ => branchTarget c k }
/-- BRC (R338). -/
def execBrc (r : Reg) (k : BitVec 18) (s : State) : Host.Outcome State Fault Refusal :=
  jumpOp s { ill := false, uses := [r.toNat], srcs := [r.toNat], link := [], reg := false, go := fun v => v.getD 0 0 != 0
             to_ := fun c _ => branchTarget c k }
/-- BRX (R340). -/
def execBrx (a : Reg) (s : State) : Host.Outcome State Fault Refusal :=
  jumpOp s { ill := !(Instr.wf (.brx a)), uses := pairRegs a, srcs := pairRegs a, link := [], reg := true, go := fun _ => true
             to_ := fun _ v => pairTarget v }
/-- CALL (R343). -/
def execCall (l : Reg) (k : BitVec 18) (s : State) : Host.Outcome State Fault Refusal :=
  jumpOp s { ill := !(Instr.wf (.call l k)), uses := pairRegs l, srcs := [], link := pairRegs l, reg := false, go := fun _ => true
             to_ := fun c _ => branchTarget c k }
/-- CALLX (R344). -/
def execCallx (d a : Reg) (s : State) : Host.Outcome State Fault Refusal :=
  jumpOp s { ill := !(Instr.wf (.callx d a)), uses := pairRegs d ++ pairRegs a, srcs := pairRegs a, link := pairRegs d, reg := true
             go := fun _ => true, to_ := fun _ v => pairTarget v }
/-- RET (R438). -/
def execRet (a : Reg) (s : State) : Host.Outcome State Fault Refusal :=
  jumpOp s { ill := !(Instr.wf (.ret a)), uses := pairRegs a, srcs := pairRegs a, link := [], reg := true, go := fun _ => true
             to_ := fun _ v => pairTarget v }

/-- NOP (R417). -/
def execNop (s : State) : Host.Outcome State Fault Refusal :=
  withCur s fun c =>
    match c.who with
    | .thread u => onThread s u c none fun s t => retire s t c
    | .script k => scriptNext s k
    | .stream x n => packetError s x n 0x0001

/-- YIELD: the thread is ready at the next clause with a new ready stamp (R473). -/
def execYield (s : State) : Host.Outcome State Fault Refusal :=
  threadOp s none fun s t c => endsScout s t (retire s { t with stamp := s.cycle } c)

/-- SLEEP for n: core cycles of a thread, microseconds of HTIME of a script (R455). -/
def sleepOp (ill : Bool) (n : Nat) (s : State) : Host.Outcome State Fault Refusal :=
  withCur s fun c =>
    match c.who with
    | .thread u => onThread s u c none fun s t =>
      endsScout s t <|
        checked s t c (regChecks t c ill [] []) <|
          if n == 0 then retire s { t with stamp := s.cycle } c
          else waitIn s t (.sleep (s.cycle + n) c.next)
    | .script k =>
      if ill then endScript s k 0x01
      else
        let sc := s.script k
        s.setScript k { sc with wait := some (.sleep (s.htime + n * 1000)), began := s.htime }
    | .stream x y => packetError s x y 0x0001

/-- SLEEP of an immediate (R455). -/
def execSleep (n : BitVec 11) (s : State) : Host.Outcome State Fault Refusal := sleepOp (!(Instr.wf (.sleep n))) n.toNat s
/-- SLEEP of a literal (R455). -/
def execSleepLiteral (n : Word) (s : State) : Host.Outcome State Fault Refusal := sleepOp (!(Instr.wf (.sleepLiteral n))) n.toNat s

/-- The event that the time of a sleeping thread, or of a script, has come: the thread is ready at its next clause, the
script goes on (R19, R455). -/
def execSleepExpire (thread : Nat) (s : State) : Host.Outcome State Fault Refusal :=
  let t := s.thread thread
  .next <| match t.status with
    | .waiting (.sleep till next) => if s.hasThread thread && till ≤ s.cycle then s.setThread (t.readyAt next s.cycle) else s
    | _ => match (List.range 4).find? fun k => scriptAsker k == thread with
      | none => s
      | some k => match (s.script k).wait with
        | some (.sleep till) => if (s.script k).running && till ≤ s.htime then scriptNext s k else s
        | _ => s

/-- TRAP: a thread takes the software trap, a script ends with the code (R467). -/
def execTrap (code : Byte) (s : State) : Host.Outcome State Fault Refusal :=
  withCur s fun c =>
    match c.who with
    | .thread u => onThread s u c none fun s t =>
      endsScout s t <|
        checked s t c (regChecks t c (!(Instr.wf (.trap code))) [] []) (takeTrap s t.uid code.toNat c.addr 0 c.addr)
    | .script k => endScript s k (if Instr.wf (.trap code) then code.toNat else 0x01)
    | .stream x n => packetError s x n 0x0001

/-- ERET: return from the handler, under the checks of %epc (R259, R359). -/
def execEret (s : State) : Host.Outcome State Fault Refusal :=
  threadOp s none fun s t c =>
    endsScout s t <|
      if !t.hnd || t.epc.toNat % 4 != 0 then takeTrap s t.uid 0x01 c.addr c.word c.addr
      else if !(canonical t.epc) then takeTrap s t.uid 0x08 t.epc 1 c.addr
      else leaveClause (returnFromTrap s t.uid) t

end Sys2Proof.Machine
end

