-- ==== Sys2Proof/Machine/Fabric.lean ====
section
/-! DEFINITION. The fabric's formats and paths: packets, frames, flits, routing, and the request lanes of a source
(R191, R192, R196, R198-R204, R206, R235). -/
namespace Sys2Proof.Machine
open Sys2Proof

/-- The packet types (R202). -/
def tSTORE : Nat := 0x01
def tRED : Nat := 0x02
def tLOAD : Nat := 0x03
def tATOM : Nat := 0x04
def tREPLY : Nat := 0x05
def tACK : Nat := 0x06
def tHOLD : Nat := 0x07
def tREFUSE : Nat := 0x08
def tBUSY : Nat := 0x09
def tCHUNK : Nat := 0x10
def tCOMMIT : Nat := 0x11
def tBELLOWS : Nat := 0x18
def tSWREQ : Nat := 0x20
def tSWREP : Nat := 0x21
def tSWREL : Nat := 0x22

/-- A packet's bytes: the 32-byte header and the payload (R200). -/
def packetBytes (p : Packet) : List Byte :=
  bytesOf (p.typ * 2 ^ 26 + p.op * 2 ^ 20 + p.ttl * 2 ^ 12 + p.data.length) 4 ++
  bytesOf (p.lane * 2 ^ 25 + p.ctx * 2 ^ 21 + p.src) 4 ++ bytesOf p.dst 4 ++ bytesOf p.serial 4 ++
  bytesOf (p.pmask * 2 ^ 47 + p.off) 8 ++ bytesOf p.va 8 ++ p.data

/-- The packet at the head of bytes, the bytes after it, and whether its reserved fields are zero; none when the bytes
end before it does; a REFUSE of a Bellows packet carries that packet's two words at 0x18 (R200, R235). -/
def parsePacket (l : List Byte) : Option (Packet × List Byte × Bool) :=
  if l.length < 32 then none
  else
    let w := fun i n => natOf ((l.drop i).take n)
    let w0 := w 0 4
    let w1 := w 4 4
    let w2 := w 8 4
    let q := w 16 8
    let v := w 24 8
    let len := bits w0 0 9
    let rest := l.drop 32
    let wide := bits w0 26 6 == tBELLOWS || (bits w0 26 6 == tREFUSE && natOf ((rest.drop 1).take 1) == tBELLOWS)
    if rest.length < len then none
    else
      some ({ typ := bits w0 26 6, op := bits w0 20 6, ttl := bits w0 12 8, lane := bits w1 25 6, ctx := bits w1 21 4, src := bits w1 0 21
              dst := bits w2 0 21, serial := w 12 4, pmask := bits q 47 16, off := bits q 0 47
              va := if wide then v else bits v 0 57, data := rest.take len },
            rest.drop len, bits w0 9 3 == 0 && bits w1 31 1 == 0 && bits w2 21 11 == 0 && bits q 63 1 == 0 && (wide || bits v 57 7 == 0) && len ≤ 256)

/-- The MAC address of a packet-plane port of a chip (R199). -/
def macOf (chip q : Nat) : Nat := 0x025647000000 + chip * 8 + q
/-- A MAC address's bytes in the order of transmission (IEEE 802.3). -/
def macBytes (m : Nat) : List Byte := (bytesOf m 6).reverse
/-- A frame: addresses, EtherType, packet, padding to 64 bytes, FCS (R199, R200). -/
def frameBytes (dst src etype : Nat) (p : Packet) : List Byte :=
  let b := macBytes dst ++ macBytes src ++ (bytesOf etype 2).reverse ++ packetBytes p
  let b := b ++ List.replicate (60 - b.length) 0
  b ++ bytesOf (crc32 b) 4

/-- A flit: header words, body filled with zeros to 244 bytes, CRC (R191). -/
def flitBytes (kind seq ackw : Nat) (body : List Byte) : List Byte :=
  let b := bytesOf (kind * 2 ^ 28 + seq) 4 ++ bytesOf ackw 4 ++ body ++ List.replicate (244 - body.length) 0
  b ++ bytesOf (crc32 b) 4

/-- Count a dropped packet or frame (R201). -/
def dropPacket (s : State) : State := { s with hub := { s.hub with pdrop := s.hub.pdrop + 1 } }

/-- The next hop's packet-plane port and chip (R201). -/
def route (s : State) (x : Nat) : Option (Nat × Nat) :=
  let e := (if x / 1024 != s.hub.chip / 1024 then tget 0 s.hub.grt (x / 1024) else tget 0 s.hub.lrt (x % 1024)).toNat
  if e / 2 ^ 31 == 1 then some (bits e 30 1, bits e 0 21) else none

/-- The lowest port LIVE to a chip under a context's lease (R203). -/
def livePort (s : State) (ctx x : Nat) : Option Nat :=
  (List.range 48).find? fun p => let t := s.port p; t.state == .live && t.leased && t.ctx == ctx && t.peer == x
/-- A path: a port, or the packet plane as 0x41 (R203). -/
def pathTo (s : State) (ctx x : Nat) : Nat := (livePort s ctx x).getD 0x41

/-- One data flit of a body: it takes the next SEQ, is sent, and is kept until acknowledged (R192). -/
def sendBody (s : State) (p : Nat) (body : List Byte) : State :=
  let t := s.port p
  (s.setPort p { t with txseq := (t.txseq + 1) % 2 ^ 24, replay := t.replay ++ [(t.txseq, body, 1)] }).send (.flit p (flitBytes 2 t.txseq 0 body))

/-- The waiting packet that goes first: of the lowest class, the oldest; what remains of one begun has class 0 (R203). -/
def firstWaiting (q : List (Nat × List Byte)) : Option (Nat × List Byte) :=
  q.foldl (fun (b : Option (Nat × List Byte)) x => match b with | none => some x | some y => if x.1 < y.1 then some x else b) none
/-- Fill the room left in a body from the waiting packets, end to end; the last may span into the next flit (R191). -/
def fillBody : Nat → Nat → List (Nat × List Byte) → List Byte × List (Nat × List Byte)
  | 0, _, q => ([], q)
  | f + 1, room, q =>
    match (if room == 0 then none else firstWaiting q) with
    | none => ([], q)
    | some x =>
      let q1 := q.erase x
      if x.2.length ≤ room then
        let (b, q2) := fillBody f (room - x.2.length) q1
        (x.2 ++ b, q2)
      else (x.2.take room, (0, x.2.drop room) :: q1)
/-- Send the waiting packets of a port while it is LIVE and its replay buffer has room (R192, R203). -/
def pumpPort : Nat → State → Nat → State
  | 0, s, _ => s
  | f + 1, s, p =>
    let t := s.port p
    if t.state == .live && t.replay.length < 4096 && t.queue != [] then
      let (body, q) := fillBody 9 244 t.queue
      pumpPort f (sendBody (s.setPort p { t with queue := q }) p body) p
    else s
/-- The same for all that waits: no packet takes more than three flits (R191, R200). -/
def pump (s : State) (p : Nat) : State := pumpPort (3 * (s.port p).queue.length) s p

/-- The priority class of a packet on a port: thread requests and their answers, Bellows traffic, chunks (R203). -/
def trafficClass (p : Packet) : Nat := if p.typ == tBELLOWS then 2 else if p.typ == tCHUNK || p.typ == tCOMMIT then 3 else 1
/-- The class of a background chunk (R170, R203). -/
def backgroundClass : Nat := 4

/-- Send a packet to the next hop on a packet-plane port (R199, R200). -/
def sendFrame (s : State) (q mac : Nat) (p : Packet) : State :=
  s.send (.frame q (frameBytes mac (macOf s.hub.chip q) (s.hub.plet.toNat % 65536) p))

/-- Send a packet of a class on a path; a caller looks at the route first (R200, R203). -/
def sendPacketAs (s : State) (path cls : Nat) (p : Packet) : State :=
  if path < 48 then
    let t := s.port path
    pump (s.setPort path { t with queue := t.queue ++ [(cls, packetBytes p)] }) path
  else match route s p.dst with
    | some (q, next) => sendFrame s q (macOf next q) p
    | none => dropPacket s
def sendPacket (s : State) (path : Nat) (p : Packet) : State := sendPacketAs s path (trafficClass p) p

/-- The path leads somewhere: a port, or a valid route (R201). -/
def hasRoute (s : State) (path x : Nat) : Bool := path < 48 || (route s x).isSome

/-- A message for the switch controller, in the name of a context (R198, R200). -/
def sendSwitch (s : State) (ctx typ : Nat) (data : List Byte) : State :=
  let p : Packet := { typ := typ, op := 0, ttl := 16, lane := 0, ctx := ctx, src := s.hub.chip, dst := 0, serial := 0, pmask := 0, off := 0, va := 0, data := data }
  sendFrame s (bits s.hub.swcm.toNat 48 1) (bits s.hub.swcm.toNat 0 48) p

/-! ### Request lanes at the source (R203, R204, R206) -/

/-- A thread's lane (R204). -/
def laneNo (t : Thread) : Nat := (t.slot + t.core) % 64
/-- A lane of a chip at the source. -/
def srcLane (s : State) (x lane : Nat) : SrcLane :=
  (s.lanes.find? fun l => l.chip == x && l.lane == lane).getD ⟨x, lane, 0, []⟩
def setSrcLane (s : State) (l : SrcLane) : State :=
  { s with lanes := s.lanes.filter (fun m => !(m.chip == l.chip && m.lane == l.lane)) ++ [l] }
/-- The outstanding requests of a thread that satisfy a test. -/
def threadReqs (s : State) (u : Nat) (f : SrcLane → Req → Bool) : List Req :=
  s.lanes.flatMap fun l => l.reqs.filter fun r => r.thread == u && f l r

/-- Record a deferred error of a thread (R130). -/
def Thread.deferred (t : Thread) (cause x : Nat) : Thread :=
  let w := t.remerr.toNat
  if bits w 31 1 == 0 then { t with remerr := BitVec.ofNat 32 (2 ^ 31 + cause * 2 ^ 28 + 2 ^ 21 + x) }
  else if bits w 21 7 == 127 then t
  else { t with remerr := t.remerr + 0x200000 }

/-- %einfo of a remote fault (R255). -/
def remoteInfo (cause x : Nat) : Word := BitVec.ofNat 32 (cause * 2 ^ 28 + x)

/-- What stands for a path that has changed since the thread's last request to a chip (R127, R206). -/
def changedPath : Nat := 0x100
/-- A thread whose lane is another one treats its next access to each chip as a path change (R204). -/
def Thread.newLane (t : Thread) : Thread := { t with paths := t.paths.map fun y => (y.1, changedPath) }
/-- The paths of the threads that no longer are those last used have changed, whatever they are when next used (R127, R203). -/
def notePaths (s : State) : State :=
  { s with threads := s.threads.map fun t =>
      { t with paths := t.paths.map fun y => if pathTo s (s.launchOfThread t).ctx y.1 == y.2 then y else (y.1, changedPath) } }

/-- How a request leaves: sent with its serial, held, or refused for want of a route. -/
inductive Issued where
  | sent (serial : Nat)
  | held
  | noRoute
  deriving DecidableEq, Repr

/-- A request of an agent takes its lane's next serial and leaves (R203, R204). -/
def postOn (s : State) (lane who ctx x typ op off : Nat) (va : DWord) (data : List Byte) (pmask : Nat) : State :=
  let path := pathTo s ctx x
  let ln := srcLane s x lane
  let p : Packet := { typ := typ, op := op, ttl := 16, lane := lane, ctx := ctx, src := s.hub.chip, dst := x
                      serial := ln.next, pmask := pmask, off := off, va := vaKey va, data := data }
  sendPacket (setSrcLane s { ln with next := (ln.next + 1) % 2 ^ 32, reqs := ln.reqs ++ [⟨p, 0, s.htime, false, false, path, who⟩] }) path p
/-- A thread's request leaves, and its path is the one last used (R203, R204). -/
def postRequest (s : State) (t : Thread) (ctx x typ op off : Nat) (va : DWord) (data : List Byte) (pmask : Nat) : State :=
  let s1 := postOn s (laneNo t) t.uid ctx x typ op off va data pmask
  let t1 := s1.thread t.uid
  s1.setThread { t1 with paths := t1.paths.filter (·.1 != x) ++ [(x, pathTo s ctx x)] }

/-- A thread's remote request: it waits on a path change while earlier ones are unacknowledged, and at 256 unacknowledged
requests of its lane; else it takes the lane's next serial and leaves (R127, R203, R204, R206). -/
def sendRequest (s : State) (t : Thread) (ctx x typ op off : Nat) (va : DWord) (data : List Byte) (pmask : Nat) : State × Issued :=
  let path := pathTo s ctx x
  let ln := srcLane s x (laneNo t)
  let moved := match t.paths.find? (·.1 == x) with | some y => y.2 != path | none => false
  if moved && (threadReqs s t.uid fun l _ => l.chip == x) != [] then (s, .held)
  else if 256 ≤ ln.reqs.length then (s, .held)
  else if !(hasRoute s path x) then (s, .noRoute)
  else (postRequest s t ctx x typ op off va data pmask, .sent ln.next)

end Sys2Proof.Machine
end

