-- ==== Sys2Proof/Machine/Copies.lean ====
section
/-! DEFINITION. What a copy is made of: shape records, walks, bounding intervals, and the range locks of registered
copies as every access meets them (R117, R119, R151-R155, R161, R163, R164). -/
namespace Sys2Proof.Machine
open Sys2Proof

/-! ### The shape record and its fields (R151-R153) -/

/-- A shape record from its 192 bytes; bad marks a non-zero reserved field. -/
def parseShape (l : List Byte) : Shape :=
  let w := fun o n => natOf ((l.drop o).take n)
  let six := List.range 6
  { ctrl := BitVec.ofNat 32 (w 0 4), cwa := BitVec.ofNat 64 (w 8 8), soff := BitVec.ofNat 64 (w 16 8)
    cnt := six.map fun k => w (0x20 + 24 * k) 4
    sstr := six.map fun k => BitVec.ofNat 64 (w (0x28 + 24 * k) 8)
    dstr := six.map fun k => BitVec.ofNat 64 (w (0x30 + 24 * k) 8)
    bad := w 4 4 != 0 || w 24 8 != 0 || w 0xB0 16 != 0 || six.any fun k => w (0x24 + 24 * k) 4 != 0 }

def Shape.f (h : Shape) (lo n : Nat) : Nat := bits h.ctrl.toNat lo n
def Shape.dsp (h : Shape) : Bool := h.f 26 1 == 1
def Shape.ssp (h : Shape) : Bool := h.f 25 1 == 1
def Shape.cwe (h : Shape) : Bool := h.f 24 1 == 1
def Shape.path (h : Shape) : Nat := h.f 16 7
def Shape.snapshot (h : Shape) : Bool := h.f 15 1 == 1
def Shape.red (h : Shape) : Nat := h.f 12 3
def Shape.sat (h : Shape) : Bool := h.f 11 1 == 1
def Shape.dfmt (h : Shape) : Nat := h.f 4 4
def Shape.sfmt (h : Shape) : Nat := h.f 0 4

/-- The bytes of an element of a format; 0 for a reserved code (R153). -/
def elemBytes (f : Nat) : Nat :=
  match f with
  | 0 => 1 | 1 => 2 | 2 => 4 | 3 => 8 | 4 => 16 | 5 => 4 | 6 => 2 | 7 => 2 | 8 => 1 | 9 => 1 | 10 => 4 | 11 => 1 | 12 => 1 | _ => 0

/-- The floating-point formats of a copy (R153). -/
def copyFmt (f : Nat) : Fmt := match f with | 5 => fp32 | 6 => bf16 | 7 => fp16 | 8 => e4m3 | 9 => e5m2 | 11 => e4m3 | _ => e5m2
def isFloatCode (f : Nat) : Bool := 5 ≤ f && f ≤ 9

/-- The format combinations of R154. -/
def formatsOk (h : Shape) : Bool :=
  let s := h.sfmt
  let d := h.dfmt
  let mx := s == 11 || s == 12
  if h.red == 0 then
    (s ≤ 4 && d == s) || (s == 10 && d == 10) || (isFloatCode s && isFloatCode d) || (mx && (d == 5 || d == 6))
  else h.red ≤ 3 && ((s == 10 && d == 10) || (isFloatCode s && (d == 5 || d == 6 || d == 7)))

/-! ### Walks (R155) -/

/-- Elements of the walk. -/
def Shape.count (h : Shape) : Nat := h.cnt.foldl (· * ·) 1
/-- The chunk of a size: elements per chunk (R165). -/
def Shape.perChunk (h : Shape) : Nat := 4096 / max 1 (elemBytes h.dfmt)
/-- Chunks of the walk. -/
def Shape.chunks (h : Shape) : Nat := (h.count + h.perChunk - 1) / h.perChunk

/-- The sum of index times stride of element n, counter 0 innermost. -/
def walkOffset : List Nat → List DWord → Nat → Int
  | c :: cs, d :: ds, n => ((n % c : Nat) : Int) * d.toInt + walkOffset cs ds (n / c)
  | _, _, _ => 0

/-- An address or scratch offset of element n of a side. -/
def sideAt (scratch : Bool) (base : DWord) (cnt : List Nat) (str : List DWord) (n : Nat) : Nat :=
  let x := walkOffset cnt str n
  if scratch then ((base.toNat % 2 ^ 32 : Nat) + x).emod (2 ^ 32 : Nat) |>.toNat
  else (base.toInt + x).emod (2 ^ 64 : Nat) |>.toNat
def Copy.srcAt (c : Copy) (n : Nat) : Nat := sideAt c.shape.ssp c.src c.shape.cnt c.shape.sstr n
def Copy.dstAt (c : Copy) (n : Nat) : Nat := sideAt c.shape.dsp c.dst c.shape.cnt c.shape.dstr n

/-- The least and the greatest offset of a walk. -/
def extent : List Nat → List DWord → Int × Int
  | c :: cs, d :: ds =>
    let (lo, hi) := extent cs ds
    let m : Int := ((c - 1 : Nat) : Int) * d.toInt
    (lo + min 0 m, hi + max 0 m)
  | _, _ => (0, 0)

/-- The bounding interval of a side in bytes, both ends touched (R163). -/
def interval (scratch : Bool) (base : DWord) (cnt : List Nat) (str : List DWord) (n : Nat) : Int × Int :=
  let b : Int := if scratch then (base.toNat % 2 ^ 32 : Nat) else base.toInt
  let (lo, hi) := extent cnt str
  (b + lo, b + hi + n - 1)
def Copy.srcRange (c : Copy) : Int × Int := interval c.shape.ssp c.src c.shape.cnt c.shape.sstr (elemBytes c.shape.sfmt)
def Copy.dstRange (c : Copy) : Int × Int := interval c.shape.dsp c.dst c.shape.cnt c.shape.dstr (elemBytes c.shape.dfmt)

/-- A range of bytes widened to units of a size, as numbers of the first and the last unit. -/
def units (r : Int × Int) (u : Nat) : Int × Int := (r.1.fdiv u, r.2.fdiv u)
/-- The number of units two ranges share. -/
def shared (a b : Int × Int) (u : Nat) : Nat :=
  let x := units a u
  let y := units b u
  (min x.2 y.2 - max x.1 y.1 + 1).toNat

/-! ### Registered copies and their locks (R117, R119, R163, R164) -/

/-- The copy holds its locks (R159, R163, R166). -/
def Copy.registered (c : Copy) : Bool :=
  match c.phase with
  | .circuit | .running | .suspended _ _ | .paused | .ended _ => true
  | _ => false

/-- What a translation that is looked at and not cached gives. -/
def peek (s : State) (die ctx va : Nat) : Option Nat :=
  match findDie s die ctx va with
  | some x => some (x.phys va)
  | none => match walk s ctx va with
    | .leaf f l _ => some (f + va % 2 ^ pageBits l)
    | .bad _ _ _ => none

/-- The header a thread stands at, where it can be seen without a walk's effects: in the core's fetched pieces, or in memory. -/
def headerAt (s : State) (t : Thread) : Option Word :=
  let ctx := (s.launchOfThread t).ctx
  let a := t.mid.getD t.pc
  match (s.core t.core).icache.find? fun e => e.1 == ctx && e.2.1 == (a &&& ~~~(15 : DWord)) with
  | some e => some (e.2.2.getD (a.toNat % 16 / 4) 0)
  | none =>
    match peek s (dieOf t.core) ctx (vaKey a) with
    | some phys => if isLocal s phys && isMemory s (offOf phys) then some (BitVec.ofNat 32 (s.num (offOf phys) 4)) else none
    | none => none
/-- WAIT of a header (R300). -/
def hdrWaits (h : Word) (i : Nat) : Bool := h.getLsbD (20 + i)
/-- The counters that a header's Wait field names are zero; a scout's are taken as zero (R176, R317). -/
def waitsMet (h : Word) (t : Thread) : Bool := t.inEpisode || (List.range 6).all fun i => !(hdrWaits h i) || t.sb.getD i 0 == 0
/-- A thread whose counters have fallen: when that makes it ready at a clause boundary, its ready stamp is this cycle (R19,
R20). -/
def renew (s : State) (old new : Thread) : Thread :=
  match headerAt s new with
  | some h => if new.status == .ready && new.mid.isNone && !(waitsMet h old) && waitsMet h new then { new with stamp := s.cycle } else new
  | none => new

/-- Every registered copy with its core and tag. -/
def lockHolders (s : State) : List (Nat × Nat × Copy) :=
  s.cores.flatMap fun (n, c) => c.tags.filterMap fun (i, t) =>
    match t.copy with
    | some y => if y.registered then some (n, i, y) else none
    | none => none

/-- The pages of a global range, and the byte of it that lies at a physical address, at a line's size (R163, R164). -/
def rangePages (r : Int × Int) : List Int :=
  let p := units r 65536
  (List.range (p.2 - p.1 + 1).toNat).map fun i => p.1 + i
def inGlobalRange (s : State) (die ctx : Nat) (r : Int × Int) (phys : Nat) : Bool :=
  let l := units r 128
  (rangePages r).any fun p =>
    match peek s die ctx (p * 65536 |>.emod (2 ^ 57 : Nat) |>.toNat) with
    | some f => f ≤ phys && phys < f + 65536 && decide (l.1 ≤ (p * 65536 + (phys - f : Nat)).fdiv 128 ∧ (p * 65536 + (phys - f : Nat)).fdiv 128 ≤ l.2)
    | none => false
/-- A scratch offset lies in a range of 8-byte words. -/
def inScratchRange (r : Int × Int) (off : Nat) : Bool :=
  let w := units r 8
  decide (w.1 ≤ (off / 8 : Nat) ∧ ((off / 8 : Nat) : Int) ≤ w.2)

/-- A place an access touches: a physical address, or a scratch offset of a team. -/
inductive Loc where
  | glob (phys : Nat)
  | scr (team off : Nat)
  deriving DecidableEq, Repr

/-- A place lies in the destination or in the source of a copy. -/
def Copy.covers (s : State) (core : Nat) (c : Copy) (dst : Bool) (l : Loc) : Bool :=
  let r := if dst then c.dstRange else c.srcRange
  match l, (if dst then c.shape.dsp else c.shape.ssp) with
  | .glob p, false => inGlobalRange s (dieOf core) c.ctx r p
  | .scr t o, true => t == c.team && inScratchRange r o
  | _, _ => false

/-- The bytes of the unit of a place that an aside copy holds, and whether it holds them (R119). -/
def Loc.line : Loc → Nat
  | .glob p => p / 128
  | .scr _ o => o / 128
def Copy.asided (c : Copy) (l : Loc) : Bool := c.aside.any fun e => e.1 / 128 == l.line

/-- The elements of a copy from its cursor on read a line of its source (R119, R171). -/
def Copy.reads (s : State) (core : Nat) (c : Copy) (l : Loc) : Bool :=
  let n := elemBytes c.shape.sfmt
  let from_ := c.cursor * c.shape.perChunk
  (List.range (c.shape.count - from_)).any fun i =>
    (List.range n).any fun j =>
      let a := c.srcAt (from_ + i) + j
      match l with
      | .glob p => !c.shape.ssp && (peek s (dieOf core) c.ctx (a % 2 ^ 57)).any (· / 128 == p / 128)
      | .scr _ o => c.shape.ssp && a / 128 == o / 128

/-- What a lock does to an access: none, a conflict of a kind with the holder, or a stall on a snapshot's source. -/
inductive LockHit where
  | free
  | conflict (core tag kind : Nat)
  | stall (core tag : Nat)
  deriving DecidableEq, Repr

/-- The copy has its status and reads no more. -/
def Copy.over (c : Copy) : Bool := match c.phase with | .ended _ | .failed _ => true | _ => false
/-- A line of a snapshot's source that a write must not change yet: not set aside, and still to be read or never read (R119). -/
def Copy.stalls (s : State) (core : Nat) (c : Copy) (l : Loc) : Bool :=
  c.shape.snapshot && !c.over && c.covers s core false l && !(c.covers s core true l) && !(c.asided l) &&
    (c.reads s core l || !(Copy.reads s core { c with cursor := 0 } l))

/-- The lock of one copy against an access: a destination meets every access, a source meets writes (R117). -/
def lockOf (s : State) (core tag : Nat) (c : Copy) (l : Loc) (write : Bool) : LockHit :=
  if c.covers s core true l then .conflict core tag (if write then 2 else 0)
  else if write && c.covers s core false l then
    if !c.shape.snapshot then .conflict core tag 1
    else if c.stalls s core l then .stall core tag
    else .free
  else .free

/-- The snapshot copies that wait to register: their reads come at their issue (R119). -/
def waitingSnapshots (s : State) : List (Nat × Nat × Copy) :=
  s.cores.flatMap fun (n, c) => c.tags.filterMap fun (i, t) =>
    match t.copy with
    | some y => if y.phase == .queued && y.shape.snapshot then some (n, i, y) else none
    | none => none
/-- The snapshot copies, registered or waiting to be, whose issue-time content a write to a place would change (R119). -/
def snapshotsOver (s : State) (l : Loc) : List (Nat × Nat × Copy) :=
  (lockHolders s ++ waitingSnapshots s).filter fun (core, _, c) => c.stalls s core l
/-- The first of them whose issue-time content a write to a place would change. -/
def snapshotHit (s : State) (l : Loc) : Option (Nat × Nat) :=
  (waitingSnapshots s).findSome? fun (core, tag, c) => if c.stalls s core l then some (core, tag) else none

/-- The core number that stands for a copy of another chip (R163). -/
def farCore : Nat := 0x1FF
/-- The copy that a lock of another chip belongs to: chip, core, tag, issue serial. -/
def FarLock.key (f : FarLock) : Nat × Nat × Nat × Nat := (f.chip, f.core, f.tag, f.serial)
/-- What the lock of a copy of another chip does to an access of a line it covers (R117, R163). -/
def farLockOf (s : State) (f : FarLock) (l : Loc) (write : Bool) : LockHit :=
  match l with
  | .glob p =>
    if isLocal s p && f.off / 128 ≤ offOf p / 128 && offOf p / 128 ≤ (f.off + f.len - 1) / 128 && f.len != 0 then
      if f.dst then .conflict farCore f.tag (if write then 2 else 0) else if write then .conflict farCore f.tag 1 else .free
    else .free
  | .scr _ _ => .free

/-- The first lock an access of n places meets, place by place: its index and what it does. -/
def locksHit (s : State) (ls : List Loc) (write : Bool) : Option (Nat × LockHit) :=
  let hs := lockHolders s
  let met := fun h : LockHit => match h with | .free => none | h => some h
  ls.zipIdx.findSome? fun (l, i) =>
    match hs.findSome? fun (core, tag, c) => met (lockOf s core tag c l write) with
    | some h => some (i, h)
    | none => match s.farLocks.findSome? fun f => met (farLockOf s f l write) with
      | some h => some (i, h)
      | none => if write then (snapshotHit s l).map fun x => (i, .stall x.1 x.2) else none

/-- %einfo of a range conflict (R117). -/
def conflictInfo (core tag kind : Nat) : Word := BitVec.ofNat 32 (core * 2 ^ 23 + kind * 2 ^ 6 + tag)

/-- A writer waits for a line of a snapshot's source (R119). -/
def wantAside (s : State) (core tag line : Nat) : State :=
  let c := s.core core
  let t := tget {} c.tags tag
  match t.copy with
  | none => s
  | some y => s.setCore core { c with tags := tset {} c.tags tag { t with copy := some { y with wanted := nins y.wanted line } } }

/-- What another agent's access of some places meets: it goes on, or it waits for a lock, and on a snapshot's source for the
line to be copied aside (R117, R119). -/
def lockWait (s : State) (ls : List Loc) (write : Bool) : State × Bool :=
  match locksHit s ls write with
  | none => (s, false)
  | some (i, .stall core tag) => (wantAside s core tag ((ls.getD i (.glob 0)).line), true)
  | some _ => (s, true)

/-- The lines of a copy's global side: physical lines of this chip or another; where no page is present, the line of the
context's virtual address, to which the lock is bound (R163, R164). -/
def linesOf (s : State) (core : Nat) (c : Copy) (dst : Bool) : List Nat :=
  let l := units (if dst then c.dstRange else c.srcRange) 128
  if (if dst then c.shape.dsp else c.shape.ssp) then []
  else (List.range (l.2 - l.1 + 1).toNat).map fun i =>
    let va := (((l.1 + i) * 128).emod (2 ^ 57 : Nat)).toNat
    match peek s (dieOf core) c.ctx va with
    | some p => p / 128
    | none => 2 ^ 62 + c.ctx * 2 ^ 57 + va / 128

end Sys2Proof.Machine
end

