-- ==== Sys2Proof/Machine/Hub.lean ====
section
/-! DEFINITION. The hub's register blocks: what a read of each word returns, who may reach each block, and the plain
writes (R4, R5, R92, R93, R96, R185, R197, R201, R236, R238, R272, R281, R282, R286, R288). -/
namespace Sys2Proof.Machine
open Sys2Proof

/-- The blocks of the hub's register space (R92). -/
inductive Block where
  | sems
  | translation
  | scout
  | ports
  | fabric
  | bellows
  | hearth
  | checks
  | link
  | telemetry
  | mgmt
  deriving DecidableEq, Repr

/-- The block of an offset and the offset inside it; none where nothing is assigned (R92). -/
def blockOf (off : Nat) : Option (Block × Nat) :=
  let o := off - 0x7F0000000000
  if off < 0x7F0000000000 then none
  else if o < 0x100000 then (if o % 0x10000 < 0x800 then some (.sems, o) else none)
  else if o < 0x100020 then some (.translation, o - 0x100000)
  else if 0x120000 ≤ o && o < 0x121000 then some (.scout, o - 0x120000)
  else if 0x140000 ≤ o && o < 0x140C00 then some (.ports, o - 0x140000)
  else if 0x150000 ≤ o && o < 0x153020 then some (.fabric, o - 0x150000)
  else if 0x160000 ≤ o && o < 0x160300 then some (.bellows, o - 0x160000)
  else if 0x170000 ≤ o && o < 0x170400 then some (.hearth, o - 0x170000)
  else if 0x180000 ≤ o && o < 0x180100 then some (.checks, o - 0x180000)
  else if 0x190000 ≤ o && o < 0x1900A0 then some (.link, o - 0x190000)
  else if 0x1A0000 ≤ o && o < 0x1A0014 then some (.telemetry, o - 0x1A0000)
  else if 0x1B0000 ≤ o && o < 0x1B001C then some (.mgmt, o - 0x1B0000)
  else none

/-- A host window's number (R281). -/
def windowOf (off : Nat) : Option Nat := if 0x7F8000000000 ≤ off then some ((off - 0x7F8000000000) / 2 ^ 36) else none
/-- The host address an offset of a window reaches (R281). -/
def hostAddr (s : State) (off : Nat) : Nat :=
  (tget 0 s.hub.hwbase ((off - 0x7F8000000000) / 2 ^ 36)).toNat + off % 2 ^ 36
def windowOn (s : State) (off : Nat) : Bool := match windowOf off with | some w => nmem s.hub.hwen w | none => false

/-- The low or the high word of a doubleword register. -/
def half (x : DWord) (o : Nat) : Word := if o % 8 == 0 then loWord x else hiWord x
/-- A word from bit fields: value and low bit. -/
def fields (l : List (Nat × Nat)) : Word := BitVec.ofNat 32 (l.foldl (fun r x => r + x.1 * 2 ^ x.2) 0)
def one (b : Bool) : Nat := if b then 1 else 0

/-- The code of a port's state (R194). -/
def PState.code : PState → Nat
  | .dark => 0
  | .locking => 1
  | .trained => 2
  | .live => 3
  | .fault => 4
/-- PSTAT (R197). -/
def pstat (t : Port) : Word :=
  fields [(t.state.code, 29), (t.cause, 25), (t.dead.toNat, 17), (one t.leased, 16), (t.ctx, 12)]
def portWord (t : Port) (o : Nat) : Word :=
  match o with
  | 0x00 => pstat t
  | 0x04 => fields [(t.ppeer, 26), (t.peer, 0)]
  | 0x08 | 0x0C => half (BitVec.ofNat 64 t.lend) o
  | 0x10 | 0x14 => half t.pcorr o
  | 0x18 => t.punc
  | 0x1C => t.prpl
  | 0x20 => t.ptrn
  | 0x24 => t.ltag
  | _ => 0

/-- SCST's state: a running script that waits is waiting (R236). -/
def scst (sc : Script) : Word :=
  fields [(if !sc.running then 0 else if sc.wait.isSome then 2 else 1, 29), (sc.ctx, 20), (sc.code, 0)]
def bellowsWord (s : State) (o : Nat) : Word :=
  if o < 0x100 then
    let sc := s.script (o / 0x40)
    match o % 0x40 with
    | 0 => scst sc
    | 8 | 12 => half sc.pc o
    | _ => 0
  else if o < 0x200 then
    let g := s.graph ((o - 0x100) / 0x20)
    match o % 0x20 with
    | 0 => fields [(g.state, 30), (g.ctx, 16), (g.status, 0)]
    | 4 => g.run
    | 8 => BitVec.ofNat 32 g.ndone
    | _ => 0
  else
    let r := s.rot ((o - 0x200) / 0x40)
    match o % 0x40 with
    | 0 => fields [(r.state, 30), (r.ctx, 20), (r.status, 0)]
    | 4 => r.inst
    | 8 => BitVec.ofNat 32 r.own
    | 12 => BitVec.ofNat 32 r.fnxt
    | 16 => r.rdrpi
    | 20 => r.rdrpg
    | _ => 0

/-- The Hearth's registers of a context (R238). -/
def hearthWord (s : State) (o : Nat) : Word :=
  let x := s.ctx (o / 0x40)
  match o % 0x40 with
  | 0 | 4 => half x.cxrec o
  | 8 => fields [(one x.en, 31)]
  | 12 => fields [(one x.active, 31), (x.err, 0)]
  | 16 | 20 => half x.svrpl o
  | 24 => x.labrt
  | _ => 0

/-- A machine-check register (R272). -/
def cexclWord (s : State) (w : Nat) : DWord :=
  (List.range 64).foldl (fun (r : DWord) (b : Nat) => if nmem s.hub.cexcl (64 * w + b) then r ||| (1#64 <<< b) else r) 0
def checksWord (s : State) (o : Nat) : Word :=
  let h := s.hub
  match o with
  | 0 | 4 => half h.mcbase o
  | 8 => h.mclog
  | 12 => h.mcctl
  | 16 | 20 => half h.mcprod o
  | 24 | 28 => half h.mccons o
  | _ => if 0x20 ≤ o && o < 0x50 then half (cexclWord s ((o - 0x20) / 8)) o else 0

/-- A HueriLink register (R281). -/
def linkWord (s : State) (o : Nat) : Word :=
  let h := s.hub
  if o < 0x80 then
    match o % 16 with
    | 0 | 4 => half (tget 0 h.hwbase (o / 16)) o
    | 8 => fields [(one (nmem h.hwen (o / 16)), 31)]
    | _ => 0
  else match o with
    | 0x80 | 0x84 => half (h.hipend.setWidth 64) o
    | 0x88 | 0x8C => half (h.himask.setWidth 64) o
    | 0x90 | 0x94 => half ((h.hipend >>> 64).setWidth 64) o
    | _ => half ((h.himask >>> 64).setWidth 64) o

/-- The word a read of a block returns (R4, R5). -/
def blockWord (s : State) (b : Block) (o : Nat) : Word :=
  let h := s.hub
  match b with
  | .sems => half (s.sem (o / 0x10000) (o % 0x10000 / 8)) o
  | .translation =>
    match o with
    | 0 | 4 => half h.xiva o
    | 8 => h.xivc
    | 0x10 => h.xisq
    | 0x18 | 0x1C => half h.frpl o
    | _ => 0
  | .scout => half (tget 0 h.scoutc (o / 0x100 * 32 + o % 0x100 / 8)) o
  | .ports => portWord (s.port (o / 0x40)) (o % 0x40)
  | .fabric =>
    if o < 0x2000 then tget 0 h.grt (o / 4)
    else if o < 0x3000 then tget 0 h.lrt ((o - 0x2000) / 4)
    else match o with
      | 0x3000 => h.plet
      | 0x3008 | 0x300C => half (BitVec.ofNat 64 s.htime) o
      | 0x3010 | 0x3014 => half h.swcm o
      | 0x3018 | 0x301C => half h.pdrop o
      | _ => 0
  | .bellows => bellowsWord s o
  | .hearth => hearthWord s o
  | .checks => checksWord s o
  | .link => linkWord s o
  | .telemetry =>
    match o with
    | 0 => h.pwravg
    | 4 => h.pwrlim
    | 8 => h.tinlet
    | 12 => h.tjmax
    | 16 => h.fclk
    | _ => 0
  | .mgmt =>
    match o with
    | 0 => fields [(h.stage, 28), (h.fstep, 24)]
    | 8 => fields [(one h.mgbusy, 31), (h.mgcmd.toNat, 0)]
    | 0x10 | 0x14 => half h.mgarg o
    | 0x18 => h.mgrsp.setWidth 32
    | _ => 0

/-- A read of 4 or 8 bytes of a block. -/
def blockRead (s : State) (b : Block) (o size : Nat) : DWord :=
  if size == 8 then pairOf (blockWord s b o) (blockWord s b (o + 4)) else (blockWord s b o).setWidth 64

/-- A thread may read an aligned access of 4 or 8 bytes of a block: semaphores by 8, the scout counters of its own
context by 8, ports, HTIME, the Bellows block, telemetry (R93, R185, R197, R201, R236, R246, R288). -/
def threadReads (ctx : Nat) (b : Block) (o size : Nat) : Bool :=
  match b with
  | .sems => size == 8
  | .scout => size == 8 && o / 0x100 == ctx
  | .ports | .bellows | .telemetry => true
  | .fabric => o == 0x3008 || (o == 0x300C && size == 4)
  | _ => false
/-- A thread may store to a block (R185, R246). -/
def threadWrites (ctx : Nat) (b : Block) (o size : Nat) : Bool :=
  match b with
  | .sems => size == 8
  | .scout => size == 8 && o / 0x100 == ctx
  | _ => false

/-- Write a scout counter; the reserved ones ignore it (R186). -/
def scoutWrite (s : State) (o : Nat) (v : DWord) : State :=
  if o % 0x100 < 0x68 then { s with hub := { s.hub with scoutc := tset 0 s.hub.scoutc (o / 0x100 * 32 + o % 0x100 / 8) v } } else s

/-- A thread's store to a block it may write. -/
def threadStore (s : State) (b : Block) (o : Nat) (v : DWord) : State :=
  match b with
  | .sems => semWrite s (o / 0x10000) (o % 0x10000 / 8) v
  | .scout => scoutWrite s o v
  | _ => s

end Sys2Proof.Machine
end

