-- ==== Sys2Proof/Machine/Access.lean ====
section
/-! DEFINITION. How a thread's access to global memory or scratch is performed, piece by piece: translation and its holds,
the side log, range locks, poison, blocks, host windows and other chips (R51, R86, R87, R93, R94, R99-R101, R105, R107,
R109, R114, R117, R119, R126-R129, R133, R269, R270). -/
namespace Sys2Proof.Machine
open Sys2Proof

/-! ### Pieces (R114) -/

/-- The greatest natural size, at most 16 bytes, that is aligned at an address and fits. -/
def pieceSize (a n : Nat) : Nat := ([16, 8, 4, 2].find? fun p => a % p == 0 && p ≤ n).getD 1
def piecesFrom : Nat → Nat → Nat → List (Nat × Nat)
  | 0, _, _ => []
  | f + 1, a, n => if n == 0 then [] else (a, pieceSize a n) :: piecesFrom f (a + pieceSize a n) (n - pieceSize a n)
/-- The maximal naturally aligned pieces that cover n ≤ 16 bytes, in ascending address. -/
def pieces (a n : Nat) : List (Nat × Nat) := piecesFrom 16 a n

/-! ### Read-modify-write (R328, R330, R435) -/

/-- An integer operation on n bytes: 0 add, 1 min, 2 max, 3 and, 4 or, 5 xor, 6 exchange, 7 compare and swap, which writes
nothing when the comparison fails. -/
def intRmw (n op old x nv : Nat) : Option Nat :=
  match op with
  | 0 => some ((old + x) % 2 ^ (8 * n))
  | 1 => some (if sext x (8 * n) < sext old (8 * n) then x else old)
  | 2 => some (if sext old (8 * n) < sext x (8 * n) then x else old)
  | 3 => some (old &&& x)
  | 4 => some (old ||| x)
  | 5 => some (old ^^^ x)
  | 6 => some x
  | _ => if old == x then some nv else none
/-- A floating-point operation: 0 add, 1 min, 2 max (R66, R69, R84). -/
def fpRmw (f : Fmt) (op old x : Nat) : Nat :=
  match op with
  | 0 => (fAdd f .rne false old x).1
  | 1 => fMin f old x
  | _ => fMax f old x
/-- The new value of n bytes under an operation numbered as RED numbers them, and 6 and 7 as ATOM does (R327, R434). -/
def rmwNew (n opn old : Nat) (x : List Byte) : Option Nat :=
  let a := natOf (x.take n)
  if opn < 8 then intRmw n opn old a (natOf (x.drop n))
  else some (fpRmw (if n == 4 then fp32 else if opn < 12 then fp16 else bf16) (opn % 4) old a)

/-! ### The access -/

/-- What an access does to each piece: read it, write it, or read and write it with an operation, with or without an
answer. -/
inductive Deed where
  | load
  | store
  | rmw (opn : Nat) (answers : Bool)
  deriving DecidableEq, Repr

/-- An access of a thread: its pieces by address or scratch offset, the bytes it stores or its operand, their poison,
whether poisoned memory traps, the FLAGS its fault record shows, the blocks of registers it may reach (context, block,
offset, size), whether windows and other chips are open to it, whether it reads a shape record (R132), and the class of its
lines. -/
structure Acc where
  deed    : Deed
  scr     : Bool
  ps      : List (Nat × Nat)
  data    : List Byte := []
  pois    : Bool := false
  tight   : Bool := false
  flags   : Nat := 0
  blocks  : Nat → Block → Nat → Nat → Bool := fun _ _ _ _ => false
  windows : Bool := false
  remotes : Bool := false
  shape   : Bool := false
  cls     : DWord → EClass := fun _ => .normal

def Acc.write (a : Acc) : Bool := a.deed != .load
/-- A fault of this access retires into the side log (R99). -/
def Acc.logs (a : Acc) : Bool := match a.deed with | .store => true | .rmw _ answers => !answers | .load => false

/-- %einfo of fatal translation (R109). -/
def xlatInfo (level : Nat) (write : Bool) (reason : Nat) : Word := fields [(level, 5), (one write, 4), (reason, 0)]

/-- What lies at a physical address (R92, R94). -/
inductive Spot where
  | mem (off : Nat)
  | block (b : Block) (o : Nat)
  | window (off : Nat)
  | remote (chip off : Nat)
  | scratch (off : Nat)
  | log
  deriving DecidableEq, Repr

/-- Decode a physical address; none where nothing is backed (R92, R93, R281). -/
def spotOf (s : State) (phys : Nat) : Option Spot :=
  let off := offOf phys
  if !(isLocal s phys) then some (.remote (chipOf phys) off)
  else if isMemory s off then some (.mem off)
  else match windowOf off with
    | some _ => if windowOn s off then some (.window off) else none
    | none => (blockOf off).map fun x => .block x.1 x.2

/-- The access may reach the spot with a piece of n bytes; register blocks take one whole piece of 4 or 8 bytes (R93); that
host windows, which R95 and R397 name apart from MMIO, take any size is the model's choice (log entry 129). -/
def Acc.admits (a : Acc) (ctx n : Nat) : Spot → Bool
  | .block b o => a.ps.length == 1 && (n == 4 || n == 8) && a.blocks ctx b o n
  | .window _ => a.windows
  | .remote _ _ => a.remotes
  | _ => true

/-- What a piece meets before it is performed: its spot, a trap, or a hold. -/
inductive Look where
  | go (p : Spot)
  | trap (code : Nat) (addr : DWord) (info : Word)
  | wait (h : Hold)
  deriving DecidableEq, Repr

/-- A miss joins the walk of its page, or asks for one; beyond 256 on the die it waits for a walker (R90). -/
def startWalk (s : State) (t : Thread) (l : Launch) (va : DWord) (flags : Nat) : State :=
  let die := dieOf t.core
  let page := faultPage va
  let q : WalkReq := ⟨0, BitVec.ofNat 32 t.core, l.id, flags, va⟩
  if s.walks.any (fun w => w.is die l.ctx page && w.reqs.contains q) then s
  else if s.walks.any (Walk.is die l.ctx page) then
    { s with walks := modWhere (Walk.is die l.ctx page) (fun w => { w with reqs := w.reqs ++ [q] }) s.walks }
  else { s with walks := s.walks ++ [⟨die, l.ctx, page, [q]⟩] }

/-- A walk now would end in a demand fault for the access. -/
def walkFaults (s : State) (ctx : Nat) (va : DWord) (write : Bool) : Bool :=
  match walk s ctx (vaKey va) with
  | .bad _ _ _ => true
  | .leaf _ _ w => write && !w

/-- A demand fault: it is logged, or the thread is held (R99, R100, R101). -/
def Acc.faulted (a : Acc) (ctx : Nat) (va : DWord) : Look := if a.logs then .go .log else .wait (.fault ctx (faultPage va))

/-- Translate and decode a piece of a thread's global access (R89, R90, R93, R101, R102, R105). -/
def locate (s : State) (t : Thread) (a : Acc) (va : DWord) (n : Nat) : State × Look :=
  let l := s.launchOfThread t
  let page := faultPage va
  let out := (faultOf s l.ctx page).isSome
  let found := findXlate s t.core l.ctx (vaKey va)
  let missed := match found with | none => some 3 | some x => if a.write && !x.w then some x.level else none
  if t.hold == some (.refused l.ctx page) then (s, .trap 0x08 va (xlatInfo 0 a.write 3))
  else if l.rcd.strict && missed.isSome then (s, .trap 0x08 va (xlatInfo (missed.getD 0) a.write 2))
  else if logged s l.ctx page != [] then (s, if l.rcd.strict then .wait (.fault l.ctx page) else a.faulted l.ctx va)
  else if out && (t.hold == some (.fault l.ctx page) || t.hold == some (.logs l.ctx page)) then (s, a.faulted l.ctx va)
  else match found with
    | none =>
      if out && walkFaults s l.ctx va a.write then (s, a.faulted l.ctx va)
      else (startWalk s t l va a.flags, .wait (.walk (dieOf t.core) l.ctx page a.write a.logs))
    | some x =>
      if a.write && !x.w then (demandFault s l.ctx va 0 1 x.level a.flags (BitVec.ofNat 32 t.core) l.id, a.faulted l.ctx va)
      else
        let s1 := keepXlate s t.core l.ctx (vaKey va) x
        match spotOf s1 (x.phys (vaKey va)) with
        | some p => (s1, if a.admits l.ctx n p then .go p else .trap 0x08 va (xlatInfo 0 a.write 4))
        | none => (s1, .trap 0x08 va (xlatInfo 0 a.write 4))

/-- A bias flip runs over the offset (R108). -/
def flipping (s : State) (off : Nat) : Bool := match s.flips with | f :: _ => f.frames.contains (off / 65536) | [] => false

/-- One place of each 128-byte line of n bytes at a physical address. -/
def lineLocs (phys n : Nat) : List Loc := ((List.range n).filter fun i => i == 0 || (phys + i) % 128 == 0).map fun i => .glob (phys + i)
/-- A fault page with logged entries lies over n bytes of this chip's memory (R101, R124). -/
def loggedOver (s : State) (off n : Nat) : Bool :=
  s.teams.any fun t => t.log.any fun e =>
    match peek s 0 e.ctx (vaKey (pageVa (faultPage e.va))) with
    | some p => isLocal s p && offOf p < off + n && off < offOf p + 65536
    | none => false
/-- Another agent's access of n bytes of this chip's memory waits for a bias flip, for the service of logged stores, for a lock
or for an aside copy (R101, R108, R117, R119, R124). -/
def agentHeld (s : State) (off n : Nat) (write : Bool) : State × Bool :=
  if flipping s off || flipping s (off + n - 1) || loggedOver s off n then (s, true) else lockWait s (lineLocs (physOf s off) n) write
/-- It waits for one of these or for the step of coherence (R107). -/
def agentWaits (s : State) (off n : Nat) (write : Bool) : State × Bool :=
  match agentHeld s off n write with
  | (s1, true) => (s1, true)
  | (s1, false) => let (s2, go) := cohere s1 [off, off + n - 1]; (s2, !go)

/-- The same for several places, as offset and length, together. -/
def placesWait (s : State) (l : List (Nat × Nat)) (write : Bool) : State × Bool :=
  let r := l.foldl (fun (x : State × Bool) y => if x.2 then x else agentHeld x.1 y.1 y.2 write) (s, false)
  if r.2 then r
  else
    let (s1, go) := cohere r.1 (l.flatMap fun y => [y.1, y.1 + y.2 - 1])
    (s1, !go)

/-- The poison marks of scratch words that n bytes touch (R269). -/
def Team.anyPoison (tm : Team) (o n : Nat) : Bool := (List.range n).any fun i => nmem tm.spois ((o + i) / 8)
/-- Set or clear the marks of the scratch words that n bytes touch (R269). -/
def markWords (p : List Nat) (o n : Nat) (pois : Bool) : List Nat :=
  (List.range ((o + n + 7) / 8 - o / 8)).foldl
    (fun p i =>
      let w := o / 8 + i
      if pois then nins p w else if o ≤ w * 8 && w * 8 + 8 ≤ o + n then ndel p w else p) p
/-- Read and write scratch bytes of a team (R51). -/
def Team.scrBytes (tm : Team) (o n : Nat) : List Byte := (List.range n).map fun i => tget 0 tm.scratch (o + i)
def putScratch (m : List Host.Cell) (o : Nat) : List Byte → List Host.Cell
  | [] => m
  | b :: t => putScratch (tset 0 m o b) (o + 1) t
def Team.scrWrite (tm : Team) (o : Nat) (data : List Byte) (pois : Bool) : Team :=
  { tm with scratch := putScratch tm.scratch o data, spois := markWords tm.spois o data.length pois }

/-- Range locks of the places of a piece, then poisoned memory where it traps (R117, R119, R256, R270). -/
def lockLook (s : State) (a : Acc) (locs : List Loc) (addr : Nat) (unit : Nat) (pois : Bool) (p : Spot) : State × Look :=
  match locksHit s locs a.write with
  | some (i, .conflict core tag kind) => (s, .trap 0x03 (BitVec.ofNat 64 (addr + i)) (conflictInfo core tag kind))
  | some (i, .stall core tag) => (wantAside s core tag ((locs.getD i (.glob 0)).line), .wait .aside)
  | _ => (s, if a.tight && pois then .trap 0x07 (BitVec.ofNat 64 (addr / unit * unit)) 0x100 else .go p)

/-- What a piece of a thread's access meets (R256, item 9); a store or RED that a read-only leaf sends into the side log meets
the locks of the line it names (R117). A piece already sent to the host or to another chip meets nothing more (R281). -/
def lookAt (s : State) (t : Thread) (a : Acc) (x : Nat × Nat) : State × Look :=
  let (addr, n) := x
  let locks := fun (s : State) (base off : Nat) (p : Spot) =>
    lockLook s a ((List.range n).map fun i => .glob (base + i)) addr 16 (s.anyPoison off n || lost s off) p
  if a.scr then
    let tm := s.teamOf t
    lockLook s a ((List.range n).map fun i => .scr tm.uid (addr + i)) addr 8 (tm.anyPoison addr n) (.scratch addr)
  else
    let va := BitVec.ofNat 64 addr
    let found : State × Look :=
      match t.hold with
      | some .hostLink => (s, .go (.window 0))
      | some (.remote chip _ _) => (s, .go (.remote chip 0))
      | _ => locate s t a va n
    match found with
    | (s1, .go (.mem off)) =>
      if flipping s1 off then (s1, .wait .flip)
      else locks s1 (physOf s1 off) off (.mem off)
    | (s1, .go .log) =>
      match findXlate s1 t.core (s1.launchOfThread t).ctx (vaKey va) with
      | some x => if isLocal s1 (x.phys (vaKey va)) then locks s1 (x.phys (vaKey va)) (offOf (x.phys (vaKey va))) .log else (s1, .go .log)
      | none => (s1, .go .log)
    | r => r

/-- The first trap or hold among the pieces still to come. -/
def lookAll (t : Thread) (a : Acc) : State → List (Nat × Nat) → State × Option Look
  | s, [] => (s, none)
  | s, p :: ps =>
    match lookAt s t a p with
    | (s1, .go _) => lookAll t a s1 ps
    | (s1, x) => (s1, some x)

/-- What performing a piece comes to: bytes read with poison, a hold, or a trap. -/
inductive Did where
  | done (data : List Byte) (pois : Bool)
  | wait (h : Hold)
  | trap (code : Nat) (addr : DWord) (info : Word)
  deriving DecidableEq, Repr

/-- A piece in memory (R113, R269). -/
def memDeed (s : State) (a : Acc) (off n : Nat) (data : List Byte) : State × Did :=
  match a.deed with
  | .load =>
    let (s1, b, p) := s.read off n
    (s1, .done b p)
  | .store => (s.write off data a.pois, .done [] false)
  | .rmw opn _ =>
    let (s1, b, p) := s.read off n
    match rmwNew n opn (natOf b) data with
    | some v => (s1.write off (bytesOf v n) p, .done b p)
    | none => (s1, .done b p)

/-- A piece in the team's scratch (R51, R269). -/
def scrDeed (s : State) (t : Thread) (a : Acc) (o n : Nat) (data : List Byte) : State × Did :=
  let tm := s.teamOf t
  let b := tm.scrBytes o n
  let p := tm.anyPoison o n
  match a.deed with
  | .load => (s, .done b p)
  | .store => (s.setTeam (tm.scrWrite o data a.pois), .done [] false)
  | .rmw opn _ =>
    match rmwNew n opn (natOf b) data with
    | some v => (s.setTeam (tm.scrWrite o (bytesOf v n) p), .done b p)
    | none => (s, .done b p)

/-- A piece in a block of registers; an operation reaches a semaphore alone (R93, R246, R329). -/
def blockDeed (s : State) (a : Acc) (b : Block) (o n : Nat) (data : List Byte) : State × Did :=
  let old := bytesOf (blockRead s b o n).toNat n
  match a.deed with
  | .load => (s, .done old false)
  | .store => (threadStore s b o (BitVec.ofNat 64 (natOf data)), .done [] false)
  | .rmw opn _ =>
    match rmwNew n opn (natOf old) data with
    | some v => (threadStore s b o (BitVec.ofNat 64 v), .done old false)
    | none => (s, .done old false)

/-- The thread has entries in its team's side log: their pages may come to lie on another chip or in a host window, so its
accesses there wait for their replay (R126, R127, R133; log entry 143). -/
def ownLogged (s : State) (t : Thread) : Bool := (s.teamOf t).log.any (·.thread == t.uid)

/-- A piece in a host window: a load holds the thread until its data returns, a store is sent and counted (R133, R281). -/
def windowDeed (s : State) (t : Thread) (a : Acc) (off n : Nat) (data : List Byte) : State × Did :=
  if ownLogged s t && t.reply.isNone && t.hold != some .hostLink then (s, .wait .room)
  else match a.deed with
  | .store => ((s.setThread { t with hostOut := t.hostOut + 1 }).send (.hostWrite (hostAddr s off) data), .done [] false)
  | _ =>
    match t.reply with
    | some d => (s, .done (d.data.take n) d.pois)
    | none =>
      if t.hold == some .hostLink then (s, .wait .hostLink)
      else (s.send (.hostRead (hostAddr s off) n t.uid), .wait .hostLink)

/-- The type and the OP field of a remote request (R200, R202). -/
def Acc.packet (a : Acc) (n : Nat) : Nat × Nat :=
  match a.deed with
  | .load => (tLOAD, Nat.log2 n * 8)
  | .store => (tSTORE, Nat.log2 n * 8)
  | .rmw opn answers => (if answers then tATOM else tRED, Nat.log2 n * 8 + opn)

/-- The thread waits for the answer of a remote request. -/
def Thread.asking (t : Thread) : Bool := match t.hold with | some (.remote _ _ _) => true | _ => false

/-- A piece on another chip: a load or an atomic holds the thread until its answer, which a scout may have brought, a store or
RED goes its way (R94, R127-R130, R181, R201). -/
def remoteDeed (s : State) (t : Thread) (a : Acc) (va : DWord) (chip off n : Nat) (data : List Byte) : State × Did :=
  let ctx := (s.launchOfThread t).ctx
  let (typ, op) := a.packet n
  let posted := a.logs
  let brought := t.brought.find? (·.1 == (t.part.map (·.done)).getD 0)
  match (if posted then none else match brought with | some x => some ⟨x.2.1, x.2.2, 0, chip⟩ | none => t.reply) with
  | some d =>
    if d.cause != 0 then (s, .trap 0x09 va (remoteInfo d.cause d.chip))
    else if a.tight && d.pois then (s, .trap 0x07 (BitVec.ofNat 64 (va.toNat / 16 * 16)) 0x100)
    else (s, .done (d.data.take n) d.pois)
  | none =>
    if t.asking then (s, .wait (t.hold.getD .room))
    else if ownLogged s t then (s, .wait .room)
    else
      match sendRequest s t ctx chip typ op off va data (if a.pois then 2 ^ data.length - 1 else 0) with
      | (s1, .sent serial) => (s1, if posted then .done [] false else .wait (.remote chip (laneNo t) serial))
      | (s1, .held) => (s1, .wait .room)
      | (s1, .noRoute) =>
        if posted then (s1.setThread ((s1.thread t.uid).deferred 4 chip), .done [] false)
        else (s1, .trap 0x09 va (remoteInfo 4 chip))

/-- Bytes of a slot of the park area (R247). -/
def parkStride (r : LaunchRec) : Nat := 8192 + r.groups * ((r.width * (r.nreg + 8) * 4 + 4095) / 4096) * 4096
/-- The address of the slot of a core and team position; the side log lies in its first 8 KiB (R101, R247). -/
def slotVa (r : LaunchRec) (core pos : Nat) : DWord := r.park + BitVec.ofNat 64 ((core * 64 + pos) * parkStride r)
/-- The place in the park area of the log's entry that is free next is reached for writing, or a demand fault on it holds the
thread; the 32 bytes there, whose layout the manual does not give, are free (R99, R101, R247, R252; log entry 26). -/
def reachLog (s : State) (t : Thread) : State × Option Hold :=
  let tm := s.teamOf t
  let l := s.launchOfThread t
  let va := slotVa l.rcd tm.core tm.pos + BitVec.ofNat 64 (32 * tm.log.length)
  match translateCore s t.core l.ctx va true with
  | (s1, .ok phys) =>
    match spotOf s1 phys with
    | some (.mem off) => let (s2, b) := drawBytes 32 s1; (s2.write off b false, none)
    | _ => (s1, none)
  | (s1, .busy) => (s1, some .log)
  | (s1, .fault kind level) => (demandFault s1 l.ctx va 0 kind level 1 (BitVec.ofNat 32 t.core) l.id, some (.park l.ctx (faultPage va)))
/-- A faulting piece goes into the team's side log, unless that is full (R101). -/
def logDeed (s : State) (t : Thread) (a : Acc) (va : DWord) (n : Nat) (data : List Byte) : State × Did :=
  if 256 ≤ (s.teamOf t).log.length then (s, .wait .log)
  else match reachLog s t with
    | (s1, some h) => (s1, .wait h)
    | (s1, none) =>
      let tm := s1.teamOf t
      let op := match a.deed with | .rmw opn _ => LogOp.red opn n | _ => .store
      let e : LogEntry := ⟨s1.nextUid, (s1.launchOfThread t).ctx, va, data, a.pois, t.uid, op⟩
      ({ s1.setTeam { tm with log := tm.log ++ [e] } with nextUid := s1.nextUid + 1 }, .done [] false)

/-- Perform a piece at its spot; for a line in host bias the step of coherence with the host comes first (R107). -/
def perform (s : State) (t : Thread) (a : Acc) (x : Nat × Nat) (data : List Byte) : Spot → State × Did
  | .scratch o => scrDeed s t a o x.2 data
  | .log => logDeed s t a (BitVec.ofNat 64 x.1) x.2 data
  | .block b o => blockDeed s a b o x.2 data
  | .window off => windowDeed s t a off x.2 data
  | .remote chip off => remoteDeed s t a (BitVec.ofNat 64 x.1) chip off x.2 data
  | .mem off =>
    match cohere s [off] with
    | (s1, false) => (s1, .wait .bias)
    | (s1, true) =>
      let (s2, d) := memDeed s1 a off x.2 data
      (touch s2 t.core off (a.cls (BitVec.ofNat 64 x.1)), d)

/-- The bytes of the access that belong to its next piece. -/
def Acc.slice (a : Acc) (done : Nat) : List Byte :=
  match a.deed with
  | .rmw _ _ => a.data
  | _ => (a.data.drop ((a.ps.take done).map (·.2)).sum).take ((a.ps.getD done (0, 0)).2)

/-- How the access ends: the instruction's own effect on the bytes read and their poison. -/
abbrev Finish := State → Thread → List Byte → Bool → State

/-- One piece is done: the access ends, or its next piece is due (R114). -/
def pieceDone (s : State) (u : Nat) (a : Acc) (b : List Byte) (p : Bool) (fin : Finish) : State :=
  let t := s.thread u
  let q := t.part.getD ⟨0, [], false, a.shape⟩
  let q1 : Part := { q with done := q.done + 1, data := q.data ++ b, pois := q.pois || p }
  if a.ps.length ≤ q1.done then fin s { t with hold := none, reply := none, part := none } q1.data q1.pois
  else s.setThread { t with part := some q1, hold := none, reply := none }

/-- A trap or a hold stops the access. -/
def stopAt (s : State) (t : Thread) (c : Cur) : Look → State
  | .trap code addr info => trapOr s t.uid code addr info c.addr
  | .wait h => holdAt s (s.thread t.uid) h
  | .go _ => s

/-- One turn of a thread's access: its next piece is looked at and performed; a write first looks at every piece still to
come, so that no effect comes before a trap (R114, R117, R256, R257). -/
def access (s : State) (t : Thread) (c : Cur) (a : Acc) (fin : Finish) : State :=
  let done := (t.part.map (·.done)).getD 0
  match a.ps.drop done with
  | [] => fin s { t with part := none, hold := none, reply := none } ((t.part.map (·.data)).getD []) ((t.part.map (·.pois)).getD false)
  | p :: rest =>
    match lookAt s t a p with
    | (s1, .go spot) =>
      match lookAll t a s1 (if a.write then rest else []) with
      | (s2, some x) => stopAt s2 t c x
      | (s2, none) =>
        match perform s2 t a p (a.slice done) spot with
        | (s3, .done b pois) => pieceDone s3 t.uid a b pois fin
        | (s3, .wait h) => stopAt s3 t c (.wait h)
        | (s3, .trap code addr info) => stopAt s3 t c (.trap code addr info)
    | (s1, x) => stopAt s1 t c x

/-! ### Addresses and their checks -/

/-- The byte offset of the memory class (R309, R310). -/
def offValue : Off → DWord
  | .imm i => i.signExtend 64
  | .lit w => w.signExtend 64
/-- The access is to scratch, and its size in bytes (R310). -/
def memScr (m : Mem) : Bool := m.space == 1
def memBytes (m : Mem) : Nat := 2 ^ m.size.toNat
/-- The address or the scratch offset, with the wraps of R86. -/
def memAddr (m : Mem) (t : Thread) (a : Reg) : Nat :=
  if memScr m then (t.val a + (offValue m.off).setWidth 32).toNat else (t.pair a + (offValue m.off)).toNat
/-- The registers that give the address, and the policy register (R97, R310). -/
def memAddrRegs (m : Mem) (a : Reg) : List Nat :=
  (if memScr m then [a.toNat] else pairRegs a) ++ (if m.pv then [m.pol.toNat] else [])
/-- The class of the access's lines: normal unless it names a policy (R97). -/
def memCls (m : Mem) (t : Thread) (va : DWord) : EClass := if m.pv then classOf (t.val m.pol) va else .normal

/-- The registers of a value of n bytes from a register. -/
def dataRegs (r : Reg) (n : Nat) : List Nat := regsFrom r ((n + 3) / 4)
/-- The low n bytes of registers, and the words of bytes. -/
def regBytes (t : Thread) (rs : List Nat) (n : Nat) : List Byte := (rs.flatMap fun r => bytesOf (t.reg r).1.toNat 4).take n
def wordsOf (b : List Byte) (n : Nat) : List Word := (List.range n).map fun i => BitVec.ofNat 32 (natOf ((b.drop (4 * i)).take 4))
/-- A loaded value's words: less than 4 bytes are extended by sign or by zeros (R397). -/
def loadWords (b : List Byte) (n : Nat) (sx : Bool) : List Word :=
  if n < 4 && sx then [word (sext (natOf b) (8 * n))] else wordsOf b ((n + 3) / 4)

/-- The bytes of scratch a thread reaches (R51). -/
def scratchLimit (r : LaunchRec) : Nat := if r.pair then 2 * r.scratch else r.scratch
/-- The first byte of scratch pieces at or beyond the bound (R51, R86). -/
def scratchBad (r : LaunchRec) (bytes : List Nat) : Option (Nat × DWord × Word) :=
  (bytes.find? fun o => scratchLimit r ≤ o).map fun o => (0x0B, BitVec.ofNat 64 o, 0)
/-- The checks of an access's address: the scratch bound, the alignment of an atomic, canonical form (R256, items 6 to 8). -/
def addrBad (r : LaunchRec) (scr aligned write : Bool) (addr n : Nat) : Option (Nat × DWord × Word) :=
  let low := if scr then scratchBad r ((List.range n).map fun i => (addr + i) % 2 ^ 32) else none
  match low with
  | some x => some x
  | none =>
    if aligned && addr % n != 0 then some (0x0A, BitVec.ofNat 64 addr, BitVec.ofNat 32 (Nat.log2 n))
    else if scr then none
    else ((pieces addr n).find? fun p => !(canonical (BitVec.ofNat 64 p.1))).map fun p =>
      (0x08, BitVec.ofNat 64 p.1, xlatInfo 0 write 1)

/-! ### Forwarding from the side log (R101) -/

/-- The last own plain store that covers a byte, none where another thread's entry overlaps it or a RED comes last. -/
def forwardByte (log : List LogEntry) (ctx u : Nat) (va : DWord) : Option (Byte × Bool) :=
  let es := log.filter fun e => e.ctx == ctx && (va - e.va).toNat < e.data.length
  if es.any (·.thread != u) then none
  else match es.getLast? with
    | some e => if e.op == .store then some (e.data.getD (va - e.va).toNat 0, e.pois) else none
    | none => none
/-- A load served from the thread's own entries. -/
def forward (s : State) (t : Thread) (addr n : Nat) : Option (List Byte × Bool) :=
  let l := s.launchOfThread t
  let bs := (List.range n).map fun i => forwardByte (s.teamOf t).log l.ctx t.uid (BitVec.ofNat 64 (addr + i))
  if bs.all (·.isSome) then some (bs.map fun b => (b.getD (0, false)).1, bs.any fun b => (b.getD (0, false)).2) else none

end Sys2Proof.Machine
end

