-- ==== Sys2Proof/Machine/Scout.lean ====
section
/-! DEFINITION. Scout execution: checkpoints, outcomes, loads in an episode, ends and restoration (R60, R173-R186). -/
namespace Sys2Proof.Machine
open Sys2Proof

/-- NSC of a clause header (R300). -/
def nsc (h : Word) : Bool := h.getLsbD 18
/-- The log slots a core can give (R50). -/
def logSlots (s : State) (core : Nat) : Nat := (192 - (s.core core).pb.2.2) * 8
/-- The header of the clause that a thread's bundle executes. -/
def headerOf (s : State) (t : Thread) : Word :=
  (((s.core t.core).bundles.find? fun b => b.threads.contains t.uid).map (·.hdr)).getD 0

/-- A local line that a load's first byte lies in, when its translation is found without a walk. -/
def localOff (s : State) (t : Thread) (va : DWord) : Option Nat :=
  match findXlate s t.core (s.launchOfThread t).ctx (vaKey va) with
  | some x => if isLocal s (x.phys (vaKey va)) then some (offOf (x.phys (vaKey va))) else none
  | none => none

/-- The thread has not begun the instruction: nothing but an earlier result has held it. -/
def Thread.unbegun (t : Thread) : Bool := t.part.isNone && (t.hold.isNone || t.hold == some .result)

/-- The conditions of R173 but for the free slot; the load is not forwarded, as its caller has seen. -/
def wouldCheckpoint (s : State) (t : Thread) (va : DWord) : Bool :=
  let l := s.launchOfThread t
  let miss := match inCore s t.core l.ctx (vaKey va) with
    | none => true
    | some x => !(isLocal s (x.phys (vaKey va)) && inL1 s t.core (offOf (x.phys (vaKey va))))
  t.scoutEn && t.scoutBud != 0 && !(nsc (headerOf s t)) && miss && t.scout.isNone && !t.rerun && !t.plain && t.unbegun

/-- Open a checkpoint at a load: it goes on without its result, whose counter has risen; its log slot takes its bytes from
L1 (R50, R173, R174, R178, R315). -/
def openCheckpoint (s : State) (t : Thread) (c : Cur) (is : Issue) (va : DWord) (size : Nat) (sx : Bool) (dst : List Nat) (cls : EClass) : State :=
  let (s0, tok) := newTok s
  let t0 := t.issued c is (dst.map fun r => (r, 0, false, true)) false tok 0
  let s1 := retire s0 { t0 with window := t0.window.map fun w => if w.tok == tok then { w with prov := true } else w } c
  let t1 := s1.thread t.uid
  trimL1 (s1.setThread { t1 with scout := some { pc := c.addr, header := c.hdr, stamp := t.stamp, budget := t.scoutBud, va := va, size := size
                                                 sx := sx, dst := dst, cls := cls, tok := tok } }) t.core

/-- What a load or PREF in an episode does at a valid address: valid data, a prefetch, a drop; or it would trap (R179). -/
inductive ScoutGet where
  | data (b : List Byte) (pois : Bool)
  | nothing
  | dropped
  | traps
  deriving DecidableEq, Repr

/-- A walk for a page finds a walker on the thread's die now (R90). -/
def walkerFor (s : State) (t : Thread) (va : DWord) : Bool := (walker s (dieOf t.core) (s.launchOfThread t).ctx (faultPage va)).isSome
/-- A scout's prefetch walk waits for a walker; it counts when it starts or joins one that waits (R90, R179, R186). -/
def prefetchWalk (s : State) (t : Thread) (va : DWord) : State :=
  let die := dieOf t.core
  let ctx := (s.launchOfThread t).ctx
  let s1 := scoutCount s t 0x18
  if s.walks.any (Walk.is die ctx (faultPage va)) then s1 else { s1 with walks := s1.walks ++ [⟨die, ctx, faultPage va, []⟩] }

/-- A scout access to the bytes of one line: it never faults, meets no lock, waits on nothing (R125, R179, R186). -/
def scoutLine (s : State) (t : Thread) (va : DWord) (n : Nat) (cls : EClass) (blocks : Nat → Block → Nat → Nat → Bool) : State × ScoutGet :=
  let l := s.launchOfThread t
  let cached := (findXlate s t.core l.ctx (vaKey va)).isSome
  if logged s l.ctx (faultPage va) != [] || (!cached && l.rcd.strict) then (s, .dropped)
  else match translateCore (if cached || !(walkerFor s t va) then s else scoutCount s t 0x18) t.core l.ctx va false with
    | (s1, .fault _ _) => (s1, .dropped)
    | (s1, .busy) => (prefetchWalk s1 t va, .nothing)
    | (s1, .ok phys) =>
      match spotOf s1 phys with
      | none => (s1, .traps)
      | some (.mem off) =>
        if hostBias s1 off || flipping s1 off then (s1, .dropped)
        else if inL1 s1 t.core off then (touch s1 t.core off cls, .data (s1.bytes off n) (s1.anyPoison off n))
        else (touch (scoutCount s1 t 0x10) t.core off cls, .nothing)
      | some (.block b o) => (s1, if blocks l.ctx b o n then .dropped else .traps)
      | some _ => (s1, .dropped)

/-- An access's bytes line by line (R179). -/
def splitLines (a n : Nat) : List (Nat × Nat) := let k := 128 - a % 128; if n ≤ k then [(a, n)] else [(a, k), (a + k, n - k)]
/-- Two lines of one access: valid only when both hit. -/
def ScoutGet.both : ScoutGet → ScoutGet → ScoutGet
  | .traps, _ | _, .traps => .traps
  | .dropped, _ | _, .dropped => .dropped
  | .data a p, .data b q => .data (a ++ b) (p || q)
  | _, _ => .nothing
/-- A scout access to global memory: every line it touches is read or prefetched; register blocks are told the whole access (R93,
R179, R186). -/
def scoutGet (s : State) (t : Thread) (va : DWord) (n : Nat) (cls : EClass) (blocks : Nat → Block → Nat → Nat → Bool) : State × ScoutGet :=
  let (s1, g) := (splitLines va.toNat n).foldl
    (fun (x : State × ScoutGet) l => let (s1, g) := scoutLine x.1 t (BitVec.ofNat 64 l.1) l.2 cls fun c b o _ => (n == 4 || n == 8) && va.toNat % n == 0 && blocks c b o n; (s1, x.2.both g)) (s, .data [] false)
  (if g == .dropped then scoutCount s1 t 0x20 else s1, g)

/-- A load in an episode writes its destinations: valid data, or invalid ones (R176, R177, R179). -/
def scoutWriteRegs (s : State) (t : Thread) (c : Cur) (is : Option Issue) (dst : List Nat) (res : List Word) (pois inv : Bool) : State :=
  match scoutSave t dst with
  | none => scoutStop s t .saves
  | some t1 => retire s (writeOut t1 c is (dst.zip (res.map fun w => (w, pois))) inv) c

/-- A load in an episode, its register checks passed (R179). -/
def scoutLoad (s : State) (t : Thread) (c : Cur) (is : Issue) (scr : Bool) (srcs : List Nat) (addr n : Nat) (sx : Bool)
    (dst : List Nat) (cls : EClass) : State :=
  let zeros := dst.map fun _ => (0 : Word)
  if srcs.any t.invalid then scoutWriteRegs s t c (some is) dst zeros false true
  else match addrBad (s.launchOfThread t).rcd scr false false addr n with
    | some _ => scoutStop s t .instr
    | none =>
      if scr then
        let tm := s.teamOf t
        scoutWriteRegs s t c (some is) dst (loadWords (tm.scrBytes addr n) n sx) (tm.anyPoison addr n) false
      else match scoutGet s t (BitVec.ofNat 64 addr) n cls threadReads with
        | (s1, .data b p) => scoutWriteRegs s1 (s1.thread t.uid) c (some is) dst (loadWords b n sx) p false
        | (s1, .nothing) | (s1, .dropped) => scoutWriteRegs s1 (s1.thread t.uid) c (some is) dst zeros false true
        | (s1, .traps) => scoutStop s1 (s1.thread t.uid) .instr

/-! ### The provisional period (R174) -/

/-- The access of a load issued in the provisional period. -/
def Late.acc (l : Late) : Acc := { deed := .load, scr := l.scr, ps := l.ps, cls := fun _ => l.cls }
/-- Every piece of a load can be performed at once, in memory of this chip in device bias or in scratch. -/
def readyLoad (s : State) (t : Thread) (a : Acc) : Bool :=
  a.ps.all fun p => match (lookAt s { t with hold := none } a p).2 with
    | .go (.mem off) => !(hostBias s off)
    | .go (.scratch _) => true
    | _ => false
/-- A load issues in the provisional period: it is performed after the checkpointed load, when its outcome is known (R113, R174;
log entry 144). -/
def lateLoad (s : State) (t : Thread) (c : Cur) (is : Issue) (l : Late) : State :=
  match scoutSave t l.dst with
  | none => scoutStop s t .saves
  | some t1 =>
    let (s1, tok) := newTok s
    let t2 := t1.await c is tok l.dst
    retire s1 { t2 with scout := t2.scout.map fun sc => { sc with later := sc.later ++ [{ l with tok := tok }] } } c

/-! ### Outcomes (R175) -/

/-- The checkpointed load as an access. -/
def Scout.acc (sc : Scout) : Acc :=
  { deed := .load, scr := false, ps := pieces sc.va.toNat sc.size, blocks := threadReads, windows := true, remotes := true, cls := fun _ => sc.cls }

/-- What one piece of the checkpointed load comes to: performed at once, performed as if no checkpoint had been opened,
long, or a trap. -/
inductive Out where
  | performed
  | plain
  | long
  | trap (code : Nat) (addr : DWord) (info : Word)
  deriving DecidableEq, Repr

def outcomeOf (s : State) (t : Thread) (sc : Scout) (x : Nat × Nat) : Out :=
  match (lookAt s { t with hold := none } sc.acc x).2 with
  | .trap code addr info => .trap code addr info
  | .wait .flip => .plain
  | .wait _ => .long
  | .go (.mem off) => if hostBias s off then .plain else if inL2 s off || inL1 s t.core off then .performed else .long
  | .go (.remote _ _) => .long
  | .go (.window _) => .plain
  | .go _ => .performed

/-- The outcome of all pieces: the first trap, else long, else performed; a load that cannot be read at once, or behind which
a later load cannot, is performed by a thread that stands at it (R133, R175). -/
def outcome (s : State) (t : Thread) (sc : Scout) : Out :=
  let os := sc.acc.ps.map (outcomeOf s t sc)
  match os.find? fun o => match o with | .trap _ _ _ => true | _ => false with
  | some o => o
  | none =>
    if os.any (· == .long) then .long
    else if os.any (· == .plain) || !(sc.later.all fun l => readyLoad s t l.acc) then .plain
    else .performed

/-- The thread as it was at the checkpointed load, where a new clause execution begins: registers and counters return, later
results are dropped (R181, R314, R315). -/
def Scout.undo (sc : Scout) (t : Thread) : Thread :=
  let t1 := sc.saves.foldl (fun (t : Thread) x => t.put x.1 x.2.1 x.2.2.2) t
  let t2 := t1.window.foldl (fun (t : Thread) w => if w.prov then t.sbDown w.sb else t) t1
  { t2 with window := t2.window.filter (!·.prov), scout := none, pc := sc.pc, mid := some sc.header, hold := none, part := none
            reply := none, brought := [], status := .ready, stamp := sc.stamp, plain := false, exe := 0, polls := false }
/-- The log slot frees with the load done: flags are set, registers written since stand, no result is provisional (R175). -/
def Thread.settle (t : Thread) : Thread :=
  match t.scout with
  | none => t
  | some sc =>
    { t with scout := none, fstat := t.fstat ||| sc.flags
             window := t.window.map fun w =>
               if w.prov then { w with prov := false, regs := w.regs.map fun x => (x.1, x.2.1, x.2.2.1, false) }
               else { w with regs := w.regs.filter fun x => !(sc.wrote.contains x.1) } }

/-- Read the pieces of a load that can be performed at once. -/
def readPieces (s : State) (t : Thread) (a : Acc) : List (Nat × Nat) → State × List Byte × Bool
  | [] => (s, [], false)
  | x :: xs =>
    let (s1, b, p) := match lookAt s t a x with
      | (s1, .go (.mem off)) => let r := s1.read off x.2; (touch r.1 t.core off (a.cls (BitVec.ofNat 64 x.1)), r.2)
      | (s1, .go (.block b o)) => (s1, bytesOf (blockRead s1 b o x.2).toNat x.2, false)
      | (s1, .go (.scratch o)) => (s1, (s1.teamOf t).scrBytes o x.2, (s1.teamOf t).anyPoison o x.2)
      | (s1, _) => (s1, [], false)
    let (s2, b2, p2) := readPieces s1 t a xs
    (s2, b ++ b2, p || p2)

/-- A load is performed and its waiting result filled. -/
def readLoad (s : State) (u tok : Nat) (a : Acc) (dst : List Nat) (size : Nat) (sx : Bool) : State :=
  let (s1, b, p) := readPieces s { s.thread u with hold := none } a a.ps
  s1.setThread ((s1.thread u).fill tok ((dst.zip (loadWords b size sx)).map fun x => (x.1, x.2, p)))

/-- Performed: the load and those issued after it are done in program order, the saves are discarded and the slot frees (R175). -/
def scoutPerformed (s : State) (t : Thread) (sc : Scout) : State :=
  let s1 := readLoad s t.uid sc.tok sc.acc sc.dst sc.size sc.sx
  let s2 := sc.later.foldl (fun s l => readLoad s t.uid l.tok l.acc l.dst l.size l.sx) s1
  s2.setThread (s2.thread t.uid).settle

/-- The thread stands at the load again, which executes as if no checkpoint had been opened (R175, R184). -/
def scoutPlain (s : State) (t : Thread) (sc : Scout) : State := unbundle (s.setThread { sc.undo t with plain := true }) t

/-- The original access goes on for a scouting thread's load: the walks of its pages are asked for, and the requests of its
pieces on another chip are sent, each as soon as it can be; a thread whose episode has stopped is held by the load's demand fault (R175, R182). -/
def scoutAsk (s : State) (u : Nat) : State :=
  match (s.thread u).scout with
  | none => s
  | some sc =>
    sc.acc.ps.zipIdx.foldl
      (fun s (x, i) =>
        let t := s.thread u
        if (t.scout.map (·.asked)).any fun l => l.any (·.1 == i) then s
        else match lookAt s { t with hold := none } sc.acc x with
          | (s1, .go (.remote chip off)) =>
            match sendRequest s1 (s1.thread u) (s1.launchOfThread t).ctx chip tLOAD (Nat.log2 x.2 * 8) off (BitVec.ofNat 64 x.1) [] 0 with
            | (s2, .sent serial) =>
              let t2 := s2.thread u
              s2.setThread { t2 with scout := t2.scout.map fun c => { c with asked := c.asked ++ [(i, chip, laneNo t, serial)] } }
            | (s2, _) => s2
          | (s1, .wait (.fault c p)) => if sc.stop.isSome then holdAt s1 (s1.thread u) (.fault c p) else s1
          | (s1, _) => s1) s
/-- The loads of scouting threads go on (R175). -/
def scoutsAsk (s : State) : State := (s.threads.filter (·.inEpisode)).foldl (fun s t => scoutAsk s t.uid) s

/-- A wait that an episode passes: MWAIT's and TAGW's (R179). -/
def Thread.passes (t : Thread) : Bool := match t.status with | .waiting (.matrix _) | .waiting (.tags _ _ _) => true | _ => false

/-- A load issued in the provisional period of an episode: its value, which no restored thread keeps, or none (R175). -/
def lateValue (s : State) (u : Nat) (l : Late) : State :=
  if readyLoad s (s.thread u) l.acc then readLoad s u l.tok l.acc l.dst l.size l.sx
  else
    let t := s.thread u
    s.setThread { t with window := t.window.map fun w =>
      if w.tok == l.tok && !w.ready then { w with ready := true, tok := 0, regs := w.regs.map fun x => (x.1, x.2.1, x.2.2.1, true) } else w }

/-- Long: an episode begins; the walk or the remote request goes on for the load (R60, R175, R176, R186). -/
def scoutLong (s : State) (t : Thread) (sc : Scout) : State :=
  let t0 := s.thread t.uid
  let t1 := { t0 with scout := some { sc with long := true }, scoutEpi := t0.scoutEpi + 1, hold := none, part := none, reply := none
                      status := if t0.passes then .ready else t0.status, stamp := if t0.passes then s.cycle else t0.stamp
                      pc := if t0.passes then t0.pc + 8 else t0.pc, mid := if t0.passes then none else t0.mid
                      window := t0.window.map fun w => if w.tok == sc.tok && !w.ready then { w with ready := true, tok := 0 } else w }
  let s1 := scoutCount (sc.later.foldl (fun s l => lateValue s t.uid l) (s.setThread t1)) t1 0x00
  let s2 := (List.range sc.count).foldl (fun s _ => scoutCount s t1 0x08) s1
  scoutAsk s2 t.uid

/-- SCOUT_OUTCOME: the outcome of a provisional thread's load is known (R175). -/
def execScoutOutcome (thread : Nat) (s : State) : Host.Outcome State Fault Refusal :=
  let t := s.thread thread
  .next <| match t.scout with
    | some sc =>
      if sc.long || sc.stop.isSome then s
      else match outcome s t sc with
        | .performed => scoutPerformed s t sc
        | .plain => scoutPlain s t sc
        | .long => scoutLong s t sc
        | .trap code addr info => takeTrap (unbundle (s.setThread (sc.undo t)) t) thread code addr info sc.pc
    | none => s

/-- SCOUT_BUDGET_END: the instruction count has reached the budget (R180). -/
def execScoutBudgetEnd (thread : Nat) (s : State) : Host.Outcome State Fault Refusal :=
  let t := s.thread thread
  .next <| match t.scout with
    | some sc => if sc.long && sc.stop.isNone && sc.budget ≤ sc.count then scoutStop s t .budget else s
    | none => s

/-- A piece of the load waits for nothing but its re-execution: its reply is held, or no walk, fault or logged store of its page
is outstanding (R181). -/
def pieceArrived (s : State) (t : Thread) (sc : Scout) (x : Nat × Nat) (i : Nat) : Bool :=
  if sc.asked.any (·.1 == i) then sc.replies.any (·.1 == i)
  else match (lookAt s { t with hold := none } sc.acc x).2 with
    | .wait (.walk _ _ _ _ _) | .wait (.fault _ _) | .go (.remote _ _) => false
    | _ => true
/-- The original data has arrived: every piece's has, or the load was refused (R181). -/
def scoutArrived (s : State) (t : Thread) (sc : Scout) : Bool :=
  t.reply.isSome || sc.acc.ps.zipIdx.all fun (x, i) => pieceArrived s t sc x i

/-- The lines of a local load are fetched: into L2, and into L1 unless they are stream lines (R98, R181). -/
def fetchLines (s : State) (t : Thread) (sc : Scout) : State :=
  sc.acc.ps.foldl (fun s x => match localOff s t (BitVec.ofNat 64 x.1) with | some off => touch s t.core off sc.cls | none => s) s

/-- Restore a scouting thread: it is ready at the load, which opens no checkpoint and takes the replies held (R181). -/
def restoreScout (s : State) (t : Thread) (sc : Scout) : State :=
  unbundle (s.setThread { sc.undo t with rerun := true, brought := sc.replies, reply := t.reply }) t

/-- SCOUT_RESTORE; an episode that had spent its budget has ended by it (R180, R181). -/
def execScoutRestore (thread : Nat) (s : State) : Host.Outcome State Fault Refusal :=
  let t := s.thread thread
  .next <| match t.scout with
    | some sc =>
      if sc.long && scoutArrived s t sc then
        let s1 := if sc.stop.isNone then scoutCount s t (if sc.budget ≤ sc.count then 0x30 else 0x28) else s
        restoreScout (fetchLines s1 t sc) t sc
      else s
    | none => s

end Sys2Proof.Machine
end

