-- ==== Sys2Proof/Machine/MemoryOps.lean ====
section
/-! DEFINITION. The memory instructions of threads and scripts (R51, R97, R113, R130-R133, R327-R330, R366, R367,
R396-R398, R408, R430, R434, R435, R458, R459). -/
namespace Sys2Proof.Machine
open Sys2Proof

/-- The registers of an atomic's operand: its value, and for compare and swap the new value after it (R327). -/
def operandRegs (opn n : Nat) (e : Reg) : List Nat := dataRegs e (if opn == 7 then 2 * n else n)

/-! ### Scripts (R209, R210) -/

/-- What a script may read of the register blocks: what threads may, and the fabric block (R201). -/
def scriptReads (b : Block) (o n : Nat) : Bool := b == .fabric || (b != .sems && b != .scout && threadReads 0 b o n)

/-- Write a word of the fabric block, whole registers at once (R4, R5, R201). -/
def fabricWrite (s : State) (o n : Nat) (v : DWord) : State :=
  let h := s.hub
  let w : Word := v.setWidth 32
  let mix := fun (old : DWord) => if n == 8 then v else if o % 8 == 0 then pairOf w (hiWord old) else pairOf (loWord old) w
  let entry : Word := w &&& 0xC01FFFFF
  let s1 : State :=
    if o < 0x2000 then { s with hub := { h with grt := tset 0 h.grt (o / 4) entry } }
    else if o < 0x3000 then { s with hub := { h with lrt := tset 0 h.lrt ((o - 0x2000) / 4) entry } }
    else match o with
      | 0x3000 => { s with hub := { h with plet := w &&& 0xFFFF } }
      | 0x3010 | 0x3014 => { s with hub := { h with swcm := mix h.swcm &&& 0x1FFFFFFFFFFFF } }
      | 0x3018 | 0x301C => { s with hub := { h with pdrop := mix h.pdrop } }
      | _ => s
  if n == 8 && o < 0x3000 then
    let h1 := s1.hub
    let e2 : Word := hiWord v &&& 0xC01FFFFF
    if o < 0x2000 then { s1 with hub := { h1 with grt := tset 0 h1.grt (o / 4 + 1) e2 } }
    else { s1 with hub := { h1 with lrt := tset 0 h1.lrt ((o - 0x2000) / 4 + 1) e2 } }
  else s1

/-- A demand fault of a script: its context waits for the service (R209). -/
def scriptFault (s : State) (k : Nat) (va : DWord) (kind level flags : Nat) : State :=
  let sc := s.script k
  let s1 := demandFault s sc.ctx va 4 kind level flags 0xFFFFFFFF 0
  s1.setScript k { sc with wait := some (.fault (faultPage va)), began := s.htime }

/-- A word of a port's counters, which any agent but a thread may replace (R5, R197). -/
def portWrite (s : State) (o : Nat) (w : Word) : State :=
  let p := o / 0x40
  let t := s.port p
  let mix := fun old : DWord => if o % 8 == 0 then pairOf w (hiWord old) else pairOf (loWord old) w
  match o % 0x40 with
  | 0x10 | 0x14 => s.setPort p { t with pcorr := mix t.pcorr }
  | 0x18 => s.setPort p { t with punc := w }
  | 0x1C => s.setPort p { t with prpl := w }
  | 0x20 => s.setPort p { t with ptrn := w }
  | _ => s
/-- A word of a rotation's counters of dropped packets (R5, R236). -/
def rotWrite (s : State) (o : Nat) (w : Word) : State :=
  let i := (o - 0x200) / 0x40
  let r := s.rot i
  if o < 0x200 then s
  else match o % 0x40 with
    | 0x10 => s.setRot i { r with rdrpi := w }
    | 0x14 => s.setRot i { r with rdrpg := w }
    | _ => s
/-- The blocks the Bellows may write: the ports' counters, the fabric block, its own counters (R197, R201, R236). -/
def scriptWrites (b : Block) : Bool := b == .ports || b == .fabric || b == .bellows
/-- A write of 4 or 8 bytes to one of them. -/
def scriptWrite (s : State) (b : Block) (o n : Nat) (v : DWord) : State :=
  let word := fun (s : State) o w => match b with | .ports => portWrite s o w | .bellows => rotWrite s o w | _ => s
  if b == .fabric then fabricWrite s o n v
  else if n == 8 then word (word s o (loWord v)) (o + 4) (hiWord v) else word s o (loWord v)

/-- A script's end at a poisoned granule, with its machine check (R209, R270). -/
def scriptPoison (s : State) (k off : Nat) : State := endScript (mcRecord s 1 2 4 0 0 (physOf s off)) k 0x05

/-- LD and ST of a script: one aligned access, with the checks of R210; a lock makes it wait (R117). -/
def scriptAccess (s : State) (k : Nat) (m : Mem) (ill : Bool) (regs : List Nat) (a : Reg) (store : Option Reg) (dst : List Nat) : State :=
  let sc := s.script k
  let n := memBytes m
  match scriptChecks (ill || memScr m) regs with
  | some code => endScript s k code
  | none =>
    let va := sc.pair a + offValue m.off
    if !(canonical va) then endScript s k 0x05
    else if va.toNat % n != 0 then endScript s k 0x06
    else match translateNow s 0 sc.ctx va store.isSome with
      | (s1, .busy) => s1
      | (s1, .fault kind level) => scriptFault s1 k va kind level (one store.isSome)
      | (s1, .ok phys) =>
        let off := offOf phys
        let load := fun (s : State) (b : List Byte) =>
          scriptNext (s.setScript k { sc with regs := (dst.zip (loadWords b n m.sx)).foldl (fun l x => lset l x.1 x.2) sc.regs }) k
        let data := match store with
          | some e => ((dataRegs e n).flatMap fun r => bytesOf (sc.regs.getD r 0).toNat 4).take n
          | none => []
        match spotOf s1 phys with
        | some (.mem _) =>
          if flipping s1 off then s1
          else match lockWait s1 ((List.range n).map fun i => .glob (phys + i)) store.isSome with
            | (s2, true) => s2
            | (s2, false) => match cohere s2 [off] with
              | (s3, false) => s3
              | (s3, true) =>
                if store.isSome then scriptNext (s3.write off data false) k
                else
                  let (s4, b, p) := s3.read off n
                  if p then scriptPoison s4 k off else load s4 b
        | some (.block b o) =>
          if (n == 4 || n == 8) && (if store.isSome then scriptWrites b else scriptReads b o n) then
            if store.isSome then scriptNext (scriptWrite s1 b o n (BitVec.ofNat 64 (natOf data))) k
            else load s1 (bytesOf (blockRead s1 b o n).toNat n)
          else endScript s1 k 0x05
        | some (.window _) =>
          if store.isSome then scriptNext (s1.send (.hostWrite (hostAddr s1 off) data)) k
          else
            (s1.setScript k { sc with wait := some (.host (BitVec.ofNat 7 (dst.headD 0)) n m.sx), began := s.htime }).send
              (.hostRead (hostAddr s1 off) n (scriptAsker k))
        | _ => endScript s1 k 0x05

/-- A memory instruction of a thread or, where scripts have it, of a script. -/
def memOp (s : State) (is : Option Issue) (script : State → Nat → State) (k : State → Thread → Cur → State) : Host.Outcome State Fault Refusal :=
  withCur s fun c =>
    match c.who with
    | .thread u => onThread s u c is fun s t => k s t c
    | .script j => script s j
    | .stream x n => packetError s x n 0x0001

/-! ### Loads and stores -/

/-- A load's results: its words, poisoned together (R269, R397). -/
def loadFinish (c : Cur) (is : Issue) (dst : List Nat) (n : Nat) (sx : Bool) : Finish := fun s t b p =>
  match scoutSave t dst with
  | none => scoutStop s t .saves
  | some t1 => retire s (writeOut t1 c (some is) (dst.zip ((loadWords b n sx).map fun w => (w, p))) false) c

/-- Count a re-executed load that hits (R186). -/
def countRehit (s : State) (t : Thread) (va : DWord) : State :=
  if t.rerun && !t.plain && t.unbegun then
    match localOff s t va with
    | some off => if inL1 s t.core off || inL2 s off then scoutCount s t 0x60 else s
    | none => s
  else s

/-- A global load outside an episode: forwarded, checkpointed, or performed (R101, R113, R173, R186). -/
def globalLoad (s : State) (t : Thread) (c : Cur) (m : Mem) (dst : List Nat) (addr n : Nat) : State :=
  let va := BitVec.ofNat 64 addr
  let fin := loadFinish c m.is dst n m.sx
  match (if t.part.isNone then forward s t addr n else none) with
  | some (b, p) => fin s { t with hold := none } b p
  | none =>
    if wouldCheckpoint s t va && slotsUsed s t.core < logSlots s t.core then openCheckpoint s t c m.is va n m.sx dst (memCls m t va)
    else
      let s1 := if wouldCheckpoint s t va && logSlots s t.core != 0 then scoutCount s t 0x58 else countRehit s t va
      access (s1.setThread { s1.thread t.uid with plain := true }) { t with plain := true } c { deed := .load, scr := false, ps := pieces addr n, blocks := threadReads, windows := true, remotes := true, cls := memCls m t } fin

/-- LD (R396, R397). -/
def execLd (m : Mem) (d a : Reg) (s : State) : Host.Outcome State Fault Refusal :=
  let n := memBytes m
  let dst := dataRegs d n
  let ill := !(Instr.wf (.ld m d a))
  memOp s (some m.is) (fun s k => scriptAccess s k m ill (dst ++ memAddrRegs m a) a none dst) fun s t c =>
    let src := memAddrRegs m a
    checked s t c (regChecks t c ill (dst ++ src) src) <|
      let addr := memAddr m t a
      if t.inEpisode then scoutLoad s t c m.is (memScr m) src addr n m.sx dst (memCls m t (BitVec.ofNat 64 addr))
      else
        checked s t c (addrBad (s.launchOfThread t).rcd (memScr m) false false addr n) <|
          if t.provisional then lateLoad s t c m.is ⟨0, memScr m, pieces addr n, n, m.sx, dst, memCls m t (BitVec.ofNat 64 addr)⟩
          else if memScr m then access s t c { deed := .load, scr := true, ps := pieces addr n } (loadFinish c m.is dst n m.sx)
          else globalLoad s t c m dst addr n

/-- An instruction that writes memory and no register ends as soon as its pieces are performed. -/
def justRetire (c : Cur) : Finish := fun s t _ _ => retire s t c

/-- ST (R458, R459). -/
def execSt (m : Mem) (a e : Reg) (s : State) : Host.Outcome State Fault Refusal :=
  let n := memBytes m
  let rs := dataRegs e n
  let ill := !(Instr.wf (.st m a e))
  memOp s (some m.is) (fun s k => scriptAccess s k m ill (rs ++ memAddrRegs m a) a (some e) []) fun s t c =>
    let src := memAddrRegs m a
    checked s t c (regChecks t c ill (src ++ rs) src) <|
      let addr := memAddr m t a
      checked s t c (if src.any t.invalid then none else addrBad (s.launchOfThread t).rcd (memScr m) false true addr n) <|
        skipsScout s t c <|
          access s t c { deed := .store, scr := memScr m, ps := pieces addr n, data := regBytes t rs n, pois := rs.any fun r => (t.reg r).2
                         flags := 1, blocks := threadWrites, windows := true, remotes := true, cls := memCls m t } (justRetire c)

/-- LDT: a strided gather from scratch (R398). -/
def execLdt (size cnt : BitVec 3) (d a : Reg) (i : BitVec 11) (p : Reg) (is : Issue) (s : State) : Host.Outcome State Fault Refusal :=
  threadOp s (some is) fun s t c =>
    let sz := 2 ^ size.toNat
    let n := 4 * 2 ^ cnt.toNat
    let dst := regsFrom d (n * sz / 4)
    let src := [a.toNat, p.toNat]
    checked s t c (regChecks t c (!(Instr.wf (.ldt size cnt d a i p is))) (dst ++ src) src) <|
      let base := t.val a + i.signExtend 32
      let at_ := fun e : Nat => (base + BitVec.ofNat 32 e * t.val p).toNat
      let bytes := (List.range n).flatMap fun e => (List.range sz).map fun j => (at_ e + j) % 2 ^ 32
      if src.any t.invalid then scoutWriteRegs s t c (some is) dst (dst.map fun _ => 0) false true
      else
        checked s t c (scratchBad (s.launchOfThread t).rcd bytes) <|
          if t.provisional then
            lateLoad s t c is ⟨0, true, (List.range n).flatMap fun e => pieces (at_ e) sz, 4 * dst.length, false, dst, .normal⟩
          else if t.inEpisode then
            let tm := s.teamOf t
            scoutWriteRegs s t c (some is) dst (wordsOf (bytes.map fun o => tget 0 tm.scratch o) dst.length) (bytes.any fun o => tm.anyPoison o 1) false
          else
            access s t c { deed := .load, scr := true, ps := (List.range n).flatMap fun e => pieces (at_ e) sz }
              (loadFinish c is dst (4 * dst.length) false)

/-! ### Atomics and reductions -/

/-- An atomic's checks and effect (R327-R330): operands, class of addresses it may reach, its operation. -/
def atomicOp (s : State) (ill : Bool) (m : Mem) (d a e : Reg) (opn : Nat) (blocks : Nat → Block → Nat → Nat → Bool) (remotes : Bool) : Host.Outcome State Fault Refusal :=
  threadOp s (some m.is) fun s t c =>
    let n := memBytes m
    let dst := dataRegs d n
    let ops := operandRegs opn n e
    let src := memAddrRegs m a
    checked s t c (regChecks t c ill (dst ++ src ++ ops) (src ++ ops)) <|
      let addr := memAddr m t a
      checked s t c (if src.any t.invalid then none else addrBad (s.launchOfThread t).rcd (memScr m) true true addr n) <|
        if t.inEpisode then scoutWriteRegs s t c (some m.is) dst (dst.map fun _ => 0) false true
        else if t.provisional then holdAt s t .result
        else
          access s t c { deed := .rmw opn true, scr := memScr m, ps := [(addr, n)], data := regBytes t ops (if opn == 7 then 2 * n else n)
                         tight := true, flags := 3, blocks := blocks, remotes := remotes, cls := memCls m t } (loadFinish c m.is dst n false)

/-- A semaphore, by 8 bytes (R246, R329). -/
def semBlock (_ : Nat) (b : Block) (_ n : Nat) : Bool := b == .sems && n == 8

/-- ATOM (R327-R329). -/
def execAtom (m : Mem) (d a e : Reg) (s : State) : Host.Outcome State Fault Refusal :=
  atomicOp s (!(Instr.wf (.atom m d a e))) m d a e m.opn.toNat semBlock true

/-- ATOMF (R330). -/
def execAtomf (m : Mem) (d a e : Reg) (s : State) : Host.Outcome State Fault Refusal :=
  atomicOp s (!(Instr.wf (.atomf m d a e))) m d a e (8 + m.opn.toNat) (fun _ _ _ _ => false) false

/-- RED (R434, R435). -/
def execRed (m : Mem) (a e : Reg) (s : State) : Host.Outcome State Fault Refusal :=
  threadOp s (some m.is) fun s t c =>
    let n := memBytes m
    let ops := dataRegs e n
    let src := memAddrRegs m a
    checked s t c (regChecks t c (!(Instr.wf (.red m a e))) (src ++ ops) (src ++ ops)) <|
      let addr := memAddr m t a
      let int := m.opn.toNat < 8
      checked s t c (if src.any t.invalid then none else addrBad (s.launchOfThread t).rcd (memScr m) true true addr n) <|
        skipsScout s t c <|
          access s t c { deed := .rmw m.opn.toNat false, scr := memScr m, ps := [(addr, n)], data := regBytes t ops n, flags := 3
                         blocks := if int then semBlock else fun _ _ _ _ => false, remotes := int, cls := memCls m t } (justRetire c)

/-! ### MONW, PREF, FENCE -/

/-- MONW: one read, served from the thread's own log entries where it can be; equal to the comparand, the thread waits at it,
and reads again with the operands it had (R101, R312, R408). -/
def execMonw (m : Mem) (d a e : Reg) (s : State) : Host.Outcome State Fault Refusal :=
  threadOp s (some m.is) fun s t c =>
    endsScout s t <|
      let n := memBytes m
      let dst := dataRegs d n
      let ops := dataRegs e n
      let src := memAddrRegs m a
      checked s t c (regChecks t c (!(Instr.wf (.monw m d a e))) (dst ++ src ++ ops) (src ++ ops)) <|
        let addr := memAddr m t a
        checked s t c (addrBad (s.launchOfThread t).rcd (memScr m) true false addr n) <|
          let fin : Finish := fun s t b p => if b == regBytes t ops n then waitIn s t .monw else loadFinish c m.is dst n false s t b p
          match (if memScr m then none else forward s t addr n) with
          | some (b, p) => if p then takeTrap s t.uid 0x07 (BitVec.ofNat 64 (addr / 16 * 16)) 0x100 c.addr else fin s { t with hold := none } b p
          | none =>
            let t1 := { t with polls := true }
            access (s.setThread t1) t1 c { deed := .load, scr := memScr m, ps := [(addr, n)], tight := true, blocks := semBlock, remotes := true, cls := memCls m t } fin

/-- MONW_REPOLL: the waiting thread reads its word again (R408). -/
def execMonwRepoll (thread : Nat) (s : State) : Host.Outcome State Fault Refusal :=
  let t := s.thread thread
  .next (if s.hasThread thread && t.status == .waiting .monw && (s.teamOf t).place == .resident then s.setThread { t with status := .ready, stamp := s.cycle } else s)

/-- PREF (R430). -/
def execPref (m : Mem) (a : Reg) (s : State) : Host.Outcome State Fault Refusal :=
  threadOp s (some m.is) fun s t c =>
    let src := memAddrRegs m a
    checked s t c (regChecks t c (!(Instr.wf (.pref m a))) src src) <|
      let va := BitVec.ofNat 64 (memAddr m t a)
      if src.any t.invalid then retire s t c
      else if !(canonical va) then trapOr s t.uid 0x08 va (xlatInfo 0 false 1) c.addr
      else
        let cls := memCls m t va
        if t.inEpisode then
          let (s1, _) := scoutGet s t va 1 cls fun _ _ _ _ => true
          retire s1 (s1.thread t.uid) c
        else
          let l := s.launchOfThread t
          if (findXlate s t.core l.ctx (vaKey va)).isNone && l.rcd.strict then retire s t c
          else match translateCore s t.core l.ctx va false with
            | (s1, .ok phys) =>
              match spotOf s1 phys with
              | some (.mem off) => if flipping s1 off then holdAt s1 (s1.thread t.uid) .flip else retire (touch s1 t.core off cls) (s1.thread t.uid) c
              | _ => retire s1 (s1.thread t.uid) c
            | (s1, .busy) => holdAt s1 (s1.thread t.uid) .aside
            | (s1, .fault _ _) => retire s1 (s1.thread t.uid) c

/-- A core's record cache is emptied; what its threads are reading of records does not enter it any more (R132). -/
def emptyRecords (s : State) (core : Nat) : State :=
  let s1 := s.setCore core { s.core core with rcache := [] }
  { s1 with threads := modWhere (fun t => t.core == core && t.part.any (·.shape)) (fun t => { t with recOld := true }) s1.threads }
/-- A thread's store to a host window is not acknowledged, or a store of it lies in the side log (R124, R133). -/
def hostPending (s : State) (t : Thread) : Bool := t.hostOut != 0 || ownLogged s t

/-- FENCE: 0 waits for the thread's remote requests and for what its side-log entries may still send, and writes its deferred status, 1 empties the core's record cache,
2 waits for its stores to host windows and in the side log (R130, R132, R133, R366, R367). -/
def execFence (k : BitVec 2) (d : Reg) (s : State) : Host.Outcome State Fault Refusal :=
  threadOp s none fun s t c =>
    endsScout s t <|
      let dst := if k == 0 then [d.toNat] else []
      checked s t c (regChecks t c (!(Instr.wf (.fence k d))) dst []) <|
        match k.toNat with
        | 0 =>
          if (threadReqs s t.uid fun _ _ => true) != [] || ownLogged s t then holdAt s t .fence
          else retire s (writeNow { t with remerr := 0 } [(d.toNat, t.remerr, false)] false) c
        | 1 => retire (emptyRecords s t.core) t c
        | _ => if hostPending s t then holdAt s t .fence else retire s t c

end Sys2Proof.Machine
end

