-- ==== Sys2Proof/Machine/Matrix.lean ====
section
/-! DEFINITION. The Anvil: signing, operands, the element sum, accumulator accesses, the queue of a core, completion, the
duplicate check (R53, R80-R83, R134-R150, R403-R416). -/
namespace Sys2Proof.Machine
open Sys2Proof

/-! ### The element sum (R80-R82) -/

/-- The format and the width of elements by code (R403). -/
def matFmt (c : Nat) : Fmt := match c with | 0 => bf16 | 1 => fp16 | 2 => e4m3 | 3 => e5m2 | _ => e2m1
def matBits (c : Nat) : Nat := match c with | 0 | 1 => 16 | 5 => 4 | _ => 8

/-- A product scaled by 2^x, exactly. -/
def Val.scale (x : Int) : Val → Val
  | .fin n m e => .fin n m (e + x)
  | v => v
/-- A value truncated toward zero to the grid 2^q, in units of it. -/
def Val.truncTo (q : Int) : Val → Int
  | .fin n m e =>
    let x : Nat := if q ≤ e then m <<< (e - q).toNat else m >>> (q - e).toNat
    if n then -(x : Int) else x
  | _ => 0
/-- The integer e with 2^e ≤ |p| < 2^(e+1). -/
def Val.top : Val → Option Int
  | .fin _ m e => some ((Nat.log2 m : Int) + e)
  | _ => none

/-- The element of an accumulator and products already scaled (R80). -/
def anvilSum (acc : Word) (ps : List Val) : Word :=
  let vs := valOf fp32 acc.toNat :: ps
  let has := fun v => vs.any fun x => decide (x = v)
  if has .nan || (has (.inf false) && has (.inf true)) then 0x7FC00000
  else if has (.inf false) then 0x7F800000
  else if has (.inf true) then 0xFF800000
  else
    let tops := ps.filterMap Val.top
    let q : Int := (tops.foldl max (tops.headD 0)) - 48
    let sum := (ps.map (Val.truncTo q)).foldl (· + ·) 0
    match (vadd .rne (valInt sum q false) (valOf fp32 acc.toNat)).1 with
    | .zero _ => 0
    | v => BitVec.ofNat 32 (roundTo fp32 .rne false v).1

/-- The scale of block h of a product, or a NaN (R80). -/
def scaleVal (sa sb : Nat) (v : Val) : Val := if sa == 255 || sb == 255 then .nan else v.scale ((sa : Int) + sb - 254)

/-- An output element from the patterns along K; scales by block (R80, R81). -/
def anvilElement (f : MatForm) (acc : Word) (a b : List Nat) (sa sb : List Nat) : Word :=
  if f.af == 4 then word (acc.toInt + ((a.zip b).map fun x => sext x.1 8 * sext x.2 8).foldl (· + ·) 0)
  else
    anvilSum acc <| (a.zip b).zipIdx.map fun (x, k) =>
      let p := (vmul (valOf (matFmt f.af) x.1) (valOf (matFmt f.bf) x.2)).1
      if f.scaled then scaleVal (sa.getD (k / 32) 0) (sb.getD (k / 32) 0) p else p

/-! ### Operands (R139, R140) -/

/-- The scratch offset of a byte of a row of a tile, by a descriptor, with its rotation (R140). -/
def descOff (d : DWord) (tile r lin : Nat) : Nat :=
  let lo := (loWord d).toNat
  let hi := (hiWord d).toNat
  let a := bits lo 0 20 * 16 + tile * (bits hi 0 20 * 16) + r * (bits lo 20 12 * 16) + lin
  let rot := if bits hi 28 3 == 0 then 0 else (r <<< (bits hi 28 3 - 1)) % 64
  a / 512 * 512 + ((a / 8 + rot) % 64) * 8 + a % 8
/-- The offset of A element (i, k) and of B element (k, j). -/
def aOff (f : MatForm) (i k : Nat) : Nat := descOff f.da (i / 128) (i % 128) (k * matBits f.af / 8)
def bOff (f : MatForm) (k j : Nat) : Nat := descOff f.db (j / 16) k (j % 16 * matBits f.bf / 8)
/-- The bytes of an element at an offset. -/
def elemOffs (o w : Nat) : List Nat := from_ o ((w + 7) / 8)
/-- The steps of the operand phase, by the scratch bytes each reads: 512 bytes of consecutive rows of A, then of consecutive rows
of each 16-column tile of B, then the B scales; that the scales come last, by 512 bytes, is the model's choice (R136, R141, R143;
log entry 134). -/
def operandSteps (f : MatForm) (rows : Nat) : List (List Nat) :=
  let ra := 64 / matBits f.af
  let rb := 256 / matBits f.bf
  (if f.as then (List.range (rows / ra)).map fun x => (from_ (x * ra) ra).flatMap fun i => (List.range 64).flatMap fun k => elemOffs (aOff f i k) (matBits f.af) else []) ++
  ((List.range (f.n / 16)).flatMap fun g => (List.range (64 / rb)).map fun x => (from_ (x * rb) rb).flatMap fun k =>
    (from_ (16 * g) 16).flatMap fun j => elemOffs (bOff f k j) (matBits f.bf)) ++
  (if f.scaled then (List.range ((2 * f.n + 511) / 512)).map fun x => (from_ (512 * x) (min 512 (2 * f.n - 512 * x))).map fun i => (f.bscale.toNat + i) % 2 ^ 32 else [])
/-- Every scratch byte an operation reads: A, B, the B scales (R136, R141). -/
def operandOffs (f : MatForm) (rows : Nat) : List Nat := (operandSteps f rows).flatten

/-- The registers of a register A row (R139). -/
def rowRegs (af : Nat) : Nat := 2 * matBits af
/-- Element k of a row in registers. -/
def regElem (w : Nat) (ws : List (Word × Bool)) (k : Nat) : Nat := bits (ws.getD (k * w / 32) (0, false)).1.toNat (k * w % 32) w
/-- A scratch byte an operation has captured. -/
def MatOp.byte (o : MatOp) (off : Nat) : Byte × Bool := ((o.bytes.find? (·.1 == off)).map (·.2)).getD (0, false)
/-- An element of a scratch operand at an offset; a 4-bit one shares its byte. -/
def MatOp.elem (o : MatOp) (w off k : Nat) : Nat :=
  let x := natOf ((elemOffs off w).map fun a => (o.byte a).1)
  if w == 4 then bits x (4 * (k % 2)) 4 else x
def MatOp.sign (o : MatOp) (row : Nat) : Sign := (o.signs.find? (·.row == row)).getD ⟨row, 0, 0, [], (0, false), 7⟩
/-- Row i of A and column j of B, and whether a byte or a scale of it is poisoned (R147). Which nibble a 4-bit element (k, j) of B
takes is the model's choice: R140 speaks of k, but it is element j ^ 1 that shares the byte, so j chooses (log entry 148). -/
def MatOp.aRow (o : MatOp) (i : Nat) : List Nat :=
  (List.range 64).map fun k => if o.form.as then o.elem (matBits o.form.af) (aOff o.form i k) k else regElem (matBits o.form.af) (o.sign i).words k
def MatOp.bCol (o : MatOp) (j : Nat) : List Nat := (List.range 64).map fun k => o.elem (matBits o.form.bf) (bOff o.form k j) j
def MatOp.rowPoison (o : MatOp) (i : Nat) : Bool :=
  (if o.form.as then (List.range 64).any fun k => (elemOffs (aOff o.form i k) (matBits o.form.af)).any fun a => (o.byte a).2
   else (o.sign i).words.any (·.2)) || (o.form.scaled && (o.sign i).scale.2)
def MatOp.bScale (o : MatOp) (j h : Nat) : Byte × Bool := o.byte ((o.form.bscale.toNat + 2 * j + h) % 2 ^ 32)
def MatOp.colPoison (o : MatOp) (j : Nat) : Bool :=
  ((List.range 64).any fun k => (elemOffs (bOff o.form k j) (matBits o.form.bf)).any fun a => (o.byte a).2) ||
  (o.form.scaled && ((o.bScale j 0).2 || (o.bScale j 1).2))

/-! ### Accumulators (R53, R147) -/

def accKey (half unit row col : Nat) : Nat := half * 2 ^ 24 + unit * 2 ^ 14 + row * 2 ^ 7 + col
def markKey (half unit i : Nat) : Nat := half * 2 ^ 16 + unit * 2 ^ 7 + i
def Team.accAt (tm : Team) (half unit row col : Nat) : Word := tget 0 tm.acc (accKey half unit row col)
def Team.setAcc (tm : Team) (half unit row col : Nat) (v : Word) : Team := { tm with acc := tset 0 tm.acc (accKey half unit row col) v }
/-- An element is poisoned: its row's mark or its column's is set. -/
def Team.accPoison (tm : Team) (half unit row col : Nat) : Bool := nmem tm.rmark (markKey half unit row) || nmem tm.cmark (markKey half unit col)
/-- Units of N columns. -/
def unitsOf (n : Nat) : Nat := (n + 127) / 128
/-- Units of a core's accumulator region. -/
def accUnits (c : Core) : Nat := (c.pb.2.1 - c.pb.1) / 4
/-- N of a matrix operation (R134). -/
def matN (w : Word) : Nat := bits w.toNat 0 10
def matNOk (n : Nat) : Bool := n % 16 == 0 && 16 ≤ n && n ≤ 512
/-- The base unit a register names. -/
def unitIn (w : Word) : Nat := bits w.toNat 0 6

/-- The effect of a completed operation on one core's rows (R80, R141, R147). -/
def matWrite (tm : Team) (o : MatOp) (half : Nat) : Team :=
  let f := o.form
  let cols := (List.range f.n).map fun j => (j, o.bCol j, [(o.bScale j 0).1.toNat, (o.bScale j 1).1.toNat])
  let tm1 := (List.range 128).foldl
    (fun (x : Team) r =>
      let i := if o.pair then 128 * half + r else r
      let a := o.aRow i
      let sc := (o.sign i).scale.1.toNat
      let y := cols.foldl
        (fun (x : Team) (j, b, sb) =>
          x.setAcc half (f.unit + j / 128) r (j % 128)
            (anvilElement f (tm.accAt half (f.unit + j / 128) r (j % 128)) a b [bits sc 0 8, bits sc 8 8] sb)) x
      if o.rowPoison i then { y with rmark := (from_ f.unit (unitsOf f.n)).foldl (fun l u => nins l (markKey half u r)) y.rmark } else y) tm
  let cm := (List.range f.n).foldl
    (fun l j => if o.colPoison j then nins l (markKey half (f.unit + j / 128) (j % 128)) else l) tm1.cmark
  { tm1 with cmark := cm }

/-! ### Accumulator accesses (R145-R149) -/

/-- A thread's counter falls when it still lives. -/
def sbDone (s : State) (u k : Nat) : State := if s.hasThread u then s.setThread (renew s (s.thread u) ((s.thread u).sbDown k)) else s

/-- The value MST stores of an element (R412). -/
def mstVal (fmt : Nat) (sat : Bool) (y : Word) : Nat :=
  match fmt with
  | 5 => y.toNat
  | 6 => (max (-128) (min 127 y.toInt)).emod 256 |>.toNat
  | 0 => (roundTo fp32 .rne false (valOf fp32 y.toNat)).1
  | n => (roundTo (match n with | 1 => bf16 | 2 => fp16 | 3 => e4m3 | _ => e5m2) .rne sat (valOf fp32 y.toNat)).1
/-- Element bytes of MST. -/
def mstBytes (fmt : Nat) : Nat := match fmt with | 0 | 5 => 4 | 1 | 2 => 2 | _ => 1

/-- The CRC of a tile on one core (R149). -/
def tileCrc (tm : Team) (half unit n : Nat) : DWord :=
  let els := (List.range 128).flatMap fun i => (List.range n).flatMap fun j => bytesOf (tm.accAt half (unit + j / 128) i (j % 128)).toNat 4
  let marks := fun (l : List Nat) (u : Nat) => (List.range 16).map fun b =>
    BitVec.ofNat 8 ((List.range 8).foldl (fun r i => if nmem l (markKey half u (8 * b + i)) then r + 2 ^ i else r) 0)
  crc64 (els ++ (from_ unit (unitsOf n)).flatMap fun u => marks tm.rmark u ++ marks tm.cmark u)

/-- The halves an accumulator write reaches: both in a duplicate-check launch (R148). -/
def accHalves (s : State) (tm : Team) (half : Nat) : List Nat := if (s.launchOf tm.launch).rcd.dup then [0, 1] else [half]

/-- MST's elements, each with its scratch offset. -/
def mstOffs (fmt n : Nat) (addr : Word) : List Nat := (List.range (n * mstBytes fmt)).map fun i => (addr + BitVec.ofNat 32 i).toNat

/-- Perform an accumulator access of a team on one half (R145, R147-R149). -/
def performAcc (s : State) (team half : Nat) (k : AccKind) : State :=
  let tm := s.team team
  match k with
  | .mrd u tok unit row col n d =>
    let vs := (List.range n).map fun e => (d + e, tm.accAt half unit row (col + e), tm.accPoison half unit row (col + e))
    if s.hasThread u then s.setThread ((s.thread u).fill tok vs) else s
  | .mwr unit row col vals u sb =>
    let tm1 := (accHalves s tm half).foldl
      (fun (x : Team) h =>
        let y := vals.zipIdx.foldl (fun (y : Team) (v, e) => y.setAcc h unit row (col + e) v.1) x
        if vals.any (·.2) then { y with rmark := nins y.rmark (markKey h unit row) } else y) tm
    sbDone (s.setTeam tm1) u sb
  | .mst fmt sat unit row col n addr u sb =>
    let tm1 := (List.range n).foldl
      (fun (x : Team) e =>
        x.scrWrite (addr + BitVec.ofNat 32 (e * mstBytes fmt)).toNat (bytesOf (mstVal fmt sat (tm.accAt half unit row (col + e))) (mstBytes fmt))
          (tm.accPoison half unit row (col + e))) tm
    sbDone (s.setTeam tm1) u sb
  | .mzero unit n u sb =>
    let tm1 := (accHalves s tm half).foldl
      (fun (x : Team) h =>
        { x with acc := x.acc.filter fun e => !(accKey h unit 0 0 ≤ e.1 && e.1 < accKey h (unit + unitsOf n) 0 0)
                 rmark := x.rmark.filter fun m => !(markKey h unit 0 ≤ m && m < markKey h (unit + unitsOf n) 0)
                 cmark := x.cmark.filter fun m => !(markKey h unit 0 ≤ m && m < markKey h (unit + unitsOf n) 0) }) tm
    sbDone (s.setTeam tm1) u sb
  | .mchk u tok unit n d =>
    let c0 := tileCrc tm 0 unit n
    if c0 == tileCrc tm 1 unit n then
      if s.hasThread u then s.setThread ((s.thread u).fill tok [(d, loWord c0, false), (d + 1, hiWord c0, false)]) else s
    else
      let l := s.launchOf tm.launch
      abortLaunch (mcRecord s 1 3 0 tm.core l.id (tm.core / 2 * 256 + unit)) l.uid 0x22 0

/-- The units an item of a queue touches. -/
def AccKind.units : AccKind → Nat × Nat
  | .mrd _ _ unit _ _ _ _ | .mwr unit _ _ _ _ _ | .mst _ _ unit _ _ _ _ _ _ => (unit, 1)
  | .mzero unit n _ _ | .mchk _ _ unit n _ => (unit, unitsOf n)
def AnvilItem.units : AnvilItem → Nat × Nat
  | .op o => (o.form.unit, unitsOf o.form.n)
  | .acc _ _ k => k.units
def overlap (x y : Nat × Nat) : Bool := x.1 < y.1 + y.2 && y.1 < x.1 + x.2
/-- An access may be performed: nothing before it in the queue overlaps it, and MST's scratch words are not locked; that an MST
which waits behind an operation and then meets a lock taken since its issue waits for its release is the model's choice (R117,
R146; log entry 60). -/
def accReady (s : State) (before : List AnvilItem) (team : Nat) (k : AccKind) : Bool :=
  !(before.any fun x => overlap x.units k.units) &&
    match k with
    | .mst fmt _ _ _ _ n addr _ _ => (locksHit s ((mstOffs fmt n addr).map fun o => .scr team o) true).isNone
    | _ => true

/-- Split a queue at its first access that may be performed. -/
def firstReady (s : State) (before : List AnvilItem) : List AnvilItem → Option (List AnvilItem × Nat × Nat × AccKind)
  | [] => none
  | .acc t h k :: rest => if accReady s before t k then some (before ++ rest, t, h, k) else firstReady s (before ++ [.acc t h k]) rest
  | x :: rest => firstReady s (before ++ [x]) rest
/-- Perform every access of a core's queue that may be (R146). -/
def drainAnvil : Nat → State → Nat → State
  | 0, s, _ => s
  | f + 1, s, core =>
    let c := s.core core
    match firstReady s [] c.anvil with
    | some (q, t, h, k) => drainAnvil f (performAcc (s.setCore core { c with anvil := q }) t h k) core
    | none => s
def drain (s : State) (core : Nat) : State := drainAnvil (s.core core).anvil.length s core

/-- An accumulator access takes its place in its core's queue (R146). -/
def issueAcc (s : State) (t : Thread) (k : AccKind) : State :=
  let c := s.core t.core
  drain (s.setCore t.core { c with anvil := c.anvil ++ [.acc t.team (halfOf (s.teamOf t) t) k] }) t.core

/-- The checks of a tile: its units within the region (R136, R145); its N is a limit of the instruction. -/
def unitBad (s : State) (t : Thread) (unit n : Nat) : Option (Nat × DWord × Word) :=
  if accUnits (s.core t.core) < unit + unitsOf n then some (0x0B, BitVec.ofNat 64 unit, 1) else none
/-- A position's limits: J0 a multiple of n, I at most 127 (R145). -/
def posIll (n : Nat) (p : Word) : Bool := bits p.toNat 16 16 % n != 0 || 128 ≤ bits p.toNat 0 7
/-- The check of a position: its unit within the region (R145). -/
def posBad (s : State) (t : Thread) (unit : Nat) (p : Word) : Option (Nat × DWord × Word) :=
  if accUnits (s.core t.core) ≤ unit + bits p.toNat 16 16 / 128 then some (0x0B, BitVec.ofNat 64 unit, 1) else none

/-- An accumulator read into registers; it issues in the provisional period too (R145, R146, R150, R174, R177). -/
def accRead (s : State) (t : Thread) (c : Cur) (is : Issue) (dst : List Nat) (k : Nat → AccKind) : State :=
  if t.inEpisode then scoutWriteRegs s t c (some is) dst (dst.map fun _ => 0) false true
  else match scoutSave t dst with
    | none => scoutStop s t .saves
    | some t1 =>
      let (s1, tok) := newTok s
      issueAcc (retire s1 (t1.await c is tok dst) c) (t1.await c is tok dst) (k tok)
/-- An accumulator write (R145, R146, R150). -/
def accWrite (s : State) (t : Thread) (c : Cur) (is : Issue) (k : AccKind) : State :=
  let t1 := t.charge is.sb.toNat
  issueAcc (retire s t1 c) t1 k

/-- n of a code (R403). -/
def nOf (n : BitVec 3) : Nat := 2 ^ n.toNat

/-- MRD (R411). -/
def execMrd (n : BitVec 3) (d a b : Reg) (is : Issue) (s : State) : Host.Outcome State Fault Refusal :=
  threadOp s (some is) fun s t c =>
    let dst := regsFrom d (nOf n)
    let p := t.val b
    let ill := !(Instr.wf (.mrd n d a b is)) || limited t [b.toNat] (posIll (nOf n) p)
    checked s t c (regChecks t c ill (dst ++ [a.toNat, b.toNat]) [a.toNat, b.toNat]) <|
      let unit := unitIn (t.val a)
      if t.unknown [a.toNat, b.toNat] then scoutWriteRegs s t c (some is) dst (dst.map fun _ => 0) false true
      else
        checked s t c (posBad s t unit p) <|
          let j := bits p.toNat 16 16
          accRead s t c is dst fun tok => .mrd t.uid tok (unit + j / 128) (bits p.toNat 0 7) (j % 128) (nOf n) d.toNat

/-- MWR (R414). -/
def execMwr (n : BitVec 3) (a b e : Reg) (is : Issue) (s : State) : Host.Outcome State Fault Refusal :=
  threadOp s (some is) fun s t c =>
    let src := regsFrom e (nOf n)
    let p := t.val b
    let ill := !(Instr.wf (.mwr n a b e is)) || limited t [b.toNat] (posIll (nOf n) p)
    checked s t c (regChecks t c ill ([a.toNat, b.toNat] ++ src) [a.toNat, b.toNat]) <|
      let unit := unitIn (t.val a)
      checked s t c (if t.unknown [a.toNat, b.toNat] then none else posBad s t unit p) <|
        skipsScout s t c <|
          let j := bits p.toNat 16 16
          accWrite s t c is (.mwr (unit + j / 128) (bits p.toNat 0 7) (j % 128) (src.map t.reg) t.uid is.sb.toNat)

/-- MST (R412): locks hold or trap it as they do a thread's store (R117). Where it breaks both the accumulator region and the
scratch bound it reports the unit, by the model's choice (R256; log entry 150). -/
def execMst (fmt : BitVec 3) (sat : Bool) (n : BitVec 3) (c a : Reg) (off : Off) (e : Reg) (is : Issue) (s : State) : Host.Outcome State Fault Refusal :=
  threadOp s (some is) fun s t cur =>
    let src := [c.toNat, a.toNat, e.toNat]
    let p := t.val e
    let ill := !(Instr.wf (.mst fmt sat n c a off e is)) || limited t [e.toNat] (posIll (nOf n) p)
    checked s t cur (regChecks t cur ill src src) <|
      let unit := unitIn (t.val c)
      let addr := t.val a + (offValue off).setWidth 32
      let offs := mstOffs fmt.toNat (nOf n) addr
      let bad := match posBad s t unit p with | some x => some x | none => scratchBad (s.launchOfThread t).rcd offs
      checked s t cur (if t.unknown src then none else bad) <|
        skipsScout s t cur <|
          match locksHit s (offs.map fun o => .scr t.team o) true with
          | some (i, .conflict core tag kind) => takeTrap s t.uid 0x03 (BitVec.ofNat 64 (offs.getD i 0)) (conflictInfo core tag kind) cur.addr
          | some (i, .stall core tag) => holdAt (wantAside s core tag (offs.getD i 0 / 128)) t .aside
          | _ =>
            let j := bits p.toNat 16 16
            accWrite s t cur is (.mst fmt.toNat sat (unit + j / 128) (bits p.toNat 0 7) (j % 128) (nOf n) addr t.uid is.sb.toNat)

/-- MZERO (R416). -/
def execMzero (a b : Reg) (is : Issue) (s : State) : Host.Outcome State Fault Refusal :=
  threadOp s (some is) fun s t c =>
    let n := matN (t.val b)
    let ill := !(Instr.wf (.mzero a b is)) || limited t [b.toNat] (!(matNOk n))
    checked s t c (regChecks t c ill [a.toNat, b.toNat] [a.toNat, b.toNat]) <|
      let unit := unitIn (t.val a)
      checked s t c (if t.unknown [a.toNat, b.toNat] then none else unitBad s t unit n) <|
        skipsScout s t c (accWrite s t c is (.mzero unit n t.uid is.sb.toNat))

/-- MCHK (R149, R405). -/
def execMchk (d a b : Reg) (is : Issue) (s : State) : Host.Outcome State Fault Refusal :=
  threadOp s (some is) fun s t c =>
    let n := matN (t.val b)
    let ill := !(Instr.wf (.mchk d a b is)) || !(s.launchOfThread t).rcd.dup || limited t [b.toNat] (!(matNOk n))
    checked s t c (regChecks t c ill (pairRegs d ++ [a.toNat, b.toNat]) [a.toNat, b.toNat]) <|
      let unit := unitIn (t.val a)
      checked s t c (if t.unknown [a.toNat, b.toNat] then none else unitBad s t unit n) <|
        skipsScout s t c (accRead s t c is (pairRegs d) fun tok => .mchk t.uid tok unit n d.toNat)

/-! ### Convergence registers and signing (R135-R138) -/

/-- %einfo of a signature mismatch (R137). -/
def matInfo (deferred : Bool) (c reason : Nat) : Word := fields [(one deferred, 8), (c, 5), (reason, 0)]

/-- The thread has signed an operation on cN that is gathering, issued or running (R138). -/
def signedOn (s : State) (t : Thread) (c : Nat) : Bool :=
  let tm := s.teamOf t
  ((tget {} tm.convs c).signs.any (·.thread == t.uid)) ||
    [tm.core, tm.core + 1].any fun k => (s.core k).anvil.any fun
      | .op o => o.team == tm.uid && o.conv == c && o.signs.any (·.thread == t.uid)
      | .acc _ _ _ => false

/-- Release the MWAITs that have nothing left to wait for (R138). -/
def wakeMwait (s : State) (team : Nat) : State :=
  { s with threads := s.threads.map fun t =>
      match t.status with
      | .waiting (.matrix c) => if t.team == team && !(signedOn s t c) then t.readyAt (t.pc + 8) s.cycle else t
      | _ => t }

/-- Discard the gathering instance of a register: the counters of its signers fall and each that has not exited is due a deferred
trap. That a thread whose own second signature discards it takes its precise trap and, for the earlier signature, a deferred one
too is the model's choice (R136, R137; log entry 151). -/
def discardGather (s : State) (team c reason : Nat) : State :=
  let tm := s.team team
  let v := tget {} tm.convs c
  let s1 := s.setTeam { tm with convs := tset {} tm.convs c { v with signs := [], form := none } }
  let s2 := v.signs.foldl
    (fun (s : State) g =>
      let t := s.thread g.thread
      if !(s.hasThread g.thread) || t.status == .exited then s
      else s.setThread { renew s t (t.sbDown g.sb) with defer := t.defer ++ [(g.addr, matInfo true c reason)] }) s1
  wakeMwait s2 team

/-- MCFG (R135, R404). -/
def execMcfg (cN : BitVec 3) (a : Reg) (is : Issue) (s : State) : Host.Outcome State Fault Refusal :=
  threadOp s (some is) fun s t c =>
    let r := (s.launchOfThread t).rcd
    let w := (t.val a).toNat
    let pair := bits w 31 1 == 1
    let base := bits w 0 11
    let half := r.nthr / 2
    let bad := if pair then !r.pair || r.dup || base + 128 != half
      else r.nthr < base + 128 || (r.pair && base < half && half < base + 128)
    let ill := !(Instr.wf (.mcfg cN a is)) || r.nconv ≤ cN.toNat || limited t [a.toNat] bad
    checked s t c (regChecks t c ill [a.toNat] [a.toNat]) <|
      let tm := s.teamOf t
      let v := tget {} tm.convs cN.toNat
      let same := t.unknown [a.toNat] || (v.configured && v.pair == pair && v.base == base)
      if !same && v.signs != [] then trapOr s t.uid 0x06 c.addr (matInfo false cN.toNat 5) c.addr
      else skipsScout s t c <|
        retire (s.setTeam { tm with convs := tset {} tm.convs cN.toNat (if same then v else { v with configured := true, pair := pair, base := base }) }) t c

/-- MWAIT (R138, R413). -/
def execMwait (cN : BitVec 3) (is : Issue) (s : State) : Host.Outcome State Fault Refusal :=
  threadOp s (some is) fun s t c =>
    checked s t c (regChecks t c (!(Instr.wf (.mwait cN is)) || (s.launchOfThread t).rcd.nconv ≤ cN.toNat) [] []) <|
      if t.inEpisode || !(signedOn s t cN.toNat) then retire s t c
      else waitIn s t (.matrix cN.toNat)

/-- The cores an operation runs on: both of a pair for a pair operation or in a duplicate-check launch (R142, R148). -/
def opCores (s : State) (tm : Team) (pair : Bool) (core : Nat) : List Nat :=
  if pair || (s.launchOf tm.launch).rcd.dup then [tm.core, tm.core + 1] else [core]

/-- A signature: its register limits and its form, the values it gives, and how it signs (R136, R137, R141). -/
structure SignOp where
  ill    : Bool
  uses   : List Nat
  hot    : List Nat
  af     : Nat
  bf     : Nat
  as     : Bool
  scale  : Option Reg
  conv   : Nat
  d      : Reg
  a      : Reg
  b      : Reg
  n      : Reg
  is     : Issue

/-- The descriptor without its ignored bits: that these make no difference between signatures is the model's choice (R137, R140;
log entry 57). -/
def descKey (d : DWord) : DWord := d &&& 0x700FFFFFFFFFFFFF

/-- MMA and MMAS: the signature of the thread's row; the last row issues the operation (R136, R137, R141, R406, R407). Where
several rows of R137's table hold at one signature the model reports row 4, then 3, then 1, then 2; where one instruction breaks
both the scratch bound and the accumulator region it reports the scratch byte, as R256 names no order between them: both are the
model's choices (log entries 149, 150). -/
def signOp (s : State) (o : SignOp) : Host.Outcome State Fault Refusal :=
  threadOp s (some o.is) fun s t c =>
    let r := (s.launchOfThread t).rcd
    let n := matN (t.val o.n)
    let rot := fun x : Reg => bits (hiWord (t.pair x)).toNat 28 3 == 7
    let ill := o.ill || r.nconv ≤ o.conv || limited t [o.n.toNat] (!(matNOk n)) || (o.as && limited t (pairRegs o.a) (rot o.a)) ||
      limited t (pairRegs o.b) (rot o.b)
    checked s t c (regChecks t c ill o.uses o.hot) <|
      if t.unknown o.hot then skipsScout s t c s
      else
        let f : MatForm :=
          { scaled := o.scale.isSome, af := o.af, bf := o.bf, as := o.as, n := n, unit := unitIn (t.val o.d)
            da := if o.as then descKey (t.pair o.a) else 0, db := descKey (t.pair o.b)
            bscale := match o.scale with | some x => (t.reg (x.toNat + 1)).1 | none => 0 }
        let tm := s.teamOf t
        let v := tget {} tm.convs o.conv
        let rows := if v.pair then 256 else 128
        let mismatch := fun (s : State) (reason : Nat) => trapOr s t.uid 0x06 c.addr (matInfo false o.conv reason) c.addr
        let discard := fun reason => if t.scout.isSome then s else discardGather s tm.uid o.conv reason
        if !v.configured then mismatch s 4
        else if t.tid < v.base || v.base + rows ≤ t.tid then mismatch s 3
        else if v.form.any (· != f) then mismatch (discard 1) 1
        else if v.signs.any (·.row == t.tid - v.base) then mismatch (discard 2) 2
        else
          let scr := scratchBad r (operandOffs f rows)
          let acc := if accUnits (s.core t.core) < f.unit + unitsOf n then some (0x0B, BitVec.ofNat 64 f.unit, (1 : Word)) else none
          checked s t c (match scr with | some x => some x | none => acc) <|
            skipsScout s t c <|
            let row := if o.as then [] else (regsFrom o.a (rowRegs o.af)).map t.reg
            let sc := match o.scale with | some x => t.reg x.toNat | none => (0, false)
            let g : Sign := ⟨t.tid - v.base, t.uid, c.addr, row, sc, o.is.sb.toNat⟩
            let signs := v.signs ++ [g]
            let s1 := retire s (t.charge o.is.sb.toNat) c
            if signs.length < rows then s1.setTeam { tm with convs := tset {} tm.convs o.conv { v with form := some f, signs := signs } }
            else
              let op : MatOp := { team := tm.uid, conv := o.conv, pair := v.pair, form := f, signs := signs }
              (opCores s tm v.pair t.core).foldl
                (fun s k => s.setCore k { s.core k with anvil := (s.core k).anvil ++ [.op op] })
                (s1.setTeam { tm with convs := tset {} tm.convs o.conv { v with form := none, signs := [] } })

/-- The A registers a signature names: the row's, or the descriptor pair (R139, R406). -/
def aRegs (as : Bool) (af : Nat) (a : Reg) : List Nat := if as then pairRegs a else regsFrom a (rowRegs af)

/-- MMA (R406). -/
def execMma (af bf : BitVec 3) (as : Bool) (cN : BitVec 3) (d a b n : Reg) (is : Issue) (s : State) : Host.Outcome State Fault Refusal :=
  let hot := [d.toNat, n.toNat] ++ pairRegs b ++ if as then pairRegs a else []
  signOp s { ill := !(Instr.wf (.mma af bf as cN d a b n is)), uses := hot ++ aRegs as af.toNat a, hot := hot, af := af.toNat, bf := bf.toNat
             as := as, scale := none, conv := cN.toNat, d := d, a := a, b := b, n := n, is := is }
/-- MMAS (R407). -/
def execMmas (af bf : BitVec 3) (as : Bool) (cN : BitVec 3) (d a b n x : Reg) (is : Issue) (s : State) : Host.Outcome State Fault Refusal :=
  let hot := [d.toNat, n.toNat, x.toNat + 1] ++ pairRegs b ++ if as then pairRegs a else []
  signOp s { ill := !(Instr.wf (.mmas af bf as cN d a b n x is)), uses := x.toNat :: hot ++ aRegs as af.toNat a, hot := hot, af := af.toNat
             bf := bf.toNat, as := as, scale := some x, conv := cN.toNat, d := d, a := a, b := b, n := n, is := is }

/-! ### The queue's events (R142, R143) -/

/-- The operations of a core's queue whose teams are resident, in issue order. -/
def coreOps (s : State) (core : Nat) : List MatOp :=
  (s.core core).anvil.filterMap fun
    | .op o => if (s.team o.team).place == .resident then some o else none
    | .acc _ _ _ => none
/-- The first of them. -/
def firstOp (s : State) (core : Nat) : Option MatOp := (coreOps s core).head?
/-- Replace or remove the first operation equal to one. -/
def changeOp (o : MatOp) (x : Option MatOp) : List AnvilItem → List AnvilItem
  | [] => []
  | .op y :: rest => if decide (y = o) then (match x with | some z => .op z :: rest | none => rest) else .op y :: changeOp o x rest
  | y :: rest => y :: changeOp o x rest
/-- Replace an operation on its cores. -/
def putOp (s : State) (cs : List Nat) (o x : MatOp) : State :=
  cs.foldl (fun s k => s.setCore k { s.core k with anvil := changeOp o (some x) (s.core k).anvil }) s
/-- An accumulator access issued before an operation on its units still waits (R146). -/
def accAhead (o : MatOp) : List AnvilItem → Bool
  | [] => false
  | .op y :: rest => if decide (y = o) then false else accAhead o rest
  | .acc _ _ k :: rest => overlap k.units (o.form.unit, unitsOf o.form.n) || accAhead o rest

/-- A signer's MST before an operation in the queue has not stored yet: the operand reads follow it (R121). -/
def mstAhead (o : MatOp) : List AnvilItem → Bool
  | [] => false
  | .op y :: rest => if decide (y = o) then false else mstAhead o rest
  | .acc _ _ (.mst _ _ _ _ _ _ _ u _) :: rest => o.signs.any (·.thread == u) || mstAhead o rest
  | _ :: rest => mstAhead o rest
/-- The steps of an operation's operand phase, and whether all are read. -/
def MatOp.allSteps (o : MatOp) : List (List Nat) := operandSteps o.form (if o.pair then 256 else 128)
def MatOp.read (o : MatOp) : Bool := o.allSteps.length ≤ o.steps
/-- One step of the operand phase: its bytes are read, each once, into one of two buffers, when no destination lock covers one
and no signer's MST comes before (R117, R121, R143). -/
def operandPhase (s : State) (core : Nat) (o : MatOp) : State :=
  let tm := s.team o.team
  let cs := opCores s tm o.pair core
  let offs := (o.allSteps.getD o.steps []).filter fun a => !(o.bytes.any (·.1 == a))
  if cs.any (fun k => mstAhead o (s.core k).anvil) || (locksHit s (offs.map fun a => .scr tm.uid a) false).isSome then s
  else putOp s cs o { o with phase := .operands, steps := o.steps + 1, bytes := o.bytes ++ offs.eraseDups.map fun a => (a, tget 0 tm.scratch a, tm.anyPoison a 1) }

/-- The operation behind the one that computes has its operand phase (R143). -/
def operandAhead (s : State) (core : Nat) : List MatOp → State
  | o :: _ =>
    if !o.read && (opCores s (s.team o.team) o.pair core).all (fun k => ((coreOps s k).take 2).contains o) then operandPhase s core o else s
  | [] => s

/-- MATRIX_COMPUTE_START: the operand phase of the first operation goes on by a step, or, all its operands read, it computes,
when every core of it is free and no access issued before it waits; while one computes, the next one reads its operands (R142,
R143, R146). -/
def execMatrixComputeStart (core : Nat) (s : State) : Host.Outcome State Fault Refusal :=
  .next <| match coreOps s core with
    | [] => s
    | o :: rest =>
      let cs := opCores s (s.team o.team) o.pair core
      if o.phase == .compute then operandAhead s core rest
      else
        let s0 := cs.foldl drain s
        if !o.read then (if cs.all fun k => ((coreOps s0 k).take 2).contains o then operandPhase s0 core o else s0)
        else if cs.all fun k => firstOp s0 k == some o && !(accAhead o (s0.core k).anvil) then putOp s0 cs o { o with phase := .compute }
        else s0

/-- MATRIX_COMPLETE: the product is in the tile, the signers' counters fall, MWAITs return, and waiting accumulator
accesses are performed (R136, R141, R143, R146). -/
def execMatrixComplete (core : Nat) (s : State) : Host.Outcome State Fault Refusal :=
  .next <| match firstOp s core with
    | none => s
    | some o =>
      if o.phase == .compute then
        let tm := s.team o.team
        let cs := opCores s tm o.pair core
        let s1 := cs.foldl
          (fun (s : State) k => (s.setTeam (matWrite (s.team o.team) o (k - tm.core))).setCore k { s.core k with anvil := changeOp o none (s.core k).anvil }) s
        let s2 := o.signs.foldl (fun s g => sbDone s g.thread g.sb) s1
        cs.foldl drain (wakeMwait s2 tm.uid)
      else s

/-- DEFERRED_MATRIX_TRAP: an earlier signer of a resident team stops at a clause boundary, or in MWAIT; that the trap ends the
MWAIT, so that %epc names the clause header after it and ERET does not wait again for what the thread signed besides, is the
model's choice (R137, R258; log entry 147). -/
def execDeferredMatrixTrap (thread : Nat) (s : State) : Host.Outcome State Fault Refusal :=
  let t := s.thread thread
  .next <| match t.defer with
    | (addr, info) :: rest =>
      let pc := match t.status with
        | .ready => if t.mid.isNone then some t.pc else none
        | .waiting (.matrix _) => some (t.pc + 8)
        | _ => none
      match pc with
      | some pc =>
        if s.hasThread thread && (s.teamOf t).place == .resident && !t.hnd && t.scout.isNone then
          takeTrap (s.setThread { t with defer := rest, pc := pc, mid := none }) thread 0x06 addr info pc
        else s
      | none => s
    | [] => s

end Sys2Proof.Machine
end

