-- ==== Sys2Proof/Machine/SysReg.lean ====
section
/-! DEFINITION. The special registers: what SRD reads and SWR writes (R55-R60, R457, R461). -/
namespace Sys2Proof.Machine
open Sys2Proof

/-- The tags of a team's copy core that satisfy a test, as a mask (R56, R156, R158). -/
def tagMask (s : State) (tm : Team) (f : Tag → Bool) : DWord :=
  let c := s.core (copyCore tm (s.launchOf tm.launch).rcd)
  c.tags.foldl (fun (r : DWord) (x : Nat × Tag) => if x.2.team == tm.uid && f x.2 then r ||| (1#64 <<< x.1) else r) 0

/-- %scout (R58). -/
def scoutWord (t : Thread) : Word :=
  BitVec.ofNat 32 ((if t.scoutEn then 2 ^ 31 else 0) + t.scoutBud * 2 ^ 16 + t.scoutEpi.toNat)
/-- %pb (R56). -/
def pbWord (c : Core) : Word := BitVec.ofNat 32 (c.pb.2.2 * 2 ^ 16 + c.pb.2.1 * 2 ^ 8 + c.pb.1)
/-- %rsv (R59). -/
def rsvWord (r : LaunchRec) : Word :=
  BitVec.ofNat 32 (r.cgrp * 2 ^ 26 + r.nbar * 2 ^ 21 + r.nconv * 2 ^ 17 + r.nreg * 2 ^ 9 +
    (if r.pair then 2 ^ 8 else 0) + (if r.strict then 2 ^ 7 else 0) + (if r.dup then 2 ^ 6 else 0))

/-- %fstat as a thread reads it: in the provisional period with the flags raised since the checkpoint; a flag of a result
under its window does not show yet, by the model's choice (R57, R174; log entry 128). -/
def Thread.flagsNow (t : Thread) : BitVec 5 :=
  match t.scout with
  | some sc => if sc.long then t.fstat else t.fstat ||| sc.flags
  | none => t.fstat

/-- The value of a special register for a thread, a 32-bit one in the low word (R56); every core reads one %cycle, by the
model's choice (log entry 127). -/
def readSpecial (s : State) (t : Thread) (n : Nat) : DWord :=
  let tm := s.teamOf t
  let l := s.launchOfThread t
  let r := l.rcd
  let w := fun x : Nat => BitVec.ofNat 64 x
  match n with
  | 0x00 => w t.tid
  | 0x01 => w (t.tid % r.width)
  | 0x02 => w (t.tid / r.width)
  | 0x03 => w r.width
  | 0x04 => w (tm.n % r.x)
  | 0x05 => w (tm.n / r.x % r.y)
  | 0x06 => w (tm.n / (r.x * r.y))
  | 0x07 => l.id.setWidth 64
  | 0x08 => w t.core
  | 0x09 => w (t.core / 2)
  | 0x0A => w s.hub.chip
  | 0x0B => w r.nthr
  | 0x0C => tagMask s tm (·.done)
  | 0x0D => tagMask s tm fun x => x.done && x.err
  | 0x0E => t.flagsNow.setWidth 64
  | 0x0F => w s.cycle
  | 0x10 => (scoutWord t).setWidth 64
  | 0x11 => t.epc
  | 0x12 => t.ecode.setWidth 64
  | 0x13 => t.eaddr
  | 0x14 => t.einfo.setWidth 64
  | 0x15 => (pbWord (s.core t.core)).setWidth 64
  | 0x16 => t.policy.setWidth 64
  | _ => (rsvWord r).setWidth 64

/-- SWR's write of a special register; the read-only ones are unchanged, and bits 7 to 0 of %policy are ignored (R4, R56-R58,
R97, R461). -/
def writeSpecial (t : Thread) (n : Nat) (v : DWord) : Thread :=
  match n with
  | 0x0E => { t with fstat := t.fstat &&& ~~~(v.setWidth 5) }
  | 0x10 => { t with scoutEn := v.getLsbD 31, scoutBud := min 256 (bits v.toNat 16 9) }
  | 0x11 => { t with epc := v }
  | 0x12 => { t with ecode := v.setWidth 8 }
  | 0x13 => { t with eaddr := v }
  | 0x14 => { t with einfo := v.setWidth 32 }
  | 0x16 => { t with policy := v.setWidth 32 &&& 0xFFFFFF00 }
  | _ => t

/-- The registers SRD and SWR name: a pair for a 64-bit special register (R55). -/
def sregRegs (r : Reg) (n : Byte) : List Nat := if sregWide n then pairRegs r else [r.toNat]

/-- SRD (R457); a script reads %chip and %cycle alone (R209). -/
def execSrd (d : Reg) (n : Byte) (s : State) : Host.Outcome State Fault Refusal :=
  let ill := !(Instr.wf (.srd d n))
  withCur s fun c =>
    match c.who with
    | .thread u => onThread s u c none fun s t =>
      regThread s t c { ill := ill, uses := sregRegs d n, hot := [], srcs := [], dst := sregRegs d n, is := none, script := false
                        run := fun _ => let v := readSpecial s t n.toNat; (clean [loWord v, hiWord v], 0) }
    | .script k =>
      let v := if n == 0x0A then BitVec.ofNat 64 s.hub.chip else BitVec.ofNat 64 s.cycle
      regScript s k { ill := ill || !(n == 0x0A || n == 0x0F), uses := sregRegs d n, hot := [], srcs := [], dst := sregRegs d n
                      is := none, script := true, run := fun _ => (clean [loWord v, hiWord v], 0) }
    | .stream x y => packetError s x y 0x0001

/-- SWR (R461). -/
def execSwr (a : Reg) (n : Byte) (s : State) : Host.Outcome State Fault Refusal :=
  threadOp s none fun s t c =>
    checked s t c (regChecks t c (!(Instr.wf (.swr a n))) (sregRegs a n) (sregRegs a n)) <|
      skipsScout s t c <|
        retire s (writeSpecial t n.toNat (if sregWide n then t.pair a else (t.val a).setWidth 64)) c

end Sys2Proof.Machine
end

