-- ==== Sys2Proof/Machine/Tongs.lean ====
section
/-! DEFINITION. Tongs: tags and their rights, issue, lock registration, chunks, suspension, completion, snapshot asides
(R97, R116-R120, R132, R151-R172, R348, R349, R462-R465). -/
namespace Sys2Proof.Machine
open Sys2Proof

/-! ### Tags and completion -/

def State.tag (s : State) (core i : Nat) : Tag := tget {} (s.core core).tags i
def State.setTag (s : State) (core i : Nat) (t : Tag) : State := s.setCore core { s.core core with tags := tset {} (s.core core).tags i t }
/-- A tag is owned by a team. -/
def owned (s : State) (core i : Nat) : Bool := (s.core core).tags.any (·.1 == i)
def ownedBy (s : State) (core i team : Nat) : Bool := (s.core core).tags.any fun x => x.1 == i && x.2.team == team

/-- What storing a completion word comes to: it is stored, or dropped, or it waits (R162). -/
inductive Stored where
  | done
  | waits
  deriving DecidableEq, Repr
/-- A strict launch finds no translation of an address without a walk, or none that it may write through (R105). -/
def strictMiss (s : State) (strict : Bool) (core ctx : Nat) (va : DWord) (write : Bool) : Bool :=
  strict && match findXlate s core ctx (vaKey va) with | some x => write && !x.w | none => true
/-- The lane of a Tongs engine's requests, and who stands for a team's copies there (log entry 53). -/
def engineLane (core : Nat) : Nat := core % 64
def engineAsker (team : Nat) : Nat := 2 ^ 65 + team
/-- A Tongs engine stores a completion word; in a strict launch one that would need a walk is dropped (R105, R162; log entry
53). -/
def storeWord (s : State) (w : CWord) : State × Stored :=
  let strict := (s.launchOf (s.team w.team).launch).rcd.strict
  if strictMiss s strict w.core w.ctx w.va true then (s, .done)
  else match translateCore s w.core w.ctx w.va true with
    | (s1, .busy) => (s1, .waits)
    | (s1, .fault kind level) => (demandFault s1 w.ctx w.va 1 kind level 1 (BitVec.ofNat 32 w.core) w.launch, .waits)
    | (s1, .ok phys) =>
      match spotOf s1 phys with
      | some (.mem off) =>
        if flipping s1 off then (s1, .waits)
        else match lockWait s1 ((List.range 8).map fun i => .glob (phys + i)) true with
          | (s2, true) => (s2, .waits)
          | (s2, false) => match cohere s2 [off] with
            | (s3, false) => (s3, .waits)
            | (s3, true) => (touch (s3.write off (bytesOf w.v.toNat 8) false) w.core off .normal, .done)
      | some (.block b o) => (if semBlock w.ctx b o 8 then threadStore s1 b o w.v else s1, .done)
      | some (.window off) => (s1.send (.hostWrite (hostAddr s1 off) (bytesOf w.v.toNat 8)), .done)
      | some (.remote chip off) =>
        if 256 ≤ (srcLane s1 chip (engineLane w.core)).reqs.length then (s1, .waits)
        else if !(hasRoute s1 (pathTo s1 w.ctx chip) chip) then (s1, .done)
        else (postOn s1 (engineLane w.core) (engineAsker w.team) w.ctx chip tSTORE 24 off w.va (bytesOf w.v.toNat 8) 0, .done)
      | _ => (s1, .done)
/-- Store, in order, the completion words that can be stored now. -/
def flushWords (s : State) : State :=
  s.cwords.foldl
    (fun s w =>
      match storeWord s w with
      | (s1, .done) => s1
      | (s1, .waits) => { s1 with cwords := s1.cwords ++ [w] }) { s with cwords := [] }

/-- The threads that wait for tags see one done (R465). -/
def wakeTagw (s : State) (team i : Nat) : State :=
  { s with threads := s.threads.map fun t =>
      match t.status with
      | .waiting (.tags any mask seen) =>
        if t.team != team || !(mask.getLsbD i) then t
        else
          let seen := seen ||| (1#64 <<< i)
          if any || seen == mask then t.readyAt (t.pc + 8) s.cycle else { t with status := .waiting (.tags any mask seen) }
      | _ => t }

/-- A copy completes with a status: its event is placed, its locks are released, its tag is done, its completion word
follows (R116, R161, R162, R163). -/
def finishCopy (s : State) (core i status : Nat) : State :=
  let t := s.tag core i
  match t.copy with
  | none => s
  | some c =>
    let s1 := s.setTag core i { t with done := true, err := status != 0, copy := none }
    let s2 := wakeTagw s1 t.team i
    let tm := s.team t.team
    let s3 := drain (drain s2 tm.core) (tm.core + 1)
    let word := BitVec.ofNat 64 (c.cursor * 2 ^ 16 + status)
    let s4 := if c.shape.cwe && c.shape.cwa.toNat % 8 == 0 && canonical c.shape.cwa then
        { s3 with cwords := s3.cwords ++ [⟨core, c.ctx, (s.launchOf tm.launch).id, t.team, c.shape.cwa, word⟩] }
      else s3
    flushWords s4

/-- A copy issued earlier on the core has not completed (R110, R120). -/
def earlierCopy (s : State) (core serial : Nat) : Bool := (s.core core).tags.any fun x => x.2.copy.any fun d => d.serial < serial
/-- A copy ends with a status: it completes, after the copies issued before it on its core (R110, R116, R161). -/
def endCopy (s : State) (core i status : Nat) : State :=
  let t := s.tag core i
  match t.copy with
  | none => s
  | some c =>
    if earlierCopy s core c.serial then s.setTag core i { t with copy := some { c with phase := .ended status } } else finishCopy s core i status

/-! ### The issue-time checks (R161) -/

/-- The source base and the destination base as their spaces read them (R156). -/
def sideInt (scratch : Bool) (b : DWord) : Nat := if scratch then b.toNat % 2 ^ 32 else b.toNat
/-- The base and every stride with a non-zero count is a multiple of the element size. -/
def sideAligned (scratch : Bool) (b : DWord) (cnt : List Nat) (str : List DWord) (n : Nat) : Bool :=
  sideInt scratch b % n == 0 && (cnt.zip str).all fun x => x.1 == 0 || x.2.toInt.emod n == 0
/-- A PATH code that is not reserved (R152). -/
def pathKnown (p : Nat) : Bool := p < 0x30 || (0x40 ≤ p && p ≤ 0x42)
/-- The MX scale bytes of a copy, both ends touched (R154). -/
def Copy.scaleRange (c : Copy) : Int × Int :=
  let b : Int := (if c.shape.ssp then ((c.src.toNat % 2 ^ 32 : Nat) : Int) else c.src.toInt) + c.shape.soff.toInt
  (b, b + ((c.shape.count - 1) / 32 : Nat))
def Shape.mx (h : Shape) : Bool := h.sfmt == 11 || h.sfmt == 12

/-- The first status an issue-time check finds, 0 when all pass; an extent is looked at only for a copy with elements. -/
def issueStatus (limit : Nat) (recAddr : DWord) (c : Copy) : Nat :=
  let h := c.shape
  let badRec := recAddr.toNat % 64 != 0 || h.bad || h.f 27 5 != 0 || h.f 8 3 != 0 || !(pathKnown h.path) || !(formatsOk h) ||
    (h.cwe && h.cwa.toNat % 8 != 0) || 2 ^ 60 ≤ h.count * elemBytes h.dfmt || (h.ssp && h.dsp && h.path != 0x40 && h.path != 0x42)
  let src := c.srcRange
  let dst := c.dstRange
  let sides := [(h.ssp, src), (h.dsp, dst)] ++ if h.mx then [(h.ssp, c.scaleRange)] else []
  if badRec then 1
  else if !(sideAligned h.ssp c.src h.cnt h.sstr (elemBytes h.sfmt)) || !(sideAligned h.dsp c.dst h.cnt h.dstr (elemBytes h.dfmt)) then 2
  else if h.count == 0 then 0
  else if h.ssp == h.dsp && 4096 < shared src dst 128 then 3
  else if sides.any fun x => x.1 && (x.2.1 < 0 || (limit : Int) ≤ x.2.2) then 4
  else if sides.any fun x => !x.1 && (x.2.1 < -(2 ^ 56 : Int) || (2 ^ 56 : Int) ≤ x.2.2) then 5
  else 0

/-! ### Registration (R117, R118, R163, R168, R169) -/

/-- Two copies' intervals share a unit of one space: a line, or a word of one team's scratch. -/
def wordsShared (c d : Copy) (x y : Bool) : Bool :=
  let scr := fun (c : Copy) (x : Bool) => if x then c.shape.dsp else c.shape.ssp
  let rng := fun (c : Copy) (x : Bool) => if x then c.dstRange else c.srcRange
  scr c x && scr d y && c.team == d.team && shared (rng c x) (rng d y) 8 != 0
def copiesConflict (s : State) (n : Nat) (c : Copy) (m : Nat) (d : Copy) : Bool :=
  [false, true].any fun x => [false, true].any fun y =>
    wordsShared c d x y || (let ls := linesOf s m d y; (linesOf s n c x).any fun l => ls.contains l)

/-- Where a side lies, as the translation of its base tells: here, on another chip, or, its page not present, not known yet
(R164, R168). -/
inductive Whence where
  | here
  | far (chip : Nat)
  | unknown
  deriving DecidableEq, Repr
def sideWhence (s : State) (core : Nat) (c : Copy) (dst : Bool) : Whence :=
  if (if dst then c.shape.dsp else c.shape.ssp) then .here
  else match peek s (dieOf core) c.ctx (vaKey (if dst then c.dst else c.src)) with
    | some p => if isLocal s p then .here else .far (chipOf p)
    | none => .unknown
/-- The other chip a copy reaches, as far as it is known, and whether a side is not known. -/
def farChips (s : State) (core : Nat) (c : Copy) : List Nat × Bool :=
  let ws := [sideWhence s core c false, sideWhence s core c true]
  (ws.filterMap fun | .far x => some x | _ => none, ws.contains .unknown)

/-- The slice, with its die, that homes a line of this chip's memory (R95). -/
def sliceOf (s : State) (line : Nat) : Option (Nat × Nat) :=
  let off := offOf (line * 128)
  if isLocal s (line * 128) && isMemory s off then some (homeDie off, homeSlice off) else none
/-- The slices a copy's global sides take entries at (R95, R163). -/
def slicesOf (s : State) (core : Nat) (c : Copy) : List (Nat × Nat) :=
  let side := fun x => ((linesOf s core c x).filterMap (sliceOf s)).eraseDups
  side false ++ side true
/-- The lines another chip's copy locks here, and the slices it takes entries at (R163). -/
def FarLock.lines (s : State) (f : FarLock) : List Nat :=
  (from_ (f.off / 128) ((f.off + f.len + 127) / 128 - f.off / 128)).map fun l => s.hub.chip * 2 ^ 40 + l
def FarLock.slices (s : State) (f : FarLock) : List (Nat × Nat) := ((f.lines s).filterMap (sliceOf s)).eraseDups
/-- Every slice the copy needs has a free entry. -/
def hasRoom (s : State) (core : Nat) (c : Copy) : Bool :=
  let held := ((lockHolders s).flatMap fun (n, _, d) => slicesOf s n d) ++ s.farLocks.flatMap (FarLock.slices s)
  let need := slicesOf s core c
  need.all fun x => (held ++ need).count x ≤ 256

/-- The copies of a core that wait to register. -/
def queued (s : State) (core : Nat) : List (Nat × Copy) :=
  (s.core core).tags.filterMap fun (i, t) =>
    match t.copy with
    | some c => if c.phase == .queued then some (i, c) else none
    | none => none
/-- No registered copy conflicts, of this chip or of another, and no bias flip runs over its lines, which holds it (R108). -/
def noConflict (s : State) (core : Nat) (c : Copy) : Bool :=
  let ls := linesOf s core c false ++ linesOf s core c true
  !((lockHolders s).any fun (n, _, d) => copiesConflict s core c n d) &&
    (s.farLocks.all fun f => (f.lines s).all fun l => !(ls.contains l)) && ls.all fun l => !(isLocal s (l * 128) && flipping s (offOf (l * 128)))

def setCopy (s : State) (core i : Nat) (c : Copy) : State :=
  let t := s.tag core i
  s.setTag core i { t with copy := some c }

/-- A copy fails at its registration: it takes no lock, and completes after the copies issued before it (R110, R159). -/
def failCopy (s : State) (core i : Nat) (c : Copy) (status : Nat) : State :=
  if earlierCopy s core c.serial then setCopy s core i { c with phase := .failed status } else finishCopy s core i status
/-- Register a copy: its locks hold, and it moves as its path allows; a side that is not known yet is looked at with its
first chunk (R163, R164, R168, R169). -/
def register (s : State) (core i : Nat) (c : Copy) : State :=
  let (far, open_) := farChips s core c
  let p := c.shape.path
  let run : CopyPhase := if (s.team c.team).place == .resident then .running else .paused
  let fits := match far with
    | [] => p == 0x40 || p == 0x42 || open_
    | [_] => p != 0x40
    | _ => false
  if !fits then failCopy s core i c 1
  else if p < 48 then
    let t := s.port p
    if !(t.leased && t.ctx == c.ctx) then failCopy s core i c 9
    else setCopy s core i { c with phase := if t.state == .live && far.all (· == t.peer) then run else .circuit }
  else setCopy s core i { c with phase := run }

/-- COPY_LOCK_REGISTRATION: the oldest queued copy of a core registers all its locks (R118, R163). -/
def execCopyLockRegistration (core : Nat) (s : State) : Host.Outcome State Fault Refusal :=
  let best := (queued s core).foldl
    (fun (b : Option (Nat × Copy)) x => match b with | none => some x | some y => if x.2.serial < y.2.serial then some x else b) none
  .next <| match best with
    | some (i, c) => if noConflict s core c && hasRoom s core c then register s core i c else s
    | none => s

/-! ### CPY (R156, R157, R159) -/

/-- %einfo of copy right (R157). -/
def rightInfo (tag reason : Nat) : Word := fields [(tag, 4), (reason, 0)]
/-- The lowest tag of a mask that satisfies a test. -/
def lowestTag (mask : DWord) (f : Nat → Bool) : Option Nat := (List.range 64).find? fun i => mask.getLsbD i && f i

/-- The lines of a snapshot's source that a copy still under way has written: the snapshot's read event comes before that copy's
event, so it keeps them as they were (R116, R119; log entry 145). -/
def overwritten (s : State) (core : Nat) (y : Copy) : List (Nat × Byte × Bool) :=
  let es := (lockHolders s).flatMap fun (_, _, d) => d.old.filter fun e => y.covers s core false (if d.shape.dsp then .scr d.team e.1 else .glob e.1)
  let tm := s.team y.team
  let now := fun a => if y.shape.ssp then (tget 0 tm.scratch a, tm.anyPoison a 1) else (s.byte (offOf a), s.poisoned (offOf a))
  (es.map (·.1 / 128)).eraseDups.flatMap fun l => (List.range 128).map fun k =>
    let a := 128 * l + k
    (a, ((es.find? (·.1 == a)).map (·.2)).getD (now a))
/-- The copy a tag holds waits for lock entries (R163). -/
def lacksRoom (s : State) (core i : Nat) : Bool :=
  (s.tag core i).copy.any fun y => y.phase == .queued && !(hasRoom s core y)
/-- A copy is issued: its tag becomes pending, then its checks, an empty copy's place, registration or the queue; lack of lock
entries holds the thread, its tag already pending (R159, steps 3 to 6; R163). -/
def issueCopy (s : State) (t : Thread) (c : Cur) (i : Nat) (recAddr src dst : DWord) (shape : Shape) : State :=
  let core := s.core t.core
  let l := s.launchOfThread t
  let y0 : Copy := { team := t.team, ctx := l.ctx, serial := core.serial, shape := shape, src := src, dst := dst, policy := t.policy, order := s.nextUid }
  let y : Copy := if shape.snapshot then { y0 with aside := overwritten s t.core y0 } else y0
  let status := issueStatus (scratchLimit l.rcd) recAddr y
  let earlier := core.tags.any fun x => x.2.copy.isSome
  let go := (queued s t.core).isEmpty && noConflict s t.core y
  let phase : CopyPhase := if shape.count == 0 then .zero else .queued
  let s1 := { s.setCore t.core { core with serial := core.serial + 1 } with nextUid := s.nextUid + 1 }
  let s2 := s1.setTag t.core i { team := t.team, copy := some { y with phase := phase } }
  if status == 0 && shape.count != 0 && !(hasRoom s t.core y) then holdAt s2 { t with cpyTag := some i, part := none, reply := none } .room
  else
    let s3 := retire s2 t c
    if status != 0 then finishCopy s3 t.core i status
    else if shape.count == 0 then (if earlier then s3 else finishCopy s3 t.core i 0)
    else if go then register s3 t.core i y else s3

/-- A piece of a record lies on another chip or in a host window, where it is read by itself (R128, R133). -/
def leavesChip (s : State) (t : Thread) (a : Acc) (x : Nat × Nat) : Bool :=
  match (locate s { t with hold := none } a (BitVec.ofNat 64 x.1) x.2).2 with | .go (.remote _ _) | .go (.window _) => true | _ => false
/-- The places in memory of an access whose pieces can all be performed. -/
def pieceOffs (s : State) (t : Thread) (a : Acc) : List Nat :=
  a.ps.filterMap fun x => match (lookAt s t a x).2 with | .go (.mem off) => some off | _ => none
/-- The granule of a record's first poisoned byte among the thread's own logged bytes (R159, R270; log entry 146). -/
def poisonedPiece (s : State) (t : Thread) (va : DWord) : DWord :=
  match (List.range 12).find? fun k => (forward s t (va.toNat + 16 * k) 16).any (·.2) with
  | some k => va + BitVec.ofNat 64 (16 * k)
  | none => va
/-- CPY; a shape record in this chip's memory is read as one event, once all of it can be (R132, R159, R160, R348, R349). -/
def execCpy (tag : BitVec 6) (d a b : Reg) (is : Issue) (s : State) : Host.Outcome State Fault Refusal :=
  threadOp s none fun s t c =>
    let rs := pairRegs a ++ pairRegs b ++ pairRegs d
    let l := s.launchOfThread t
    let i := tag.toNat
    let va := t.pair a
    let right := fun n => trapOr s t.uid 0x04 c.addr (rightInfo i n) c.addr
    if t.cpyTag == some i then (if lacksRoom s t.core i then holdAt s t .room else retire s { t with cpyTag := none } c)
    else checked s t c (regChecks t c (!(Instr.wf (.cpy tag d a b is))) rs rs) <|
      if groupOf t l.rcd != l.rcd.cgrp then right 1
      else if ownedBy s t.core i t.team then right 2
      else if owned s t.core i then right 3
      else skipsScout s t c <|
        if va.toNat % 64 != 0 then issueCopy s t c i va (t.pair b) (t.pair d) {}
        else
          let core := s.core t.core
          match core.rcache.find? fun x => x.1 == l.ctx && x.2.1 == va with
          | some x =>
            let s1 := s.setCore t.core { core with rcache := x :: core.rcache.filter fun y => !(y.1 == l.ctx && y.2.1 == va) }
            issueCopy s1 t c i va (t.pair b) (t.pair d) (parseShape x.2.2)
          | none =>
            checked s t c (addrBad l.rcd false false false va.toNat 192) <|
              let acc : Acc := { deed := .load, scr := false, ps := (List.range 12).map (fun k => (va.toNat + 16 * k, 16)), tight := true
                                 windows := true, remotes := true, shape := true }
              let fin : Finish := fun s t data _ =>
                let core := s.core t.core
                let rest := core.rcache.filter fun y => !(y.1 == l.ctx && y.2.1 == va)
                let s1 := if t.recOld then s else s.setCore t.core { core with rcache := ((l.ctx, va, data) :: rest).take 16 }
                issueCopy s1 { t with recOld := false } c i va (t.pair b) (t.pair d) (parseShape data)
              match (if t.part.isNone then forward s t va.toNat 192 else none) with
              | some (data, p) => if p then takeTrap s t.uid 0x07 (poisonedPiece s t va) 0x100 c.addr else fin s t data p
              | none =>
                if t.part.isSome || acc.ps.any (leavesChip s t acc) then access s t c acc fin
                else match lookAll t acc s acc.ps with
                  | (s1, some x) => stopAt s1 t c x
                  | (s1, none) => match cohere s1 (pieceOffs s1 t acc) with
                    | (s2, false) => holdAt s2 (s2.thread t.uid) .bias
                    | (s2, true) =>
                      let (s3, data, p) := readPieces s2 t acc acc.ps
                      fin s3 { s3.thread t.uid with hold := none } data p

/-- The copy core of a thread's team. -/
def tagCore (s : State) (t : Thread) : Nat := copyCore (s.teamOf t) (s.launchOfThread t).rcd

/-- TAGW (R156, R157, R465). -/
def execTagw (any : Bool) (a : Reg) (is : Issue) (s : State) : Host.Outcome State Fault Refusal :=
  threadOp s (some is) fun s t c =>
    checked s t c (regChecks t c (!(Instr.wf (.tagw any a is))) (pairRegs a) (pairRegs a)) <|
      if t.inEpisode then retire s t c
      else
        let mask := t.pair a
        let core := tagCore s t
        match lowestTag mask fun i => !(ownedBy s core i t.team) with
        | some i => trapOr s t.uid 0x04 c.addr (rightInfo i 4) c.addr
        | none =>
          let seen := mask &&& tagMask s (s.teamOf t) (·.done)
          if mask == 0 || (if any then seen != 0 else seen == mask) then retire s t c
          else waitIn s t (.tags any mask seen)

/-- TAGF (R156, R464). -/
def execTagf (d a : Reg) (is : Issue) (s : State) : Host.Outcome State Fault Refusal :=
  threadOp s (some is) fun s t c =>
    let done := tagMask s (s.teamOf t) (·.done)
    regThread s t c { ill := !(Instr.wf (.tagf d a is)), uses := d.toNat :: pairRegs a, hot := pairRegs a, srcs := pairRegs a, dst := [d.toNat]
                      is := none, script := false
                      run := fun l => (clean [match lowestTag (pairTarget (vals l)) done.getLsbD with
                                              | some i => BitVec.ofNat 32 i
                                              | none => 0xFFFFFFFF], 0) }

/-- TAGC (R156, R157, R463). -/
def execTagc (a : Reg) (is : Issue) (s : State) : Host.Outcome State Fault Refusal :=
  threadOp s (some is) fun s t c =>
    checked s t c (regChecks t c (!(Instr.wf (.tagc a is))) (pairRegs a) (pairRegs a)) <|
      let r := (s.launchOfThread t).rcd
      let mask := if t.unknown (pairRegs a) then 0 else t.pair a
      let mine := fun i => ownedBy s t.core i t.team
      if groupOf t r != r.cgrp then
        trapOr s t.uid 0x04 c.addr (rightInfo ((lowestTag mask fun _ => true).getD 0) 1) c.addr
      else match lowestTag mask fun i => mine i && !(s.tag t.core i).done with
        | some i => trapOr s t.uid 0x04 c.addr (rightInfo i 5) c.addr
        | none =>
          skipsScout s t c <|
            let core := s.core t.core
            retire (s.setCore t.core { core with tags := core.tags.filter fun x => !(mask.getLsbD x.1 && x.2.team == t.team) }) t c

/-! ### Chunks (R154, R155, R165-R168) -/

/-- Where an element of a side lies. -/
inductive Side where
  | scr (off : Nat)
  | mem (off : Nat)
  | far (chip off : Nat)
  deriving DecidableEq, Repr
/-- What reaching a side comes to: its place, a fault, the status that ends the copy, or no walker is free. -/
inductive SideRes where
  | ok (x : Side)
  | fault (va : DWord) (write : Bool) (kind level : Nat)
  | fail (status : Nat)
  | busy
  deriving DecidableEq, Repr

/-- Translate an address of a copy through its core's caches (R90, R105, R165). -/
def reachSide (s : State) (core : Nat) (c : Copy) (strict scratch write : Bool) (a : Nat) : State × SideRes :=
  if scratch then (s, .ok (.scr (a % 2 ^ 32)))
  else
    let va := BitVec.ofNat 64 a
    if strictMiss s strict core c.ctx va write then (s, .fail 8)
    else match translateCore s core c.ctx va write with
      | (s0, .busy) => (s0, .busy)
      | (s0, .fault kind level) => (s0, .fault va write kind level)
      | (s0, .ok phys) =>
        match spotOf s0 phys with
        | some (.mem off) => (s0, .ok (.mem off))
        | some (.remote chip off) => (s0, .ok (.far chip off))
        | _ => (s0, .fail 7)

/-- One element's places: source, scale, destination. -/
structure Elem where
  n   : Nat
  src : Side
  sc  : Side
  dst : Side
  va  : DWord
  deriving DecidableEq, Repr

/-- The places of a chunk's elements in walk order; the first fault or failure stops it. -/
def reachElems (core : Nat) (c : Copy) (strict : Bool) : State → List Nat → State × List Elem × Option SideRes
  | s, [] => (s, [], none)
  | s, n :: ns =>
    match reachSide s core c strict c.shape.ssp false (c.srcAt n) with
    | (s1, .ok x) =>
      let sa := (c.src.toNat + c.shape.soff.toNat + n / 32) % 2 ^ 64
      match (if c.shape.mx then reachSide s1 core c strict c.shape.ssp false sa else (s1, .ok x)) with
      | (s2, .ok y) =>
        match reachSide s2 core c strict c.shape.dsp true (c.dstAt n) with
        | (s3, .ok z) =>
          let (s4, l, r) := reachElems core c strict s3 ns
          (s4, ⟨n, x, y, z, BitVec.ofNat 64 (c.dstAt n)⟩ :: l, r)
        | (s3, r) => (s3, [], some r)
      | (s2, r) => (s2, [], some r)
    | (s1, r) => (s1, [], some r)

/-- The place of a byte as an aside copy names it: a physical address, or a scratch offset. -/
def Side.key (s : State) : Side → Nat
  | .scr o => o
  | .mem off => s.hub.chip * 2 ^ 47 + off
  | .far chip off => chip * 2 ^ 47 + off
/-- Bytes at a side with their poison; those of another chip are free (log entry 13). -/
def sideRead (s : State) (team : Nat) (x : Side) (n : Nat) : State × List (Byte × Bool) :=
  match x with
  | .scr o => (s, (List.range n).map fun i => (tget 0 (s.team team).scratch (o + i), (s.team team).anyPoison (o + i) 1))
  | .mem off => let (s1, b, p) := s.read off n; (s1, b.map fun y => (y, p))
  | .far _ _ => let (s1, b) := drawBytes n s; (s1, b.map fun y => (y, false))
/-- A source read: issue-time content that has been set aside comes first (R118, R119). -/
def srcRead (s : State) (c : Copy) (x : Side) (n : Nat) : State × List Byte × Bool :=
  let (s1, l) := sideRead s c.team x n
  let l : List (Byte × Bool) := l.zipIdx.map fun (b, i) => ((c.aside.find? fun e => e.1 == x.key s + i).map (·.2)).getD b
  (s1, l.map (·.1), l.any (·.2))
/-- A write at a side of this chip. -/
def sideWrite (s : State) (team : Nat) (x : Side) (b : List Byte) (p : Bool) : State :=
  match x with
  | .scr o => s.setTeam ((s.team team).scrWrite o b p)
  | .mem off => s.write off b p
  | .far _ _ => s
/-- Poison every byte of a destination, as it stands (R167). -/
def sidePoison (s : State) (team : Nat) (x : Side) (n : Nat) : State :=
  match x with
  | .scr o => s.setTeam { s.team team with spois := markWords (s.team team).spois o n true }
  | .mem off => { s with poison := markGranules s.poison off n true }
  | .far _ _ => s

/-- min and max of exact values, one rounding at the end (R69, R84). -/
def pickVal (f : Fmt) (isMax : Bool) (d x : Val) : Nat :=
  match d, x with
  | .nan, .nan => nanPat f
  | .nan, v => (roundTo f .rne false v).1
  | v, .nan => (roundTo f .rne false v).1
  | v, w => (roundTo f .rne false (if vle0 v w == isMax then w else v)).1

/-- The exact source value of an element, with its MX scale (R154). -/
def elemVal (h : Shape) (x sc : Nat) : Val :=
  let v := valOf (copyFmt h.sfmt) x
  if h.mx then (if sc == 255 then .nan else v.scale ((sc : Int) - 127)) else v
/-- The bytes an element writes, from its source, its scale and its destination's old bytes (R84, R154). -/
def elemOut (h : Shape) (x sc old : Nat) : Nat :=
  if h.red == 0 then
    if h.dfmt == h.sfmt then x else (arith (copyFmt h.dfmt) .rne h.sat (elemVal h x sc, false)).1
  else if h.sfmt == 10 then (intRmw 4 (h.red - 1) old x 0).getD 0
  else
    let f := copyFmt h.dfmt
    if h.red == 1 then (arith f .rne false (vadd .rne (valOf f old) (elemVal h x sc))).1
    else pickVal f (h.red == 3) (valOf f old) (elemVal h x sc)

/-- Set aside the bytes a write of the copy itself changes in its own source (R118, R155). -/
def keepOwn (s : State) (core : Nat) (c : Copy) (x : Side) (n : Nat) : Copy :=
  let place := fun i : Nat => match x with
    | .scr o => Loc.scr c.team (o + i)
    | .mem off => .glob (s.hub.chip * 2 ^ 47 + off + i)
    | .far chip off => .glob (chip * 2 ^ 47 + off + i)
  let old := (sideRead s c.team x n).2
  (List.range n).foldl
    (fun (c : Copy) i =>
      if c.shape.ssp == c.shape.dsp && Copy.covers s core c false (place i) && !(c.aside.any fun e : Nat × Byte × Bool => e.1 == x.key s + i) then
        { c with aside := c.aside ++ [(x.key s + i, old.getD i (0, false))] }
      else c) c

/-- Keep the bytes of its destination that a write of the copy changes, as they were before it (R119). -/
def Copy.keepOld (s : State) (c : Copy) (x : Side) (n : Nat) : Copy :=
  match x with
  | .far _ _ => c
  | _ =>
    let now := (sideRead s c.team x n).2
    { c with old := c.old ++ ((List.range n).map fun i => (x.key s + i, now.getD i (0, false))).filter fun e => !(c.old.any (·.1 == e.1)) }
/-- Move one element: read, convert or reduce, write (R154). -/
def moveElem (core i : Nat) (s : State) (e : Elem) : State × List (Elem × List Byte) :=
  match (s.tag core i).copy with
  | none => (s, [])
  | some c =>
    let h := c.shape
    let nd := elemBytes h.dfmt
    let (s1, b, _) := srcRead s c e.src (elemBytes h.sfmt)
    let (s2, sc, _) := if h.mx then srcRead s1 c e.sc 1 else (s1, [], false)
    let (s3, old) := if h.red == 0 then (s2, []) else sideRead s2 c.team e.dst nd
    let v := bytesOf (elemOut h (natOf b) (natOf sc) (natOf (old.map (·.1)))) nd
    let c1 := (keepOwn s3 core c e.dst nd).keepOld s3 e.dst nd
    (sideWrite (setCopy s3 core i c1) c.team e.dst v (old.any (·.2)), [(e, v)])

/-- A copy's packet to the chip of its far side (R200, R202). -/
def copyPacket (s : State) (c : Copy) (typ chip off : Nat) (va : DWord) (data : List Byte) (pmask : Nat) : Packet :=
  { typ := typ, op := 0, ttl := 16, lane := 0, ctx := c.ctx, src := s.hub.chip, dst := chip, serial := c.serial % 2 ^ 32
    pmask := pmask, off := off, va := vaKey va, data := data }
/-- COMMIT's payload: core, tag, issue serial, chunk (R167; layout: log entry 14). -/
def commitData (core tag serial chunk : Nat) : List Byte := bytesOf core 4 ++ bytesOf tag 4 ++ bytesOf serial 4 ++ bytesOf chunk 8

/-- The path of a chunk to a chip; none when no route leads there (R168). -/
def chunkPath (s : State) (c : Copy) (chip : Nat) : Option Nat :=
  let p := if c.shape.path < 48 then c.shape.path else if c.shape.path == 0x42 then pathTo s c.ctx chip else 0x41
  let p := if p < 48 && !((s.port p).state == .live && (s.port p).peer == chip) then 0x41 else p
  if hasRoute s p chip then some p else none

/-- A background copy (R152). -/
def Shape.background (h : Shape) : Bool := h.f 23 1 == 1
/-- Send the bytes of a chunk whose destination is another chip, and its commit, in the copy's class (R167, R203). -/
def sendChunk (s : State) (core i : Nat) (c : Copy) (chip path : Nat) (out : List (Elem × List Byte)) (pois : Bool) : State :=
  let cls := if c.shape.background then backgroundClass else 3
  let s1 := out.foldl
    (fun s x => match x.1.dst with
      | .far _ off => sendPacketAs s path cls (copyPacket s c tCHUNK chip off x.1.va x.2 (if pois then 2 ^ min 16 x.2.length - 1 else 0))
      | _ => s) s
  sendPacketAs s1 path cls (copyPacket s1 c tCOMMIT chip 0 c.dst (commitData core i (c.serial % 2 ^ 32) c.cursor) 0)
/-- A copy whose next chunk is on its way to another chip (R168, R193). -/
def sentOn (s : State) (core i path : Nat) : State :=
  match (s.tag core i).copy with
  | some c => setCopy s core i { c with flight := some path }
  | none => s

/-- The chip a chunk's elements reach, if any. -/
def farOf (es : List Elem) : Option Nat :=
  es.findSome? fun e => match e.src, e.dst with | .far x _, _ => some x | _, .far x _ => some x | _, _ => none

/-- The lines a chunk touches enter L2 in their classes (R95, R97, R98). -/
def touchElems (s : State) (c : Copy) (es : List Elem) : State :=
  let cls := fun va : DWord => if c.policy == 0 then EClass.normal else classOf c.policy va
  es.foldl
    (fun s e =>
      let s := match e.src with | .mem o => if hostBias s o then s else touchL2 s o (cls (BitVec.ofNat 64 (c.srcAt e.n))) | _ => s
      match e.dst with | .mem o => if hostBias s o then s else touchL2 s o (cls e.va) | _ => s) s

/-- Aside content that no later element reads is dropped, and its line in the pool frees (R171). -/
def dropRead (s : State) (core : Nat) (c : Copy) : Copy :=
  let keep := c.aside.filter fun e => c.reads s core (if c.shape.ssp then .scr c.team e.1 else .glob e.1)
  { c with aside := keep, pool := c.pool.filter fun x => keep.any fun e => e.1 / 128 == x.1 }

/-! ### Priority classes (R170) -/

/-- The elements of a copy's next chunk. -/
def Copy.chunk (c : Copy) : List Nat := (List.range c.shape.perChunk).map (c.cursor * c.shape.perChunk + ·) |>.filter (· < c.shape.count)
/-- A resource of R170: a core's Tongs engine, a DRAM stack, a slice of a die, one direction, outwards or inwards, of a port or of
a packet-plane port. -/
inductive Resource where
  | engine (core : Nat)
  | stack (die : Nat)
  | slice (die n : Nat)
  | port (p : Nat) (out : Bool)
  | plane (q : Nat) (out : Bool)
  deriving DecidableEq, Repr
/-- What a place takes, as it is read or written. -/
def resourceAt (s : State) (c : Copy) (out : Bool) (phys : Nat) : List Resource :=
  if !(isLocal s phys) then match chunkPath s c (chipOf phys) with
    | some p => if p < 48 then [.port p out] else (route s (chipOf phys)).toList.map fun r => .plane r.1 out
    | none => []
  else match sliceOf s (phys / 128) with
    | some (d, n) => .slice d n :: if isDram (offOf phys) then [.stack d] else []
    | none => []
/-- What the next chunk of a copy takes. -/
def resourcesOf (s : State) (core : Nat) (c : Copy) : List Resource :=
  let side := fun (scr out : Bool) (at_ : Nat → Nat) =>
    if scr then [] else c.chunk.flatMap fun n => ((peek s (dieOf core) c.ctx (at_ n % 2 ^ 57)).map (resourceAt s c out)).getD []
  .engine core :: (side c.shape.ssp false c.srcAt ++ side c.shape.dsp true c.dstAt).eraseDups
/-- A foreground chunk waits for a resource that a background chunk would take (R170). -/
def yields (s : State) (core : Nat) (c : Copy) : Bool :=
  c.shape.background &&
    (let mine := resourcesOf s core c
     (lockHolders s).any fun (n, _, d) =>
       !d.shape.background && d.phase == .running && d.flight.isNone && d.cursor < d.shape.chunks && (resourcesOf s n d).any mine.contains)

/-! ### Chunks move -/

/-- A place of this chip's memory, for each element and side of a chunk. -/
def memPlaces (es : List Elem) : List Nat := es.flatMap fun e => [e.src, e.sc, e.dst].filterMap fun | .mem o => some o | _ => none
/-- A line a chunk writes that a snapshot copy still has to read as it was when that was issued (R119). -/
def asideFor (s : State) (c : Copy) (es : List Elem) : Option (Nat × Nat × Nat) :=
  es.findSome? fun e =>
    let l : Option Loc := match e.dst with | .mem o => some (.glob (s.hub.chip * 2 ^ 47 + o)) | .scr o => some (.scr c.team o) | .far _ _ => none
    l.bind fun x => (snapshotHit s x).map fun y => (y.1, y.2, x.line)

/-- The bytes of a chunk go: to this chip's memory at once, and to another chip as a chunk to be committed there; the cursor
counts it when it has committed (R154, R165, R167, R168; log entry 50). -/
def moveChunk (s : State) (core tag : Nat) (c : Copy) (es : List Elem) (far : Option Nat) (path : Nat) : State :=
  let h := c.shape
  let away := es.any fun e => match e.dst with | .far _ _ => true | _ => false
  let bad := es.any fun e => (srcRead s c e.src (elemBytes h.sfmt)).2.2 || (h.mx && (srcRead s c e.sc 1).2.2)
  if bad then
    let s2 := es.foldl (fun s e => sidePoison s c.team e.dst (elemBytes h.dfmt)) s
    if away then
      let s3 := sendChunk s2 core tag c (far.getD 0) path (es.map fun e => (e, List.replicate (elemBytes h.dfmt) 0)) true
      sentOn (setCopy s3 core tag { c with phase := .ended 6 }) core tag path
    else endCopy s2 core tag 6
  else
    let (s2, out) := es.foldl (fun (s, o) e => let r := moveElem core tag s e; (r.1, o ++ r.2)) (s, [])
    let c2 := ((s2.tag core tag).copy).getD c
    if away then sentOn (touchElems (sendChunk s2 core tag c2 (far.getD 0) path out false) c es) core tag path
    else
      let s3 := touchElems s2 c es
      setCopy s3 core tag (dropRead s3 core { c2 with cursor := c.cursor + 1 })

/-- The sides a chunk turns out to have do not suit the PATH (R168). -/
def pathBad (c : Copy) (es : List Elem) (far : Option Nat) : Bool :=
  (es.any fun e => match e.src, e.dst with | .far _ _, .far _ _ => true | _, _ => false) ||
    match far with
    | some _ => c.shape.path == 0x40
    | none => c.cursor == 0 && c.shape.path != 0x40 && c.shape.path != 0x42

/-- COPY_CHUNK_COMMIT: the next chunk of a running copy commits all its bytes at once, or the copy is suspended by a
fault or ends; a background chunk waits while a foreground one waits for what it takes (R84, R107, R154, R165-R170). -/
def execCopyChunkCommit (core tag : Nat) (s : State) : Host.Outcome State Fault Refusal :=
  let t := s.tag core tag
  .next <| match t.copy with
    | none => s
    | some c =>
      let l := s.launchOf (s.team t.team).launch
      if c.phase != .running || c.chunk == [] || yields s core c then s
      else match reachElems core c l.rcd.strict s c.chunk with
        | (s1, _, some (.fault va write kind level)) =>
          setCopy (demandFault s1 c.ctx va 1 kind level (one write) (BitVec.ofNat 32 core) l.id) core tag
            { c with phase := .suspended c.ctx (faultPage va) }
        | (s1, _, some (.fail st)) => endCopy s1 core tag st
        | (s1, _, some .busy) => s1
        | (s1, es, _) =>
          let far := farOf es
          if pathBad c es far then endCopy s1 core tag 1
          else match (match far with | some x => chunkPath s1 c x | none => some 0x41) with
            | none => endCopy s1 core tag 10
            | some p =>
              match asideFor s1 c es with
              | some (n, i, line) => wantAside s1 n i line
              | none => match cohere s1 (memPlaces es) with
                | (s2, false) => s2
                | (s2, true) => moveChunk s2 core tag c es far p

/-- The chip of a chunk's destination has committed it (R167, R168; log entry 50). -/
def chunkAcked (s : State) (core tag serial chunk : Nat) : State :=
  match (s.tag core tag).copy with
  | some c =>
    if c.serial % 2 ^ 32 != serial || c.cursor != chunk then s
    else match c.phase with
      | .ended _ => setCopy s core tag { c with flight := none }
      | _ => setCopy s core tag (dropRead s core { c with flight := none, cursor := chunk + 1 })
  | none => s

/-! ### The other events of copies -/

/-- COPY_COMPLETE: every chunk has committed, or the copy has ended, and so has every copy issued earlier on the core (R110,
R161). -/
def execCopyComplete (core tag : Nat) (s : State) : Host.Outcome State Fault Refusal :=
  .next <| match (s.tag core tag).copy with
    | some c =>
      if c.flight.isSome || earlierCopy s core c.serial then s
      else match c.phase with
        | .running => if c.shape.chunks ≤ c.cursor then finishCopy s core tag 0 else s
        | .ended st | .failed st => finishCopy s core tag st
        | _ => s
    | none => s

/-- ZERO_COPY_COMPLETE: every copy issued earlier on the core has completed (R120, R159). -/
def execZeroCopyComplete (core tag : Nat) (s : State) : Host.Outcome State Fault Refusal :=
  .next <| match (s.tag core tag).copy with
    | some c => if c.phase == .zero && !(earlierCopy s core c.serial) then finishCopy s core tag 0 else s
    | none => s

/-- CIRCUIT_COPY_START: the port is LIVE to the far side's chip (R169). -/
def execCircuitCopyStart (core tag : Nat) (s : State) : Host.Outcome State Fault Refusal :=
  .next <| match (s.tag core tag).copy with
    | some c =>
      let p := s.port c.shape.path
      let (far, _) := farChips s core c
      if c.phase == .circuit && p.state == .live && far.all (· == p.peer) && (s.team c.team).place == .resident then setCopy s core tag { c with phase := .running } else s
    | none => s

/-- A copy's chunks travel on a port (R168). -/
def Copy.on (c : Copy) (t : Port) (p : Nat) : Bool := t.leased && t.ctx == c.ctx && (c.shape.path == p || c.shape.path == 0x42)
/-- COPY_RESUME: the fault has been served, or the team is resident again and the replayed flits are acknowledged
(R166, R193), or their port has failed and the chunks go another way (R168); a circuit copy whose lease has ended completes with LEASE_EXPIRED (R169). -/
def execCopyResume (core tag : Nat) (s : State) : Host.Outcome State Fault Refusal :=
  let t := s.tag core tag
  .next <| match t.copy with
    | some c =>
      let served := match c.phase with
        | .suspended ctx page => (faultOf s ctx page).isNone && logged s ctx page == []
        | .paused => (List.range 48).all fun p => !(c.on (s.port p) p) || (s.port p).replayed.isNone || (s.port p).state == .fault
        | _ => false
      if served && (s.team t.team).place == .resident then
        let p := s.port c.shape.path
        if c.shape.path < 48 && !(p.leased && p.ctx == c.ctx) then endCopy s core tag 9
        else setCopy s core tag { c with phase := .running }
      else s
    | none => s

/-- The lines of a context's aside pool that copies have taken (R171). -/
def poolTaken (s : State) (ctx : Nat) : List Nat :=
  s.cores.flatMap fun (_, x) => x.tags.flatMap fun (_, t) => ((t.copy.filter (·.ctx == ctx)).map fun c => c.pool.map (·.2)).getD []
/-- A line of bytes with their poison goes into a line of the pool. -/
def writePool (s : State) (ctx n : Nat) (b : List (Byte × Bool)) : State :=
  let at_ := (s.ctx ctx).asbase % 2 ^ 47 + 128 * n
  (List.range 8).foldl
    (fun s k => let x := (b.drop (16 * k)).take 16; s.write (at_ + 16 * k) (x.map (·.1)) (x.any (·.2))) s

/-- SNAPSHOT_ASIDE_COMPLETE: the issue-time content of a line that a writer waits on has been copied aside, from global memory
into the context's pool; with no free line there the copy ends; a flip and the step of coherence come first (R107, R108, R119,
R171; log entry 48). -/
def execSnapshotAsideComplete (core tag line : Nat) (s : State) : Host.Outcome State Fault Refusal :=
  let t := s.tag core tag
  .next <| match t.copy with
    | some c =>
      let free := (List.range (s.ctx c.ctx).aslines).find? fun n => !((poolTaken s c.ctx).contains n)
      if !(nmem c.wanted line) then s
      else if !c.shape.ssp && isLocal s (line * 128) && flipping s (offOf (line * 128)) then s
      else if c.shape.ssp then
        let get := fun k : Nat => (line * 128 + k, tget 0 (s.team t.team).scratch (line * 128 + k), (s.team t.team).anyPoison (line * 128 + k) 1)
        setCopy s core tag { c with wanted := ndel c.wanted line, aside := c.aside ++ (List.range 128).map get }
      else match free with
        | none => endCopy (setCopy s core tag { c with wanted := ndel c.wanted line }) core tag 11
        | some n => match cohere s [offOf (line * 128), (s.ctx c.ctx).asbase % 2 ^ 47 + 128 * n] with
          | (s0, false) => s0
          | (s0, true) =>
          let b := (List.range 128).map fun k => (s0.byte (offOf (line * 128) + k), s0.poisoned (offOf (line * 128) + k))
          setCopy (writePool s0 c.ctx n b) core tag
            { c with wanted := ndel c.wanted line, aside := c.aside ++ b.zipIdx.map (fun x => (line * 128 + x.2, x.1)), pool := c.pool ++ [(line, n)] }
    | none => s

/-- A lease's end completes the context's copies on the port that wait or have chunks left (R169, R217). -/
def endCopiesOn (s : State) (ctx p : Nat) : State :=
  (lockHolders s).foldl
    (fun s (n, i, c) => if c.ctx == ctx && c.shape.path == p && !c.over && c.cursor < c.shape.chunks then endCopy s n i 9 else s) s

end Sys2Proof.Machine
end

