-- ==== Sys2Proof/Machine/Picking.lean ====
section
/-! DEFINITION. Fetching clauses, forming bundles, chaining, the ends of threads and teams, service calls, breakpoints and
hangs (R17-R24, R28, R100, R112, R181, R183, R251, R252, R275, R300-R304, R313-R317, R322, R336, R360, R460). -/
namespace Sys2Proof.Machine
open Sys2Proof

/-! ### Clause shapes (R300, R301, R322) -/

/-- EXEC of a header and its reserved bits (R300). -/
def hdrExec (h : Word) : Nat := (h.extractLsb' 26 2).toNat
def hdrReserved (h : Word) : Bool := h.extractLsb' 15 3 != (0 : BitVec 3)
/-- YLD of a header (R300). -/
def hdrYld (h : Word) : Bool := h.getLsbD 19

/-- The continuation runs of a clause are those its opcodes take, from word i on; an unassigned opcode takes any (R301). -/
def runsFrom (takes : Nat → Option (Nat × Nat)) (h : Word) (words : List Word) : Nat → Nat → Bool
  | 0, _ => true
  | f + 1, i =>
    if hdrN h < i then true
    else
      let n := contRun h i
      let ok := match takes (fOp (words.getD (i - 1) 0)) with | some (lo, hi) => lo ≤ n && n ≤ hi | none => true
      ok && runsFrom takes h words f (i + 1 + n)
/-- No CONT bit at or above N, and runs as the opcodes take them. -/
def runsOk (takes : Nat → Option (Nat × Nat)) (h : Word) (words : List Word) : Bool :=
  ((List.range 15).all fun i => !(h.getLsbD i) || i < hdrN h) && runsFrom takes h words 15 1

/-- The fate of a core header before its words are looked at: code and information (R255, R256, R304, R322). -/
def headerFate (h : Word) : Option (Nat × Word) :=
  if hdrN h == 0 then some (0x02, 1)
  else if h.getLsbD 0 then some (0x02, 2)
  else if hdrExec h == 1 || hdrExec h == 2 then some (0x0E, BitVec.ofNat 32 (hdrExec h))
  else if hdrExec h == 3 then some (0x01, h)
  else none
/-- The fate of a core clause with its words. -/
def clauseFate (h : Word) (words : List Word) : Option (Nat × Word) :=
  if !(runsOk coreRun h words) then some (0x02, 5)
  else if hdrReserved h then some (0x01, h)
  else none

/-! ### Fetching (R93, R112, R179, R304) -/

/-- What a fetch comes to: words, a hold, or a trap. -/
inductive Fetch where
  | ok (ws : List Word)
  | hold (h : Hold)
  | trap (code : Nat) (addr : DWord) (info : Word)
  deriving DecidableEq, Repr

/-- The four words of the 16-byte piece at an offset. -/
def pieceWords (s : State) (off : Nat) : List Word := (List.range 4).map fun i => BitVec.ofNat 32 (s.num (off + 4 * i) 4)

/-- Where a word to fetch lies: a scout's fetch never faults and has no effect but on caches (R179, R304). -/
def fetchSpot (s : State) (t : Thread) (scouting : Bool) (a : DWord) : State × Look :=
  let l := s.launchOfThread t
  if scouting then
    if logged s l.ctx (faultPage a) != [] || ((findXlate s t.core l.ctx (vaKey a)).isNone && l.rcd.strict) then (s, .trap 0x08 a 0)
    else match translateCore (if (findXlate s t.core l.ctx (vaKey a)).isSome || !(walkerFor s t a) then s else scoutCount s t 0x18) t.core l.ctx a false with
      | (s1, .ok phys) => (s1, match spotOf s1 phys with | some p => .go p | none => .trap 0x08 a (xlatInfo 0 false 4))
      | (s1, .fault _ _) => (s1, .trap 0x08 a 0)
      | (s1, .busy) => (s1, .wait .aside)
  else locate s t { deed := .load, scr := false, ps := [(a.toNat, 4)], flags := 4, windows := true, remotes := true } a 4

/-- Fetch the word at an address: from the piece the core has fetched, or its piece anew; a scout's fetch is dropped, and so
cannot complete, where its page is in host bias, flips or cannot be read (R112, R179, R180). -/
def fetchWord (s : State) (t : Thread) (fresh scouting : Bool) (a : DWord) : State × Fetch :=
  let ctx := (s.launchOfThread t).ctx
  let base := a &&& ~~~(15 : DWord)
  let i := (a.toNat % 16) / 4
  match (if fresh then none else (s.core t.core).icache.find? fun e => e.1 == ctx && e.2.1 == base) with
  | some e => (s, .ok [e.2.2.getD i 0])
  | none =>
    if !(canonical a) then (s, .trap 0x08 a (xlatInfo 0 false 1))
    else match fetchSpot s t scouting a with
      | (s1, .go (.mem off)) =>
        let off := off / 16 * 16
        let take := fun s : State =>
          let ws := pieceWords s off
          let c := s.core t.core
          (s.setCore t.core { c with icache := (ctx, base, ws) :: c.icache.filter fun e => !(e.1 == ctx && e.2.1 == base) }, Fetch.ok [ws.getD i 0])
        if scouting then
          let seen := (s1.core t.core).icache.any fun e => e.1 == ctx && e.2.1.toNat / 128 == a.toNat / 128
          if hostBias s1 off || flipping s1 off || lost s1 off || s1.anyPoison off 16 then (s1, .trap 0x07 a 0x300)
          else take (if seen then s1 else scoutCount s1 t 0x10)
        else if flipping s1 off then (s1, .hold .flip)
        else match cohere s1 [off] with
          | (s2, false) => (s2, .hold .bias)
          | (s2, true) =>
            let (s3, _, p) := s2.read off 16
            if p then (s3, .trap 0x07 a 0x300) else take s3
      | (s1, .go _) => (s1, .trap 0x08 a (xlatInfo 0 false 4))
      | (s1, .wait h) => (s1, .hold h)
      | (s1, .trap code ad i) => (s1, .trap code ad i)

/-- Fetch n words in ascending address. -/
def fetchWords (t : Thread) (fresh scouting : Bool) : Nat → State → DWord → State × Fetch
  | 0, s, _ => (s, .ok [])
  | n + 1, s, a =>
    match fetchWord s t fresh scouting a with
    | (s1, .ok w) =>
      match fetchWords t fresh scouting n s1 (a + 4) with
      | (s2, .ok ws) => (s2, .ok (w ++ ws))
      | r => r
    | r => r

/-- Fetch a clause: its header and words, with the fates that come before its first instruction. -/
def fetchClause (s : State) (t : Thread) (fresh scouting : Bool) (h : DWord) : State × Fetch :=
  match fetchWord s t fresh scouting h with
  | (s1, .ok [hd]) =>
    match headerFate hd with
    | some (code, info) => (s1, .trap code h info)
    | none =>
      match fetchWords t fresh scouting (hdrN hd) s1 (h + 4) with
      | (s2, .ok ws) =>
        match clauseFate hd ws with
        | some (code, info) => (s2, .trap code h info)
        | none => (s2, .ok (hd :: ws))
      | r => r
  | r => r

/-! ### Who is ready (R19, R183) -/

/-- A thread that its hold keeps from its instruction now: a walk, a fault, an answer to come, a full log (R19, R100). -/
def stillHeld (s : State) (t : Thread) : Bool :=
  match t.hold with
  | some (.walk _ _ _ _ _) | some (.fault _ _) | some (.park _ _) => true
  | some (.remote _ _ _) | some .hostLink => t.reply.isNone
  | some .log => 256 ≤ (s.teamOf t).log.length
  | _ => false

/-- The members that execute the instruction at a word, by ascending slot (R20, R21). -/
def membersAt (s : State) (b : Bundle) (pos : Nat) : List Nat :=
  let at_ := b.addr + BitVec.ofNat 64 (4 * pos)
  let ms := (b.threads.map s.thread).filter fun t =>
    t.status == .ready && t.pc == at_ && t.mid == some b.addr && !((t.scout.bind (·.stop)).isSome)
  (ordered ms fun x y => x.slot ≤ y.slot).map (·.uid)

/-- The next instruction of the clause that some member reaches; beyond the last word when there is none (R21). -/
def Bundle.advance (s : State) : Nat → Bundle → Bundle
  | 0, b => b
  | f + 1, b =>
    if b.todo == [] && b.pos ≤ hdrN b.hdr then
      let p := b.pos + 1 + contRun b.hdr b.pos
      let b1 := { b with pos := p, ipos := b.ipos + 1 }
      if p ≤ hdrN b.hdr then Bundle.advance s f { b1 with todo := membersAt s b1 p } else b1
    else b

/-- A bundle has executed its clause. -/
def Bundle.finished (s : State) (b : Bundle) : Bool :=
  let b1 := b.advance s 16
  b1.todo == [] && hdrN b1.hdr < b1.pos

/-- Threads of a core in a bundle that has not ended its clause. -/
def taken (s : State) (core : Nat) : List Nat :=
  ((s.core core).bundles.filter fun b => !(b.finished s)).flatMap (·.threads)

/-- A thread that a picker may take, its next header's Wait field apart; those of a launch that is aborted only go on to the
end of their clause (R260). -/
def pickable (s : State) (core : Nat) (busy : List Nat) (t : Thread) : Bool :=
  t.core == core && ((s.launchOfThread t).abort.isNone || t.mid.isSome) && t.status == .ready && (s.teamOf t).place == .resident && !t.spilled && !(busy.contains t.uid) &&
    !(t.defer != [] && !t.hnd && t.mid.isNone) && !(stillHeld s t) && !t.scoutOver

/-- The order of ready stamps, ties by slot (R20). -/
def older (x y : Thread) : Bool := x.stamp < y.stamp || (x.stamp == y.stamp && x.slot ≤ y.slot)
/-- The threads a picker may take, oldest first. -/
def candidates (s : State) (core : Nat) : List Thread :=
  let busy := taken s core
  ordered (s.threads.filter (pickable s core busy)) older

/-- A thread may issue a clause: it stands inside it, or the counters its Wait field names are zero (R19, R317). -/
def mayIssue (h : Word) (t : Thread) : Bool := t.mid.isSome || waitsMet h t
/-- A thread at a clause boundary is ready, as far as its next header can be seen (R19, R23). -/
def readyNow (s : State) (t : Thread) : Bool := match headerAt s t with | some h => mayIssue h t | none => true

/-- Threads that may share a bundle with its leader (R20, R181, R183). -/
def joins (s : State) (h : Word) (x t : Thread) : Bool :=
  (s.teamOf t).launch == (s.teamOf x).launch && t.pc == x.pc && t.mid == x.mid && t.inEpisode == x.inEpisode && mayIssue h t

/-! ### Issue (R20, R300, R314) -/

/-- Issue a fetched clause to threads: they stand inside it, at its first instruction or at the one they resume at; one that a
hold or a wait kept inside its clause execution goes on in it (R312, R314). -/
def issueClause (s : State) (core p : Nat) (x : Thread) (ts : List Thread) (h : Word) (ws : List Word) (chain : Nat) : State :=
  let c := s.core core
  let addr := x.mid.getD x.pc
  let at_ := if x.mid.isSome then (x.pc - addr).toNat / 4 else 1
  let us := ts.map (·.uid)
  if x.mid.isSome && hdrN h < at_ then
    { s with threads := modWhere (fun t => us.contains t.uid) (fun t => { t with mid := none }) s.threads }
  else
    let b : Bundle := { threads := us, addr := addr, hdr := h, words := ws, pos := at_
                        ipos := ((List.range at_).filter fun i => 1 ≤ i && !(contAt h i)).length
                        exe := (c.exes + 1) * 512 + core, todo := ((ordered ts fun x y => x.slot ≤ y.slot).map (·.uid)), chain := chain, scouting := x.inEpisode }
    let c1 := { c with exes := c.exes + 1, issued := s.cycle }
    let s1 := s.setCore core (if p == 0 then { c1 with pick0 := some b } else { c1 with pick1 := some b })
    { s1 with threads := modWhere (fun t => us.contains t.uid)
                (fun t => { t with mid := some addr, pc := addr + BitVec.ofNat 64 (4 * at_), ipos := b.ipos
                                   exe := if t.mid.isSome && t.exe != 0 then t.exe else b.exe }) s1.threads }

/-- A clause that cannot be issued: its threads trap at the header, are held there, or, scouting, stop, or wait for a walker
within the episode (R179, R180, R304). -/
def refuseClause (s : State) (ts : List Thread) (f : Fetch) : State :=
  ts.foldl
    (fun s x =>
      let t := s.thread x.uid
      let h := t.mid.getD t.pc
      if t.inEpisode then (match f with | .hold _ => s | _ => scoutStop s t .instr)
      else match f with
        | .hold w => holdAt s t w
        | .trap code a i => if t.provisional then s else takeTrap (s.setThread { t with mid := none }) t.uid code a i h
        | .ok _ => s) s

/-- A header with NSC = 1 stops the scouts that reach it (R180). -/
def stopScouts (s : State) (ts : List Thread) : State := ts.foldl (fun s x => scoutStop s (s.thread x.uid) .instr) s

/-- Fetch for a leader, and issue to it and those that join it; a leader whose header makes it wait is passed over. -/
def pickFrom (core p : Nat) (fresh : Bool) (all : List Thread) : State → List Thread → State
  | s, [] => s
  | s, x :: xs =>
    match fetchClause s x fresh x.inEpisode (x.mid.getD x.pc) with
    | (s1, .ok (h :: ws)) =>
      if !(mayIssue h x) then pickFrom core p fresh all s1 xs
      else
        let ts := (x :: all.filter fun t => t.uid != x.uid && joins s1 h x t).take 64
        if x.inEpisode && nsc h then stopScouts s1 ts else issueClause s1 core p x ts h ws 1
    | (s1, f) =>
      let s2 := refuseClause s1 (x :: xs.filter fun t => t.pc == x.pc && joins s1 0 x t) f
      match f with
      | .hold _ => if x.inEpisode then pickFrom core p fresh all s2 xs else s2
      | _ => s2

/-- The oldest thread of a bundle. -/
def Bundle.eldest (s : State) (b : Bundle) : Thread := (ordered (b.threads.map s.thread) older).headD {}
/-- The bundles out of the pickers that may return, the oldest first (R100). -/
def returning (s : State) (core : Nat) : Option Bundle :=
  let bs := (s.core core).out.filter fun b => b.todo.all fun u => !(stillHeld s (s.thread u))
  bs.foldl (fun (r : Option Bundle) b => match r with | none => some b | some y => if older (b.eldest s) (y.eldest s) then some b else r) none

def Core.pick (c : Core) (p : Nat) : Option Bundle := if p == 0 then c.pick0 else c.pick1
def Core.setPick (c : Core) (p : Nat) (b : Option Bundle) : Core := if p == 0 then { c with pick0 := b } else { c with pick1 := b }

/-- A picker stands at a clause boundary (R20). -/
def atBoundary (s : State) (core p : Nat) : Bool := match (s.core core).pick p with | some b => b.finished s | none => true

/-- A picker at a boundary takes the bundle that returns, unless a ready thread is older than all of it, or forms one (R20,
R100). -/
def pickOn (s : State) (core p : Nat) (fresh : Bool) : State :=
  let cs := candidates s core
  let s1 := s.setCore core ((s.core core).setPick p none)
  match returning s1 core with
  | some b =>
    if (cs.filter (readyNow s1)).any fun x => !(older (b.eldest s1) x) then pickFrom core p fresh cs s1 cs
    else
      let c1 := s1.core core
      s1.setCore core ({ c1 with out := c1.out.filter fun x => x.exe != b.exe }.setPick p (some b))
  | none => pickFrom core p fresh cs s1 cs

/-- BUNDLE_PICK: a picker at a clause boundary takes a bundle that returns, or forms one; when both stand at a boundary,
picker 0 picks first (R20, R100). -/
def execBundlePick (core picker : Nat) (fresh : Bool) (s : State) : Host.Outcome State Fault Refusal :=
  .next <|
    if !(atBoundary s core picker) then s
    else pickOn (if picker != 0 && atBoundary s core 0 then pickOn s core 0 fresh else s) core picker fresh

/-- The clause a bundle executes ends in YIELD, which gives up the picker (R473). -/
def Bundle.yields (b : Bundle) : Bool :=
  match (from_ 1 (hdrN b.hdr)).reverse.find? fun i => !(contAt b.hdr i) with
  | some i => fOp (b.words.getD (i - 1) 0) == 0x50
  | none => false

/-- CLAUSE_CHAIN: the bundle that ended a clause without YLD or YIELD goes on with the next one (R23, R473). -/
def execClauseChain (core picker : Nat) (fresh : Bool) (s : State) : Host.Outcome State Fault Refusal :=
  let c := s.core core
  .next <| match c.pick picker with
    | none => s
    | some b =>
      let ts := b.threads.map s.thread
      let busy := taken s core
      let x := ts.headD {}
      let all := candidates s core
      if !(b.finished s) || hdrYld b.hdr || b.yields || 4 ≤ b.chain || ts == [] || !(ts.all fun t => pickable s core busy t && t.pc == x.pc && t.mid.isNone && t.inEpisode == x.inEpisode)
          || all.any (fun t => readyNow s t && t.stamp + 1024 ≤ s.cycle) then s
      else
        let s0 := s.setCore core (c.setPick picker none)
        match fetchClause s0 x fresh x.inEpisode x.pc with
        | (s1, .ok (h :: ws)) =>
          if !(ts.all (waitsMet h)) then s
          else
            let us := (ts ++ all.filter fun t => !(b.threads.contains t.uid) && joins s1 h x t).take 64
            if x.inEpisode && nsc h then stopScouts s1 us else issueClause s1 core picker x us h ws (b.chain + 1)
        | (s1, f) => refuseClause s1 ts f

/-- A hold on which a bundle leaves its picker: a demand fault, a full log, a remote access, a lane or a slice without room, a
fence, an answer of the host, a bias flip (R100, R108, R128, R130, R133, R163, R204). -/
def Hold.leaves : Hold → Bool
  | .fault _ _ | .park _ _ | .log | .remote _ _ _ | .room | .fence | .hostLink | .flip => true
  | _ => false
/-- BUNDLE_LEAVE_PICKER: a bundle that a fault or a remote wait holds leaves its picker, its membership unchanged; one that
waits in place stays (R21, R100). -/
def execBundleLeavePicker (core picker : Nat) (s : State) : Host.Outcome State Fault Refusal :=
  let c := s.core core
  .next <| match c.pick picker with
    | some b =>
      let held := b.todo.any fun u => (s.thread u).hold.any Hold.leaves
      if held then s.setCore core ({ c with out := c.out ++ [b] }.setPick picker none) else s
    | none => s

/-- INSTRUCTION_RESULT_WRITE: a result whose window has passed is written and its counter falls; that a result never comes before
its window has passed, so that an SWR of %fstat inside the window always comes before the flags it sets, is the model's choice
(R57, R312, R313, R316; log entry 128). -/
def execInstructionResultWrite (thread index : Nat) (s : State) : Host.Outcome State Fault Refusal :=
  let t := s.thread thread
  .next <| match t.window[index]? with
    | none => s
    | some p =>
      if (s.teamOf t).place == .resident && (t.mid.isNone || visibleAt p t.exe t.ipos) then s.setThread (renew s t (landWhere t fun q => decide (q = p))) else s

/-! ### Service calls and breakpoints (R251, R252, R336, R460) -/

/-- Bytes of a group's place in a slot of the park area (R247). -/
def groupBytes (r : LaunchRec) : Nat := (r.width * (r.nreg + 8) * 4 + 4095) / 4096 * 4096
/-- The address of a group's place in the park area. -/
def parkVa (r : LaunchRec) (core pos group : Nat) : DWord := slotVa r core pos + BitVec.ofNat 64 (8192 + group * groupBytes r)
/-- The fault pages that n bytes at an address touch, by an address in each. -/
def pagesOf (va : DWord) (n : Nat) : List DWord :=
  (List.range ((va.toNat + n - 1) / 65536 - va.toNat / 65536 + 1)).map fun i => if i == 0 then va else BitVec.ofNat 64 ((va.toNat / 65536 + i) * 65536)

/-- Reach every page of an area for writing; the first demand fault is recorded for the agent and stops it. -/
def reachPages (s : State) (die ctx agent : Nat) (src launch : Word) : List DWord → State × Bool
  | [] => (s, true)
  | v :: vs =>
    match translateNow s die ctx v true with
    | (s1, .ok _) => reachPages s1 die ctx agent src launch vs
    | (s1, .busy) => (s1, false)
    | (s1, .fault kind level) => (demandFault s1 ctx v agent kind level 1 src launch, false)

/-- A group whose live threads are all parked, at least one, is spilled: its places free (R252). -/
def spillGroup (s : State) (tm : Team) (g : Nat) : State :=
  let l := s.launchOf tm.launch
  let ts := s.threads.filter fun t => t.team == tm.uid && groupOf t l.rcd == g
  let parked := fun t : Thread => match t.status with | .parked _ => true | _ => false
  if ts.any parked && ts.all (fun t => parked t || t.status == .exited) && !(tm.spilled.contains g) then
    let core := (ts.headD {}).core
    match reachPages s (dieOf core) l.ctx 3 0xFFFFFFFF 0 (pagesOf (parkVa l.rcd core tm.pos g) (groupBytes l.rcd)) with
    | (s1, true) =>
      let s2 := s1.setTeam { s1.team tm.uid with spilled := tm.spilled ++ [g] }
      { s2 with threads := modWhere (fun t => t.team == tm.uid && groupOf t l.rcd == g) (fun t => { t with spilled := true }) s2.threads }
    | (s1, false) => s1
  else s

/-- One entry of the service area (R251). -/
def serviceEntry (t : Thread) (tm : Team) (l : Launch) (pc : DWord) : List Byte :=
  let r := l.rcd
  ((from_ 1 8).flatMap fun i => bytesOf (t.regs.getD i 0).toNat 4) ++ List.replicate 32 0 ++ bytesOf pc.toNat 8 ++ bytesOf l.id.toNat 4 ++
    bytesOf t.core 4 ++ bytesOf (tm.n % r.x) 4 ++ bytesOf (tm.n / r.x % r.y) 4 ++ bytesOf (tm.n / r.x / r.y) 4 ++ bytesOf t.tid 4 ++
    bytesOf 1 4 ++ List.replicate 28 0

/-- The places of the service area a call touches: an entry's, the producer's and the consumer's. -/
def serviceAt (r : LaunchRec) (i : Nat) : DWord := r.svbase + BitVec.ofNat 64 (128 * (i % 2 ^ r.svlog))
def serviceCounts (r : LaunchRec) : DWord := r.svbase + BitVec.ofNat 64 (128 * 2 ^ r.svlog)

/-- What reaching memory for a service call comes to. -/
inductive Reach where
  | ok (off : Nat)
  | fault
  | bad
  | refused
  | waits
  deriving DecidableEq, Repr
/-- Reach n bytes of the service area for a thread: memory of this chip, or a wait, a demand fault that holds the thread, or
one whose service was refused (R117, R252). -/
def reachService (s : State) (t : Thread) (va : DWord) (n : Nat) : State × Reach :=
  let l := s.launchOfThread t
  if !(canonical va) then (s, .bad)
  else if t.hold == some (.refused l.ctx (faultPage va)) then (s, .refused)
  else match translateNow s (dieOf t.core) l.ctx va true with
    | (s1, .ok phys) =>
      match spotOf s1 phys with
      | some (.mem off) => match agentWaits s1 off n true with
        | (s2, true) => (s2, .waits)
        | (s2, false) => (s2, .ok off)
      | _ => (s1, .bad)
    | (s1, .busy) => (s1, .waits)
    | (s1, .fault kind level) => (demandFault s1 l.ctx va 0 kind level 1 (BitVec.ofNat 32 t.core) l.id, .fault)

/-- What a service call comes to: the entry is written, the ring is full, a fault of a page, a refused one, no memory is
there, or it is tried again. -/
inductive Called where
  | entry (i : Nat)
  | full
  | waits
  | fault (va : DWord)
  | bad (va : DWord)
  | refused
  deriving DecidableEq, Repr

/-- Write the entry, advance the producer, raise the service interrupt (R251). -/
def callService (s : State) (t : Thread) (pc : DWord) : State × Called :=
  let tm := s.teamOf t
  let l := s.launchOfThread t
  let cv := serviceCounts l.rcd
  match reachService s t cv 8 with
  | (s1, .fault) => (s1, .fault cv)
  | (s1, .waits) => (s1, .waits)
  | (s1, .bad) => (s1, .bad cv)
  | (s1, .refused) => (s1, .refused)
  | (s1, .ok off) =>
    let prod := s1.num off 4
    let cons := s1.num (off + 4) 4
    if 2 ^ l.rcd.svlog ≤ (prod + 2 ^ 32 - cons) % 2 ^ 32 then (s1, .full)
    else
      let ev := serviceAt l.rcd prod
      match reachService s1 t ev 128 with
      | (s2, .fault) => (s2, .fault ev)
      | (s2, .waits) => (s2, .waits)
      | (s2, .bad) => (s2, .bad ev)
      | (s2, .refused) => (s2, .refused)
      | (s2, .ok eo) =>
        let s3 := (s2.write eo (serviceEntry t tm l pc) false).write off (bytesOf ((prod + 1) % 2 ^ 32) 4) false
        (raise s3 (4 * l.ctx + 1), .entry (prod % 2 ^ l.rcd.svlog))

/-- The thread parks (R19, R252). -/
def parkThread (s : State) (u : Nat) (entry : Option Nat) : State :=
  let t := s.thread u
  let s1 := leaveClause (s.setThread { t with status := .parked entry, hold := none, part := none }) t
  spillGroup s1 (s1.teamOf t) (groupOf t (s1.launchOfThread t).rcd)

/-- SVC, and BKPT in a launch with a service area: the host fence, the entry, and the thread parks; with a full ring it
waits parked, its program counter at the call (R251, R336, R460). -/
def serviceCall (s : State) (t : Thread) (c : Cur) (pc : DWord) : State :=
  let regs := from_ 1 8
  checked s t c (regChecks t c false regs regs) <|
    let l := s.launchOfThread t
    if l.rcd.svlog == 0 then abortLaunch (stopForGood s t) l.uid 0x25 0
    else if hostPending s t then holdAt s t .fence
    else match callService s t pc with
      | (s1, .entry i) => parkThread (s1.setThread { s1.thread t.uid with pc := c.next, mid := none }) t.uid (some i)
      | (s1, .full) => parkThread (s1.setThread { s1.thread t.uid with pc := c.addr, mid := none, brk := pc != c.addr }) t.uid none
      | (s1, .fault va) => holdAt s1 (s1.thread t.uid) (.fault l.ctx (faultPage va))
      | (s1, .waits) => holdAt s1 (s1.thread t.uid) .aside
      | (s1, .refused) => abortLaunch (stopForGood s1 (s1.thread t.uid)) l.uid 0x26 0
      | (s1, .bad va) => takeTrap s1 t.uid 0x08 va (xlatInfo 0 true (if canonical va then 4 else 1)) c.addr

/-- Threads that wait parked for room in their service ring make their call once there is some (R251). -/
def retryCalls (s : State) : State :=
  s.threads.foldl
    (fun s x =>
      match x.status with
      | .parked none =>
        match callService s x (x.pc + if x.brk then 1 else 0) with
        | (s1, .entry i) =>
          let t := s1.thread x.uid
          s1.setThread { t with status := .parked (some i), pc := t.pc + 4, brk := false }
        | (s1, _) => s1
      | _ => s) s

/-- SVC (R460). -/
def execSvc (s : State) : Host.Outcome State Fault Refusal :=
  threadOp s none fun s t c => endsScout s t (serviceCall s t c c.addr)

/-- BKPT (R336). -/
def execBkpt (s : State) : Host.Outcome State Fault Refusal :=
  threadOp s none fun s t c =>
    endsScout s t (if (s.launchOfThread t).rcd.svlog == 0 then retireAt s t c c.next true else serviceCall s t c (c.addr + 1))

/-! ### EXIT and the end of a team (R17, R28, R32, R137, R360) -/

/-- The instances of a thread's group that name its lane. -/
def namedIn (s : State) (t : Thread) : List Rdv :=
  let r := (s.launchOfThread t).rcd
  (s.teamOf t).rdvs.filter fun v => v.group == groupOf t r && v.mask.getLsbD (laneOf t r)

/-- The convergence registers of a gathering instance whose row of this thread has not signed (R137). -/
def unsignedOn (s : State) (t : Thread) : List Nat :=
  ((s.teamOf t).convs.filter fun (_, v) =>
    v.configured && v.signs != [] && v.base ≤ t.tid && t.tid - v.base < 128 * (if v.pair then 2 else 1) && !(v.signs.any (·.row == t.tid - v.base))).map (·.1)

/-- EXIT: of a thread and of a script (R210, R360). -/
def execExit (s : State) : Host.Outcome State Fault Refusal :=
  withCur s fun c =>
    match c.who with
    | .script k => endScript s k 0
    | .stream x n => packetError s x n 0x0001
    | .thread u => onThread s u c none fun s t =>
      endsScout s t <|
        let t1 := { t with status := .exited, window := [], pc := c.next, mid := none, hold := none, part := none }
        let tm := s.teamOf t
        let s1 := s.setTeam { tm with remErr := tm.remErr || t.remerr.msb }
        let s2 := leaveClause (s1.setThread t1) t1
        let s3 := (namedIn s2 t1).foldl (fun s v => failInstance s tm.uid v 3) s2
        let s4 := (unsignedOn s3 t1).foldl (fun s i => discardGather s tm.uid i 6) s3
        spillGroup s4 (s4.teamOf t1) (groupOf t1 (s4.launchOfThread t1).rcd)

/-- Everything the team's threads issued has completed (R17). -/
def teamIdle (s : State) (tm : Team) : Bool :=
  let us := (s.threads.filter (·.team == tm.uid)).map (·.uid)
  tm.log == [] && s.cwords.all (·.team != tm.uid) &&
    s.lanes.all (fun l => l.reqs.all fun q => !(us.contains q.thread) && q.thread != engineAsker tm.uid) &&
    s.threads.all (fun t => t.team != tm.uid || t.hostOut == 0) &&
    s.cores.all fun (_, c) =>
      c.tags.all (fun x => x.2.team != tm.uid || x.2.copy.isNone) &&
        c.anvil.all fun | .op o => o.team != tm.uid | .acc t _ _ => t != tm.uid

/-- TEAM_COMPLETE: the team frees its resources; with its launch's last team the launch ends, with remote-store-error when a
deferred remote status was left unread (R17, R130, R248). -/
def execTeamComplete (team : Nat) (s : State) : Host.Outcome State Fault Refusal :=
  let tm := s.team team
  let l0 := s.launchOf tm.launch
  .next <|
    if s.hasTeam team && tm.place == .resident && l0.abort.isNone && s.threads.all (fun t => t.team != team || t.status == .exited) && teamIdle s tm then
      let unread := s.threads.any fun t => t.team == team && t.remerr.msb
      let l := { l0 with done := l0.done + 1, remErr := l0.remErr || tm.remErr || unread }
      let s1 := (removeTeam s team).setLaunch l
      if l.rcd.total ≤ l.done then launchEnd s1 l (if l.remErr then 0x23 else 0) 0 else s1
    else s

/-- Quench: the clocks stop (R276). -/
def quench (s : State) : State := { s with frozen := true, jtag := { s.jtag with key := s.draws }, draws := s.draws + 1 }

/-- A thread that is ready at a clause boundary and has been for 2^24 cycles (R19, R275). -/
def hangs (s : State) (core : Nat) (t : Thread) : Bool :=
  pickable s core (taken s core) t && t.mid.isNone && readyNow s t && t.stamp + 2 ^ 24 ≤ s.cycle
/-- A core's count of cycles without a clause begins anew when a team on it is saved or resumes (R275). -/
def restartCount (s : State) (core : Nat) : State := s.setCore core { s.core core with issued := s.cycle }
/-- CORE_HANG: a core that issues no clause for 2^24 cycles while a thread of it is ready: a record, the launches of the threads that hang are aborted, and the core is excluded; the status of such
an end and the record's address are free (R274, R275; log entry 3). -/
def execCoreHang (core : Nat) (s : State) : Host.Outcome State Fault Refusal :=
  let c := s.core core
  let stuck := s.threads.filter (hangs s core)
  .next <|
    if stuck == [] || s.cycle < c.issued + 2 ^ 24 then s
    else
      let ls := (stuck.map fun t => (s.teamOf t).launch).eraseDups
      let (s0, w) := draw s
      let (s1, a) := drawBytes 8 s0
      let s2 := mcRecord s1 1 4 0 core (if ls.length == 1 then (s.launchOf (ls.headD 0)).id else 0) (natOf a)
      let s3 := { s2 with hub := { s2.hub with cexcl := nins s2.hub.cexcl core } }
      ls.foldl (fun s l => abortLaunch s l (w.toNat % 65536) 0) (stuck.foldl (fun s t => stopForGood s (s.thread t.uid)) s3)

end Sys2Proof.Machine
end

