-- ==== Sys2Proof/Machine/Collective.lean ====
section
/-! DEFINITION. Collective graphs and rotations: hub reads and writes of virtual memory, Bellows packets, operations of a
run, blocks, credits, and the rotation instructions of threads (R99, R117, R122, R217-R236, R431, R442). -/
namespace Sys2Proof.Machine
open Sys2Proof

/-! ### The hub's accesses to virtual memory (R89, R90, R99, R117) -/

/-- The parts of n bytes at an address that lie in one 64 KiB page each. -/
def segsOf (va : DWord) (n : Nat) : List (DWord × Nat) :=
  (pagesOf va n).map fun v =>
    let first := v.toNat
    let last := min (va.toNat + n) ((first / 65536 + 1) * 65536)
    (v, last - first)

/-- What reaching them comes to: places in memory with their lengths, a demand fault, a place that is no memory of this
chip, or something to wait for: a walker, a lock, a bias flip, the step of coherence. -/
inductive HubRes where
  | ok (segs : List (Nat × Nat))
  | fault (va : DWord) (kind level : Nat)
  | bad
  | wait
  deriving DecidableEq, Repr

/-- The places of parts of an access, each in one page, as far as no flip and no lock holds them. -/
def hubPlaces (ctx : Nat) (write : Bool) : State → List (DWord × Nat) → State × HubRes
  | s, [] => (s, .ok [])
  | s, (v, n) :: rest =>
    if !(canonical v) then (s, .bad)
    else match translateNow s 0 ctx v write with
      | (s1, .busy) => (s1, .wait)
      | (s1, .fault kind level) => (s1, .fault v kind level)
      | (s1, .ok phys) =>
        match spotOf s1 phys with
        | some (.mem off) =>
          match agentHeld s1 off n write with
          | (s2, true) => (s2, .wait)
          | (s2, false) => match hubPlaces ctx write s2 rest with
            | (s3, .ok l) => (s3, .ok ((off, n) :: l))
            | r => r
        | _ => (s1, .bad)
/-- Reach n bytes at an address for a hub agent; a lock on a destination, and for writes one on a source, makes it wait, and
so does the step of coherence (R107, R117). A read of what is lost is recorded (R284). -/
def hubReach (ctx : Nat) (write : Bool) (s : State) (segs : List (DWord × Nat)) : State × HubRes :=
  match hubPlaces ctx write s segs with
  | (s1, .ok l) => match cohere s1 (l.map (·.1)) with
    | (s2, true) => (if write then s2 else l.foldl (fun s x => recordLost s x.1 (lostLines s x.1 x.2)) s2, .ok l)
    | (s2, false) => (s2, .wait)
  | r => r

/-- Read bytes with their poison. -/
def hubRead (s : State) (segs : List (Nat × Nat)) : List (Byte × Bool) :=
  segs.flatMap fun x => (List.range x.2).map fun i => (s.byte (x.1 + i), s.poisoned (x.1 + i) || lost s (x.1 + i))
/-- Write bytes with their poison (R269). -/
def hubWrite (s : State) : List (Nat × Nat) → List (Byte × Bool) → State
  | [], _ => s
  | (off, n) :: rest, l =>
    let s1 := s.write off ((l.take n).map (·.1)) false
    let s2 := (List.range n).foldl (fun (s : State) i => if (l.getD i (0, false)).2 then { s with poison := nins s.poison ((off + i) / 16) } else s) s1
    hubWrite s2 rest (l.drop n)

/-- PMASK of a payload: a bit for each byte up to 16, else for each 16 (R200). -/
def pmaskOf (l : List (Byte × Bool)) : Nat :=
  let unit := if l.length ≤ 16 then 1 else 16
  ((List.range 16).map fun i => if ((l.drop (unit * i)).take unit).any (·.2) then 2 ^ i else 0).sum
/-- A payload's bytes with the poison its PMASK marks. -/
def markedBytes (p : Packet) : List (Byte × Bool) :=
  let unit := if p.data.length ≤ 16 then 1 else 16
  p.data.zipIdx.map fun (b, i) => (b, bits p.pmask (i / unit) 1 == 1)

/-! ### Bellows packets (R203, R224, R235) -/

/-- The pseudo-lane of a port sequencer's packets to a chip: 64 and above. -/
def seqLane (path : Nat) : Nat := 64 + path
/-- The path of a graph or rotation to a chip; none while a port it names is not LIVE to that chip (R203, R224). -/
def seqPath (s : State) (ctx path x : Nat) : Option Nat :=
  if path < 48 then (let t := s.port path; if t.state == .live && t.leased && t.ctx == ctx && t.peer == x then some path else none)
  else if path == 0x42 then some (pathTo s ctx x) else some 0x41
/-- A port path whose port the context does not lease (R211). -/
def unleased (s : State) (ctx path : Nat) : Bool := path < 48 && !((s.port path).leased && (s.port path).ctx == ctx)

/-- Who stands for a graph slot's run among those that send requests, and who for a rotation: the rotation of an index, by its
context, instance and generation, so that packets kept from an earlier rotation on that index are not its own (R233, R235). -/
def graphAsker (g : Nat) : Nat := 2 ^ 64 + g
def Rotation.asker (r : Rotation) (i : Nat) : Nat := 2 ^ 64 + 8 + (((r.ctx * 2 ^ 32 + r.inst.toNat) * 2 ^ 16 + r.gen) * 4 + i)
def rotAsker (s : State) (i : Nat) : Nat := (s.rot i).asker i
/-- Send a Bellows packet on a path; a data packet or a CLEAR is kept until it is covered. False without a route. -/
def sendBellows (s : State) (who path ctx chip op off va src : Nat) (l : List (Byte × Bool)) (keep : Bool) : State × Bool :=
  if !(hasRoute s path chip) then (s, false)
  else
    let ln := srcLane s chip (seqLane path)
    let p : Packet := { typ := tBELLOWS, op := op, ttl := 16, lane := 0, ctx := ctx, src := src, dst := chip, serial := ln.next
                        pmask := pmaskOf l, off := off, va := va, data := l.map (·.1) }
    let reqs := if keep then ln.reqs ++ [⟨p, 0, s.htime, false, false, path, who⟩] else ln.reqs
    (sendPacket (setSrcLane s { ln with next := (ln.next + 1) % 2 ^ 32, reqs := reqs }) path p, true)

/-- Change the outstanding Bellows packets. -/
def filterBellows (s : State) (f : SrcLane → Req → Bool) : State :=
  { s with lanes := s.lanes.map fun l => if 64 ≤ l.lane then { l with reqs := l.reqs.filter (f l) } else l }
/-- An outstanding Bellows packet satisfies a test. -/
def anyBellows (s : State) (f : SrcLane → Req → Bool) : Bool := s.lanes.any fun l => 64 ≤ l.lane && l.reqs.any (f l)
/-- Data packets of a kind to a chip are not covered yet on another path: the next waits for them (R127, R224). -/
def onOtherPath (s : State) (who chip path op : Nat) : Bool :=
  anyBellows s fun l q => l.chip == chip && q.thread == who && q.packet.op == op && q.path != path

def vaHi (p : Packet) : Nat := p.va / 2 ^ 32
def vaLo (p : Packet) : Nat := p.va % 2 ^ 32
def vaOf (hi lo : Nat) : Nat := hi * 2 ^ 32 + lo

/-! ### Ends of graph runs (R217, R221, R224, R225) -/

/-- Scripts that wait for a slot's run take its status. -/
def wakeGraph (s : State) (g status : Nat) : State :=
  s.scripts.foldl
    (fun s (k, sc) => match sc.wait with
      | some (.graph h d) => if h == g then scriptAnswer s k d.toNat (BitVec.ofNat 32 status) else s
      | _ => s) s
/-- A run ends with a status. -/
def runEnd (s : State) (g status : Nat) : State :=
  let x := s.graph g
  if x.state != 2 then s
  else wakeGraph (filterBellows (s.setGraph g { x with state := 1, status := status, runs := x.runs.map fun r => { r with pend := [] } })
                    fun _ q => q.thread != graphAsker g) g status

/-! ### Ends of rotations (R217, R230, R231, R233, R234) -/

def Rotation.bytes (r : Rotation) : Nat := r.blk * 4096
/-- Block k has arrived, is forwarded, is freed. -/
def Rotation.arrived (r : Rotation) (k : Nat) : Bool := k == 0 || r.bytes ≤ tget 0 r.got k
def Rotation.freed (r : Rotation) (k : Nat) : Bool := r.arrived k && r.cons ≤ tget 0 r.rels k && (k < r.fwd || k + 1 == r.ring)
/-- The number of leading blocks that have freed. -/
def Rotation.leading (r : Rotation) : Nat := ((List.range r.ring).takeWhile r.freed).length

/-- What RACQ comes to: it waits, it faults for a reason, or it has its result (R231, R431). -/
inductive Racq where
  | wait
  | fault (reason : Nat)
  | done (w0 w1 : Word)
  deriving DecidableEq, Repr
def racqLook (s : State) (ctx i : Nat) (inst k : Word) : Racq :=
  let r := s.rot i
  if r.state == 0 then .wait
  else if r.ctx != ctx then .fault 5
  else if r.inst != inst then .wait
  else if r.ring ≤ k.toNat then .fault 1
  else if r.state == 3 then .done (BitVec.ofNat 32 (r.status * 256)) 0
  else if r.freed k.toNat then .fault 2
  else if r.arrived k.toNat then .done (BitVec.ofNat 32 (r.gen * 65536 + k.toNat % r.slots)) (BitVec.ofNat 32 (tget 0 r.orig k.toNat))
  else .wait

/-- What a RACQ that waited has come to, as its thread keeps it: the result's two words, or the fault's reason. -/
def Racq.kept : Racq → Option Delivery
  | .wait => none
  | .fault reason => some ⟨[], false, reason, 0⟩
  | .done w0 w1 => some ⟨bytesOf w0.toNat 4 ++ bytesOf w1.toNat 4, false, 0, 0⟩
/-- The threads whose RACQ need wait no longer are ready, with what it came to; one of a saved team evaluates it anew when it
resumes (R231, R233, R234, R431). -/
def wakeRacq (s : State) (i : Nat) : State :=
  { s with threads := s.threads.map fun t =>
      match t.status with
      | .waiting (.racq j inst k) =>
        match (if j == i && (s.teamOf t).place == .resident then (racqLook s (s.launchOfThread t).ctx i inst k).kept else none) with
        | some d => { t with status := .ready, stamp := s.cycle, reply := some d }
        | none => t
      | _ => t }

/-- An index is freed: it keeps its counters of dropped packets alone (R231, R234). -/
def freeIndex (s : State) (i : Nat) : State := s.setRot i { rdrpi := (s.rot i).rdrpi, rdrpg := (s.rot i).rdrpg }
/-- Scripts that wait in ROTE take the status, and the first frees the index; a later one finds it empty. -/
def wakeRote (s : State) (i status : Nat) : State :=
  s.scripts.foldl
    (fun s (k, sc) => match sc.wait with
      | some (.rotation j d) =>
        if j != i then s
        else if (s.rot i).state == 0 then scriptAnswer s k d.toNat 7
        else scriptAnswer (freeIndex s i) k d.toNat (BitVec.ofNat 32 status)
      | _ => s) s
/-- A rotation stops running: complete (2) or ended early (3) with a status. -/
def rotStop (s : State) (i state status : Nat) : State :=
  let r := s.rot i
  if r.state != 1 then s
  else
    let s1 := s.setRot i { r with state := state, status := status, pend := [] }
    let s2 := if state == 3 then filterBellows s1 fun _ q => q.thread != r.asker i else s1
    wakeRote (wakeRacq s2 i) i status

/-- Send the credit F to PREV (R228). -/
def sendCredit (s : State) (i : Nat) : State :=
  let r := s.rot i
  match sendBellows s (r.asker i) (pathTo s r.ctx r.prevc) r.ctx r.prevc 4 0 (vaOf r.inst.toNat r.own) s.hub.chip [] false with
  | (s1, true) => s1
  | (s1, false) => rotStop s1 i 3 4

/-- Blocks may have freed: F advances and is sent, and with the last block the rotation completes (R228, R230). -/
def settleRot (s : State) (i : Nat) : State :=
  let r := s.rot i
  if r.state != 1 then s
  else
    let own := r.slots + r.leading
    let s1 := s.setRot i { r with own := own }
    let s2 := if own != r.own then sendCredit s1 i else s1
    if r.leading == r.ring && (s2.rot i).state == 1 then
      let s3 := rotStop s2 i 2 0
      if r.se then semAdd s3 r.ctx r.sem 1 else s3
    else s2

/-- A lease's end or another cause ends what works on a port (R217). -/
def endWorkOn (s : State) (ctx p : Nat) : State :=
  let s1 := (List.range 8).foldl
    (fun s g =>
      let x := s.graph g
      let hit := x.state == 2 && x.ctx == ctx && (x.ops.zip x.runs).any fun (o, r) => !r.done && 1 ≤ o.kind && o.kind ≤ 3 && o.path == p
      if hit then runEnd s g 2 else s) s
  (List.range 4).foldl (fun s i => let r := s.rot i; if r.state == 1 && r.ctx == ctx && r.npath == p then rotStop s i 3 2 else s) s1

/-! ### Graph operations (R221-R224) -/

def GOp.src (g : Graph) (o : GOp) : DWord := g.bases.getD o.sbi 0 + o.soff
def GOp.dst (g : Graph) (o : GOp) : DWord := g.bases.getD o.dbi 0 + o.doff
def GOp.writes (o : GOp) : Bool := 2 ≤ o.kind && o.kind ≤ 4

/-- The operations that follow one, directly or through others. -/
def reachFrom (g : Graph) : Nat → List Nat → List Nat
  | 0, l => l
  | f + 1, l => reachFrom g f ((l ++ l.flatMap fun i => (g.ops.getD i {}).succ).eraseDups)
def follows (g : Graph) (i j : Nat) : Bool := (reachFrom g g.ops.length (g.ops.getD i {}).succ).contains j

/-- An operation of lower index, not after this one, whose writes overlap and come first, has not completed (R223). -/
def writesBlocked (g : Graph) (i : Nat) : Bool :=
  let o := g.ops.getD i {}
  (List.range i).any fun j =>
    let q := g.ops.getD j {}
    q.writes && !((g.runs.getD j {}).done) && !(follows g i j) &&
      (o.dst g).toNat < (q.dst g).toNat + q.len && (q.dst g).toNat < (o.dst g).toNat + o.len

/-- Change how operation i of a slot's run stands. -/
def setRun (s : State) (g i : Nat) (f : GRun → GRun) : State :=
  let x := s.graph g
  s.setGraph g { x with runs := lset x.runs i (f (x.runs.getD i {})) }

/-- An operation completes: its successors' counters fall, and with the last the run is done (R221). -/
def opDone (s : State) (g i : Nat) : State :=
  let x := s.graph g
  let runs := (x.ops.getD i {}).succ.foldl (fun (l : List GRun) j => lset l j { l.getD j {} with deps := (l.getD j {}).deps - 1 })
    (lset x.runs i { x.runs.getD i {} with done := true, pend := [] })
  let s1 := s.setGraph g { x with runs := runs, ndone := x.ndone + 1 }
  if runs.all (·.done) then runEnd s1 g 0 else s1

/-- A port number as a fault record's source; that of a sequencer on a path that is no port, and its launch, are the model's
choice (R102; log entry 133). -/
def portSrc (path : Nat) : Word := if path < 48 then BitVec.ofNat 32 path else 0xFFFFFFFF
/-- An operation's demand fault: its record, and the operation waits. -/
def opFault (s : State) (g i : Nat) (va : DWord) (kind level : Nat) (write : Bool) : State :=
  let x := s.graph g
  setRun (demandFault s x.ctx va 2 kind level (one write) (portSrc (x.ops.getD i {}).path) 0) g i fun r => { r with fault := some (faultPage va) }

/-- An element's bytes after a receive-reduce (R84, R222). -/
def reduceBytes (o : GOp) (old new : List Byte) : List Byte :=
  let a := natOf old
  let b := natOf new
  match o.fmt with
  | 0 => bytesOf (fpRmw fp32 o.rop a b) 4
  | 1 => bytesOf (fpRmw bf16 o.rop a b) 2
  | 2 => bytesOf (fpRmw fp16 o.rop a b) 2
  | _ => bytesOf ((intRmw 4 o.rop a b 0).getD 0) 4
def GOp.elem (o : GOp) : Nat := if o.kind != 3 then 1 else if o.fmt == 1 || o.fmt == 2 then 2 else 4
/-- What a receive writes over old bytes; a reduced element is poisoned where either was. -/
def landed (o : GOp) (old new : List (Byte × Bool)) : List (Byte × Bool) :=
  if o.kind != 3 then new
  else
    let n := o.elem
    (List.range (new.length / n)).flatMap fun e =>
      let x := (old.drop (e * n)).take n
      let y := (new.drop (e * n)).take n
      let p := x.any (·.2) || y.any (·.2)
      (reduceBytes o (x.map (·.1)) (y.map (·.1))).map fun b => (b, p)

/-- Acknowledge committed bytes; false without a route (R235). -/
def sendBack (s : State) (who ctx chip va off : Nat) : State × Bool := sendBellows s who (pathTo s ctx chip) ctx chip 5 off va s.hub.chip [] false
/-- Acknowledge an operation's committed bytes; without a route the run ends (R224). -/
def opBack (s : State) (g chip va off : Nat) : State :=
  match sendBack s (graphAsker g) (s.graph g).ctx chip va off with
  | (s1, true) => s1
  | (s1, false) => runEnd s1 g 4

/-- Take one arrived data packet of a receive, in ascending offset; a repeated one is acknowledged again (R223). The packets are
gathered, and with the last the chunk lands: all its writes are one event, and only then is the last packet acknowledged (R110,
R122; log entry 137). -/
def landData (s : State) (g i : Nat) (p : Packet) : State :=
  let x := s.graph g
  let o := x.ops.getD i {}
  let r := x.runs.getD i {}
  let n := p.data.length
  if p.off < r.bytes then opBack s g o.peer p.va r.bytes
  else if p.off != r.bytes || o.len < p.off + n || n % o.elem != 0 || n == 0 then s
  else
    let keep := fun s : State => setRun s g i fun r => { r with pend := [p] }
    let took := fun s : State => filterBellows (setRun s g i fun r => { r with bytes := r.bytes + n, fault := none, pend := [] })
      fun l q => !(q.packet.op == 2 && l.chip == o.peer && q.thread == graphAsker g && q.packet.va == p.va)
    if p.off + n < o.len then
      opBack (setRun (took s) g i fun r => { r with buf := r.buf ++ markedBytes p }) g o.peer p.va (r.bytes + n)
    else if r.fault.any (fun f => (faultOf s x.ctx f).isSome) then keep s
    else match hubReach x.ctx true s (segsOf (o.dst x) o.len) with
      | (s1, .ok segs) => opBack (opDone (took (hubWrite s1 segs (landed o (hubRead s1 segs) (r.buf ++ markedBytes p)))) g i) g o.peer p.va o.len
      | (s1, .fault va kind level) => keep (opFault s1 g i va kind level true)
      | (s1, .wait) => keep s1
      | (s1, .bad) => runEnd s1 g 3

/-- The next packet of a send whose chunk is read. -/
def sendPiece (s : State) (g i path : Nat) : State :=
  let x := s.graph g
  let o := x.ops.getD i {}
  let r := x.runs.getD i {}
  let n := min 256 (o.len - r.bytes)
  match sendBellows s (graphAsker g) path x.ctx o.peer 1 r.bytes (vaOf o.mtch.toNat x.run.toNat) s.hub.chip ((r.buf.drop r.bytes).take n) true with
  | (s1, true) => setRun s1 g i fun r => { r with bytes := r.bytes + n }
  | (s1, false) => runEnd s1 g 4
/-- A send reads its chunk, in one event, and goes on by one packet; it completes when every byte is committed at its peer. On a
path that has changed its next packet waits until the earlier ones are covered (R110, R122, R127, R222, R224). -/
def sendStep (s : State) (g i path : Nat) : State :=
  let x := s.graph g
  let o := x.ops.getD i {}
  let r := x.runs.getD i {}
  let va := vaOf o.mtch.toNat x.run.toNat
  if r.bytes < o.len then
    if onOtherPath s (graphAsker g) o.peer path 1 then s
    else if r.buf != [] then sendPiece s g i path
    else match hubReach x.ctx false s (segsOf (o.src x) o.len) with
    | (s1, .ok segs) => sendPiece (setRun s1 g i fun r => { r with buf := hubRead s1 segs, fault := none }) g i path
    | (s1, .fault v kind level) => opFault s1 g i v kind level false
    | (s1, .wait) => s1
    | (s1, .bad) => runEnd s1 g 3
  else if anyBellows s fun l q => l.chip == o.peer && q.packet.op == 1 && q.thread == graphAsker g && q.packet.va == va then s
  else opDone s g i

/-- A receive sends its CLEAR, which is kept until data answers it (R222). -/
def sendClear (s : State) (g i path : Nat) : State :=
  let x := s.graph g
  let o := x.ops.getD i {}
  match sendBellows s (graphAsker g) path x.ctx o.peer 2 0 (vaOf o.mtch.toNat x.run.toNat) s.hub.chip [] (o.len != 0) with
  | (s1, true) => setRun s1 g i fun r => { r with clear := true }
  | (s1, false) => runEnd s1 g 4
/-- A receive that is ready sends its CLEAR; then it commits what has arrived (R222, R223). -/
def receiveStep (s : State) (g i path : Nat) : State :=
  let r := (s.graph g).runs.getD i {}
  if !r.clear then sendClear s g i path
  else match r.pend with
    | p :: _ => landData s g i p
    | [] => s

/-- A copy reads all its bytes and writes them. -/
def copyStep (s : State) (g i : Nat) : State :=
  let x := s.graph g
  let o := x.ops.getD i {}
  match hubReach x.ctx false s (segsOf (o.src x) o.len) with
  | (s1, .ok a) =>
    match hubReach x.ctx true s1 (segsOf (o.dst x) o.len) with
    | (s2, .ok b) => opDone (hubWrite s2 b (hubRead s2 a)) g i
    | (s2, .fault v kind level) => opFault s2 g i v kind level true
    | (s2, .wait) => s2
    | (s2, .bad) => runEnd s2 g 3
  | (s1, .fault v kind level) => opFault s1 g i v kind level false
  | (s1, .wait) => s1
  | (s1, .bad) => runEnd s1 g 3

/-- The CLEAR of a receive of no bytes, which completed when it was ready (R222). -/
def lateClear (s : State) (g i : Nat) : State :=
  let x := s.graph g
  let o := x.ops.getD i {}
  if (o.kind == 2 || o.kind == 3) && o.len == 0 && !((x.runs.getD i {}).clear) then
    match seqPath s x.ctx o.path o.peer with
    | some path => sendClear s g i path
    | none => s
  else s
/-- GRAPH_OP_COMPLETE: an operation of a running graph that is ready goes on, by a packet or whole, and completes when
its condition holds; one of no bytes completes when it is ready (R221, R222). -/
def execGraphOpComplete (slot op : Nat) (s : State) : Host.Outcome State Fault Refusal :=
  let x := s.graph slot
  let o := x.ops.getD op {}
  let r := x.runs.getD op {}
  .next <|
    if slot ≥ 8 || x.state == 0 || x.ops.length ≤ op then s
    else if r.done then lateClear s slot op
    else if x.state != 2 || r.deps != 0 then s
    else if o.len == 0 && 1 ≤ o.kind && o.kind ≤ 4 then lateClear (opDone s slot op) slot op
    else if r.fault.any fun f => (faultOf s x.ctx f).isSome then s
    else if o.writes && writesBlocked x op then s
    else match o.kind with
      | 4 => copyStep s slot op
      | 5 => opDone (semAdd s x.ctx (o.doff.toNat % 256) o.soff) slot op
      | k =>
        if unleased s x.ctx o.path then runEnd s slot 2
        else match seqPath s x.ctx o.path o.peer with
          | none => s
          | some path => if k == 1 then (if r.clear then sendStep s slot op path else s) else receiveStep s slot op path

/-- The operation of a run that a packet pairs with, in a running one before an ended one: slot and index. -/
def pairedOp (s : State) (p : Packet) (send : Bool) : Option (Nat × Nat) :=
  let slots := (List.range 8).filter (fun g => (s.graph g).state == 2) ++ (List.range 8).filter fun g => (s.graph g).state != 2
  slots.findSome? fun g =>
    let x := s.graph g
    if x.state == 0 || x.ctx != p.ctx || x.run.toNat != vaLo p || x.runs == [] then none
    else (x.ops.zipIdx.find? fun (o, _) => (if send then o.kind == 1 else o.kind == 2 || o.kind == 3) && o.peer == p.src && o.mtch.toNat == vaHi p).map
      fun y => (g, y.2)

/-- GDATA (R223): data for a receive that has sent its CLEAR. -/
def dataIn (p : Packet) (s : State) : State :=
  match pairedOp s p false with
    | none => s
    | some (g, i) =>
      let x := s.graph g
      let r := x.runs.getD i {}
      if r.done then opBack s g p.src p.va (x.ops.getD i {}).len
      else if x.state != 2 || !r.clear then s
      else landData s g i p

/-- The event that a GDATA packet has come (R223). -/
def execGdata (p : Packet) (s : State) : Host.Outcome State Fault Refusal := .next (dataIn p s)

/-- GCLEAR (R222): the matching send may begin. -/
def clearIn (p : Packet) (s : State) : State :=
  match pairedOp s p true with
    | some (g, i) => if (s.graph g).state == 2 then setRun s g i fun r => { r with clear := true } else s
    | none => s

/-- The event that a GCLEAR packet has come (R222). -/
def execGclear (p : Packet) (s : State) : Host.Outcome State Fault Refusal := .next (clearIn p s)

/-- BACK (R235): data committed at its receiver in order up to an offset is covered. -/
def backIn (p : Packet) (s : State) : State :=
  filterBellows s fun l q =>
    let k := q.packet
    let same := (k.op == 1 && k.va == p.va) || (k.op == 3 && vaHi k == vaHi p && vaLo k % 65536 == vaLo p)
    !(l.chip == p.src && k.ctx == p.ctx && same && k.off + k.data.length ≤ p.off)

/-- The event that a BACK packet has come (R235). -/
def execBack (p : Packet) (s : State) : Host.Outcome State Fault Refusal := .next (backIn p s)

/-! ### Rotation blocks (R228-R230) -/

/-- The address of block k's slot (R226). -/
def Rotation.slotVa (r : Rotation) (k : Nat) : DWord := r.base + BitVec.ofNat 64 ((k % r.slots) * r.bytes)

/-- Commit one arrived packet of a block, in ascending offset; a repeated one is acknowledged again (R229). -/
def landBlock (s : State) (i : Nat) (p : Packet) : State :=
  let r := s.rot i
  let k := vaLo p % 65536
  let n := p.data.length
  let back := fun (s : State) (off : Nat) =>
    match sendBack s (r.asker i) r.ctx r.prevc (vaOf r.inst.toNat k) off with
    | (s1, true) => s1
    | (s1, false) => rotStop s1 i 3 4
  if r.ring ≤ k || k == 0 || r.own ≤ k then s
  else if p.off < tget 0 r.got k then back s (tget 0 r.got k)
  else if r.state != 1 || p.off != tget 0 r.got k || r.bytes < p.off + n || n == 0 then s
  else
    let keep := fun s : State => let r := s.rot i; s.setRot i { r with pend := r.pend.filter (fun q => vaLo q % 65536 != k) ++ [p] }
    if r.fault.any (fun f => (faultOf s r.ctx f).isSome) then keep s
    else match hubReach r.ctx true s (segsOf (r.slotVa k + BitVec.ofNat 64 p.off) n) with
      | (s1, .ok segs) =>
        let s2 := hubWrite s1 segs (markedBytes p)
        let r2 := s2.rot i
        let s3 := s2.setRot i { r2 with got := tset 0 r2.got k (p.off + n), orig := tset 0 r2.orig k p.src, fault := none
                                        pend := r2.pend.filter fun q => vaLo q % 65536 != k }
        back (if r.bytes ≤ p.off + n then settleRot (wakeRacq s3 i) i else s3) (p.off + n)
      | (s1, .fault va kind level) =>
        let s2 := demandFault s1 r.ctx va 2 kind level 1 0xFFFFFFFF 0
        keep (s2.setRot i { s2.rot i with fault := some (faultPage va) })
      | (s1, .wait) => keep s1
      | (s1, .bad) => rotStop s1 i 3 3

/-- The index that a packet of a rotation is delivered to; a packet of no index is counted and dropped (R229). -/
def rotIndex (s : State) (p : Packet) : Option Nat :=
  (List.range 4).find? fun i => let r := s.rot i; r.state != 0 && r.ctx == p.ctx && r.inst.toNat == vaHi p
def unmatchedRot (s : State) (p : Packet) : State :=
  let held := (List.range 4).filter fun i => (s.rot i).state != 0 && (s.rot i).ctx == p.ctx
  if held == [] then dropPacket s
  else held.foldl (fun s i => let r := s.rot i; s.setRot i { r with rdrpi := r.rdrpi + 1 }) s

/-- RDATA (R229). -/
def blockIn (p : Packet) (s : State) : State :=
  match rotIndex s p with
    | none => unmatchedRot s p
    | some i =>
      let r := s.rot i
      if r.gen != vaLo p / 65536 then s.setRot i { r with rdrpg := r.rdrpg + 1 } else landBlock s i p

/-- The event that a RDATA packet has come (R229). -/
def execRdata (p : Packet) (s : State) : Host.Outcome State Fault Refusal := .next (blockIn p s)

/-- RFREE (R228). -/
def creditIn (p : Packet) (s : State) : State :=
  match rotIndex s p with
    | none => unmatchedRot s p
    | some i => let r := s.rot i; if r.state == 1 then s.setRot i { r with fnxt := max r.fnxt (vaLo p) } else s

/-- The event that a RFREE packet has come (R228). -/
def execRfree (p : Packet) (s : State) : Host.Outcome State Fault Refusal := .next (creditIn p s)

/-- RFREE_REPEAT: every running rotation sends its credit again (R228). -/
def execRfreeRepeat (s : State) : Host.Outcome State Fault Refusal :=
  .next ((List.range 4).foldl (fun s i => if (s.rot i).state == 1 then sendCredit s i else s) s)

/-- The next packet of the block that is due to be forwarded; on a path that has changed it waits until the earlier ones are
covered (R127, R228). -/
def forwardStep (s : State) (i path : Nat) : State :=
  let r := s.rot i
  let k := r.fwd
  let n := min 256 (r.bytes - r.fsent)
  if onOtherPath s (r.asker i) r.nextc path 3 then s
  else match hubReach r.ctx false s (segsOf (r.slotVa k + BitVec.ofNat 64 r.fsent) n) with
  | (s1, .ok segs) =>
    match sendBellows s1 (r.asker i) path r.ctx r.nextc 3 r.fsent (vaOf r.inst.toNat (r.gen * 65536 + k + 1)) (tget 0 r.orig k) (hubRead s1 segs) true with
    | (s2, true) =>
      if r.bytes ≤ r.fsent + n then settleRot (s2.setRot i { s2.rot i with fwd := k + 1, fsent := 0, fault := none }) i
      else s2.setRot i { s2.rot i with fsent := r.fsent + n, fault := none }
    | (s2, false) => rotStop s2 i 3 4
  | (s1, .fault va kind level) =>
    let s2 := demandFault s1 r.ctx va 2 kind level 0 (portSrc path) 0
    s2.setRot i { s2.rot i with fault := some (faultPage va) }
  | (s1, .wait) => s1
  | (s1, .bad) => rotStop s1 i 3 3

/-- BLOCK_FORWARD: what has arrived and waits is committed, and the block that is due goes on to NEXT by one packet (R228). -/
def execBlockForward (index : Nat) (s : State) : Host.Outcome State Fault Refusal :=
  let s0 := (s.rot index).pend.foldl (fun s p => landBlock s index p) s
  let r := s0.rot index
  .next <|
    if 4 ≤ index || r.state != 1 || r.ring ≤ r.fwd + 1 || !(r.arrived r.fwd) || r.fnxt ≤ r.fwd + 1 then s0
    else if r.fault.any fun f => (faultOf s0 r.ctx f).isSome then s0
    else if unleased s0 r.ctx r.npath then rotStop s0 index 3 2
    else match seqPath s0 r.ctx r.npath r.nextc with
      | some path => forwardStep s0 index path
      | none => s0

/-! ### RACQ and RREL (R231, R232, R431, R442) -/

/-- %einfo of rotation fault (R232). -/
def rotInfo (i reason : Nat) : Word := fields [(i, 4), (reason, 0)]

/-- What RACQ comes to when its wait is over: what its thread was woken with, else what it finds (R231). -/
def racqNow (s : State) (t : Thread) (i : Nat) (inst k : Word) : Racq :=
  match t.reply with
  | some d => if d.cause != 0 then .fault d.cause else .done (BitVec.ofNat 32 (natOf (d.data.take 4))) (BitVec.ofNat 32 (natOf (d.data.drop 4)))
  | none => racqLook s (s.launchOfThread t).ctx i inst k
/-- RACQ (R231, R431). -/
def execRacq (d a b : Reg) (is : Issue) (s : State) : Host.Outcome State Fault Refusal :=
  threadOp s (some is) fun s t c =>
    endsScout s t <|
      let src := pairRegs a ++ [b.toNat]
      checked s t c (regChecks t c (!(Instr.wf (.racq d a b is))) (pairRegs d ++ src) src) <|
        let i := (t.val a).toNat % 4
        let inst := hiWord (t.pair a)
        match racqNow s t i inst (t.val b) with
        | .wait => waitIn s t (.racq i inst (t.val b))
        | .fault reason => takeTrap s t.uid 0x0D c.addr (rotInfo i reason) c.addr
        | .done w0 w1 => retire s (writeOut t c (some is) [(d.toNat, w0, false), (d.toNat + 1, w1, false)] false) c

/-- An earlier access of a thread is not placed yet: a remote request, a store to a host window or in the side log, an MST in an
Anvil's queue (R122, R442). -/
def unplaced (s : State) (t : Thread) : Bool :=
  (threadReqs s t.uid fun _ _ => true) != [] || hostPending s t ||
    s.cores.any fun (_, c) => c.anvil.any fun
      | .acc _ _ (.mst _ _ _ _ _ _ _ u _) => u == t.uid
      | _ => false
/-- RREL: a release is counted once every earlier access of the thread is placed (R122, R232, R442). -/
def execRrel (a b : Reg) (is : Issue) (s : State) : Host.Outcome State Fault Refusal :=
  threadOp s (some is) fun s t c =>
    let src := pairRegs a ++ [b.toNat]
    checked s t c (regChecks t c (!(Instr.wf (.rrel a b is))) src src) <|
      let i := (t.val a).toNat % 4
      let r := s.rot i
      let k := (t.val b).toNat
      let bad := fun reason => trapOr s t.uid 0x0D c.addr (rotInfo i reason) c.addr
      if t.unknown src then retire s t c
      else if r.state != 0 && r.ctx != (s.launchOfThread t).ctx then bad 5
      else if r.state != 1 || r.inst != hiWord (t.pair a) then skipsScout s t c (retire s t c)
      else if r.ring ≤ k then bad 1
      else if !(r.arrived k) then bad 3
      else if r.cons ≤ tget 0 r.rels k then bad 4
      else skipsScout s t c <|
        if unplaced s t then holdAt s t .aside
        else retire (settleRot (s.setRot i { r with rels := tset 0 r.rels k (tget 0 r.rels k + 1) }) i) t c

end Sys2Proof.Machine
end

