-- ==== Sys2Proof/Machine/Ports.lean ====
section
/-! DEFINITION. Optical ports: locking, training, HELLO, retraining, replay, leases and the switch controller's answers
(R10, R189-R198, R206, R213-R217). A flit reaches a port as its code has corrected it or as uncorrectable (R187, R188). -/
namespace Sys2Proof.Machine
open Sys2Proof

/-! ### Path changes (R127, R203, R206) -/

/-- A reply reaches the thread that waits for it, or the log slot of a scout that asked. -/
def deliver (s : State) (q : Req) (chip : Nat) (d : Delivery) : State :=
  let t := s.thread q.thread
  let key := (chip, q.packet.lane, q.packet.serial)
  if !(s.hasThread q.thread) then s
  else match t.scout with
    | some sc =>
      match sc.asked.find? (·.2 == key) with
      | none => s
      | some a =>
        if d.cause != 0 then s.setThread { t with reply := some d }
        else s.setThread { t with scout := some { sc with replies := sc.replies ++ [(a.1, d.data, d.pois)] } }
    | none => if t.hold == some (.remote key.1 key.2.1 key.2.2) then s.setThread { t with reply := some d } else s

/-- Take a request off its lane. -/
def dropReq (s : State) (l : SrcLane) (serial : Nat) : State :=
  let ln := srcLane s l.chip l.lane
  setSrcLane s { ln with reqs := ln.reqs.filter fun q => q.packet.serial != serial }
/-- A request ends refused (R129, R130). -/
def refuseReq (s : State) (l : SrcLane) (q : Req) (cause : Nat) : State :=
  let s1 := dropReq s l q.packet.serial
  if q.packet.typ == tSTORE || q.packet.typ == tRED then (if s1.hasThread q.thread then s1.setThread ((s1.thread q.thread).deferred cause l.chip) else s1) else deliver s1 q l.chip ⟨[], false, cause, l.chip⟩

/-- Send an outstanding request on a path; without a route it is refused (R201, R206). -/
def sendAgain (s : State) (l : SrcLane) (q : Req) (path : Nat) (count : Nat) : State :=
  if hasRoute s path l.chip then
    let ln := srcLane s l.chip l.lane
    let q1 := { q with path := path, resends := q.resends + count, sent := s.htime, busy := false, held := false }
    sendPacket (setSrcLane s { ln with reqs := ln.reqs.map fun x => if x.packet.serial == q.packet.serial then q1 else x }) path q.packet
  else refuseReq s l q 4
/-- Thread requests whose path has changed are sent again on the new one, with their serials (R206). -/
def rePath (s : State) : State :=
  s.lanes.foldl
    (fun s l =>
      if 64 ≤ l.lane then s
      else l.reqs.foldl (fun s q => let p := pathTo s q.packet.ctx l.chip; if p == q.path then s else sendAgain s l q p 0) s) s

/-! ### Changes of state (R194, R195) -/

/-- A port changes; the paths of threads and of their requests follow. -/
def putPort (s : State) (p : Nat) (t : Port) : State := rePath (notePaths (s.setPort p t))
/-- A port's transmit lasers are on (R187, R190, R194). -/
def PState.lasersOn : PState → Bool
  | .locking | .trained | .live => true
  | .dark | .fault => false
/-- A control flit on a port: its BODY begins with CTYPE (R191, R196). -/
def sendControl (s : State) (p : Nat) (body : List Byte) : State := s.send (.flit p (flitBytes 1 0 0 body))
/-- The BODY of a HELLO and of a RETRAIN (R196). -/
def helloBody (chip peer : Nat) (ltag : Word) (port : Nat) : List Byte :=
  bytesOf 1 4 ++ bytesOf chip 4 ++ bytesOf peer 4 ++ bytesOf ltag.toNat 4 ++ bytesOf port 4
def retrainBody : List Byte := bytesOf 2 4
/-- The dead marks of a port that leaves its state: they clear when it leaves LIVE (R190). -/
def Port.marks (t : Port) : BitVec 8 := if t.state == .live then 0 else t.dead
def Port.faulted (t : Port) (cause : Nat) : Port := { t with state := .fault, cause := cause, dead := t.marks, retrain := false, wlock := none }
def Port.darken (t : Port) : Port := { t with state := .dark, dead := t.marks, retrain := false, wlock := none }
/-- Entry into LOCKING: every wavelength has a new chance, and flits count their sendings anew (R195). -/
def Port.locking (t : Port) (now : Nat) (sending : Bool) : Port :=
  { t with state := .locking, retrain := sending, since := now, wlock := none, locked := 0, dead := 0
           replay := t.replay.map fun r => (r.1, r.2.1, min 1 r.2.2) }
/-- A retrain with its cause (R195). -/
def Port.retraining (t : Port) (now cause : Nat) (sending : Bool) : Port :=
  { t.locking now sending with cause := cause, ptrn := t.ptrn + 1 }
/-- The port that starts a retrain sends RETRAIN flits (R195, R196). -/
def startRetrain (s : State) (p cause : Nat) : State :=
  sendControl (putPort s p ((s.port p).retraining s.htime cause true)) p retrainBody

def Port.up (t : Port) : Bool := t.state == .trained || t.state == .live
/-- The wavelengths of a mask. -/
def lit (w : BitVec 8) : Nat := ((List.range 8).filter fun i => w.getLsbD i).length

/-- WAVELENGTH_LOCK: at least 7 wavelengths locked within 12 µs; the others are dead (R195). -/
def execWavelengthLock (port : Nat) (locked : BitVec 8) (s : State) : Host.Outcome State Fault Refusal :=
  let t := s.port port
  .next <|
    if t.state == .locking && !t.retrain && t.wlock.isNone && s.htime ≤ t.since + 12000 then
      let t1 := { t with locked := locked }
      s.setPort port (if 7 ≤ lit locked then { t1 with wlock := some s.htime, dead := ~~~locked } else t1)
    else s

/-- WAVELENGTH_DEAD: a wavelength is declared dead; a second one starts a retrain (R190, R195). -/
def execWavelengthDead (port w : Nat) (s : State) : Host.Outcome State Fault Refusal :=
  let t := s.port port
  .next <|
    if !t.up || 8 ≤ w || t.dead.getLsbD w then s
    else if t.dead == 0 then s.setPort port { t with dead := t.dead ||| (1#8 <<< w) }
    else startRetrain s port 8

/-- RETRAIN_RELOCK: after 200 ns of RETRAIN flits the port enters LOCKING again (R195). -/
def execRetrainRelock (port : Nat) (s : State) : Host.Outcome State Fault Refusal :=
  let t := s.port port
  .next (if t.state == .locking && t.retrain && t.since + 200 ≤ s.htime then s.setPort port (t.locking s.htime false) else s)

/-- PORT_LOCK_TIMEOUT (R195). -/
def execPortLockTimeout (port : Nat) (s : State) : Host.Outcome State Fault Refusal :=
  let t := s.port port
  .next (if t.state == .locking && !t.retrain && t.wlock.isNone && t.since + 12000 ≤ s.htime then putPort s port (t.faulted 4) else s)

/-- PORT_TRAINED (R195). -/
def execPortTrained (port : Nat) (s : State) : Host.Outcome State Fault Refusal :=
  let t := s.port port
  .next <| match t.wlock with
    | some w => if t.state == .locking && s.htime ≤ w + 6000 then s.setPort port { t with state := .trained, since := s.htime, wlock := none } else s
    | none => s

/-- PORT_TRAINING_TIMEOUT (R195). -/
def execPortTrainingTimeout (port : Nat) (s : State) : Host.Outcome State Fault Refusal :=
  let t := s.port port
  .next <| match t.wlock with
    | some w => if t.state == .locking && w + 6000 ≤ s.htime then putPort s port (t.faulted 5) else s
    | none => s

/-- HELLO_SEND (R196). -/
def execHelloSend (port : Nat) (s : State) : Host.Outcome State Fault Refusal :=
  let t := s.port port
  .next <|
    if t.state == .trained then sendControl s port (helloBody s.hub.chip t.peer t.ltag port) else s

/-- A HELLO matches the lease (R196). -/
def helloMatches (s : State) (t : Port) (self peer : Nat) (ltag : Word) : Bool :=
  self == t.peer && peer == s.hub.chip && ltag == t.ltag && self != s.hub.chip

/-- PORT_HELLO_TIMEOUT (R195). -/
def execPortHelloTimeout (port : Nat) (s : State) : Host.Outcome State Fault Refusal :=
  let t := s.port port
  .next (if t.state == .trained && t.since + 2000 ≤ s.htime then putPort s port (t.faulted 6) else s)

/-- LOSS_OF_LIGHT: the port goes DARK and keeps its lease (R195). -/
def execLossOfLight (port : Nat) (s : State) : Host.Outcome State Fault Refusal :=
  let t := s.port port
  .next (if t.up || t.state == .locking then putPort s port { t.darken with cause := 2 } else s)

/-- ENGINE_FAILURE: the engine's four ports go to FAULT (R10, R195). -/
def execEngineFailure (engine : Nat) (s : State) : Host.Outcome State Fault Refusal :=
  .next <|
    if 12 ≤ engine then s
    else (List.range 4).foldl (fun s i => let p := 4 * engine + i; putPort s p ((s.port p).faulted 11))
      { s with hub := { s.hub with engines := nins s.hub.engines engine } }

/-! ### Acknowledgement and replay (R192, R193) -/

/-- A comes no later than b among sequence numbers modulo 2^24. -/
def seqLe (a b : Nat) : Bool := (b + 2 ^ 24 - a) % 2 ^ 24 < 2 ^ 23
/-- Flits up to ASEQ are acknowledged. -/
def ackFlits (s : State) (p aseq : Nat) : State :=
  let t := s.port p
  pump (s.setPort p { t with replay := t.replay.filter (fun r => !(seqLe r.1 aseq)), replayed := t.replayed.filter fun n => !(seqLe n aseq) }) p

/-- The copies that have a chunk sent and not acknowledged on a port suspend at their cursors (R166, R193). -/
def pauseCopies (s : State) (p : Nat) : State :=
  (lockHolders s).foldl
    (fun s (n, i, c) => if c.phase == .running && c.flight == some p then setCopy s n i { c with phase := .paused, flight := none } else s) s

/-- A replay request: the kept flits from ASEQ on are sent again in order; one already sent 9 times starts a retrain. -/
def replayFrom (s : State) (p aseq : Nat) : State :=
  let t := s.port p
  let again := fun r : Nat × List Byte × Nat => seqLe aseq r.1
  if t.state != .live then s
  else if t.replay.any fun r => again r && 9 ≤ r.2.2 then startRetrain s p 9
  else
    let s1 := s.setPort p { t with prpl := t.prpl + 1, replay := t.replay.map (fun r => if again r then (r.1, r.2.1, r.2.2 + 1) else r)
                                   replayed := (t.replay.filter again).getLast?.map (·.1) }
    pauseCopies ((t.replay.filter again).foldl (fun s r => s.send (.flit p (flitBytes 2 r.1 0 r.2.1))) s1) p

/-- NAK (R192, R193). -/
def execNak (port aseq : Nat) (s : State) : Host.Outcome State Fault Refusal := .next (replayFrom s port (aseq % 2 ^ 24))

/-- The acknowledgement word of a flit is applied (R191, R192). -/
def applyAck (s : State) (p ackw : Nat) : State :=
  if bits ackw 31 1 == 0 then s else if bits ackw 30 1 == 0 then ackFlits s p (bits ackw 0 24) else replayFrom s p (bits ackw 0 24)
/-- The word of a flit at an offset; its CRC checks (R191). -/
def flitWord (l : List Byte) (o : Nat) : Nat := natOf ((l.drop o).take 4)
def flitOk (l : List Byte) : Bool := l.length == 256 && crc32 (l.take 252) == flitWord l 252

/-- What the code found while a flit came adds to PCORR and PUNC (R189). -/
def countCode (s : State) (p : Nat) (c : FlitCode) : State :=
  let t := s.port p
  s.setPort p { t with pcorr := t.pcorr + BitVec.ofNat 64 c.fixed, punc := t.punc + BitVec.ofNat 32 c.lost }
/-- A flit of a kind that touches no uncorrectable codeword and whose CRC checks (R191, R192). -/
def flitGood (kind : Nat) (bytes : List Byte) (c : FlitCode) : Bool := !c.touched && flitOk bytes && bits (flitWord bytes 0) 28 4 == kind
/-- A control flit reaches a port in TRAINED or LIVE: a corrupt one, and one of another CTYPE, is discarded; else its
acknowledgement fields are applied, and it acts (R191, R192, R196). -/
def controlIn (s : State) (p ctype : Nat) (bytes : List Byte) (c : FlitCode) (act : State → State) : State :=
  if !((s.port p).up) then s
  else
    let s1 := countCode s p c
    if flitGood 1 bytes c && flitWord bytes 8 == ctype then act (applyAck s1 p (flitWord bytes 4)) else s1

/-- What a HELLO does: it is recorded, and in TRAINED it brings the port to LIVE or to FAULT (R195, R196). -/
def helloIn (port : Nat) (bytes : List Byte) (s : State) : State :=
  let t := { s.port port with ppeer := bits (flitWord bytes 0x18) 0 6 }
  if t.state == .trained then
    if helloMatches s t (bits (flitWord bytes 0x0C) 0 21) (bits (flitWord bytes 0x10) 0 21) (BitVec.ofNat 32 (flitWord bytes 0x14)) then
      if s.htime ≤ t.since + 2000 then pump (putPort s port { t with state := .live }) port else s.setPort port t
    else putPort s port (t.faulted 7)
  else s.setPort port t
/-- HELLO (R195, R196). -/
def execHello (port : Nat) (bytes : List Byte) (fixed lost : Nat) (touched : Bool) (s : State) : Host.Outcome State Fault Refusal :=
  .next (controlIn s port 1 bytes ⟨fixed, lost, touched⟩ (helloIn port bytes))
/-- RETRAIN: the other end retrains (R195, R196). -/
def execRetrain (arrived : PortFlit) (s : State) : Host.Outcome State Fault Refusal :=
  let ⟨port, bytes, code⟩ := arrived
  .next (controlIn s port 2 bytes code fun s => putPort s port ((s.port port).retraining s.htime 10 false))

/-- IDLE_FLIT: a received idle flit's acknowledgement fields are applied; a corrupt one is discarded (R189, R191, R192). -/
def execIdleFlit (port : Nat) (flit : FlitIn) (s : State) : Host.Outcome State Fault Refusal :=
  .next <|
    if (s.port port).state != .live then s
    else
      let s1 := countCode s port flit.code
      if flitGood 0 flit.bytes flit.code then applyAck s1 port (flitWord flit.bytes 4) else s1

/-- An idle flit with acknowledgement fields. -/
def sendIdle (s : State) (p : Nat) (nak : Bool) (aseq : Nat) : State := s.send (.flit p (flitBytes 0 0 (2 ^ 31 + one nak * 2 ^ 30 + aseq % 2 ^ 24) []))
/-- ACK_REPORT (R192). -/
def execAckReport (port : Nat) (s : State) : Host.Outcome State Fault Refusal :=
  let t := s.port port
  .next (if t.state == .live then sendIdle s port false (t.rxseq + 2 ^ 24 - 1) else s)
/-- NAK_REPEAT: receivers that still miss the expected flit ask again (R192). -/
def execNakRepeat (s : State) : Host.Outcome State Fault Refusal :=
  .next ((List.range 48).foldl (fun s p => let t := s.port p; if t.state == .live && t.nakOut then sendIdle s p true t.rxseq else s) s)
/-- REPLAY_LIMIT: a flit sent 9 times without acknowledgement starts a retrain (R192, R195). -/
def execReplayLimit (port : Nat) (s : State) : Host.Outcome State Fault Refusal :=
  let t := s.port port
  .next (if t.state == .live && t.replay.any (9 ≤ ·.2.2) then startRetrain s port 9 else s)

/-! ### Leases (R195, R198, R213-R217) -/

/-- Release a lease of a context at the switch controller (R198). -/
def sendRelease (s : State) (ctx p : Nat) (tag : Word) : State := sendSwitch s ctx tSWREL (bytesOf p 4 ++ bytesOf tag.toNat 4)

/-- A lease ends with a cause: lasers off, SWREL sent, and the context's work on the port ends (R169, R195, R198, R217). -/
def endLease (s : State) (p cause : Nat) : State :=
  let t := s.port p
  if !t.leased then s
  else
    let t1 := if t.state == .fault && t.cause == 11 then t
      else if t.state == .fault || t.state == .dark then t.darken
      else { t.darken with cause := cause }
    let s1 := putPort s p { t1 with leased := false, ctx := 0, peer := 0, swport := 0, lend := 0, ltag := 0 }
    endCopiesOn (endWorkOn (sendRelease s1 t.ctx p t.ltag) t.ctx p) t.ctx p

/-- LEASE_END (R195, R198). -/
def execLeaseEnd (port : Nat) (s : State) : Host.Outcome State Fault Refusal :=
  let t := s.port port
  .next (if t.leased && t.lend ≤ s.htime then endLease s port 3 else s)

/-- The port whose pending request has a number, that holds a lease of a tag, that has a request cancelled. -/
def requestOf (s : State) (n : Word) : Option Nat := (List.range 48).find? fun p => (s.port p).request.any fun r => r.2.1 == n
def leaseOf (s : State) (tag : Word) : Option Nat := (List.range 48).find? fun p => let t := s.port p; t.leased && t.ltag == tag
def cancelledOf (s : State) (n : Word) : Option Nat := (List.range 48).find? fun p => (s.port p).cancelled.any (·.1 == n)

/-- A grant: a new lease, or the renewal of the one held when it carries its tag (R198, R213, R214). -/
def Port.granted (t : Port) (now : Nat) (r : Nat × Word × Nat × Word × Nat) (tag : Word) : Port :=
  let (ctx, _, peer, swport, len) := r
  let t1 := { t with request := none }
  if t.leased then (if tag == t.ltag then { t1 with lend := now + len * 1000 } else { t1 with refused := true })
  else { t1 with leased := true, ctx := ctx, peer := peer, swport := swport, lend := now + len * 1000, ltag := tag
                 txseq := 0, replay := [], replayed := none, queue := [], rxseq := 0, nakOut := false, rxpart := [] }

/-- A number whose request was cancelled is answered once; a grant of it is released at once, and any other answer matches no
request and is dropped (R198, R216). -/
def cancelledReply (s : State) (n : Word) (grant : Bool) (tag : Word) : State :=
  match cancelledOf s n with
  | some p =>
    let l := (s.port p).cancelled
    let s1 := s.setPort p { s.port p with cancelled := l.eraseP (·.1 == n) }
    if grant then sendRelease s1 (((l.find? (·.1 == n)).map (·.2)).getD 0) p tag else dropPacket s1
  | none => dropPacket s

/-- SWREP: granted, path set, refused, revoked (R195, R198, R213, R214, R216). -/
def switchReply (s : State) (p : Packet) : State :=
  let w := fun o => BitVec.ofNat 32 (natOf ((p.data.drop o).take 4))
  let n := w 4
  let tag := w 8
  if p.data.length < 12 then dropPacket s
  else match natOf (p.data.take 1) with
    | 1 => match requestOf s n with
      | some q => putPort s q ((s.port q).granted s.htime ((s.port q).request.getD (0, 0, 0, 0, 0)) tag)
      | none => cancelledReply s n true tag
    | 2 => match leaseOf s tag with
      | some q => if (s.port q).state == .dark then s.setPort q ((s.port q).locking s.htime false) else s
      | none => dropPacket s
    | 3 => match requestOf s n with
      | some q => s.setPort q { s.port q with request := none, refused := true }
      | none => cancelledReply s n false tag
    | 4 => match leaseOf s tag with
      | some q => endLease s q 3
      | none => dropPacket s
    | _ => dropPacket s

/-- The event that a switch controller's reply has come (R198). -/
def execSwrep (p : Packet) (s : State) : Host.Outcome State Fault Refusal := .next (switchReply s p)

end Sys2Proof.Machine
end

