-- ==== Sys2Proof/Machine/Packets.lean ====
section
/-! DEFINITION. Packets: requests of other chips, their admission and answers, answers to this chip's requests, resends,
remote copy chunks, forwarding, frames and data flits (R127-R130, R167, R191, R192, R199-R206, R235). -/
namespace Sys2Proof.Machine
open Sys2Proof

/-! ### Answers (R201, R202, R204) -/

/-- A packet that answers another, to a chip. -/
def answerTo (s : State) (p : Packet) (typ serial : Nat) (data : List Byte) (pmask : Nat) : Packet :=
  { typ := typ, op := 0, ttl := 16, lane := p.lane, ctx := p.ctx, src := s.hub.chip, dst := p.src, serial := serial, pmask := pmask
    off := p.off, va := p.va, data := data }
/-- Send an answer on the path to its chip; without a route it is dropped. -/
def sendAnswer (s : State) (q : Packet) : State := sendPacket s (pathTo s q.ctx q.dst) q
/-- The payload of REFUSE: its cause and the refused packet's TYPE (R202). -/
def refusal (s : State) (p : Packet) (cause : Nat) : Packet := answerTo s p tREFUSE p.serial (bytesOf (p.typ * 256 + cause) 4) 0

/-! ### Lanes at the target (R204, R205) -/

/-- A lane of a chip at the target; a new one expects the serial of its first request. -/
def tgtLane (s : State) (chip lane serial : Nat) : TgtLane :=
  (s.served.find? fun l => l.chip == chip && l.lane == lane).getD ⟨chip, lane, serial, [], [], none⟩
def setTgtLane (s : State) (l : TgtLane) : State :=
  { s with served := s.served.filter (fun m => !(m.chip == l.chip && m.lane == l.lane)) ++ [l] }
/-- A number comes before another modulo 2^32. -/
def serialLt (a b : Nat) : Bool := a != b && (b + 2 ^ 32 - a) % 2 ^ 32 < 2 ^ 31

/-- Bytes a request reads or writes, and whether it writes. -/
def reqSize (p : Packet) : Nat := 2 ^ (p.op / 8)
def reqWrites (p : Packet) : Bool := p.typ != tLOAD

/-- How a request is admitted: performed, refused with a cause, held for a fault of a kind and level, or waiting for a
lock, a bias flip or the step of coherence (R107, R108, R117, R205). -/
inductive Admit where
  | go
  | refuse (cause : Nat)
  | fault (kind level : Nat)
  | wait
  deriving DecidableEq, Repr

/-- Admission of a request (R205). -/
def admission (s : State) (p : Packet) : State × Admit :=
  let phys := s.hub.chip * 2 ^ 47 + p.off
  let page := p.va / 65536
  if !(isMemory s p.off && isMemory s (p.off + (reqSize p) - 1)) then (s, .refuse 2)
  else if (s.ctx p.ctx).root == 0 then (s, .refuse 3)
  else if logged s p.ctx page != [] then (s, .fault 0 0)
  else match walk s p.ctx p.va with
    | .bad kind level pois => (walkCheck s 0 pois, .fault kind level)
    | .leaf f level w =>
      if (leafXlate p.ctx p.va f level w).phys p.va / 65536 != phys / 65536 then (s, .fault 2 level)
      else if (reqWrites p) && !w then (s, .fault 1 level)
      else match agentWaits s p.off (reqSize p) (reqWrites p) with
        | (s1, true) => (s1, .wait)
        | (s1, false) => (s1, .go)

/-- Perform an admitted request: the new state, and its answer's data with PMASK; an atomic on poisoned memory, at which its
thread will trap, changes nothing (R202, R269, R270). -/
def performReq (s : State) (p : Packet) : State × List Byte × Nat :=
  let n := (reqSize p)
  let s0 := if hostBias s p.off then s else touchL2 s p.off .normal
  if p.typ == tSTORE then (s0.write p.off (p.data.take n) (p.pmask != 0), [], 0)
  else
    let (s1, b, bad) := s0.read p.off n
    let mask := if bad then 2 ^ min 16 n - 1 else 0
    if p.typ == tLOAD || (p.typ == tATOM && bad) then (s1, b, mask)
    else match rmwNew n (p.op % 8) (natOf b) p.data with
      | some v => (s1.write p.off (bytesOf v n) bad, b, mask)
      | none => (s1, b, mask)

/-- The chip's last acknowledgement is now (R204). -/
def noteAck (s : State) (chip : Nat) : State := { s with chips := tset 0 s.chips chip (s.htime + 1) }

/-- A request leaves the head of its lane with its answer; what a load or an atomic returns, and a refusal, is kept. -/
def answered (s : State) (p q : Packet) : State :=
  let l := tgtLane s p.src p.lane p.serial
  let kept := if q.typ == tACK then l.kept.filter fun k => !(serialLt k.1 p.serial) else l.kept ++ [(p.serial, q)]
  sendAnswer (noteAck (setTgtLane s { l with want := (p.serial + 1) % 2 ^ 32, held := none, kept := kept
                                             early := l.early.filter fun e => e.serial != p.serial }) p.src) q

/-- Serve the head request of a lane: perform and answer it, refuse it, hold it for a fault, or leave it waiting. True
when the next one may follow. -/
def serveHead (s : State) (p : Packet) : State × Bool :=
  match admission s p with
  | (s1, .go) =>
    let (s2, b, mask) := performReq s1 p
    (answered s2 p (if p.typ == tLOAD || p.typ == tATOM then answerTo s2 p tREPLY p.serial b mask else answerTo s2 p tACK p.serial [] 0), true)
  | (s1, .refuse cause) => (answered s1 p (refusal s1 p cause), true)
  | (s1, .fault kind level) =>
    let s2 := demandFault s1 p.ctx (pageVa (p.va / 65536) + BitVec.ofNat 64 (p.va % 65536)) 5 kind level
      (one (reqWrites p) + 2 * one (p.typ == tATOM || p.typ == tRED)) (BitVec.ofNat 32 p.src) 0
    let l := tgtLane s2 p.src p.lane p.serial
    (sendAnswer (setTgtLane s2 { l with held := some (p, s2.htime), early := l.early.filter fun e => e.serial != p.serial })
      (answerTo s2 p tHOLD p.serial [] 0), false)
  | (s1, .wait) => (s1, false)

/-- Serve a lane's requests in serial order as far as they have come (R204). -/
def serveLane : Nat → State → Nat → Nat → State
  | 0, s, _, _ => s
  | f + 1, s, chip, lane =>
    let l := tgtLane s chip lane 0
    if l.held.isSome then s
    else match l.early.find? fun e => e.serial == l.want with
      | none => s
      | some p => match serveHead s p with
        | (s1, true) => serveLane f s1 chip lane
        | (s1, false) => s1

/-- The fields of a COMMIT: core, tag, issue serial, chunk (R167; layout: log entry 14). -/
def commitField (p : Packet) (o n : Nat) : Nat := natOf ((p.data.drop o).take n)
/-- The copy that a COMMIT belongs to: chip, core, tag, issue serial (R167). -/
def commitKey (p : Packet) : Nat × Nat × Nat × Nat := (p.src, commitField p 0 4, commitField p 4 4, commitField p 8 4)
/-- A lock of the copy's destination covers bytes of this chip. -/
def FarLock.covers (f : FarLock) (p : Packet) (y : Staged) : Bool :=
  f.key == commitKey p && f.dst && f.off ≤ y.off && y.off + y.data.length ≤ f.off + f.len
/-- The bytes of a chunk commit at once, under the copy's own lock, without which they wait: its chunks are one event here, since
no other agent reaches the lines in between (R117, R163, R167, R168; log entry 136). -/
def commitNow (s : State) (p : Packet) (pieces : List Staged) : State × Bool :=
  let own := fun f : FarLock => f.key == commitKey p
  let bare := pieces.any fun y => !(s.farLocks.any fun f => f.covers p y)
  let (s1, held) := pieces.foldl
    (fun (x : State × Bool) y => if x.2 then x else agentHeld x.1 y.off y.data.length true) ({ s with farLocks := s.farLocks.filter fun f => !(own f) }, bare)
  let s2 := { s1 with farLocks := s.farLocks }
  if held then (s2, false)
  else match cohere s2 (pieces.map (·.off)) with
    | (s3, false) => (s3, false)
    | (s3, true) =>
      (pieces.foldl
        (fun s x =>
          let s1 := hubWrite s [(x.off, x.data.length)] (markedBytes { p with data := x.data, pmask := x.pmask })
          if hostBias s x.off then s1 else touchL2 s1 x.off .normal) s3, true)
/-- A COMMIT: a chunk above the highest committed one commits its bytes, and a repeated one is discarded; either is answered
with an ACK that carries its fields (R167, R168; log entry 50). It waits where a write waits (R117) and for the copy's lock. -/
def commitStep (s : State) (p : Packet) : State × Bool :=
  let key := commitKey p
  let chunk := commitField p 12 8
  let here := fun x : Staged => x.chip == p.src && x.serial == commitField p 8 4
  let mine := s.staged.filter fun x => here x && isMemory s x.off && isMemory s (x.off + x.data.length - 1)
  let clear := fun s : State => { s with staged := s.staged.filter fun x => !(here x) }
  let ack := fun s : State => sendAnswer s (answerTo s p tACK p.serial p.data 0)
  if s.commits.any fun x => x.1 == key && chunk ≤ x.2 then (ack (clear s), true)
  else match commitNow s p mine with
    | (s1, false) => (s1, false)
    | (s1, true) => let s2 := clear s1; (ack { s2 with commits := s2.commits.filter (fun x => x.1 != key) ++ [(key, chunk)] }, true)
/-- The COMMITs that waited are looked at again, in the order of their coming. -/
def flushCommits (s : State) : State :=
  s.commitq.foldl (fun s p => match commitStep s p with | (s1, true) => s1 | (s1, false) => { s1 with commitq := s1.commitq ++ [p] }) { s with commitq := [] }

/-- The requests and COMMITs that waited are looked at again. -/
def serveLanes (s : State) : State := flushCommits (s.served.foldl (fun s l => serveLane (l.early.length + 1) s l.chip l.lane) s)

/-- A request arrives: BUSY when its chip cannot be tracked; a performed one is answered again, an early one is kept, the
expected one is served and those behind it follow (R204). -/
def requestIn (p : Packet) (s : State) : State :=
  let known := s.chips.any (·.1 == p.src)
  if !known && 16384 ≤ s.chips.length then sendAnswer s (answerTo s p tBUSY p.serial [] 0)
  else
    let s0 := if known then s else noteAck s p.src
    let l := tgtLane s0 p.src p.lane p.serial
    if serialLt p.serial l.want then
      match l.kept.find? (·.1 == p.serial) with
      | some k => sendAnswer s0 k.2
      | none => sendAnswer s0 (answerTo s0 p tACK ((l.want + 2 ^ 32 - 1) % 2 ^ 32) [] 0)
    else if l.held.any (fun h => h.1.serial == p.serial) then sendAnswer s0 (answerTo s0 p tHOLD p.serial [] 0)
    else
      let l1 := if l.early.any fun e => e.serial == p.serial then l else { l with early := l.early ++ [p] }
      serveLane (l1.early.length + 1) (setTgtLane s0 l1) p.src p.lane

/-- A held request ends: refused with a cause, or looked at again after its fault was served; its lane goes on (R129, R205). -/
def endHold (s : State) (l : TgtLane) (cause : Option Nat) : State :=
  match l.held with
  | none => s
  | some (p, _) =>
    let s1 := match cause with
      | some c => answered s p (refusal s p c)
      | none => setTgtLane s { l with held := none, early := p :: l.early }
    serveLane (l.early.length + 2) s1 l.chip l.lane

/-- STORE (R204). -/
def execStore (p : Packet) (s : State) : Host.Outcome State Fault Refusal := .next (requestIn { p with typ := tSTORE } s)
/-- RED (R204). -/
def execRedPacket (p : Packet) (s : State) : Host.Outcome State Fault Refusal := .next (requestIn { p with typ := tRED } s)
/-- LOAD (R204). -/
def execLoad (p : Packet) (s : State) : Host.Outcome State Fault Refusal := .next (requestIn { p with typ := tLOAD } s)
/-- ATOM (R204). -/
def execAtomPacket (p : Packet) (s : State) : Host.Outcome State Fault Refusal := .next (requestIn { p with typ := tATOM } s)

/-- REMOTE_HOLD_EXPIRE: requests held 50 µs without service are refused (R129, R205). -/
def execRemoteHoldExpire (s : State) : Host.Outcome State Fault Refusal :=
  .next (s.served.foldl
    (fun s l => if l.held.any fun h => h.2 + 50000 ≤ s.htime then endHold s (tgtLane s l.chip l.lane 0) (some 1) else s) s)

/-- SOURCE_ENTRY_EXPIRE: chips whose last request was acknowledged 1 ms ago are tracked no longer (R204). -/
def execSourceEntryExpire (s : State) : Host.Outcome State Fault Refusal :=
  let gone := (s.chips.filter fun (c, at_) =>
    at_ + 1000000 ≤ s.htime + 1 && s.served.all fun l => l.chip != c || (l.held.isNone && l.early == [])).map (·.1)
  .next { s with chips := s.chips.filter (fun x => !(gone.contains x.1)), served := s.served.filter fun l => !(gone.contains l.chip) }

/-! ### Answers at the source (R128-R130, R204) -/

/-- The outstanding request of a lane with a serial. -/
def reqOf (s : State) (chip lane serial : Nat) : Option Req := (srcLane s chip lane).reqs.find? fun q => q.packet.serial == serial

/-- REPLY (R202). -/
def replyIn (p : Packet) (s : State) : State :=
  match reqOf s p.src p.lane p.serial with
  | some q =>
    if q.packet.typ == tLOAD || q.packet.typ == tATOM then
      deliver (dropReq s (srcLane s p.src p.lane) p.serial) q p.src ⟨p.data, p.pmask != 0, 0, p.src⟩
    else s
  | none => s
def execReply (p : Packet) (s : State) : Host.Outcome State Fault Refusal := .next (replyIn p s)

/-- ACK: stores and REDs of the lane up to the serial are performed; one that carries a COMMIT's fields says that its chunk has
committed (R168, R204; log entry 50). -/
def ackIn (p : Packet) (s : State) : State :=
  let l := srcLane s p.src p.lane
  if p.data.length == 20 then chunkAcked s (commitField p 0 4) (commitField p 4 4) (commitField p 8 4) (commitField p 12 8)
  else if l.reqs == [] then s
  else
    let open_ := fun q : Req => serialLt p.serial q.packet.serial || q.packet.typ == tLOAD || q.packet.typ == tATOM
    setSrcLane s { l with reqs := l.reqs.filter open_ }
def execAck (p : Packet) (s : State) : Host.Outcome State Fault Refusal := .next (ackIn p s)

/-- Change an outstanding request. -/
def noteReq (s : State) (chip lane serial : Nat) (f : Req → Req) : State :=
  let l := srcLane s chip lane
  if l.reqs == [] then s else setSrcLane s { l with reqs := l.reqs.map fun q => if q.packet.serial == serial then f q else q }

/-- HOLD (R204). -/
def holdIn (p : Packet) (s : State) : State := noteReq s p.src p.lane p.serial fun q => { q with held := true, sent := s.htime }
def execHold (p : Packet) (s : State) : Host.Outcome State Fault Refusal := .next (holdIn p s)
/-- BUSY (R204). -/
def busyIn (p : Packet) (s : State) : State := noteReq s p.src p.lane p.serial fun q => { q with busy := true, sent := s.htime }
def execBusy (p : Packet) (s : State) : Host.Outcome State Fault Refusal := .next (busyIn p s)

/-- The graph run or rotation that a packet belongs to ends with NO_ROUTE, if it still runs (R224, R233, R235). -/
def endAsker (s : State) (who : Nat) : State :=
  if who < graphAsker 8 then runEnd s (who - graphAsker 0) 4
  else match (List.range 4).find? fun i => rotAsker s i == who with
    | some i => rotStop s i 3 4
    | none => s
/-- A refused Bellows packet: one that is kept names its owner; else it is a credit or an acknowledgement, of the rotation of
its INST or of the receive of its MATCH (R235; log entry 135). -/
def bellowsRefused (s : State) (p : Packet) : State :=
  let named := fun q : Req => q.packet.serial == p.serial && q.packet.ctx == p.ctx && q.packet.va == p.va
  match (s.lanes.filter fun l => 64 ≤ l.lane).findSome? fun l => l.reqs.find? named with
  | some q => endAsker s q.thread
  | none =>
    match (List.range 4).find? fun i => let r := s.rot i; r.state == 1 && r.ctx == p.ctx && r.inst.toNat == vaHi p with
    | some i => rotStop s i 3 4
    | none =>
      match (List.range 8).find? fun g =>
          let x := s.graph g
          x.state == 2 && x.ctx == p.ctx && x.run.toNat == vaLo p && x.ops.any fun o => (o.kind == 2 || o.kind == 3) && o.mtch.toNat == vaHi p with
      | some g => runEnd s g 4
      | none => s

/-- A copy whose packet the other chip or a forwarder refused ends: REMOTE, whatever the cause (R161; log entry 52). -/
def endRemoteCopy (s : State) (p : Packet) : State :=
  (lockHolders s).foldl
    (fun s (n, i, c) =>
      let va : Int := (BitVec.ofNat 57 p.va).toInt
      if !c.over && c.ctx == p.ctx && c.serial % 2 ^ 32 == p.serial && (vaKey c.dst == p.va || (c.dstRange.1 ≤ va && va ≤ c.dstRange.2)) then
        endCopy (setCopy s n i { c with flight := none }) n i 10
      else s) s

/-- The lane and request that a REFUSE names: of the chip it comes from, else, when a forwarder sent it, of any. -/
def refusedReq (s : State) (p : Packet) (typ : Nat) : Option (SrcLane × Req) :=
  let named := fun q : Req => q.packet.serial == p.serial && q.packet.typ == typ && q.packet.ctx == p.ctx && q.packet.va == p.va
  let ls := s.lanes.filter fun l => l.lane == p.lane
  match ls.find? fun l => l.chip == p.src && l.reqs.any named with
  | some l => (l.reqs.find? named).map fun q => (l, q)
  | none => (ls.find? fun l => l.reqs.any named).bind fun l => (l.reqs.find? named).map fun q => (l, q)

/-- REFUSE (R202, R204, R235). -/
def refuseIn (p : Packet) (s : State) : State :=
  let w := natOf (p.data.take 4)
  let typ := bits w 8 8
  if typ == tBELLOWS then bellowsRefused s p
  else if typ == tCHUNK || typ == tCOMMIT then endRemoteCopy s p
  else match refusedReq s p typ with
    | some (l, q) => refuseReq s l q (bits w 0 3)
    | none => s
def execRefuse (p : Packet) (s : State) : Host.Outcome State Fault Refusal := .next (refuseIn p s)

/-! ### Resends (R204, R235) -/

/-- The path on which a Bellows packet is sent again: its own, or, off a port that is not LIVE, the one a hub-chosen path
now takes (R203, R224). -/
def againPath (s : State) (q : Req) (chip : Nat) : Option Nat :=
  let ctx := q.packet.ctx
  let chosen := (s.graphs.any fun (_, g) => g.ctx == ctx && (g.ops.zip g.runs).any fun (o, _) => o.path == 0x42 && o.peer == chip && o.mtch.toNat == vaHi q.packet) ||
    s.rots.any fun (_, r) => r.ctx == ctx && r.npath == 0x42 && r.inst.toNat == vaHi q.packet
  if q.path < 48 && !((s.port q.path).state == .live && (s.port q.path).peer == chip) then (if chosen then some (pathTo s ctx chip) else none)
  else some q.path

/-- REQUEST_RESEND: an unanswered packet whose time has come is sent again; after 8 resends it is refused (R204, R235). -/
def execRequestResend (chip lane serial : Nat) (s : State) : Host.Outcome State Fault Refusal :=
  let l := srcLane s chip lane
  .next <| match reqOf s chip lane serial with
    | none => s
    | some q =>
      let time := if q.busy then 2000 else if q.held then 60000 else 20000
      if s.htime < q.sent + time then s
      else if lane < 64 then
        if 8 ≤ q.resends && !q.busy then refuseReq s l q 4 else sendAgain s l q (pathTo s q.packet.ctx chip) (one (!q.busy))
      else if 8 ≤ q.resends && q.packet.op != 2 then endAsker (dropReq s l serial) q.thread
      else match againPath s q chip with
        | none => s
        | some path =>
          if hasRoute s path chip then sendAgain s l q path 1 else endAsker (dropReq s l serial) q.thread

/-! ### Remote copy chunks (R167, R202) -/

/-- CHUNK: the bytes are kept until the chunk's commit (R167). -/
def chunkIn (p : Packet) (s : State) : State := { s with staged := s.staged ++ [⟨p.src, p.serial, p.off, p.data, p.pmask⟩] }
def execChunk (p : Packet) (s : State) : Host.Outcome State Fault Refusal := .next (chunkIn p s)

/-- COMMIT (R167, R202). -/
def commitIn (p : Packet) (s : State) : State :=
  match commitStep s p with
  | (s1, true) => s1
  | (s1, false) => { s1 with commitq := s1.commitq ++ [p] }
def execCommit (p : Packet) (s : State) : Host.Outcome State Fault Refusal := .next (commitIn p s)

/-! ### Arrival, forwarding and frames (R199-R202) -/

/-- A known TYPE. -/
def knownType (t : Nat) : Bool := (1 ≤ t && t ≤ 9) || t == tCHUNK || t == tCOMMIT || t == tBELLOWS || (tSWREQ ≤ t && t ≤ tSWREL)
/-- A type whose drop by a forwarder is answered with REFUSE (R201). -/
def refusable (t : Nat) : Bool := (1 ≤ t && t ≤ 4) || t == tCHUNK || t == tCOMMIT || t == tBELLOWS

/-- A packet for another chip goes on with TTL reduced, or is dropped (R201). -/
def forwardPacket (s : State) (p : Packet) : State :=
  match route s p.dst with
  | some (q, next) => if 1 < p.ttl then sendFrame s q (macOf next q) { p with ttl := p.ttl - 1 } else dropped
  | none => dropped
where dropped : State :=
  let s1 := dropPacket s
  if refusable p.typ then sendAnswer s1 (refusal s1 p 4) else s1

/-- What a packet for this chip does. -/
def packetIn (s : State) (p : Packet) : State :=
  match p.typ with
  | 0x01 | 0x02 | 0x03 | 0x04 => requestIn p s
  | 0x05 => replyIn p s
  | 0x06 => ackIn p s
  | 0x07 => holdIn p s
  | 0x08 => refuseIn p s
  | 0x09 => busyIn p s
  | 0x10 => chunkIn p s
  | 0x11 => commitIn p s
  | 0x18 =>
    match p.op with
    | 1 => dataIn p s
    | 2 => clearIn p s
    | 3 => blockIn p s
    | 4 => creditIn p s
    | 5 => backIn p s
    | _ => dropPacket s
  | 0x21 => switchReply s p
  | _ => dropPacket s

/-- A packet arrives at the hub; an unknown TYPE or a non-zero reserved field drops it (R201, R202). -/
def arrive (s : State) (p : Packet) (clean : Bool) : State :=
  let s0 := serveLanes s
  if !clean || !(knownType p.typ) then dropPacket s0
  else if p.typ < tSWREQ && p.dst != s0.hub.chip then forwardPacket s0 p
  else packetIn s0 p

/-- The frame's checks: length, FCS, destination, EtherType (R199). -/
def frameOk (s : State) (q : Nat) (l : List Byte) : Bool :=
  let n := l.length
  let big := fun o k => natOf ((l.drop o).take k).reverse
  64 ≤ n && n ≤ 306 && crc32 (l.take (n - 4)) == natOf (l.drop (n - 4)) && big 0 6 == macOf s.hub.chip q &&
    big 12 2 == s.hub.plet.toNat % 65536 && big 12 2 != 0x8100 && big 12 2 != 0x8808

/-- FRAME_RECEIVE (R199, R201). -/
def execFrameReceive (q : Nat) (bytes : List Byte) (s : State) : Host.Outcome State Fault Refusal :=
  .next <|
    if 2 ≤ q || !(frameOk s q bytes) then dropPacket s
    else match parsePacket ((bytes.take (bytes.length - 4)).drop 14) with
      | some (p, _, ok) => arrive s p ok
      | none => dropPacket s

/-! ### Data flits (R189, R191, R192) -/

/-- The whole packets at the head of a packet stream and what remains; zeros to the end of a body are fill, but for at most
three, with which a packet may begin (R191; log entry 12). -/
def takePackets : Nat → List Byte → List (Packet × Bool) × List Byte
  | 0, l => ([], l)
  | f + 1, l =>
    if l.all (· == 0) then ([], if l.length ≤ 3 then l else [])
    else match parsePacket l with
      | some (p, rest, ok) => let (ps, r) := takePackets f rest; ((p, ok) :: ps, r)
      | none => ([], l)

/-- The header of a packet of a known TYPE with zero reserved fields and a TTL stands at the head; the rest of the packet may lie
in later bodies. -/
def startsPacket (l : List Byte) : Bool :=
  match parsePacket (l ++ List.replicate 256 0) with | some (p, _, ok) => ok && knownType p.typ && p.ttl != 0 | none => false
/-- What the last body left over and a body: zeros left over begin a packet, unless only the body alone does (log entry 12). -/
def joinBody (part body : List Byte) : List Byte :=
  if part.all (· == 0) && (startsPacket body || body.all (· == 0)) && !(startsPacket (part ++ body)) then body else part ++ body
/-- A flit is refused; on the first refusal the receiver asks for a replay (R192). -/
def missFlit (s : State) (p : Nat) : State :=
  let t := s.port p
  if t.nakOut then s else sendIdle (s.setPort p { t with nakOut := true }) p true t.rxseq

/-- DATA_FLIT: what the code found is counted; the flit is accepted when it touches no uncorrectable codeword, its CRC checks
and its SEQ is the next: its packets arrive, its acknowledgement fields are applied; else it is discarded (R189, R191, R192). -/
def execDataFlit (port : Nat) (bytes : List Byte) (code : FlitCode) (s : State) : Host.Outcome State Fault Refusal :=
  let t := s.port port
  .next <|
    if t.state != .live then s
    else
      let s1 := countCode s port code
      if !(flitGood 2 bytes code) || bits (flitWord bytes 0) 0 24 != t.rxseq then missFlit s1 port
      else
        let (ps, rest) := takePackets 276 (joinBody t.rxpart ((bytes.drop 8).take 244))
        let s2 := s1.setPort port { s1.port port with rxseq := (t.rxseq + 1) % 2 ^ 24, nakOut := false, rxpart := rest }
        ps.foldl (fun s x => arrive s x.1 x.2) (applyAck s2 port (flitWord bytes 4))

end Sys2Proof.Machine
end

