-- ==== Sys2Proof/Machine/Bellows.lean ====
section
/-! DEFINITION. The Bellows: script starts, clause fetch, circuit instructions, graph and rotation instructions,
semaphores and timeouts of scripts (R207-R216, R219-R221, R225-R227, R234, R342, R345-R352, R375-R377, R439-R441, R448, R449). -/
namespace Sys2Proof.Machine
open Sys2Proof

/-! ### Starting and fetching (R207-R210, R342) -/

/-- A script starts for a Hearth context (R207); its record's SEQ is the one its BSTRT packet is about to take. -/
def startScript (s : State) (k ctx stream level : Nat) (pc arg : DWord) : State :=
  s.setScript k { running := true, ctx := ctx, code := (s.script k).code, pc := pc
                  regs := loWord arg :: hiWord arg :: List.replicate 30 0, seq := (s.ctx ctx).seq, stream := stream, level := level }

/-- SCRIPT_START: an idle context takes the BSTRT packet of a stream that waits for it (R207, R342). -/
def execScriptStart (k : Nat) (s : State) : Host.Outcome State Fault Refusal :=
  let waiting := s.ctxs.findSome? fun (c, x) => x.streams.findSome? fun (n, st) =>
    match st.wait with
    | some (.script j pc arg) => if j == k then some (c, n, st.level, pc, arg) else none
    | _ => none
  .next <| match waiting with
    | some (c, n, level, pc, arg) => if (s.script k).running || !(streamRoom s c) then s else packetDone (startScript s k c n level pc arg) c n 0 0
    | none => s

/-- What a script's read of its context's memory comes to: bytes, or the state after a fault, a wait or its end. -/
inductive ScriptRead where
  | ok (s : State) (data : List Byte)
  | stop (s : State)

/-- Read n bytes at an address for a script: demand faults hold it, poison and what is no memory end it (R209, R210). -/
def scriptRead (s : State) (k : Nat) (va : DWord) (n flags : Nat) : ScriptRead :=
  let sc := s.script k
  match hubReach sc.ctx false s (segsOf va n) with
  | (s1, .ok segs) =>
    let l := hubRead s1 segs
    match (l.zip (segs.flatMap fun x => from_ x.1 x.2)).find? (·.1.2) with
    | some x => .stop (scriptPoison s1 k x.2)
    | none => .ok s1 (l.map (·.1))
  | (s1, .fault v kind level) => .stop (scriptFault s1 k v kind level flags)
  | (s1, .wait) => .stop s1
  | (s1, .bad) => .stop (endScript s1 k 0x05)

/-- The words of bytes. -/
def allWords (b : List Byte) : List Word := wordsOf b (b.length / 4)

/-- The continuation runs an opcode of a script takes; one that scripts do not have takes any (R209, R301, R319, R320). -/
def bellowsRun (n : Nat) : Option (Nat × Nat) :=
  if (0x59 ≤ n && n ≤ 0x5F) || (0x79 ≤ n && n ≤ 0x7C) then some (0, 0) else if scriptOpcode n then coreRun n else none

/-- Fetch the clause at a script's PC: its header and words, or the end that its shape gives (R208, R210). -/
def fetchScript (s : State) (k : Nat) : ScriptRead :=
  let pc := (s.script k).pc
  match scriptRead s k pc 4 4 with
  | .stop s1 => .stop s1
  | .ok s1 b =>
    let h := (allWords b).headD 0
    if hdrN h == 0 || h.getLsbD 0 || hdrExec h != 1 then .stop (endScript s1 k 0x02)
    else match scriptRead s1 k (pc + 4) (4 * hdrN h) 4 with
      | .stop s2 => .stop s2
      | .ok s2 b2 =>
        if !(runsOk bellowsRun h (allWords b2)) then .stop (endScript s2 k 0x02)
        else if hdrReserved h then .stop (endScript s2 k 0x01)
        else .ok s2 (b ++ b2)

/-- A script at the first word of a fetched clause. -/
def enterClause (s : State) (k : Nat) (b : List Byte) : State :=
  let sc := s.script k
  s.setScript k { sc with header := some sc.pc, words := allWords b, pos := 1, pc := sc.pc + 4 }

/-! ### The form of a Bellows instruction (R211, R345, R375, R439) -/

/-- A Bellows instruction: its encoding limits and register checks, then its effect on the script's context; a core
thread has none (R318, R345). -/
def bellowsOp (s : State) (i : Instr) (uses : List Nat) (f : Nat → Script → State) : Host.Outcome State Fault Refusal :=
  withCur s fun c =>
    match c.who with
    | .script k => match scriptChecks (!(Instr.wf i)) uses with
      | some code => endScript s k code
      | none => f k (s.script k)
    | .thread u => trapOr s u 0x01 c.addr c.word c.addr
    | .stream x n => packetError s x n 0x0001

/-- The script waits for a condition, unless its timeout is 0 (R212). -/
def scriptWait (s : State) (k : Nat) (w : ScriptWait) (timeout : Word) : State :=
  s.setScript k { s.script k with wait := some w, began := s.htime, timeout := timeout }
/-- The status of R211 in vD. -/
def status (n : Nat) : Word := BitVec.ofNat 32 n

/-! ### Circuits (R213-R216) -/

/-- CREQ (R213, R214, R351). -/
def execCreq (d a b : Reg) (s : State) : Host.Outcome State Fault Refusal :=
  bellowsOp s (.creq d a b) (d.toNat :: pairRegs a ++ pairRegs b) fun k sc =>
    let p := (sc.val a).toNat % 64
    let peer := (hiWord (sc.pair a)).toNat % 2 ^ 21
    let swport := loWord (sc.pair b)
    let len := (hiWord (sc.pair b)).toNat
    let t := s.port p
    let ans := fun (s : State) n => scriptAnswer s k d.toNat (status n)
    if 48 ≤ p || len == 0 then endScript s k 0x04
    else if t.request.isSome || (t.leased && !(t.ctx == sc.ctx && t.peer == peer && t.swport == swport)) then ans s 6
    else if t.state == .fault && t.cause == 11 then ans s 0x0A
    else if s.hub.swcm.toNat % 2 ^ 48 == 0 then ans s 4
    else
      let n := s.hub.nextreq
      let s1 := sendSwitch { s with hub := { s.hub with nextreq := n + 1 } } sc.ctx tSWREQ
        (bytesOf p 4 ++ bytesOf peer 4 ++ bytesOf swport.toNat 4 ++ bytesOf len 4 ++ bytesOf n.toNat 4)
      ans (s1.setPort p { t with request := some (sc.ctx, n, peer, swport, len), refused := false }) 0

/-- What CAWT's loop finds on one pass, without its timeout (R215). -/
def cawtLook (t : Port) (want : Nat) : Option Word :=
  let word := fun st => some (fields [(t.state.code, 29), (st, 0)])
  if t.state.code == want then word 0
  else if t.refused then word 3
  else if !t.leased && t.request.isNone then word 2
  else if t.state == .fault then word 0x0A
  else none
def cawtTimeout (t : Port) : Word := fields [(t.state.code, 29), (1, 0)]

/-- CAWT (R215, R346). -/
def execCawt (d a b : Reg) (s : State) : Host.Outcome State Fault Refusal :=
  bellowsOp s (.cawt d a b) (d.toNat :: pairRegs a ++ [b.toNat]) fun k sc =>
    let p := (sc.val a).toNat % 64
    let want := (hiWord (sc.pair a)).toNat % 8
    if 48 ≤ p || 4 < want then endScript s k 0x04
    else match cawtLook (s.port p) want with
      | some w => scriptAnswer s k d.toNat w
      | none => if sc.val b == 0 then scriptAnswer s k d.toNat (cawtTimeout (s.port p)) else scriptWait s k (.port p want d) (sc.val b)

/-- CREL (R216, R350). -/
def execCrel (d a : Reg) (s : State) : Host.Outcome State Fault Refusal :=
  bellowsOp s (.crel d a) [d.toNat, a.toNat] fun k sc =>
    let p := (sc.val a).toNat % 64
    if 48 ≤ p then endScript s k 0x04
    else
      let t := s.port p
      let s1 := match t.request with
        | some (c, n, _) => if c == sc.ctx then s.setPort p { t with request := none, cancelled := t.cancelled ++ [(n, c)] } else s
        | none => s
      if t.leased && t.ctx == sc.ctx then scriptAnswer (endLease s1 p 1) k d.toNat 0 else scriptAnswer s1 k d.toNat 2

/-- CSTA (R216, R352). -/
def execCsta (d a : Reg) (s : State) : Host.Outcome State Fault Refusal :=
  bellowsOp s (.csta d a) [d.toNat, a.toNat] fun k sc =>
    let p := (sc.val a).toNat % 64
    if 48 ≤ p then endScript s k 0x04 else scriptAnswer s k d.toNat (pstat (s.port p))

/-! ### Graphs (R219-R221, R225, R375-R377) -/

/-- A known graph or rotation PATH (R219). -/
def graphPath (p : Nat) : Bool := p < 0x30 || p == 0x41 || p == 0x42

/-- An operation from its 64 bytes, with whether its reserved fields, codes and unused fields are as they must be, its
dependencies apart (R219). -/
def parseOp (l : List Byte) : GOp × Bool :=
  let w := fun o n => natOf ((l.drop o).take n)
  let w0 := w 0 4
  let succ := (List.range 6).map fun m => w (0x24 + 2 * m) 2
  let o : GOp := { kind := bits w0 28 4, rop := bits w0 26 2, fmt := bits w0 24 2, sbi := bits w0 20 4, dbi := bits w0 16 4, path := bits w0 8 7
                   deps := w 4 2, soff := BitVec.ofNat 64 (w 8 8), doff := BitVec.ofNat 64 (w 16 8), len := w 0x18 4
                   mtch := BitVec.ofNat 32 (w 0x1C 4), peer := w 0x20 4 % 2 ^ 21
                   succ := (succ.filter fun x => bits x 15 1 == 1).map (· % 4096) }
  let clear := bits w0 15 1 == 0 && bits w0 0 8 == 0 && w 6 2 == 0 && w 0x20 4 < 2 ^ 21 && w 0x30 16 == 0 && succ.all fun x => bits x 12 3 == 0
  let noReduce := o.rop == 0 && o.fmt == 0
  let noSrc := o.sbi == 0 && o.soff == 0
  let noDst := o.dbi == 0 && o.doff == 0
  let noPeer := o.path == 0 && o.mtch == 0 && o.peer == 0
  let kindOk := match o.kind with
    | 1 => noReduce && noDst && graphPath o.path
    | 2 => noReduce && noSrc && graphPath o.path
    | 3 => noSrc && graphPath o.path && o.rop != 3 && o.len % (if o.fmt == 1 || o.fmt == 2 then 2 else 4) == 0
    | 4 => noReduce && noPeer
    | 5 => noReduce && noPeer && o.sbi == 0 && o.dbi == 0 && o.doff.toNat < 256 && o.len == 0
    | _ => false
  (o, clear && kindOk && o.len ≤ 0x4000000)

/-- Every successor is an operation, and every DEPS counts the successors that name it (R220). -/
def depsOk (ops : List GOp) : Bool :=
  let named := ops.flatMap (·.succ)
  named.all (· < ops.length) && ops.zipIdx.all fun (o, i) => o.deps == named.count i

/-- The operations that cannot come before themselves are taken away, round by round; what remains lies on a cycle or
behind one (R220). -/
def acyclic (ops : List GOp) : Nat → List Nat → Bool
  | 0, left => left == []
  | f + 1, left =>
    let blocked := left.flatMap fun i => (ops.getD i {}).succ
    acyclic ops f (left.filter blocked.contains)

/-- What GLOAD makes of the record's bytes: its operations, or a status (R220). -/
def graphOf (b : List Byte) (n : Nat) : List GOp × Nat :=
  let ps := (List.range n).map fun i => parseOp ((b.drop (64 + 64 * i)).take 64)
  let ops := ps.map (·.1)
  if !((b.take 64).drop 4 |>.all (· == 0)) || !(ps.all (·.2)) || !(depsOk ops) then ([], 8)
  else if !(acyclic ops n (List.range n)) then ([], 9)
  else (ops, 0)

/-- A GLOAD ends: a run that goes on is cancelled first, then the slot is loaded or empty (R220, R375). -/
def gloadEnd (s : State) (k g : Nat) (d : Reg) (ops : List GOp) (st : Nat) : State :=
  let sc := s.script k
  let ran := (s.graph g).state == 2
  let s1 := runEnd s g 5
  let x := s1.graph g
  scriptAnswer (s1.setGraph g { state := if st == 0 then 1 else 0, ctx := if st == 0 then sc.ctx else 0, status := if ran then x.status else 0
                                run := x.run, ndone := x.ndone, ops := ops }) k d.toNat (status st)

/-- GLOAD (R220, R375). -/
def execGload (d a b : Reg) (s : State) : Host.Outcome State Fault Refusal :=
  bellowsOp s (.gload d a b) (d.toNat :: a.toNat :: pairRegs b) fun k sc =>
    let g := (sc.val a).toNat
    let va := sc.pair b
    let x := s.graph g
    if 8 ≤ g then endScript s k 0x04
    else if x.state != 0 && x.ctx != sc.ctx then scriptAnswer s k d.toNat 6
    else if va.toNat % 64 != 0 then gloadEnd s k g d [] 8
    else match scriptRead s k va 64 0 with
      | .stop s1 => s1
      | .ok s1 h =>
        let n := bits (natOf (h.take 4)) 0 13
        if 2 ^ 13 ≤ natOf (h.take 4) || n == 0 || 4096 < n then gloadEnd s1 k g d [] 8
        else match scriptRead s1 k va (64 + 64 * n) 0 with
          | .stop s2 => s2
          | .ok s2 l => let r := graphOf l n; gloadEnd s2 k g d r.1 r.2

/-- GRUN (R221, R376). -/
def execGrun (d a b : Reg) (s : State) : Host.Outcome State Fault Refusal :=
  bellowsOp s (.grun d a b) (d.toNat :: pairRegs a ++ pairRegs b) fun k sc =>
    let g := (sc.val a).toNat
    let va := sc.pair b
    let x := s.graph g
    if 8 ≤ g then endScript s k 0x04
    else if x.state == 0 || x.ctx != sc.ctx then scriptAnswer s k d.toNat 7
    else if x.state == 2 then scriptAnswer s k d.toNat 6
    else if va.toNat % 8 != 0 then endScript s k 0x06
    else match scriptRead s k va 128 0 with
      | .stop s1 => s1
      | .ok s1 l =>
        let bases := (List.range 16).map fun i => BitVec.ofNat 64 (natOf ((l.drop (8 * i)).take 8))
        scriptAnswer (s1.setGraph g { x with state := 2, status := 0, run := hiWord (sc.pair a), ndone := 0
                                             runs := x.ops.map fun o => { deps := o.deps }, bases := bases }) k d.toNat 0

/-- GWAIT (R225, R377). -/
def execGwait (d a b : Reg) (s : State) : Host.Outcome State Fault Refusal :=
  bellowsOp s (.gwait d a b) [d.toNat, a.toNat, b.toNat] fun k sc =>
    let g := (sc.val a).toNat
    let x := s.graph g
    if 8 ≤ g then endScript s k 0x04
    else if x.state == 0 || x.ctx != sc.ctx then scriptAnswer s k d.toNat 7
    else if x.state == 1 then scriptAnswer s k d.toNat (status x.status)
    else if sc.val b == 0 then scriptAnswer s k d.toNat 1
    else scriptWait s k (.graph g d) (sc.val b)

/-! ### Rotations (R226, R227, R234, R439-R441) -/

/-- A rotation from its record's 64 bytes; none when a field is out of range or a reserved bit is set (R226, R227). -/
def parseRot (l : List Byte) : Option Rotation :=
  let w := fun o n => natOf ((l.drop o).take n)
  let r : Rotation := { state := 1, inst := BitVec.ofNat 32 (w 0 4), gen := bits (w 4 4) 16 16, ring := bits (w 4 4) 0 13
                        slots := bits (w 8 4) 16 5, cons := bits (w 8 4) 0 16, blk := w 12 4, base := BitVec.ofNat 64 (w 16 8)
                        nextc := bits (w 0x18 4) 0 21, prevc := bits (w 0x1C 4) 0 21, npath := bits (w 0x20 4) 0 7, posn := bits (w 0x24 4) 0 12
                        se := bits (w 0x28 4) 31 1 == 1, sem := bits (w 0x28 4) 0 8 }
  let clear := bits (w 4 4) 13 3 == 0 && bits (w 8 4) 21 11 == 0 && bits (w 0x18 4) 21 11 == 0 && bits (w 0x1C 4) 21 11 == 0 &&
    bits (w 0x20 4) 7 25 == 0 && bits (w 0x24 4) 12 20 == 0 && bits (w 0x28 4) 8 23 == 0 && w 0x2C 20 == 0
  let ranges := 2 ≤ r.ring && r.ring ≤ 4096 && 2 ≤ r.slots && r.slots ≤ 16 && 1 ≤ r.cons && 1 ≤ r.blk && r.blk ≤ 16384 &&
    w 16 8 % 4096 == 0 && graphPath r.npath && r.posn < r.ring
  if clear && ranges then some r else none

/-- ROTB (R227, R228, R440). -/
def execRotb (d a b : Reg) (s : State) : Host.Outcome State Fault Refusal :=
  bellowsOp s (.rotb d a b) (d.toNat :: a.toNat :: pairRegs b) fun k sc =>
    let i := (sc.val a).toNat
    let va := sc.pair b
    let ans := fun (s : State) n => scriptAnswer s k d.toNat (status n)
    if 4 ≤ i then endScript s k 0x04
    else if (s.rot i).state != 0 then ans s 6
    else if va.toNat % 64 != 0 then ans s 8
    else match scriptRead s k va 64 0 with
      | .stop s1 => s1
      | .ok s1 l =>
        let inst := BitVec.ofNat 32 (natOf (l.take 4))
        if (List.range 4).any fun j => let r := s1.rot j; r.state != 0 && r.ctx == sc.ctx && r.inst == inst then ans s1 6
        else match parseRot l with
          | none => ans s1 8
          | some r =>
            let old := s1.rot i
            let s2 := s1.setRot i { r with ctx := sc.ctx, own := r.slots, orig := tset 0 [] 0 s1.hub.chip, rdrpi := old.rdrpi, rdrpg := old.rdrpg }
            ans (wakeRacq (sendCredit s2 i) i) 0

/-- ROTE (R234, R441). -/
def execRote (d a b : Reg) (s : State) : Host.Outcome State Fault Refusal :=
  bellowsOp s (.rote d a b) [d.toNat, a.toNat, b.toNat] fun k sc =>
    let i := (sc.val a).toNat
    let r := s.rot i
    if 4 ≤ i then endScript s k 0x04
    else if r.state == 0 || r.ctx != sc.ctx then scriptAnswer s k d.toNat 7
    else if r.state != 1 then scriptAnswer (freeIndex s i) k d.toNat (status r.status)
    else if sc.val b == 0 then rotStop (scriptWait s k (.rotation i d) 0) i 3 5
    else scriptWait s k (.rotation i d) (sc.val b)

/-! ### Semaphores (R448, R449) -/

/-- SEMS of a script (R448). -/
def execSems (d a b : Reg) (s : State) : Host.Outcome State Fault Refusal :=
  bellowsOp s (.sems d a b) (d.toNat :: a.toNat :: pairRegs b) fun k sc =>
    let n := (sc.val a).toNat
    if 256 ≤ n then endScript s k 0x04 else scriptAnswer (semAdd s sc.ctx n (sc.pair b)) k d.toNat 0

/-- SEMW of a script (R449). -/
def execSemw (d a b : Reg) (s : State) : Host.Outcome State Fault Refusal :=
  bellowsOp s (.semw d a b) (d.toNat :: pairRegs a ++ pairRegs b) fun k sc =>
    let w := (sc.val a).toNat
    let n := w % 256
    let dec := bits w 8 1 == 1
    let val := sc.pair b
    let timeout := hiWord (sc.pair a)
    if 512 ≤ w then endScript s k 0x04
    else if val ≤ s.sem sc.ctx n then
      scriptAnswer (if dec then s.setSem sc.ctx n (s.sem sc.ctx n - val) else s) k d.toNat 0
    else if timeout == 0 then scriptAnswer s k d.toNat 1
    else scriptWait s k (.semaphore n val dec d) timeout

/-! ### Timeouts (R212, R234) -/

/-- BELLOWS_WAIT_TIMEOUT: a wait's timeout has passed: TIMEOUT, or ROTE cancels its rotation (R212, R215, R225, R234, R449). -/
def execBellowsWaitTimeout (k : Nat) (s : State) : Host.Outcome State Fault Refusal :=
  let sc := s.script k
  .next <|
    if !sc.running || sc.timeout == 0xFFFFFFFF || s.htime < sc.began + sc.timeout.toNat * 1000 then s
    else match sc.wait with
      | some (.port p want d) => scriptAnswer s k d.toNat ((cawtLook (s.port p) want).getD (cawtTimeout (s.port p)))
      | some (.graph _ d) => scriptAnswer s k d.toNat 1
      | some (.semaphore _ _ _ d) => scriptAnswer s k d.toNat 1
      | some (.rotation i _) => rotStop s i 3 5
      | _ => s

end Sys2Proof.Machine
end

