-- ==== Sys2Proof/Machine/Placement.lean ====
section
/-! DEFINITION. Placement of teams: what fits a core, the order in which slots are offered, dispatch, gangs, ageing, and
the return of spilled groups (R15, R18, R35-R42, R45, R48, R54, R252). -/
namespace Sys2Proof.Machine
open Sys2Proof

/-! ### What fits a core (R37, R261) -/

/-- The size of a placement unit's gang; 1 without one (R39). -/
def gangSize (r : LaunchRec) : Nat := if r.gang ≤ 1 then 1 else r.gang
/-- Scratch bytes of a team on a core (R37). -/
def scratchNeed (r : LaunchRec) : Nat := (r.scratch + 511) / 512 * 512
/-- Which half a group lies on (R42). -/
def groupHalf (r : LaunchRec) (g : Nat) : Nat := if r.pair && r.groups / 2 ≤ g then 1 else 0
/-- The thread places a team takes on a half: those of its spilled groups are free (R252). -/
def placesOn (r : LaunchRec) (spilled : List Nat) (half : Nat) : Nat :=
  r.perCore - r.width * (spilled.filter fun g => groupHalf r g == half).length

/-- The teams that hold places on a core, some left out. -/
def teamsOn (s : State) (skip : List Nat) (core : Nat) : List Team :=
  s.teams.filter fun t =>
    (match t.place with | .saved _ => false | _ => true) && !(skip.contains t.uid) &&
      (t.core == core || ((s.launchOf t.launch).rcd.pair && t.core + 1 == core))

/-- A team of a launch fits one core in every row of R37. -/
def fitsCore (s : State) (skip : List Nat) (r : LaunchRec) (spilled : List Nat) (half core : Nat) : Bool :=
  let ts := teamsOn s skip core
  let rec_ := fun t : Team => (s.launchOf t.launch).rcd
  let places := (ts.map fun t => placesOn (rec_ t) t.spilled (core - t.core)).sum + placesOn r spilled half
  let regs := (ts.map fun t => placesOn (rec_ t) t.spilled (core - t.core) * (rec_ t).nreg * 4).sum + placesOn r spilled half * r.nreg * 4
  !(nmem s.hub.cexcl core) && (ts == [] || (s.core core).pb == (r.pb1, r.pb2, r.pb3)) && ts.length + 1 ≤ 64 && places ≤ 2048 &&
    regs ≤ r.pb1 * 16384 && (ts.map fun t => scratchNeed (rec_ t)).sum + scratchNeed r ≤ (r.pb3 - r.pb2) * 16384 &&
    (ts.map fun t => (rec_ t).nbar).sum + r.nbar ≤ 64 && (ts.map fun t => (rec_ t).nconv).sum + r.nconv ≤ 8 &&
    (r.pb2 ≤ r.pb1 || ts == [])
/-- A team fits a core, or in pair mode a pair, named by its first core. -/
def fitsAt (s : State) (skip : List Nat) (r : LaunchRec) (spilled : List Nat) (core : Nat) : Bool :=
  core < 384 &&
    if r.pair then core % 2 == 0 && fitsCore s skip r spilled 0 core && fitsCore s skip r spilled 1 (core + 1)
    else fitsCore s skip r spilled 0 core
/-- The cores a team of a launch lies on, from its first one (R42). -/
def coresAt (r : LaunchRec) (core : Nat) : List Nat := if r.pair then [core, core + 1] else [core]

/-- A save slot holds a saved team (R261). -/
def slotTaken (s : State) (n : Nat) : Bool :=
  s.teams.any fun t => match t.place with
    | .saved m => m == n || ((s.launchOf t.launch).rcd.pair && m + 3 == n)
    | _ => false
/-- A new team of a priority may be placed on a core (R261). -/
def slotsFree (s : State) (r : LaunchRec) (prio core : Nat) : Bool :=
  prio == 3 || !(slotTaken s (3 * core + prio) || (r.pair && slotTaken s (3 * (core + 1) + prio)))
/-- A new team of a launch may be placed on a core. -/
def fitsNew (s : State) (skip : List Nat) (l : Launch) (core : Nat) : Bool := fitsAt s skip l.rcd [] core && slotsFree s l.rcd l.prio core

/-- The cores, or the first cores of the pairs, from a pointer on (R36, R42). -/
def searchFrom (pair : Bool) (p : Nat) : List Nat :=
  if pair then (List.range 192).map fun i => 2 * ((p / 2 + i) % 192) else (List.range 384).map fun i => (p + i) % 384

/-- The cores, or first cores of pairs, that no exclusion touches (R9, R275). -/
def openCores (s : State) (pair : Bool) : List Nat :=
  (searchFrom pair 0).filter fun c => !(nmem s.hub.cexcl c) && !(pair && nmem s.hub.cexcl (c + 1))
/-- One team fits an empty core or pair, the exclusions apart; and how many teams fit one (R35). -/
def emptyFit (r : LaunchRec) : Bool :=
  r.perCore ≤ 2048 && r.perCore * r.nreg * 4 ≤ r.pb1 * 16384 && scratchNeed r ≤ (r.pb3 - r.pb2) * 16384 && r.nbar ≤ 64 && r.nconv ≤ 8
def emptyCount (r : LaunchRec) : Nat :=
  let by_ := fun total each : Nat => if each == 0 then 64 else total / each
  if r.pb1 < r.pb2 then one (emptyFit r)
  else [64, by_ 2048 r.perCore, by_ (r.pb1 * 16384) (r.perCore * r.nreg * 4), by_ ((r.pb3 - r.pb2) * 16384) (scratchNeed r), by_ 64 r.nbar, by_ 8 r.nconv].foldl min 64
/-- One team fits an empty core, or pair, that is not excluded (R35, R275). -/
def teamFits (s : State) (r : LaunchRec) : Bool := emptyFit r && openCores s r.pair != []
/-- One gang fits the cores that are not excluded (R35). -/
def gangFits (s : State) (r : LaunchRec) : Bool := min (gangSize r) r.total ≤ (openCores s r.pair).length * emptyCount r

/-! ### The order in which slots are offered (R39-R41) -/

/-- The gang that reserves: the one that does so, else of the highest-priority launches the one that waits longest (R39).
That a gang keeps what it has reserved when another of higher priority comes, and that of two that wait equally long the
launch accepted first reserves, is the model's choice (log entry 125). -/
def reservingGang (s : State) : Option Nat :=
  match s.gang with
  | some u => some u
  | none =>
    (s.launches.filter fun l => 1 < gangSize l.rcd && l.next < l.rcd.total && l.abort.isNone).foldl
      (fun (b : Option Launch) l => match b with
        | none => some l
        | some y => if y.prio < l.prio || (y.prio == l.prio && l.since < y.since) then some l else b) none |>.map (·.uid)

/-- The first of two lists of numbers in lexical order. -/
def listLt : List Nat → List Nat → Bool
  | a :: as, b :: bs => a < b || (a == b && listLt as bs)
  | _, _ => false

/-- A launch's head unit waits for a slot: it has teams to place, is not aborted and, with a gang, is the one that reserves. -/
def headWaits (s : State) (l : Launch) : Bool := l.next < l.rcd.total && l.abort.isNone && (gangSize l.rcd == 1 || reservingGang s == some l.uid)
/-- The place of a unit in the order of R41. -/
def headKey (l : Launch) : List Nat :=
  [3 - l.prio, match l.aged with | some _ => 1 | none => 2, l.aged.getD 0, l.uid]
/-- The team is saved (R43, R45). -/
def Team.isSaved (t : Team) : Bool := match t.place with | .saved _ => true | _ => false
/-- The first team of the gang a launch is placing, and its size (R39). -/
def gangAt (r : LaunchRec) (n : Nat) : Nat × Nat :=
  let first := n / gangSize r * gangSize r
  (first, min (gangSize r) (r.total - first))
/-- Two teams of one gang. -/
def gangMates (s : State) (x y : Team) : Bool :=
  x.launch == y.launch && gangSize (s.launchOf x.launch).rcd != 1 && (gangAt (s.launchOf x.launch).rcd x.n).1 == (gangAt (s.launchOf x.launch).rcd y.n).1
/-- The teams that a placement unit of a team has on the package: those of its gang, or it alone (R39, R45). -/
def unitOf (s : State) (t : Team) : List Team := s.teams.filter fun y => y.uid == t.uid || gangMates s y t
/-- The place of a saved unit in the order of R41: a gang's is that of the team that left first. -/
def savedKey (s : State) (t : Team) : List Nat :=
  let left := ((unitOf s t).map (·.gone)).foldl min t.gone
  [3 - (s.launchOf t.launch).prio, 0, left, t.launch]

/-- Every tag a saved team owns is free on the cores from one on (R45). -/
def tagsFree (s : State) (t : Team) (c : Nat) : Bool :=
  (coresAt (s.launchOf t.launch).rcd 0).all fun h =>
    ((s.core (t.core + h)).tags.filter (·.2.team == t.uid)).all fun x => !((s.core (c + h)).tags.any (·.1 == x.1))
/-- A field of the header of the slot that holds a half of a saved team (R263). -/
def headNum (s : State) (t : Team) (half o n : Nat) : Nat :=
  match t.place with
  | .saved m => s.num (slotBase s (s.launchOf t.launch).ctx (m + 3 * half) + o) n
  | _ => 0
/-- The core that a saved team left, as CORE of its slots' headers has it now (R263, R266). -/
def leftCore (s : State) (t : Team) : Nat :=
  let c := headNum s t 0 4 4 % 512
  if (s.launchOf t.launch).rcd.pair && c == t.core then headNum s t 1 4 4 % 512 - 1 else c
/-- The launch record of a saved team with the partition that its slots' headers hold now (R263, R266). -/
def keptRec (s : State) (t : Team) : LaunchRec :=
  let w := headNum s t 0 0x10 4
  { (s.launchOf t.launch).rcd with pb1 := bits w 0 8, pb2 := bits w 8 8, pb3 := bits w 16 8 }
/-- The core a saved team goes to: the one it left, or, when that is excluded, the first replacement of the search; of
those that fit it and satisfy a test (R45). -/
def homeCore (s : State) (t : Team) (ok : Nat → Bool) : Option Nat :=
  let l := s.launchOf t.launch
  let r := keptRec s t
  let home := leftCore s t
  if !((coresAt r home).any (nmem s.hub.cexcl ·)) then
    (if fitsAt s [] r t.spilled home && (home == t.core || tagsFree s t home) && ok home then some home else none)
  else (searchFrom r.pair ((home + if r.pair then 2 else 1) % 384)).find? fun c =>
    fitsAt s [] r t.spilled c && slotsFree s r l.prio c && tagsFree s t c && ok c
/-- The tags a team owns go from its cores to others (R45). -/
def moveTags (s : State) (t : Team) (c : Nat) : State :=
  (coresAt (s.launchOf t.launch).rcd 0).foldl
    (fun s h =>
      let mine := (s.core (t.core + h)).tags.filter (·.2.team == t.uid)
      let a := s.core (t.core + h)
      let s1 := s.setCore (t.core + h) { a with tags := a.tags.filter (·.2.team != t.uid) }
      let b := s1.core (c + h)
      s1.setCore (c + h) { b with tags := mine.foldl (fun l x => tins l x.1 x.2) b.tags }) s
/-- The cores a unit of saved teams would go to, one after another, each with its tags; none unless all fit (R45). -/
def homeCores : State → List Team → (Nat → Bool) → Option (List Nat)
  | _, [], _ => some []
  | s, t :: rest, ok =>
    match homeCore s t ok with
    | some c => (homeCores ((moveTags s t c).setTeam { t with core := c, place := .resident }) rest ok).map (c :: ·)
    | none => none

/-- A spilled group of a team with an answered thread waits to return to a core that fits it (R252). -/
def returnsTo (s : State) (core : Nat) : Bool :=
  s.teams.any fun t =>
    let r := (s.launchOf t.launch).rcd
    t.place == .resident && t.spilled.any fun g =>
      t.core + groupHalf r g == core && fitsCore s [t.uid] r (t.spilled.filter (· != g)) (groupHalf r g) core &&
        s.threads.any fun x => x.team == t.uid && x.tid / r.width == g && (match x.status with | .parked _ | .exited => false | _ => true)

/-- A unit before a place in the order would take a slot on one of these cores: a head unit that fits there, or a saved unit
that can return as a whole and has a core among them (R41, R45). -/
def earlierFits (s : State) (key : List Nat) (cores : List Nat) : Bool :=
  (s.launches.any fun l => listLt (headKey l) key && headWaits s l &&
      (cores.map fun c => if l.rcd.pair then c / 2 * 2 else c).any (fitsNew s [] l)) ||
    s.teams.any fun t =>
      t.isSaved && (s.launchOf t.launch).abort.isNone && listLt (savedKey s t) key && (unitOf s t).all Team.isSaved &&
        match homeCores s (unitOf s t) (fun _ => true) with
        | some cs => ((unitOf s t).zip cs).any fun (y, c) => (coresAt (s.launchOf y.launch).rcd c).any cores.contains
        | none => false

/-! ### Placing a team (R18, R36, R48, R54) -/

/-- The free thread slots of a core, lowest first, those of one team that is coming back apart (R18). -/
def freeSlots (s : State) (back : List Nat) (core n : Nat) : List Nat :=
  let used := (s.threads.filter fun t => t.core == core && !t.spilled && !(back.contains t.team) &&
    (match (s.team t.team).place with | .saved _ => false | _ => true)).map (·.slot)
  ((List.range 2048).filter fun k => !(used.contains k)).take n
/-- The team position for a team on a core or pair: the wanted one, if any, where no team but itself has it, else the lowest
free one; one that a saved team of these cores keeps in its slot is taken only when no other is free (R247, R262, R264). -/
def freePos (s : State) (skip : List Nat) (pair : Bool) (core : Nat) (want : List Nat) : Nat :=
  let ts := teamsOn s skip core ++ if pair then teamsOn s skip (core + 1) else []
  let kept := s.teams.filter fun t => t.isSaved && !(skip.contains t.uid) &&
    (coresAt (s.launchOf t.launch).rcd t.core).any fun c => c == core || (pair && c == core + 1)
  let ps := (want ++ List.range 64).filter fun p => !(ts.any (·.pos == p))
  ((ps.filter fun p => !(kept.any (·.pos == p))) ++ ps).headD 0
/-- The core a thread of a team lies on (R42). -/
def coreOf (r : LaunchRec) (core tid : Nat) : Nat := core + groupHalf r (tid / r.width)
/-- A core takes a launch's partition; a repartitioned one keeps no L1 lines (R38). -/
def repartition (s : State) (r : LaunchRec) (core : Nat) : State :=
  let c := s.core core
  let pb := (r.pb1, r.pb2, r.pb3)
  if c.pb == pb then s else s.setCore core { c with pb := pb, l1 := [] }

/-- A core's L1 restarts empty (R54). -/
def emptyL1 (s : State) (core : Nat) : State := s.setCore core { s.core core with l1 := [] }

/-- A new thread (R48, R58). -/
def newThread (s : State) (l : Launch) (team uid core slot tid : Nat) : Thread :=
  let r := l.rcd
  { uid := uid, team := team, tid := tid, core := core, slot := slot, regs := loWord r.args :: hiWord r.args :: List.replicate (r.nreg - 2) 0
    pois := List.replicate r.nreg false, pc := r.entry, stamp := s.cycle, scoutEn := r.scout != 0, scoutBud := r.scout }

/-- A thread takes a slot again; with another one its lane is another, which counts as a path change (R18, R204). -/
def Thread.atSlot (t : Thread) (slot : Nat) : Thread := if slot == t.slot then t else { t.newLane with slot := slot }

/-- Place the next team of a launch on a core, resident or reserved. -/
def placeTeam (s : State) (l : Launch) (core : Nat) (place : Place) : State :=
  let r := l.rcd
  let u := s.nextUid
  let s1 := repartition s r core
  let s2 := if r.pair then repartition s1 r (core + 1) else s1
  let tm : Team := { uid := u, launch := l.uid, n := l.next, core := core, pos := freePos s2 [] r.pair core [], place := place, born := s.cycle }
  let slots := [freeSlots s2 [] core r.perCore, if r.pair then freeSlots s2 [] (core + 1) r.perCore else []]
  let ts := (List.range r.nthr).map fun i =>
    newThread s2 l u (u + 1 + i) (coreOf r core i) ((slots.getD (groupHalf r (i / r.width)) []).getD (i % r.perCore) 0) i
  { s2 with teams := s2.teams ++ [tm], threads := s2.threads ++ ts, nextUid := u + 1 + r.nthr }.setLaunch { l with next := l.next + 1 }

/-- The head unit of a launch has been placed: the next one begins to wait (R40). -/
def nextUnit (s : State) (u : Nat) : State := s.setLaunch { s.launchOf u with since := s.cycle, aged := none }

/-- A core fits the next team of a launch, and no unit before it, or group that returns, would take its slot (R41, R252). -/
def openTo (s : State) (l : Launch) (core : Nat) : Bool :=
  fitsNew s [] l core && !(earlierFits s (headKey l) (coresAt l.rcd core)) && !((coresAt l.rcd core).any (returnsTo s))
/-- The pointer of a priority goes past the core a team was placed on (R36). -/
def pointPast (s : State) (l : Launch) (core : Nat) : State :=
  { s with hub := { s.hub with rr := tset 0 s.hub.rr l.prio ((core + if l.rcd.pair then 2 else 1) % 384) } }

/-- TEAM_DISPATCH: the next team of a launch goes to the first core of the search that fits it and that no unit before it
in the order could use (R36, R41). -/
def execTeamDispatch (launch : Nat) (s : State) : Host.Outcome State Fault Refusal :=
  let l := s.launchOf launch
  .next <|
    if !(s.launches.any (·.uid == launch)) || !(headWaits s l) || gangSize l.rcd != 1 then s
    else match (searchFrom l.rcd.pair (tget 0 s.hub.rr l.prio)).find? (openTo s l) with
      | none => s
      | some c => pointPast (nextUnit (placeTeam s l c .resident) launch) l c

/-- Every team of a gang holds a slot: all start in one cycle (R39). -/
def startGang (s : State) (u first n : Nat) : State :=
  let mine := fun t : Team => t.launch == u && first ≤ t.n && t.n < first + n && t.place == .reserved
  if (s.teams.filter mine).length == n then
    let us := (s.teams.filter mine).map (·.uid)
    nextUnit
      { s with teams := modWhere mine (fun t => { t with place := .resident, born := s.cycle }) s.teams
               threads := modWhere (fun t => us.contains t.team) (fun t => { t with stamp := s.cycle }) s.threads
               gang := none } u
  else s

/-- GANG_RESERVE: the reserving gang is offered a slot of a core, and takes it when the core is the first of the search
that fits its next team and that no unit before it could use (R36, R39, R41). -/
def execGangReserve (core : Nat) (s : State) : Host.Outcome State Fault Refusal :=
  .next <| match reservingGang s with
    | none => s
    | some u =>
      let l := s.launchOf u
      if l.next < l.rcd.total && l.abort.isNone && (searchFrom l.rcd.pair (tget 0 s.hub.rr l.prio)).find? (openTo s l) == some core then
        let g := gangAt l.rcd l.next
        startGang (pointPast { placeTeam s l core .reserved with gang := some u } l core) u g.1 g.2
      else s

/-- PLACEMENT_AGING: a unit that has waited 65,536 cycles at the head of its launch ages (R40). -/
def execPlacementAging (launch : Nat) (s : State) : Host.Outcome State Fault Refusal :=
  let l := s.launchOf launch
  .next (if s.launches.any (·.uid == launch) && l.next < l.rcd.total && l.aged.isNone && l.since + 65536 ≤ s.cycle
    then s.setLaunch { l with aged := some s.cycle } else s)

/-- GROUP_RETURN: a spilled group with an answered thread returns to its core as soon as it fits there; its threads take
slots again (R18, R252). -/
def execGroupReturn (team group : Nat) (s : State) : Host.Outcome State Fault Refusal :=
  let tm := s.team team
  let l := s.launchOf tm.launch
  let r := l.rcd
  let half := groupHalf r group
  let core := tm.core + half
  let ts := ordered (s.threads.filter fun t => t.team == team && t.tid / r.width == group) fun x y => x.tid ≤ y.tid
  let answered := fun t : Thread => match t.status with | .parked _ | .exited => false | _ => true
  let spilled := tm.spilled.filter (· != group)
  .next <|
    if !(s.hasTeam team) || tm.place != .resident || l.abort.isSome || !(tm.spilled.contains group) || !(ts.any answered) || !(fitsCore s [team] r spilled half core) then s
    else match reachPages s (dieOf core) l.ctx 3 0xFFFFFFFF 0 (pagesOf (parkVa r core tm.pos group) (groupBytes r)) with
      | (s1, false) => s1
      | (s1, true) =>
        let slots := freeSlots s1 [] core ts.length
        let s2 := s1.setTeam { s1.team team with spilled := spilled }
        ts.zipIdx.foldl
          (fun s (t, i) => s.setThread ({ s.thread t.uid with spilled := false, stamp := s.cycle }.atSlot (slots.getD i 0))) s2

end Sys2Proof.Machine
end

