-- ==== Sys2Proof/Machine/Preempt.lean ====
section
/-! DEFINITION. Pre-emption: victims, the saved image of a team in memory, and resumption from it (R41, R43-R45, R144,
R166, R182, R204, R261-R267). -/
namespace Sys2Proof.Machine
open Sys2Proof

/-! ### Victims (R43) -/

/-- Young teams first: later dispatched, of the later accepted launch, of the higher number. -/
def younger (x y : Team) : Bool := !(listLt [x.born, x.launch, x.n] [y.born, y.launch, y.n])
/-- The teams of lower priority on a core or pair that pre-emption may take, youngest first (R43, R261). -/
def preemptable (s : State) (l : Launch) (core : Nat) : List Team :=
  let ts := teamsOn s [] core ++ if l.rcd.pair then (teamsOn s [] (core + 1)).filter fun t => !((teamsOn s [] core).any (·.uid == t.uid)) else []
  let open_ := ts.filter fun t =>
    let m := s.launchOf t.launch
    t.place == .resident && m.abort.isNone && m.prio < l.prio && (s.ctx m.ctx).save != 0
  ordered open_ younger
/-- The fewest of them whose removal lets the launch's next team fit the core. -/
def victimsOn (s : State) (l : Launch) (core : Nat) : Option (List Nat) :=
  let vs := (preemptable s l core).map (·.uid)
  ((List.range (vs.length + 1)).find? fun k => fitsNew s (vs.take k) l core).map vs.take
/-- The victims a launch's next team takes when it fits no core (R43). -/
def victimsFor (s : State) (l : Launch) : List Nat :=
  let cores := searchFrom l.rcd.pair (tget 0 s.hub.rr l.prio)
  if !(headWaits s l) || cores.any (fitsNew s [] l) then [] else (cores.findSome? (victimsOn s l)).getD []

/-- A team is a victim, or one of its gang is or was (R43). -/
def isVictim (s : State) (tm : Team) : Bool :=
  let vs := s.launches.flatMap (victimsFor s)
  vs.contains tm.uid || s.teams.any fun t => gangMates s t tm && (t.isSaved || vs.contains t.uid)

/-! ### Stopping a victim (R44, R144, R166, R182, R267) -/

/-- The bundle that has left its picker and holds a thread in its clause (R100). -/
def outBundle (s : State) (t : Thread) : Option Bundle :=
  if t.status == .ready && t.exe != 0 then (s.core t.core).out.find? (·.threads.contains t.uid) else none
/-- A thread stands where pre-emption may take it: held inside a clause by a fault, a full log or a remote wait, or in a bundle
that has left its picker; else at a clause boundary, waiting or scouting, with every result there that it will not drop (R44,
R100, R262, R267, R314). -/
def stopped (s : State) (t : Thread) : Bool :=
  (outBundle s t).isSome ||
    (match t.hold with | some (.fault _ _) | some (.refused _ _) | some .log | some (.remote _ _ _) | some .hostLink => true | _ => false) ||
    ((t.scout.isSome || t.mid.isNone || t.status != .ready) && t.window.all fun p => p.ready || p.prov)
/-- No operation of a team is in its compute phase, and no remote atomic of its threads awaits its reply. -/
def quiet (s : State) (tm : Team) (us : List Nat) : Bool :=
  (s.cores.all fun (_, c) => c.anvil.all fun | .op o => o.team != tm.uid || o.phase != .compute | .acc _ _ _ => true) &&
    s.lanes.all fun l => l.reqs.all fun q => !(us.contains q.thread && q.packet.typ == tATOM)

/-- The page of a checkpointed load whose demand fault is outstanding (R182). -/
def Scout.faulting (sc : Scout) (s : State) (ctx : Nat) : Option Nat :=
  [sc.va, sc.va + BitVec.ofNat 64 (sc.size - 1)].map faultPage |>.find? fun p => (faultOf s ctx p).isSome
/-- The results that the instruction a thread stands at may read are written; outside a clause execution all are (R312, R314). -/
def landSeen (t : Thread) : Thread := landWhere t fun p => t.mid.isNone || visibleAt p t.exe t.ipos
/-- A remote load in flight is given up: its instruction runs again, and a MONW waits (R267, R408). -/
def Thread.giveUp (t : Thread) : Thread :=
  if t.asking && t.reply.isNone then
    if t.polls then { t with status := .waiting .monw, hold := none, part := none } else { t.lower with hold := none, part := none }
  else t
/-- A thread whose team is saved: its scout is abandoned, a remote load in flight is given up, a sleep ends, its results are
written, and it leaves its bundle; one whose checkpointed load met a demand fault is held by it. Its record's PC is that of the
holding instruction where its bundle has left its picker, also when it has executed that itself (R182, R262, R267, R314, R455). -/
def stopThread (s : State) (u : Nat) : State :=
  let t := s.thread u
  let s1 := match t.scout with
    | some sc =>
      let ctx := (s.launchOfThread t).ctx
      let s1 := if t.scouting then scoutCount s t 0x50 else s
      s1.setThread { sc.undo t with rerun := false, hold := (sc.faulting s ctx).map (.fault ctx) }
    | none => s
  let t1 := (landSeen (s1.thread u)).giveUp
  let t2 := match t1.status with | .waiting (.sleep _ next) => t1.readyAt next s.cycle | _ => t1
  let pc := match (if t.scout.isSome then none else outBundle s t) with | some b => b.addr + BitVec.ofNat 64 (4 * b.pos) | none => t2.pc
  unbundle (s1.setThread { t2 with keptPc := pc, plain := false }) t2

/-- An operation that is saved runs its operand phase again (R144). -/
def AnvilItem.rerun : AnvilItem → AnvilItem
  | .op o => .op { o with phase := .issued, bytes := [], steps := 0 }
  | x => x
/-- A team's issued operations and waiting accesses leave its cores' queues, and its copies suspend (R144, R166). -/
def stopTeam (s : State) (tm : Team) : State :=
  let mine := fun | AnvilItem.op o => o.team == tm.uid | .acc t _ _ => t == tm.uid
  let items := [0, 1].flatMap fun h => ((s.core (tm.core + h)).anvil.filter mine).map fun i => (h, i.rerun)
  let s1 := [0, 1].foldl
    (fun s h =>
      let c := s.core (tm.core + h)
      s.setCore (tm.core + h)
        { c with anvil := c.anvil.filter (fun i => !(mine i))
                 tags := c.tags.map fun (i, t) => (i, match t.copy with
                   | some y => if t.team == tm.uid && y.phase == .running then { t with copy := some { y with phase := .paused } } else t
                   | none => t) }) s
  s1.setTeam { s1.team tm.uid with anvil := items }

/-! ### The image (R261, R263-R265) -/

/-- The threads of a team on a half, by ascending %tid. -/
def halfThreads (s : State) (tm : Team) (half : Nat) : List Thread :=
  ordered (s.threads.filter fun t => t.team == tm.uid && t.core == tm.core + half) fun x y => x.tid ≤ y.tid
/-- The bytes of a team's registers, scratch and accumulator units on one core (R264). -/
def regLen (r : LaunchRec) : Nat := r.perCore * r.nreg * 4
def savedUnits (r : LaunchRec) : Nat := if r.pb1 < r.pb2 then (r.pb2 - r.pb1) / 4 else 0
def imageLen (r : LaunchRec) : Nat := regLen r + scratchNeed r + savedUnits r * 65536

/-- The lowest place of n units that meets none of the used ranges. -/
def firstFit (used : List (Nat × Nat)) (base n : Nat) : Nat :=
  let free := fun a => used.all fun x => a + n ≤ x.1 || x.1 + x.2 ≤ a
  ((base :: (used.map fun x => x.1 + x.2)).filter free).foldl min (base + 2 ^ 32)
/-- The other teams of its context in a save slot, with the place of their images there (R261). -/
def slotMates (s : State) (tm : Team) (n : Nat) : List (Team × LaunchRec × Nat × Nat) :=
  (slotTeams s (s.launchOf tm.launch).ctx n).filterMap fun (t, half) =>
    if t.uid == tm.uid then none else some (t, (s.launchOf t.launch).rcd, t.image.getD half (0, 0))

/-- STATE of a thread record (R265). -/
def stateCode (t : Thread) : Nat :=
  match t.status with
  | .ready => if t.hold.isSome then 3 else 0
  | .waiting _ => 1
  | .parked _ => 2
  | .held => 3
  | .exited => 4
/-- SB0 to SB5 packed (R265). -/
def sbBits (t : Thread) : Nat := ((List.range 6).map fun i => (t.sb.getD i 0) % 64 * 2 ^ (6 * i)).sum
/-- A thread record (R265). -/
def threadRecord (t : Thread) : List Byte :=
  bytesOf t.keptPc.toNat 8 ++ bytesOf (stateCode t * 2 ^ 61 + one t.hnd * 2 ^ 60 + one (t.defer != []) * 2 ^ 59 + sbBits t) 8 ++
    bytesOf t.epc.toNat 8 ++ bytesOf t.eaddr.toNat 8 ++ bytesOf t.ecode.toNat 4 ++ bytesOf t.einfo.toNat 4 ++ bytesOf (scoutWord t).toNat 4 ++
    bytesOf t.policy.toNat 4 ++ bytesOf t.fstat.toNat 4 ++ bytesOf t.remerr.toNat 4 ++ bytesOf t.tid 4 ++ bytesOf 0 4

/-- BARb and CONVc of a directory entry (R264). -/
def barWord (b : Bar) : Nat := one b.active * 2 ^ 31 + b.target % 4096 * 2 ^ 16 + b.arrivals % 4096
def convWord (c : Conv) : Nat := one c.pair * 2 ^ 31 + one c.configured * 2 ^ 30 + c.base % 2048
/-- The tags a team owns on a core. -/
def tagsOwned (s : State) (core team : Nat) : Nat := (((s.core core).tags.filter (·.2.team == team)).map fun x => 2 ^ x.1).sum
/-- A directory entry (R264). -/
def dirEntry (s : State) (tm : Team) (l : Launch) (half first pool : Nat) : List Byte :=
  let r := l.rcd
  let accOff := pool + regLen r + scratchNeed r
  bytesOf l.id.toNat 4 ++ bytesOf (2 ^ 31 + half * 256 + tm.pos) 4 ++ bytesOf (tm.n % r.x) 4 ++ bytesOf (tm.n / r.x % r.y) 4 ++
    bytesOf (tm.n / r.x / r.y) 4 ++ bytesOf (first * 2 ^ 16 + r.perCore) 4 ++ bytesOf pool 4 ++ bytesOf (regLen r) 4 ++
    bytesOf (pool + regLen r) 4 ++ bytesOf (scratchNeed r) 4 ++ bytesOf (if savedUnits r == 0 then 0 else accOff) 4 ++ bytesOf (savedUnits r * 65536) 4 ++
    bytesOf (tagsOwned s (tm.core + half) tm.uid) 8 ++ bytesOf 0 8 ++ ((List.range 16).flatMap fun b => bytesOf (barWord (tget {} tm.bars b)) 4) ++
    ((List.range 8).flatMap fun c => bytesOf (convWord (tget {} tm.convs c)) 4) ++ List.replicate 96 0

/-- The pool image of a half: registers, scratch, accumulator units (R53, R264). -/
def poolImage (tm : Team) (r : LaunchRec) (ts : List Thread) (half : Nat) : List Byte :=
  (ts.flatMap fun t => if t.spilled then List.replicate (4 * r.nreg) 0 else (List.range r.nreg).flatMap fun n => bytesOf (t.regs.getD n 0).toNat 4) ++
    ((List.range (scratchNeed r)).map fun a => if a < r.scratch then tget 0 tm.scratch (half * r.scratch + a) else 0) ++
    (List.range (savedUnits r)).flatMap fun u => (List.range 16384).flatMap fun e =>
      bytesOf (tget 0 tm.acc (half * 2 ^ 24 + u * 2 ^ 14 + e)).toNat 4

/-- The number under which a core keeps the code of a context's save slot of a priority (R266). -/
def crcKey (ctx prio : Nat) : Nat := 4 * ctx + prio

/-- Save one half of a team into its slot, whose other entries hold no team unless one saved there owns them; the region whose layout cannot be observed is free (R262-R266; log entry 3). -/
def saveHalf (tm0 : Team) (half : Nat) (s : State) : State :=
  let tm := s.team tm0.uid
  let l := s.launchOf tm.launch
  let r := l.rcd
  let core := tm.core + half
  let n := 3 * core + l.prio
  let base := slotBase s l.ctx n
  let mates := slotMates s tm n
  let first := firstFit (mates.map fun m => (m.2.2.1, m.2.1.perCore)) 0 r.perCore
  let pool := firstFit (mates.map fun m => (m.2.2.2, imageLen m.2.1)) 0x80000 (imageLen r)
  let ts := halfThreads s tm half
  let (s1, hidden) := drawBytes 0x58000 s
  let crc := crc64 hidden
  let c := s1.core core
  let head := bytesOf (mates.length + 1) 4 ++ bytesOf core 4 ++ bytesOf crc.toNat 8 ++ bytesOf (pbWord c).toNat 4 ++ List.replicate 236 0
  let s2 := s1.setCore core { c with saveCrc := tset 0 c.saveCrc (crcKey l.ctx l.prio) crc, l1 := [] }
  let used := tm.pos :: mates.map (·.1.pos)
  let s2 := ((List.range 64).filter fun p => !(used.contains p)).foldl (fun s p => s.write (base + 0x100 + 256 * p + 4) (bytesOf 0 4) false) s2
  let s3 := (((s2.write base head false).write (base + 0x28000) hidden false).write (base + 0x100 + 256 * tm.pos) (dirEntry s tm l half first pool) false).write
    (base + pool) (poolImage tm r ts half) false
  let s4 := ts.zipIdx.foldl (fun s (t, i) => s.write (base + 0x8000 + 64 * (first + i)) (threadRecord t) false) s3
  s4.setTeam { s4.team tm.uid with image := tm.image ++ [(first, pool)] }

/-- A team is saved: stopped, written half by half, its place freed; a deferred remote status that comes from then on is
kept beside the record (R44, R130, R262). -/
def saveTeam (s : State) (tm : Team) (us : List Nat) : State :=
  let l := s.launchOf tm.launch
  let s1 := stopTeam (us.foldl stopThread s) tm
  let s2 := saveHalf tm 0 (s1.setTeam { s1.team tm.uid with image := [] })
  let s3 := if l.rcd.pair then saveHalf tm 1 s2 else s2
  let s4 := s3.setTeam { s3.team tm.uid with place := .saved (3 * tm.core + l.prio), gone := s3.nextUid }
  let s5 := (coresAt l.rcd tm.core).foldl restartCount s4
  { s5 with nextUid := s3.nextUid + 1, threads := modWhere (·.team == tm.uid) (fun t => { t with remerr := 0, kept := stateCode t, keptSb := t.sb }) s5.threads }

/-- The 64 KiB frames of the save slots of a team that lie in a flip, or in host bias without the step of coherence, make the save
or the resumption wait; save writes meet no lock, as they are no events (R107, R108, R262, R263). -/
def slotsWait (s : State) (tm : Team) (n : Nat) : State × Bool :=
  let l := s.launchOf tm.launch
  let at_ := (if l.rcd.pair then [n, n + 3] else [n]).flatMap fun m => (List.range 56).map fun i => slotBase s l.ctx m + 65536 * i
  if at_.any (flipping s) then (s, true) else let (s1, go) := cohere s at_; (s1, !go)

/-- TEAM_PREEMPT: a victim whose bundles have finished their clauses, with its matrix work drained, is saved (R43, R44). -/
def execTeamPreempt (team : Nat) (s : State) : Host.Outcome State Fault Refusal :=
  let tm := s.team team
  let ts := s.threads.filter (·.team == team)
  let us := ts.map (·.uid)
  .next <|
    if s.hasTeam team && tm.place == .resident && isVictim s tm && (s.launchOf tm.launch).abort.isNone && ts.all (stopped s) && quiet s tm us then
      match slotsWait s tm (3 * tm.core + (s.launchOf tm.launch).prio) with
      | (s1, true) => s1
      | (s1, false) => saveTeam s1 tm us
    else s

/-! ### Resumption (R45, R265, R266) -/

/-- A deferred remote status with one that came after it: the first refused store is the older one's (R130). -/
def mergeErr (old new : Word) : Word :=
  if !old.msb then new
  else if !new.msb then old
  else
    let n := min 127 (bits old.toNat 21 7 + bits new.toNat 21 7)
    (old &&& ~~~(0xFE00000 : Word)) ||| BitVec.ofNat 32 (n * 2 ^ 21)
/-- What a saved thread resumes in: a MONW reads and a RACQ is evaluated again (R408, R431). -/
def Thread.again (t : Thread) : Thread :=
  match t.status with
  | .waiting .monw | .waiting (.racq _ _ _) => { t with status := .ready, reply := none }
  | _ => t
/-- A thread takes the fields of its record, of PC and SB those that software changed; a STATE that it changed is taken as it is
written: a thread written as waiting or parked, whose wait or call the record does not hold, waits for nothing that comes, and
the trap that a DEF written as 1 makes due has free operands. One that goes on where it stood keeps its clause execution (R265,
R266, R314; log entry 66). -/
def restoreThread (t : Thread) (b : List Byte) (regs : List Word) (slot core now : Nat) (free : Nat → Word) : Thread :=
  let w := fun o n => natOf ((b.drop o).take n)
  let st := w 8 8
  let code := bits st 61 3
  let pc := BitVec.ofNat 64 (w 0 8)
  let sb := (List.range 6).map fun i => bits st (6 * i) 6
  let here := pc == t.keptPc
  let t1 := if code == t.kept then t.again
    else match code with
      | 0 | 3 => { t with status := .ready, hold := none, part := none }
      | 1 => { t with status := .waiting .idle, hold := none, part := none }
      | 2 => { t with status := .parked (some (2 ^ 32)), hold := none, part := none }
      | 4 => { t with status := .exited }
      | _ => t
  let sc := w 0x28 4
  let t2 := t1.newLane
  { t2 with pc := if here then t1.pc else pc, mid := if here then t1.mid else none, exe := if here then t1.exe else 0, up := if here then t1.up else none
            hnd := bits st 60 1 == 1, sb := if sb == t.keptSb then t1.sb else sb
            defer := if bits st 59 1 == 0 then [] else if t1.defer != [] then t1.defer else [(pairOf (free 0) (free 1), fields [(1, 8), (bits (free 2).toNat 4 3, 5), (bits (free 2).toNat 0 4, 0)])]
            epc := BitVec.ofNat 64 (w 0x10 8), eaddr := BitVec.ofNat 64 (w 0x18 8), ecode := BitVec.ofNat 8 (w 0x20 4), einfo := BitVec.ofNat 32 (w 0x24 4)
            scoutEn := bits sc 31 1 == 1, scoutBud := min 256 (bits sc 16 9), scoutEpi := BitVec.ofNat 16 sc, policy := BitVec.ofNat 32 (w 0x2C 4) &&& 0xFFFFFF00
            fstat := BitVec.ofNat 5 (w 0x30 4), remerr := mergeErr (BitVec.ofNat 32 (w 0x34 4)) t.remerr, tid := w 0x38 4 % 2048
            regs := if t.spilled then t.regs else regs, slot := slot, core := core, stamp := now }

/-- The directory entry of a half of a saved team (R264). -/
def entryOf (s : State) (tm : Team) (half : Nat) : List Byte :=
  let l := s.launchOf tm.launch
  s.bytes (slotBase s l.ctx (3 * (tm.core + half) + l.prio) + 0x100 + 256 * tm.pos) 256
/-- A field of an entry. -/
def entryNum (e : List Byte) (o n : Nat) : Nat := natOf ((e.drop o).take n)
/-- Both entries of a saved team still hold a team: V is set, and it is among the NTEAMS first such entries of its slot (R263,
R264, R266). -/
def entriesHold (s : State) (tm : Team) : Bool :=
  (coresAt (s.launchOf tm.launch).rcd 0).all fun h =>
    let v := fun p => bits (s.num (slotBase s (s.launchOf tm.launch).ctx (3 * (tm.core + h) + (s.launchOf tm.launch).prio) + 0x100 + 256 * p + 4) 4) 31 1 == 1
    v tm.pos && ((List.range tm.pos).filter v).length < headNum s tm h 0 4 % 128

/-- The threads of a half take their core and the lowest free slots there (R18, R45). -/
def seatHalf (s : State) (tm : Team) (core half : Nat) : State :=
  let ts := halfThreads s tm half
  let slots := freeSlots s [tm.uid] (core + half) (ts.filter fun t => !t.spilled).length
  ts.foldl
    (fun s t =>
      let k := ((ts.filter fun t => !t.spilled).takeWhile fun x => x.uid != t.uid).length
      s.setThread { s.thread t.uid with core := core + half, slot := slots.getD k 0, stamp := s.cycle }) s

/-- The tags a team owns on a core: those it had that TAGOWN still names, and free ones that it names besides, which are
taken as done (R264, R266; log entry 66). -/
def tagsBack (tm : Team) (owned : Nat) (old new : Tab Tag) : Tab Tag :=
  (List.range 64).foldl
    (fun l i =>
      if bits owned i 1 == 0 then l
      else if (tget {} old i).team == tm.uid && old.any (·.1 == i) then tins l i (tget {} old i)
      else if new.any (·.1 == i) then l else tins l i { team := tm.uid, done := true }) new

/-- A field that both entries of a pair team hold: of the two, the one that software changed, the first half's before the second's
(R264, R266; log entry 66). -/
def teamField (s : State) (tm : Team) (pair : Bool) (o lo n : Nat) : Nat :=
  let f := fun (e : List Byte) => bits (entryNum e o 4) lo n
  let a := f (entryOf s tm 0)
  if pair && a == f (dirEntry s tm (s.launchOf tm.launch) 0 0 0) then f (entryOf s tm 1) else a
/-- Restore one half of a team from an entry, whose HALF says which it is; registers keep their marks, and what lies beyond a
length that software made shorter is free (R264-R266; log entry 66). -/
def restoreHalf (old : Team) (slotHalf : Nat) (s : State) : State :=
  let tm := s.team old.uid
  let l := s.launchOf old.launch
  let r := l.rcd
  let base := slotBase s l.ctx (3 * (old.core + slotHalf) + l.prio)
  let d := entryNum (entryOf s old slotHalf)
  let half := if r.pair then bits (d 4 4) 8 1 else 0
  let free := fun k => Config.freeWord (s.draws + 2 ^ 28 * slotHalf + k)
  let first := d 0x14 4 / 2 ^ 16
  let nthr := d 0x14 4 % 2 ^ 12
  let ts := ordered (s.threads.filter fun t => t.team == tm.uid && t.core == tm.core + half) fun x y => x.tid ≤ y.tid
  let s1 := ts.zipIdx.foldl
    (fun s (t, i) =>
      let regs := (List.range r.nreg).map fun n =>
        let o := 4 * (i * r.nreg + n)
        if o + 4 ≤ d 0x1C 4 then BitVec.ofNat 32 (s.num (base + d 0x18 4 + o) 4) else free o
      s.setThread (if i < nthr then restoreThread t (s.bytes (base + 0x8000 + 64 * (first + i)) 64) regs t.slot t.core s.cycle fun k => free (4 * (i * r.nreg + k) + 1)
        else { t with status := .exited })) s
  let scr := putScratch tm.scratch (half * r.scratch)
    ((List.range r.scratch).map fun a => if a < d 0x24 4 then s.byte (base + d 0x20 4 + a) else (free (4 * a + 2)).setWidth 8)
  let acc := (List.range (savedUnits r * 16384)).foldl
    (fun a e => tset 0 a (half * 2 ^ 24 + e) (if 4 * e + 4 ≤ d 0x2C 4 then BitVec.ofNat 32 (s.num (base + d 0x28 4 + 4 * e) 4) else free (4 * e + 3))) tm.acc
  let f := teamField s old r.pair
  let bar := fun b => let x := f (0x40 + 4 * b) 0 32; ({ active := bits x 31 1 == 1, target := bits x 16 12, arrivals := bits x 0 12 } : Bar)
  let conv := fun (t : Team) c => let x := f (0x80 + 4 * c) 0 32
    { tget {} t.convs c with pair := bits x 31 1 == 1, configured := bits x 30 1 == 1, base := bits x 0 11 }
  let tm1 := { s1.team tm.uid with scratch := scr, acc := acc }
  let tm2 := if slotHalf == 0 then
      { tm1 with n := f 0x08 0 32 + r.x * (f 0x0C 0 32 + r.y * f 0x10 0 32), pos := freePos s1 [tm.uid] r.pair tm.core [f 4 0 6]
                 launch := ((s.launches.find? fun y => y.ctx == l.ctx && y.id == BitVec.ofNat 32 (f 0 0 32)).map (·.uid)).getD tm1.launch
                 bars := (List.range 16).foldl (fun l b => tset {} l b (bar b)) tm1.bars
                 convs := (List.range 8).foldl (fun l c => tset {} l c (conv tm1 c)) tm1.convs }
    else tm1
  let c := s1.core (old.core + half)
  let s2 := s1.setCore (old.core + half) { c with tags := c.tags.filter fun x => x.2.team != tm.uid }
  let n := s2.core (tm.core + half)
  (s2.setCore (tm.core + half) { n with tags := tagsBack tm (d 0x30 8) c.tags n.tags }).setTeam tm2

/-- Resume a saved team on a core: its threads take places, its state and its queue items return, and its slots free; the
core's L1 restarts empty (R18, R45, R54, R144). -/
def resumeTeam (s : State) (u core : Nat) : State :=
  let tm := s.team u
  let r := (s.launchOf tm.launch).rcd
  let halves := coresAt r 0
  let s1 := halves.foldl
    (fun s h => seatHalf (emptyL1 (repartition s (keptRec s tm) (core + h)) (core + h)) tm core h) s
  let s2 := s1.setTeam { tm with core := core, place := .resident, anvil := [], image := [] }
  let s3 := halves.foldl (fun s h => restoreHalf tm h s) s2
  let s4 := tm.anvil.foldl (fun s (h, i) => let c := s.core (core + h); s.setCore (core + h) { c with anvil := c.anvil ++ [i] }) (leaveSlots (coresAt r core |>.foldl restartCount s3) tm)
  drain (drain { s4 with draws := s4.draws + 2 ^ 29 } core) (core + 1)

/-- The slots of a saved team whose hidden region no longer has the code kept on chip (R266). -/
def brokenSlots (s : State) (tm : Team) : List Nat :=
  let l := s.launchOf tm.launch
  ((coresAt l.rcd tm.core).filter fun c =>
    crc64 (s.bytes (slotBase s l.ctx (3 * c + l.prio) + 0x28000) 0x58000) != tget 0 (s.core c).saveCrc (crcKey l.ctx l.prio)).map fun c => 3 * c + l.prio
/-- The launches with a team in one of these slots (R266). -/
def slotLaunches (s : State) (tm : Team) (ns : List Nat) : List Nat :=
  (ns.flatMap fun n => (slotTeams s (s.launchOf tm.launch).ctx n).map (·.1.launch)).eraseDups

/-- The core a saved team resumes on, where no unit before its own would take a slot (R45). -/
def resumeCore (s : State) (tm : Team) : Option Nat :=
  homeCore s tm fun c => !(earlierFits s (savedKey s tm) (coresAt (s.launchOf tm.launch).rcd c))
/-- The cores a unit of saved teams resumes on, one for each; none unless all can (R45). -/
def resumeCores (s : State) (tm : Team) (all : List Team) : Option (List Nat) :=
  homeCores s all fun c => !(earlierFits s (savedKey s tm) (coresAt (s.launchOf tm.launch).rcd c))

/-- TEAM_RESUME: a saved team, with its whole gang, returns; a slot whose hidden region does not match aborts every launch
in it, and an entry whose V was cleared holds no team (R45, R264, R266). -/
def execTeamResume (team : Nat) (s : State) : Host.Outcome State Fault Refusal :=
  let tm := s.team team
  let all := unitOf s tm
  .next <|
    if !(s.hasTeam team) || !(all.all Team.isSaved) || (s.launchOf tm.launch).abort.isSome then s
    else match all.find? fun t => brokenSlots s t != [] with
      | some t => (slotLaunches s t (brokenSlots s t)).foldl (fun s l => abortLaunch s l 0x27 0) s
      | none =>
        if !(all.all (entriesHold s)) then s
        else match resumeCores s tm all with
          | some cs =>
            let wait := all.foldl (fun (x : State × Bool) t => if x.2 then x else slotsWait x.1 t (3 * t.core + (s.launchOf t.launch).prio)) (s, false)
            if wait.2 then wait.1 else (all.zip cs).foldl (fun s x => resumeTeam s x.1.uid x.2) wait.1
          | none => s

end Sys2Proof.Machine
end

