-- ==== Sys2Proof/Machine/Hearth.lean ====
section
/-! DEFINITION. The Hearth's packets: what a stream reads and fetches, skips, and the meaning of every packet (R35, R104,
R108, R239-R250, R335, R342, R358, R368, R382, R383, R393-R395, R402, R415, R424, R429, R448, R449, R468, R469). -/
namespace Sys2Proof.Machine
open Sys2Proof

/-! ### Reading for a stream (R244, R270) -/

/-- A demand fault holds the stream, AGENT 3 (R244). -/
def streamFault (s : State) (c n : Nat) (va : DWord) (kind level flags : Nat) : State :=
  let s1 := demandFault s c va 3 kind level flags 0xFFFFFFFF 0
  s1.setStream c n { s1.stream c n with wait := some (.fault (faultPage va)) }

/-- A packet waits. -/
def packetWait (s : State) (c n : Nat) (w : StreamWait) : State := s.setStream c n { s.stream c n with wait := some w }

/-- A stream error at poisoned memory, with its machine check (R270). -/
def streamPoison (s : State) (c n off : Nat) : State := packetError (mcRecord s 1 2 4 0 0 (physOf s off)) c n 0x0004

/-- Read bytes at an address for a stream's packet as one event. -/
def streamRead (s : State) (c n : Nat) (va : DWord) (size flags : Nat) : ScriptRead :=
  match hubReach c false s (segsOf va size) with
  | (s1, .ok segs) =>
    let l := hubRead s1 segs
    match (l.zip (segs.flatMap fun x => from_ x.1 x.2)).find? (·.1.2) with
    | some x => .stop (streamPoison s1 c n x.2)
    | none => .ok s1 (l.map (·.1))
  | (s1, .fault v kind level) => .stop (streamFault s1 c n v kind level flags)
  | (s1, .wait) => .stop (packetWait s1 c n .held)
  | (s1, .bad) => .stop (packetError s1 c n 0x0004)

/-! ### Fetched words (R242) -/

/-- A word the innermost buffer has fetched. -/
def fetchedAt (s : State) (c n : Nat) (va : DWord) : Option Word :=
  (((s.stream c n).bufs.headD {}).fetched.find? (·.1 == va)).map (·.2)
def keepFetched (s : State) (c n : Nat) (va : DWord) (w : Word) : State :=
  s.setStream c n ((s.stream c n).mapBuf fun b => { b with fetched := b.fetched ++ [(va, w)] })
/-- The fetched words of a buffer are discarded; at a restart the header of its clause too (R242, R249). -/
def Buffer.discard (b : Buffer) : Buffer := { b with fetched := [] }
def Buffer.restart (b : Buffer) : Buffer := { b.discard with hdr := none }

/-- The words at some addresses: fetched before, or fetched now. -/
def streamWords (c n : Nat) : State → List DWord → State × Option (List Word)
  | s, [] => (s, some [])
  | s, va :: vs =>
    match fetchedAt s c n va with
    | some w =>
      let (s1, r) := streamWords c n s vs
      (s1, r.map (w :: ·))
    | none =>
      match streamRead s c n va 4 4 with
      | .stop s1 => (s1, none)
      | .ok s1 b =>
        let w := (allWords b).headD 0
        let (s2, r) := streamWords c n (keepFetched s1 c n va w) vs
        (s2, r.map (w :: ·))

/-- Fetch ahead; the first word that cannot be had ends it. -/
def fetchAhead (c n : Nat) : State → List DWord → State
  | s, [] => s
  | s, va :: vs =>
    if (fetchedAt s c n va).isSome then fetchAhead c n s vs
    else if !(canonical va) then s
    else match translateNow s 0 c va false with
      | (s1, .ok phys) =>
        match spotOf s1 phys with
        | some (.mem off) =>
          match agentWaits s1 off 4 false with
          | (s2, true) => s2
          | (s2, false) =>
            if s2.anyPoison off 4 || lost s2 off then s2 else fetchAhead c n (keepFetched s2 c n va (BitVec.ofNat 32 (s2.num off 4))) vs
        | _ => s1
      | (s1, _) => s1

/-- The addresses of up to 256 words after the next packet; at top level none at or beyond the reference tail. -/
def aheadOf (st : Stream) (ahead : Nat) : List DWord :=
  let b := st.bufs.headD {}
  let is := from_ b.word (min ahead 256 + 1)
  (if st.bufs.length ≤ 1 then is.filter fun i => b.clause.toNat + i < st.tail else is).map st.wordVa

/-! ### Clauses and skips (R240, R243, R245) -/

/-- Where HEAD lies in the stream's entry, and its bytes (R239). -/
def headAt (s : State) (c n : Nat) : Nat := entryAt (s.ctx c) n + 0x18
def headBytes (s : State) (c n : Nat) : List Byte := bytesOf (s.stream c n).head 8
/-- Write HEAD into the stream's entry, unless a lock, a flip or the step of coherence holds it: then it is due (R117, R240). -/
def writeHead (s : State) (c n : Nat) : State :=
  match agentWaits s (headAt s c n) 8 true with
  | (s1, true) => s1.setStream c n { s1.stream c n with headDue := true }
  | (s1, false) => (s1.setStream c n { s1.stream c n with headDue := false }).write (headAt s c n) (headBytes s c n) false

/-- A header the Hearth runs: its executor, its form and its reserved bits; WAIT, YLD and NSC are ignored (R243, R300). -/
def streamHeaderOk (h : Word) : Bool :=
  hdrExec h == 2 && hdrN h != 0 && !(h.getLsbD 0) && !(hdrReserved h) && (List.range 15).all fun i => !(h.getLsbD i) || i < hdrN h

/-- A stream reads the header of the clause it stands at, or, restarted, stands in; at top level it waits until the whole clause lies below the
reference tail (R240, R243). -/
def streamHeader (s : State) (c n : Nat) : State :=
  let st := s.stream c n
  let b := st.bufs.headD {}
  let va := st.wordVa 0
  let below := fun k => 1 < st.bufs.length || b.clause.toNat + k ≤ st.tail
  if !(below 1) then s
  else match streamWords c n (s.setStream c n { st with pkt := some (va, va, 0) }) [va] with
    | (s1, some [h]) =>
      if !(streamHeaderOk h) then packetError s1 c n 0x0001
      else if !(below (hdrN h + 1)) then s1
      else s1.setStream c n ((s1.stream c n).mapBuf fun b => { b with hdr := some h, word := max 1 b.word })
    | (s1, _) => s1

/-- Where a skip stands after a packet: it goes on or has ended behind the packet, or the packet executes (R245). -/
def skipOver (k : Skip) (w : Word) : Option (Option Skip) :=
  match fOp w with
  | 0x03 => none
  | 0x05 => if k.loops == 0 && k.mark == some (w.extractLsb' 0 16) then none else some (some k)
  | 0x06 => some (some { k with loops := k.loops + 1 })
  | 0x07 => if k.loops != 0 then some (some { k with loops := k.loops - 1 }) else if k.mark.isNone then some none else none
  | _ => some (some k)

/-- A skipped packet is passed without effect (R245). -/
def passPacket (s : State) (c n : Nat) (k : Option Skip) : State :=
  let s1 := s.setStream c n { (s.stream c n).advance with skip := k }
  if (s1.stream c n).head == (s.stream c n).head then s1 else writeHead s1 c n

/-- What a stream's turn comes to: it ends, or a packet is executed. -/
inductive StreamStep where
  | stop (s : State)
  | go (s : State) (i : Instr) (c : Cur)

/-- A stream at a packet: it is fetched, and passed, or refused, or executed (R240-R245, R254). -/
def streamPacket (s : State) (c n ahead : Nat) (h : Word) : StreamStep :=
  let st := s.stream c n
  let p := (st.bufs.headD {}).word
  let run := contRun h p
  let a := st.wordVa p
  let next := st.wordVa (p + 1 + run)
  match streamWords c n (s.setStream c n { st with pkt := some (a, next, 0) }) ((from_ p (run + 1)).map st.wordVa) with
  | (s1, some (w :: lits)) =>
    let s2 := s1.setStream c n { s1.stream c n with pkt := some (a, next, fOp w), wait := none }
    let last := hdrN h ≤ p + run
    let execute := fun s0 : State =>
      let s := s0.setStream c n { s0.stream c n with began := some ((s0.stream c n).began.getD s0.htime) }
      if hearthMustEnd (fOp w) && !last then .stop (packetError s c n 0x0001)
      else match decode .hearth w lits with
        | .error _ => .stop (packetError s c n 0x0001)
        | .ok i =>
          if !(streamRoom s c) then .stop s
          else .go (fetchAhead c n s (aheadOf st ahead)) i
            { who := .stream c n, addr := a, word := w, next := next, hdr := st.wordVa 0, last := last, pos := 0, exe := 0 }
    match st.skip with
    | none => execute s2
    | some k => match skipOver k w with
      | some r => .stop (passPacket s2 c n r)
      | none => execute (s2.setStream c n { s2.stream c n with skip := none })
  | (s1, _) => .stop s1

/-- The address of the first packet of a stream that has not completed (R249). -/
def Stream.firstVa (st : Stream) : DWord := st.wordVa (max 1 (st.bufs.headD {}).word)

/-- The launch would have to wait: 256 of the context's run, or one has the identity it would take (R248). -/
def launchWaits (s : State) (c : Nat) : Bool :=
  let mine := s.launches.filter (·.ctx == c)
  256 ≤ mine.length || mine.any fun l => l.seq % 2 ^ 28 == (s.ctx c).seq % 2 ^ 28

/-- A stream's packet still waits for what it named; what is only held may be tried again (R241). -/
def standing (s : State) (c : Nat) (st : Stream) : Bool :=
  match st.wait with
  | none | some .held => false
  | some .launch => launchWaits s c
  | some (.fault page) => (faultOf s c page).isSome
  | some _ => true
/-- The clause a stream stands at lies below the reference tail, as far as its header has been fetched (R240). -/
def clauseThere (s : State) (c n : Nat) : Bool :=
  let st := s.stream c n
  let b := st.bufs.headD {}
  1 < st.bufs.length || (b.clause.toNat < st.tail && match fetchedAt s c n (st.wordVa 0) with
    | some h => !(streamHeaderOk h) || b.clause.toNat + hdrN h + 1 ≤ st.tail
    | none => true)
/-- A stream is ready: it has a packet to start, or a bad tail to report (R241, R249, R254). -/
def streamReady (s : State) (c n : Nat) : Bool :=
  let st := s.stream c n
  (s.ctx c).active && st.en && !st.headDue && st.wait != some .held && st.wait != some .journal &&
    (st.badTail || (!(standing s c st) && (st.skip.isSome || streamRoom s c) && ((st.bufs.headD {}).hdr.isSome || clauseThere s c n)))

/-- A stream comes before another: greater PRIO, then the Hearth's round robin (R241). -/
def streamBefore (s : State) (c n d m : Nat) : Bool :=
  let p := (s.stream c n).prio
  let rank := fun k => (k + 1024 - tget 0 s.hub.streamTurn p) % 1024
  (s.stream d m).prio < p || ((s.stream d m).prio == p && rank (64 * c + n) < rank (64 * d + m))
/-- No ready stream comes before this one (R241). -/
def streamDue (s : State) (c n : Nat) : Bool :=
  s.ctxs.all fun (d, x) => x.streams.all fun (m, _) => (d == c && m == n) || !(streamReady s d m) || streamBefore s c n d m
/-- The round robin goes on behind a stream that starts a packet (R241). -/
def pastStream (s : State) (c n : Nat) : State :=
  if (s.stream c n).wait == some .held then s
  else { s with hub := { s.hub with streamTurn := tset 0 s.hub.streamTurn (s.stream c n).prio ((64 * c + n + 1) % 1024) } }

/-- A stream's turn (R240, R241, R249). -/
def streamTurn (s : State) (c n ahead : Nat) : StreamStep :=
  let st := s.stream c n
  if !(s.ctx c).active || !st.en || st.wait == some .journal || !(streamDue s c n) then .stop s
  else if st.headDue then .stop (writeHead s c n)
  else if st.badTail then .stop (streamError s c n 0 0 st.firstVa 0 0x0002)
  else if standing s c st then .stop s
  else match (st.bufs.headD {}).hdr with
    | none => .stop (streamHeader s c n)
    | some h => streamPacket (pastStream s c n) c n ahead h

/-! ### The form of a packet (R243, R393) -/

/-- A Hearth packet: its field limits, then its effect for its stream; no other executor has it (R322). -/
def hearthOp (s : State) (i : Instr) (f : Nat → Nat → Stream → State) : Host.Outcome State Fault Refusal :=
  withCur s fun c =>
    match c.who with
    | .stream x n => if Instr.wf i then f x n (s.stream x n) else packetError s x n 0x0001
    | .thread u => trapOr s u 0x01 c.addr c.word c.addr
    | .script k => endScript s k 0x01

/-! ### Control packets (R245, R358, R382, R383, R394, R402, R429) -/

/-- JMARK (R394). -/
def execJmark (mark : BitVec 16) (s : State) : Host.Outcome State Fault Refusal :=
  hearthOp s (.jmark mark) fun c n _ => packetDone s c n mark.toNat 0

/-- IB: the record, then the buffer (R382). -/
def execIb (addr : DWord) (s : State) : Host.Outcome State Fault Refusal :=
  hearthOp s (.ib addr) fun c n st =>
    if addr.toNat % 4 != 0 then packetError s c n 0x0005
    else if !(canonical addr) then packetError s c n 0x0004
    else if 5 ≤ st.bufs.length then packetError s c n 0x0003
    else packetDoneTo s c n 0 0 fun st => { st with bufs := { clause := addr } :: st.bufs }

/-- IBRET: execution goes on behind the IB's clause (R383). -/
def execIbret (s : State) : Host.Outcome State Fault Refusal :=
  hearthOp s .ibret fun c n st =>
    if st.bufs.length ≤ 1 || (st.bufs.headD {}).loops != [] then packetError s c n 0x0003
    else packetDoneTo s c n 0 0 fun st => ({ st with bufs := st.bufs.drop 1 } : Stream).advance

/-- LOOP: a loop whose body is at the next clause, or a skip past its ENDL (R402). -/
def execLoop (count : Word) (s : State) : Host.Outcome State Fault Refusal :=
  hearthOp s (.loop count) fun c n st =>
    if 4 ≤ (st.bufs.map fun b => b.loops.length).sum then packetError s c n 0x0003
    else if count == 0 then packetDoneTo s c n 0 0 fun st => { st.advance with skip := some ⟨none, 0⟩ }
    else packetDoneTo s c n 0 0 fun st =>
      let st1 := st.advance
      st1.mapBuf fun b => { b with loops := ⟨b.clause, count.toNat, 0⟩ :: b.loops }

/-- ENDL: the innermost loop of the buffer runs again or closes (R358). -/
def execEndl (s : State) : Host.Outcome State Fault Refusal :=
  hearthOp s .endl fun c n st =>
    match (st.bufs.headD {}).loops with
    | [] => packetError s c n 0x0003
    | l :: rest =>
      if l.done + 1 < l.count then packetDoneTo s c n 0 0 fun st =>
        let st1 := (st.retireClause).atClause l.body
        st1.mapBuf fun b => { b with fetched := [], loops := { l with done := l.done + 1 } :: rest }
      else packetDoneTo s c n 0 0 fun st => st.advance.mapBuf fun b => { b with loops := rest }

/-- PREDW's conditions (R429). -/
def predwHolds (cc : Nat) (word val : Word) : Bool :=
  match cc with
  | 0 => word == val
  | 1 => word != val
  | 2 => word.ult val
  | 3 => !(word.ult val)
  | 4 => word.slt val
  | _ => !(word.slt val)

/-- PREDW's outcome: the stream goes on, or skips to its mark (R245, R429). -/
def predwDone (s : State) (c n cc : Nat) (mark : BitVec 16) (word val : Word) : State :=
  if predwHolds cc word val then packetDone s c n 0 0
  else packetDoneTo s c n 1 0 fun st => { st.advance with skip := some ⟨some mark, 0⟩ }

/-- The id under which a stream's read of host memory is answered. -/
def streamAsker (c n : Nat) : Nat := 2 ^ 33 + c * 64 + n

/-- The register blocks whose 4-byte words the Hearth reads (R93, R185, R197, R201, R236, R238, R246, R272, R281, R286). -/
def hearthReads (b : Block) : Bool :=
  match b with
  | .translation | .ports | .fabric | .bellows | .telemetry => true
  | .sems | .scout | .hearth | .checks | .link | .mgmt => false

/-- PREDW (R429). -/
def execPredw (cc : BitVec 3) (mark : BitVec 16) (addr : DWord) (val : Word) (s : State) : Host.Outcome State Fault Refusal :=
  hearthOp s (.predw cc mark addr val) fun c n _ =>
    if addr.toNat % 4 != 0 then packetError s c n 0x0005
    else if !(canonical addr) then packetError s c n 0x0004
    else match translateNow s 0 c addr false with
      | (s1, .busy) => packetWait s1 c n .held
      | (s1, .fault kind level) => streamFault s1 c n addr kind level 0
      | (s1, .ok phys) =>
        match spotOf s1 phys with
        | some (.mem off) =>
          match agentWaits s1 off 4 false with
          | (s2, true) => packetWait s2 c n .held
          | (s2, false) =>
            let (s3, b, p) := s2.read off 4
            if p then streamPoison s3 c n off else predwDone s3 c n cc.toNat mark (BitVec.ofNat 32 (natOf b)) val
        | some (.block b o) =>
          if hearthReads b then predwDone s1 c n cc.toNat mark (blockWord s1 b o) val else packetError s1 c n 0x0004
        | some (.window off) => (packetWait s1 c n (.host cc.toNat mark val)).send (.hostRead (hostAddr s1 off) 4 (streamAsker c n))
        | _ => packetError s1 c n 0x0004

/-- FFENCE: the fetched words of every entered buffer are discarded (R242, R368). -/
def execFfence (s : State) : Host.Outcome State Fault Refusal :=
  hearthOp s .ffence fun c n _ => packetDoneTo s c n 0 0 fun st =>
    let st1 := st.advance
    { st1 with bufs := st1.bufs.map Buffer.discard }

/-! ### Stores (R415, R468) -/

/-- A naturally aligned store of 4 or 8 bytes in stream order; of the register blocks it reaches the semaphores alone (R415). -/
def streamStore (s : State) (c n : Nat) (va : DWord) (size : Nat) (v : DWord) : State :=
  if va.toNat % size != 0 then packetError s c n 0x0005
  else if !(canonical va) then packetError s c n 0x0004
  else match translateNow s 0 c va true with
    | (s1, .busy) => packetWait s1 c n .held
    | (s1, .fault kind level) => streamFault s1 c n va kind level 1
    | (s1, .ok phys) =>
      match spotOf s1 phys with
      | some (.mem off) =>
        match agentWaits s1 off size true with
        | (s2, true) => packetWait s2 c n .held
        | (s2, false) => packetDone (s2.write off (bytesOf v.toNat size) false) c n 0 0
      | some (.block .sems o) => if size == 8 then threadStore (packetDone s1 c n 0 0) .sems o v else packetError s1 c n 0x0004
      | some (.window off) => packetDone (s1.send (.hostWrite (hostAddr s1 off) (bytesOf v.toNat size))) c n 0 0
      | _ => packetError s1 c n 0x0004

/-- MWRI (R415). -/
def execMwri (wide : Bool) (addr val : DWord) (s : State) : Host.Outcome State Fault Refusal :=
  hearthOp s (.mwri wide addr val) fun c n _ => streamStore s c n addr (if wide then 8 else 4) val
/-- TSW: HTIME as it was when the packet started (R244, R468). -/
def execTsw (addr : DWord) (s : State) : Host.Outcome State Fault Refusal :=
  hearthOp s (.tsw addr) fun c n st => streamStore s c n addr 8 (BitVec.ofNat 64 (st.began.getD s.htime))

/-! ### Semaphores and scripts (R246, R342, R448, R449) -/

/-- SEMS (R448). -/
def execHearthSems (k : Byte) (val : DWord) (s : State) : Host.Outcome State Fault Refusal :=
  hearthOp s (.hearthSems k val) fun c n _ => semAdd (packetDone s c n 0 0) c k.toNat val

/-- SEMW (R449). -/
def execHearthSemw (dec : Bool) (k : Byte) (val : DWord) (s : State) : Host.Outcome State Fault Refusal :=
  hearthOp s (.hearthSemw dec k val) fun c n _ =>
    if val ≤ s.sem c k.toNat then packetDone (if dec then s.setSem c k.toNat (s.sem c k.toNat - val) else s) c n 0 0
    else packetWait { s with nextUid := s.nextUid + 1 } c n (.semaphore k.toNat val dec s.nextUid)

/-- BSTRT (R342). -/
def execBstrt (k : BitVec 2) (pc arg : DWord) (s : State) : Host.Outcome State Fault Refusal :=
  hearthOp s (.bstrt k pc arg) fun c n st =>
    if pc.toNat % 4 != 0 then packetError s c n 0x0005
    else if (s.script k.toNat).running then packetWait s c n (.script k.toNat pc arg)
    else packetDone (startScript s k.toNat c n st.level pc arg) c n 0 0

/-! ### Pins (R104, R424, R469) -/

/-- The leaf pages of a range, each walked in its context's tables; none when one is not present or malformed, with the
offset of a poisoned entry met. -/
def pinPages (s : State) (ctx last : Nat) : Nat → Nat → Except (Option Nat) (List Xlate)
  | 0, _ => .ok []
  | f + 1, va =>
    if last < va then .ok []
    else if !(canonical (BitVec.ofNat 64 va)) then .error none
    else match walk s ctx (va % 2 ^ 57) with
      | .bad _ _ pois => .error pois
      | .leaf frame level w =>
        match pinPages s ctx last f ((va >>> pageBits level + 1) <<< pageBits level) with
        | .ok l => .ok ({ leafXlate ctx (va % 2 ^ 57) frame level w with pins := 1 } :: l)
        | e => e

/-- Two translations of one page. -/
def Xlate.same (x y : Xlate) : Bool := x.ctx == y.ctx && x.va == y.va && x.level == y.level
/-- Pin one page more: another pin of a page that is pinned, or a new entry (R104). -/
def pinOne (l : List Xlate) (x : Xlate) : List Xlate :=
  if l.any (Xlate.same x) then modWhere (Xlate.same x) (fun y => { y with pins := y.pins + 1 }) l else l ++ [x]

/-- PIN (R424). -/
def execPin (va len : DWord) (s : State) : Host.Outcome State Fault Refusal :=
  hearthOp s (.pin va len) fun c n _ =>
    if va.toNat % 65536 != 0 || len.toNat % 65536 != 0 then packetError s c n 0x0005
    else if len == 0 then packetDone s c n 0 0
    else match pinPages s c (va.toNat + len.toNat - 1) (len.toNat / 65536) va.toNat with
      | .error pois => packetError (walkCheck s 0 pois) c n 0x000E
      | .ok l =>
        let p := l.foldl pinOne s.pinned
        if 65536 < p.length then packetError s c n 0x000E else packetDone { s with pinned := p } c n 0 0

/-- The canonical address of an entry's page (R87). -/
def Xlate.first (x : Xlate) : Nat := (pageVa (x.va / 65536)).toNat
/-- A pinned page that a range of addresses touches loses one pin; what is not canonical in the range touches none (R87, R469). -/
def unpinOne (ctx va len : Nat) (x : Xlate) : Option Xlate :=
  if x.ctx == ctx && x.first < va + len && va < x.first + 2 ^ pageBits x.level then
    (if x.pins ≤ 1 then none else some { x with pins := x.pins - 1 })
  else some x
/-- UNPIN (R469). -/
def execUnpin (va len : DWord) (s : State) : Host.Outcome State Fault Refusal :=
  hearthOp s (.unpin va len) fun c n _ =>
    if va.toNat % 65536 != 0 || len.toNat % 65536 != 0 then packetError s c n 0x0005
    else packetDone { s with pinned := if len == 0 then s.pinned else s.pinned.filterMap (unpinOne c va.toNat len.toNat) } c n 0 0

/-! ### Bias flips (R108, R335) -/

/-- The frames of a range, 64 KiB each, or what stops the packet. -/
def biasFrames (c n : Nat) : State → List DWord → State × Option (List Nat)
  | s, [] => (s, some [])
  | s, va :: vs =>
    if !(canonical va) then (packetError s c n 0x000F, none)
    else match translateNow s 0 c va false with
      | (s1, .busy) => (packetWait s1 c n .held, none)
      | (s1, .fault kind level) => (streamFault s1 c n va kind level 0, none)
      | (s1, .ok phys) =>
        if !(isLocal s1 phys) || !(isMemory s1 (offOf phys)) then (packetError s1 c n 0x000F, none)
        else match biasFrames c n s1 vs with
          | (s2, some l) => (s2, some (nins l (offOf phys / 65536)))
          | r => r

/-- The first flip of the queue begins, for the frames that do not have its bias; to device bias, the host is directed to
write back its copies (R108). -/
def startFlip (s : State) : State :=
  match s.flips with
  | [] => s
  | f :: rest =>
    let frames := f.frames.filter fun g => nmem s.bias g != f.toHost
    let s1 := { s with flips := { f with frames := frames } :: rest }
    if f.toHost || frames == [] then s1 else s1.send (.snoop frames)

/-- Every frame has the bias already, and no flip that was started earlier is to change one (R108, R335). -/
def biasThere (s : State) (l : List Nat) (toHost : Bool) : Bool :=
  l.all fun g => nmem s.bias g == toHost && s.flips.all fun f => !(f.frames.contains g)

/-- BIAS: the pages are translated, then the flip is queued; frames that have the bias already need none (R108, R335). -/
def biasPacket (s : State) (i : Instr) (va len : DWord) (toHost : Bool) : Host.Outcome State Fault Refusal :=
  hearthOp s i fun c n _ =>
    if va.toNat % 65536 != 0 || len.toNat % 65536 != 0 then packetError s c n 0x0005
    else match biasFrames c n s ((List.range (len.toNat / 65536)).map fun k => va + BitVec.ofNat 64 (65536 * k)) with
      | (s1, none) => s1
      | (s1, some l) =>
        if biasThere s1 l toHost then packetDone s1 c n 0 0
        else
          let s2 := { s1 with flips := s1.flips ++ [⟨c, n, toHost, l⟩] }
          packetWait (if s1.flips == [] then startFlip s2 else s2) c n .flip
def execBiasDev (va len : DWord) (s : State) : Host.Outcome State Fault Refusal := biasPacket s (.biasDev va len) va len false
def execBiasHost (va len : DWord) (s : State) : Host.Outcome State Fault Refusal := biasPacket s (.biasHost va len) va len true

/-- A range lock of a copy covers a place (R117, R163). -/
def lockCovers (s : State) (l : Loc) : Bool :=
  (lockHolders s).any (fun (core, _, c) => c.covers s core true l || c.covers s core false l) || s.farLocks.any fun f => farLockOf s f l true != .free
/-- No range lock covers a line of a flip's frames (R108). -/
def flipClear (s : State) (f : Flip) : Bool :=
  f.frames.all fun g => (List.range 512).all fun i => !(lockCovers s (.glob (physOf s (g * 65536 + 128 * i))))

/-- Every line of the frames leaves L1 and L2 (R108). -/
def dropLines (s : State) (frames : List Nat) : State :=
  let keep := fun l : List (Nat × EClass) => l.filter fun e => !(frames.contains (e.1 / 512))
  { s with l2 := (s.l2.map fun (k, l) => (k, keep l)).filter fun x => x.2 != [], cores := s.cores.map fun (k, c) => (k, { c with l1 := keep c.l1 }) }

/-- BIAS_FLIP_COMPLETE: the flip that runs sets its bits; its packet completes unless it has stopped waiting; the next
flip begins (R108, R335). -/
def execBiasFlipComplete (s : State) : Host.Outcome State Fault Refusal :=
  .next <| match s.flips with
    | [] => s
    | f :: rest =>
      if !(flipClear s f) then s
      else
        let s1 := if f.toHost then dropLines s f.frames else s
        let s2 := { s1 with bias := f.frames.foldl (fun b g => nput b g f.toHost) s1.bias, flips := rest }
        let waits := (s2.stream f.ctx f.stream).wait == some .flip && !(rest.any fun g => g.ctx == f.ctx && g.stream == f.stream)
        startFlip (if !waits then s2 else if streamRoom s2 f.ctx then packetDone s2 f.ctx f.stream 0 0 else packetWait s2 f.ctx f.stream .held)

/-! ### Launches (R35, R247, R248, R395) -/

/-- A launch record from its 256 bytes, and whether its reserved fields are zero (R247). -/
def parseLaunch (l : List Byte) : LaunchRec × Bool :=
  let w := fun o n => natOf ((l.drop o).take n)
  let a := w 0x24 4
  let b := w 0x28 4
  let p := w 0x2C 4
  let z := w 0x48 4
  let r : LaunchRec := { entry := BitVec.ofNat 64 (w 0 8), handler := BitVec.ofNat 64 (w 8 8), args := BitVec.ofNat 64 (w 16 8)
                         x := w 0x18 4, y := w 0x1C 4, z := w 0x20 4, groups := bits a 24 8, wcode := bits a 22 2, nreg := bits a 14 8
                         nbar := bits a 9 5, nconv := bits a 5 4, cgrp := bits b 26 6, prio := bits b 24 2, scout := bits b 15 9
                         pair := bits b 14 1 == 1, strict := bits b 13 1 == 1, dup := bits b 12 1 == 1, pb1 := bits p 0 8, pb2 := bits p 8 8
                         pb3 := bits p 16 8, scratch := w 0x30 4, gang := w 0x34 2, svbase := BitVec.ofNat 64 (w 0x38 8)
                         park := BitVec.ofNat 64 (w 0x40 8), cse := bits z 31 1 == 1, svlog := bits z 8 5, csem := bits z 0 8 }
  (r, bits a 0 5 == 0 && bits b 0 12 == 0 && bits p 24 8 == 0 && w 0x36 2 == 0 && bits z 13 18 == 0 && (l.drop 0x4C).all (· == 0))

/-- The first check a launch record fails, by its status; 0 when it passes all (R35, R248). -/
def launchStatus (s : State) (r : LaunchRec) (clear : Bool) : Nat :=
  if !clear || r.entry.toNat % 4 != 0 || 256 < r.scout || !(r.svlog == 0 || (4 ≤ r.svlog && r.svlog ≤ 16)) then 0x0006
  else if r.wcode == 3 then 0x0007
  else if r.nreg % 8 != 0 || r.nreg < 8 || 128 < r.nreg then 0x0008
  else if r.groups < 1 || 64 < r.groups || (if r.pair then 2048 else 1024) < r.nthr || (r.pair && r.groups % 2 != 0) || (r.dup && !r.pair) then 0x0009
  else if 16 < r.nbar || 8 < r.nconv || r.groups ≤ r.cgrp then 0x000A
  else if r.pb2 < r.pb1 || r.pb3 < r.pb2 || 192 < r.pb3 || (r.pb2 - r.pb1) % 4 != 0 then 0x000B
  else if !(teamFits s r) then 0x000C
  else if !(gangFits s r) then 0x000D
  else 0

/-- Acceptance: the packet's record, the discard of fetched code and of every core's record cache, the launch in the
dispatcher's queue; a launch without teams ends at once (R17, R43, R112, R160, R248). -/
def acceptLaunch (s : State) (c n : Nat) (st : Stream) (r : LaunchRec) : State :=
  let l : Launch := { uid := s.nextUid, ctx := c, stream := n, level := st.level, seq := (s.ctx c).seq, rcd := r
                      prio := min r.prio st.prio, since := s.cycle }
  let s1 := packetDone s c n 0 0
  let s2 := { s1 with cores := s1.cores.map (fun (k, x) => (k, { x with icache := [], rcache := [] })), launches := s1.launches ++ [l]
                      threads := modWhere (fun t => t.part.any (·.shape)) (fun t => { t with recOld := true }) s1.threads
                      nextUid := s1.nextUid + 1 }
  if r.total == 0 then launchEnd s2 l 0 0 else s2

/-- LAUNCH (R248, R395). -/
def execLaunch (rcd : DWord) (s : State) : Host.Outcome State Fault Refusal :=
  hearthOp s (.launch rcd) fun c n st =>
    if rcd.toNat % 64 != 0 then packetError s c n 0x0005
    else if !(canonical rcd) then packetError s c n 0x0004
    else if launchWaits s c then packetWait s c n .launch
    else match streamRead s c n rcd 256 0 with
      | .stop s1 => s1
      | .ok s1 b =>
        let (r, clear) := parseLaunch b
        match launchStatus s1 r clear with
        | 0 => acceptLaunch s1 c n st r
        | e => packetError s1 c n e

end Sys2Proof.Machine
end

