-- ==== Sys2Proof/Machine/Contexts.lean ====
section
/-! DEFINITION. The Hearth's contexts and streams as events: enabling and disabling, tails, the journal's writes, host
aborts and service replies (R237-R240, R249, R252-R254). -/
namespace Sys2Proof.Machine
open Sys2Proof

/-! ### Streams (R239, R240, R249) -/

/-- A stream stands at its next packet boundary: what waits stops waiting, a record that is queued is still written. -/
def Stream.atBoundary (st : Stream) : Stream :=
  { st with wait := if st.wait == some .journal then some .journal else none, began := none }

/-- The Hearth observes a value of TAIL: it becomes the reference tail, or is bad (R240). -/
def observeTail (s : State) (c n v : Nat) : State :=
  let st := s.stream c n
  if v < st.tail || st.head + 2 ^ st.lsize < v then s.setStream c n { st.atBoundary with badTail := true }
  else s.setStream c n { st with tail := v }
/-- TAIL of a stream's entry. -/
def tailAt (s : State) (c n : Nat) : Nat := s.num (entryAt (s.ctx c) n + 0x10) 8

/-- The oldest store to a stream's EN or TAIL that the Hearth has not observed: which and its value (R240). -/
def nextNoted (s : State) (c n : Nat) : Option (Nat × Nat) :=
  (s.noted.find? fun x => x.1 == c && x.2.1 == n).map fun x => (x.2.2.1, x.2.2.2)
/-- It has been observed. -/
def observed (s : State) (c n : Nat) : State := { s with noted := s.noted.eraseP fun x => x.1 == c && x.2.1 == n }

/-- TAIL_OBSERVE: the Hearth observes the next store to TAIL that was placed while EN was 1 (R240). -/
def execTailObserve (c n : Nat) (s : State) : Host.Outcome State Fault Refusal :=
  .next <| match nextNoted s c n with
    | some (1, v) =>
      if (s.stream c n).en && !(s.stream c n).badTail then observeTail (observed s c n) c n v else observed s c n
    | _ => s

/-- A stream's entry as software left it: BASE, PRIO, LSIZE, EN and whether the reserved fields are zero (R239). -/
structure StreamEntry where
  base  : DWord
  en    : Bool
  prio  : Nat
  lsize : Nat
  clear : Bool
  head  : Nat
  deriving DecidableEq, Repr
def readEntry (s : State) (c n : Nat) : StreamEntry :=
  let e := entryAt (s.ctx c) n
  let w := s.num (e + 8) 4
  { base := BitVec.ofNat 64 (s.num e 8), en := bits w 31 1 == 1, prio := bits w 24 2, lsize := bits w 0 5
    clear := bits w 26 5 == 0 && bits w 5 19 == 0 && s.num (e + 12) 2 == 0, head := s.num (e + 0x18) 8 }

/-- The Hearth sees EN go to 1: a fresh stream's entry is checked and starts at HEAD, another one resumes with its fetched
words discarded; then TAIL is read and observed, as are with it the stores to TAIL it has not observed before (R240, R249). -/
def enableStream (s0 : State) (c n : Nat) : State :=
  let s : State := { s0 with noted := s0.noted.filter fun x => !(x.1 == c && x.2.1 == n && x.2.2.1 == 1) }
  let st := s.stream c n
  let e := readEntry s c n
  if !(s.ctx c).active || st.en then s0
  else if !st.fresh then
    observeTail (s.setStream c n { st with en := true, prio := e.prio, bufs := st.bufs.map Buffer.restart }) c n (tailAt s c n)
  else if e.base.toNat % 4096 != 0 then streamError s c n 0 0 e.base 0 0x0005
  else if e.lsize < 10 || 24 < e.lsize || !e.clear then streamError s c n 0 0 e.base 0 0x0006
  else
    observeTail (s.setStream c n { en := true, fresh := false, base := e.base, lsize := e.lsize, prio := e.prio, head := e.head
                                   tail := e.head, bufs := [{ clause := BitVec.ofNat 64 e.head }] }) c n (tailAt s c n)

/-- STREAM_ENABLE: the Hearth observes the next store to EN, which sets it (R240). -/
def execStreamEnable (c n : Nat) (s : State) : Host.Outcome State Fault Refusal :=
  .next <|
    if nextNoted s c n == some (0, 1) then
      match placesWait s [(entryAt (s.ctx c) n, 32)] false with
      | (s1, true) => s1
      | (s1, false) => enableStream (observed s1 c n) c n
    else s

/-- A running stream stops at its next packet boundary (R240). -/
def stopStream (s : State) (c n : Nat) : State :=
  let st := s.stream c n
  if st.en then s.setStream c n { st.atBoundary with en := false } else s
/-- STREAM_STOP: the Hearth observes the next store to EN, which clears it (R240). -/
def execStreamStop (c n : Nat) (s : State) : Host.Outcome State Fault Refusal :=
  .next (if nextNoted s c n == some (0, 0) then stopStream (observed s c n) c n else s)

/-! ### Contexts (R237, R238) -/

/-- A structure of n bytes at a physical address lies in this module's memory, or in stacked DRAM alone (R237). -/
def inMemory (s : State) (phys n : Nat) (dram : Bool) : Bool :=
  let first := offOf phys
  let last := first + n - 1
  isLocal s phys && ((isDram first && isDram last) || (!dram && isTier s first && isTier s last))

/-- A context record read: its fields as they go into the context, and whether every field is in order (R237). -/
def parseContext (s : State) (x : Ctx) (l : List Byte) : Ctx × Bool :=
  let w := fun o n => natOf ((l.drop o).take n)
  let p := fun o => w o 8 * 16
  let y := { x with jovw := bits (w 0 4) 0 1 == 1, root := p 8, frbase := p 16, frlog := bits (w 0x18 8) 0 5, jbase := p 0x20
                    jlog := bits (w 0x28 8) 0 5, stab := p 0x30, asbase := p 0x38, aslines := w 0x40 4, save := p 0x48 }
  let clear := w 0 4 < 2 && w 4 4 == 0 && w 0x18 8 < 32 && w 0x28 8 < 32 && w 0x44 4 == 0 && w 0x50 48 == 0
  let ranges := 6 ≤ y.frlog && y.frlog ≤ 16 && 8 ≤ y.jlog && y.jlog ≤ 24
  let ok := fun a align n dram => a % align == 0 && inMemory s a n dram
  (y, clear && ranges && ok y.root 2097152 2097152 false && ok y.frbase 32 (32 * 2 ^ y.frlog + 8) false &&
    ok y.jbase 32 (32 * 2 ^ y.jlog + 16) false && ok y.stab 2048 2048 false && ok y.asbase 128 (max 1 (128 * y.aslines)) false &&
    (y.save == 0 || ok y.save 65536 (384 * 3 * 0x380000) true))

/-- The context's record, with its fields as parsed, lies where it can be read; and where its stream table lies (R237). -/
def recordOff (s : State) (c : Nat) : Nat := offOf ((s.ctx c).cxrec.toNat * 16)
def readable (s : State) (c : Nat) : Bool :=
  inMemory s ((s.ctx c).cxrec.toNat * 16) 128 false && !(s.anyPoison (recordOff s c) 128) && !(anyLost s (recordOff s c) 128)
def parsed (s : State) (c : Nat) : Ctx × Bool :=
  let (y, ok) := parseContext s (s.ctx c) (s.bytes (recordOff s c) 128)
  (y, (s.ctx c).cxrec.toNat * 16 % 64 == 0 && ok)
/-- CXCTL.EN goes from 0 to 1: the record is read and checked, and the streams whose EN is 1 start (R237, R240). -/
def enableContext (s : State) (c : Nat) : State :=
  let x := s.ctx c
  if x.en then s
  else if !(readable s c) then recordLost (s.setCtx c { x with en := true, err := 1 }) (recordOff s c) (lostLines s (recordOff s c) 128)
  else
    let (y, ok) := parsed s c
    if !ok then s.setCtx c { x with en := true, err := 2 }
    else (List.range 64).foldl (fun s n => if (readEntry s c n).en then enableStream s c n else s)
      (s.setCtx c { y with en := true, active := true, err := 0 })
/-- What a context's enabling reads can be read now: its record, and, when that is in order, its stream table (R107, R108,
R117). -/
def enableWaits (s : State) (c : Nat) : State × Bool :=
  if !(readable s c) then (s, false)
  else match placesWait s [(recordOff s c, 128)] false with
    | (s1, true) => (s1, true)
    | (s1, false) =>
      let (y, ok) := parsed s1 c
      if ok then placesWait s1 [(y.stab % 2 ^ 47, 2048)] false else (s1, false)
/-- A context is enabled, at once or when what its enabling reads can be read; in recovery none is (R107, R117, R237, R285). -/
def startContext (s : State) (c : Nat) : State :=
  if (s.ctx c).en || s.hub.stage != 3 || s.hubq.contains (.enable c) then s
  else match enableWaits s c with
    | (s1, true) => { s1 with hubq := s1.hubq ++ [.enable c] }
    | (s1, false) => enableContext s1 c

/-- The oldest write of the hub's own that waits is made, or the enabling goes on, once nothing holds it; false while it waits
(R107, R108, R117, R123). -/
def hubDue (s : State) : State × Bool :=
  match s.hubq with
  | [] => (s, false)
  | d :: rest =>
    let places := match d with
      | .check .. => [(recordPlace s, 32)]
      | .stop e _ => [(e + 8, 8)]
      | .put off data => [(off, data.length)]
      | .enable _ => []
    match (match d with | .enable c => enableWaits s c | _ => placesWait s places true) with
    | (s1, true) => (s1, false)
    | (s1, false) =>
      let s2 := { s1 with hubq := rest }
      (match d with
        | .check sev kind uclass unit launch addr time => if s2.hub.mcbase == 0 then s2 else putCheck s2 sev kind uclass unit launch addr time
        | .stop e status => stopEntry s2 e status
        | .put off data => s2.poke off data false
        | .enable c => enableContext s2 c, true)
/-- They are made as far as nothing holds them. -/
def flushHub : Nat → State → State
  | 0, s => s
  | f + 1, s => match hubDue s with
    | (s1, true) => flushHub f s1
    | (s1, false) => s1

/-- The HEAD of a completed clause is not written yet (R240). -/
def owesHead (st : Stream) : Bool :=
  st.headDue || (st.wait == some .journal && st.bufs.length ≤ 1 && (st.bufs.headD {}).word == 0)
/-- EN is cleared: every stream stops at its next packet boundary, with its HEAD written, and becomes fresh (R238). -/
def disableContext (s : State) (c : Nat) : State :=
  let x := s.ctx c
  if !x.en then { s with hubq := s.hubq.filter (· != .enable c) }
  else
    let s1 := x.streams.foldl (fun (s : State) (n, st) => if owesHead st then hubPut s (headAt s c n) (headBytes s c n) else s) s
    { s1 with noted := s1.noted.filter (·.1 != c) }.setCtx c { s1.ctx c with en := false, active := false, streams := [] }

/-- CONTEXT_ENABLE and CONTEXT_DISABLE. -/
def execContextEnable (c : Nat) (s : State) : Host.Outcome State Fault Refusal := .next (if c < 16 then startContext s c else s)
def execContextDisable (c : Nat) (s : State) : Host.Outcome State Fault Refusal := .next (if c < 16 then disableContext s c else s)

/-! ### LABRT and SVRPL (R238, R252) -/

/-- A running launch of a context by its identity. -/
def launchNamed (s : State) (c : Nat) (id : Word) : Option Launch := s.launches.find? fun l => l.ctx == c && l.id == id

/-- A write of LABRT (R238). -/
def writeLabrt (s : State) (c : Nat) (v : Word) : State :=
  let s1 := s.setCtx c { s.ctx c with labrt := v }
  match launchNamed s1 c v with
  | some l => abortLaunch s1 l.uid 0x24 0
  | none => s1
/-- LABRT_WRITE. -/
def execLabrtWrite (c : Nat) (v : Word) (s : State) : Host.Outcome State Fault Refusal := .next (if c < 16 then writeLabrt s c v else s)

/-- The registers an answer loads, with their poison. -/
def loadAnswer (t : Thread) (ws : List (Word × Bool)) : Thread :=
  ws.zipIdx.foldl (fun (t : Thread) x => if 1 + x.2 < t.regs.length then t.put (1 + x.2) x.1.1 x.1.2 else t) t

/-- An answer for a thread of a saved team goes into its image as well: its registers and its STATE (R252, R262, R265). -/
def answerImage (s : State) (t : Thread) : State :=
  let tm := s.teamOf t
  let l := s.launchOfThread t
  let half := halfOf tm t
  match tm.place with
  | .saved n =>
    let base := slotBase s l.ctx (n + 3 * half)
    let (first, pool) := tm.image.getD half (0, 0)
    let i := ((halfThreads s tm half).takeWhile fun x => x.uid != t.uid).length
    let rec_ := base + 0x8000 + 64 * (first + i)
    let s1 := s.write (rec_ + 8) (bytesOf (s.num (rec_ + 8) 8 % 2 ^ 61) 8) false
    if t.spilled then s1
    else s1.write (base + pool + 4 * (i * l.rcd.nreg + 1)) ((from_ 1 (min 8 (l.rcd.nreg - 1))).flatMap fun k => bytesOf (t.regs.getD k 0).toNat 4) false
  | _ => s

/-- The Hearth reads RES as one event and the thread is ready behind its SVC; a demand fault keeps it parked until the
service, and what is no memory aborts the launch (R252). -/
def answerCall (s : State) (u i : Nat) : State :=
  let t := s.thread u
  let l := s.launchOfThread t
  let va := serviceAt l.rcd i + 0x20
  if l.abort.isSome then s
  else match hubReach l.ctx false s (segsOf va 32) with
  | (s1, .ok segs) =>
    let b := hubRead s1 segs
    let ws := (List.range 8).map fun k =>
      let x := (b.drop (4 * k)).take 4
      (BitVec.ofNat 32 (natOf (x.map (·.1))), x.any (·.2))
    let t1 := { loadAnswer t ws with status := .ready, hold := none, stamp := s1.cycle, kept := 0 }
    answerImage (s1.setThread t1) t1
  | (s1, .fault v kind level) =>
    let s2 := demandFault s1 l.ctx v 3 kind level 0 0xFFFFFFFF 0
    s2.setThread { t with hold := some (.fault l.ctx (faultPage v)) }
  | (s1, .wait) => s1.setThread { t with hold := some .bias }
  | (s1, .bad) => abortLaunch s1 l.uid 0x26 0

/-- The entry that a value of SVRPL names: bits 15:0, the reserved ones above being ignored (R4, R238). -/
def svrplEntry (v : DWord) : Nat := v.toNat % 2 ^ 16
/-- A write of SVRPL by 8 bytes; its reserved bits read as zero (R4, R238, R252). -/
def writeSvrpl (s : State) (c : Nat) (v : DWord) : State :=
  let s1 := s.setCtx c { s.ctx c with svrpl := v &&& 0xFFFFFFFF0000FFFF }
  match launchNamed s1 c (hiWord v) with
  | none => s1
  | some l =>
    match s1.threads.find? fun t => t.status == .parked (some (svrplEntry v)) && (s1.teamOf t).launch == l.uid && t.hold == none with
    | some t => answerCall s1 t.uid (svrplEntry v)
    | none => s1
/-- Answers that wait for a lock, a flip or the step of coherence are read again (R107, R117, R252). -/
def retryAnswers (s : State) : State :=
  s.threads.foldl
    (fun s t => match t.status, t.hold with
      | .parked (some i), some .bias => answerCall s t.uid i
      | _, _ => s) s
/-- SVRPL_WRITE. -/
def execSvrplWrite (c : Nat) (v : DWord) (s : State) : Host.Outcome State Fault Refusal := .next (if c < 16 then writeSvrpl s c v else s)

/-! ### The journal (R253, R254) -/

/-- A journal record's bytes (R253). -/
def recordBytes (c : Nat) (r : JRec) : List Byte :=
  bytesOf r.seq 8 ++ bytesOf r.addr.toNat 8 ++ bytesOf (r.kind * 2 ^ 28 + c * 2 ^ 24 + r.stream * 2 ^ 18 + r.level * 2 ^ 15 + r.opc) 4 ++
    bytesOf (r.detail % 2 ^ 16 * 2 ^ 16 + r.status) 4 ++ bytesOf r.time 8

/-- A stream whose last queued record has been written goes on; HEAD is written when a clause of top level is complete
(R240, R253). -/
def recordWritten (s : State) (c n : Nat) : State :=
  let st := s.stream c n
  if st.wait != some .journal || (s.ctx c).jqueue.any (fun r => r.kind == 0 && r.stream == n) then s
  else
    let s1 := s.setStream c n { st with wait := none }
    if st.bufs.length ≤ 1 && (st.bufs.headD {}).word == 0 then writeHead s1 c n else s1

/-- Where record n of a journal lies, and its producer count (R254). -/
def recordAt (x : Ctx) (n : Nat) : Nat := x.jbase % 2 ^ 47 + 32 * (n % 2 ^ x.jlog)
def jprodAt (x : Ctx) : Nat := x.jbase % 2 ^ 47 + 32 * 2 ^ x.jlog
/-- A record is written, then JPROD, then the completion semaphore that waits behind it is signalled (R248, R254). -/
def putRecord (s : State) (c : Nat) (r : JRec) : State :=
  let x := s.ctx c
  let n := r.seq % 2 ^ 64
  let s1 := (s.write (recordAt x n) (recordBytes c r) false).write (jprodAt x) (bytesOf (n + 1) 8) false
  let s2 := s1.setCtx c { s1.ctx c with jqueue := x.jqueue.drop 1, jprod := n + 1 }
  let s3 := if r.kind == 0 then recordWritten s2 c r.stream else s2
  match r.sem with
  | some k => semAdd s3 c k 1
  | none => s3
/-- Write the oldest record that waits, once the ring has room and no lock holds its places (R117, R254). -/
def writeRecord (s : State) (c : Nat) : State :=
  let x := s.ctx c
  match x.jqueue with
  | [] => s
  | r :: _ =>
    if !(journalRoom s c) then s
    else match placesWait s [(recordAt x (r.seq % 2 ^ 64), 32), (jprodAt x, 8)] true with
      | (s1, true) => s1
      | (s1, false) => putRecord s1 c r
/-- JOURNAL_RECORD_WRITE. -/
def execJournalRecordWrite (c : Nat) (s : State) : Host.Outcome State Fault Refusal := .next (writeRecord s c)

end Sys2Proof.Machine
end

