-- ==== Sys2Proof/Machine/Service.lean ====
section
/-! DEFINITION. The service of faults: walks that end, fault records, replies to faults with their releases and replays,
and invalidations (R90, R91, R99-R103, R129, R161, R205, R210, R222, R233, R244, R252). -/
namespace Sys2Proof.Machine
open Sys2Proof

/-! ### Walks (R90) -/

/-- TRANSLATION_WALK_COMPLETE: one of the walks a die runs ends (R90, R99, R102). -/
def execTranslationWalkComplete (die ctx page : Nat) (s : State) : Host.Outcome State Fault Refusal :=
  .next <| match (running s die).find? (Walk.is die ctx page) with
    | none => s
    | some w => endWalk s w

/-! ### Fault records (R102) -/

/-- A fault record's bytes. -/
def faultRecord (s : State) (f : PageFault) : List Byte :=
  let flags := f.flags % 8 + 8 * one (logged s f.ctx f.page != [])
  bytesOf f.va.toNat 8 ++ bytesOf f.fid.toNat 4 ++ bytesOf (f.ctx * 2 ^ 28 + f.agent * 2 ^ 24 + f.kind * 2 ^ 16 + f.level * 2 ^ 8 + flags) 4 ++
    bytesOf f.src.toNat 4 ++ bytesOf f.launch.toNat 4 ++ bytesOf f.time 8

/-- FAULT_RECORD_WRITE: the oldest record that waits is written when the ring has room, then the producer count, and the
fault interrupt is raised, as the model chooses at every advance of the count, which is the model's own: 0 after reset, kept
while the context is disabled (R102, R282; log entries 130, 131). -/
def execFaultRecordWrite (ctx : Nat) (s : State) : Host.Outcome State Fault Refusal :=
  let x := s.ctx ctx
  let base := x.frbase % 2 ^ 47
  let counts := base + 32 * 2 ^ x.frlog
  .next <| match s.faults.find? fun f => f.ctx == ctx && !f.written with
    | none => s
    | some f =>
      if 2 ^ x.frlog ≤ (x.frprod + 2 ^ 32 - s.num (counts + 4) 4) % 2 ^ 32 then s
      else
        let n := (x.frprod + 1) % 2 ^ 32
        let at_ := base + 32 * (x.frprod % 2 ^ x.frlog)
        match placesWait s [(at_, 32), (counts, 4)] true with
        | (s0, true) => s0
        | (s0, false) =>
          let s1 := (s0.write at_ (faultRecord s0 f) false).write counts (bytesOf n 4) false
          let s2 := { s1.setCtx ctx { s1.ctx ctx with frprod := n } with
                      faults := modWhere (fun g => g.fid == f.fid) (fun g => { g with written := true }) s1.faults }
          raise s2 (4 * ctx)

/-! ### Replay (R84, R101, R103) -/

/-- A store or RED of the log that cannot be performed where its page now leads aborts its launch (R103). -/
def refusedStore (s : State) (t : Thread) : State := abortLaunch s (s.launchOfThread t).uid 0x21 0

/-- An entry's bytes reach this chip's memory: they wait for a bias flip, the step of coherence, and, where the entry retired
after a snapshot copy's issue, for its line to be copied aside (R107, R108, R119). -/
def replayWaits (s : State) (x : Xlate) (e : LogEntry) : State × Bool :=
  match spotOf s (x.phys (vaKey e.va)) with
  | some (.mem off) =>
    let lines := (List.range e.data.length).map fun i => Loc.glob (x.phys (vaKey e.va) + i)
    if flipping s off then (s, true)
    else match lines.findSome? fun l => (snapshotsOver s l).find? fun h => h.2.2.order < e.seq with
      | some (core, tag, _) => (wantAside s core tag (x.phys (vaKey e.va) / 128), true)
      | none => let (s1, go) := cohere s [off]; (s1, !go)
  | _ => (s, false)

/-- Apply one side-log entry through the translation of the retry, or wait; its place in the order was its retirement, so a
lock taken since does not hold it, and a page that has come to lie on another chip takes it as the thread's next request there
(R101, R103, R124, R127, R204). -/
def replayEntry (s : State) (x : Xlate) (e : LogEntry) : Option State :=
  let t := s.thread e.thread
  let n := e.data.length
  let done := fun s : State => some s
  if !(s.hasThread e.thread) then done s
  else match spotOf s (x.phys (vaKey e.va)), e.op with
    | some (.mem off), .store => done (touch (s.write off e.data e.pois) t.core off .normal)
    | some (.mem off), .red opn size =>
      let (s2, b, p) := s.read off size
      match rmwNew size opn (natOf b) e.data with
      | some v => done (touch (s2.write off (bytesOf v size) (p || e.pois)) t.core off .normal)
      | none => done s2
    | some (.window off), .store => done ((s.setThread { t with hostOut := t.hostOut + 1 }).send (.hostWrite (hostAddr s off) e.data))
    | some (.block b o), .store =>
      done (if (n == 4 || n == 8) && threadWrites e.ctx b o n then threadStore s b o (BitVec.ofNat 64 (natOf e.data)) else refusedStore s t)
    | some (.block b o), .red opn size =>
      if b == .sems && size == 8 then
        match rmwNew size opn (blockRead s b o size).toNat e.data with
        | some v => done (threadStore s b o (BitVec.ofNat 64 v))
        | none => done s
      else done (refusedStore s t)
    | some (.remote chip off), op =>
      let (typ, code) := match op with | .store => (tSTORE, Nat.log2 n * 8) | .red opn size => (tRED, Nat.log2 size * 8 + opn)
      match sendRequest s t e.ctx chip typ code off e.va e.data (if e.pois then 2 ^ n - 1 else 0) with
      | (s1, .sent _) => done s1
      | (_, .held) => none
      | (s1, .noRoute) => done (s1.setThread ((s1.thread t.uid).deferred 4 chip))
    | _, _ => done (refusedStore s t)

/-- One log entry leaves its log. -/
def dropEntry (s : State) (seq : Nat) : State :=
  { s with teams := s.teams.map fun t => { t with log := t.log.filter fun e => e.seq != seq } }
/-- Replay entries in turn, each exactly once, up to one that must wait (R101). -/
def replayAll (x : Xlate) : State → List LogEntry → State × Bool
  | s, [] => (s, true)
  | s, e :: es =>
    match replayWaits s x e with
    | (s1, true) => (s1, false)
    | (s1, false) => match replayEntry s1 x e with
      | none => (s1, false)
      | some s2 => replayAll x (dropEntry s2 e.seq) es

/-- The log entries of a fault page leave the logs. -/
def dropLogged (s : State) (ctx page : Nat) : State :=
  { s with teams := s.teams.map fun t => { t with log := t.log.filter fun e => !(e.ctx == ctx && faultPage e.va == page) } }

/-! ### What waits on a fault page (R99) -/

/-- Requests of other chips held for a page go on, or are refused with a cause (R129, R205). -/
def endHolds (s : State) (ctx page : Nat) (cause : Option Nat) : State :=
  s.served.foldl
    (fun s l => if l.held.any fun h => h.1.ctx == ctx && h.1.va / 65536 == page then endHold s (tgtLane s l.chip l.lane 0) cause else s) s

/-- The parked threads whose answers wait for a page. -/
def answersOn (s : State) (ctx page : Nat) : List (Nat × Nat) :=
  s.threads.filterMap fun t => match t.status, t.hold with
    | .parked (some i), some (.fault c p) => if c == ctx && p == page then some (t.uid, i) else none
    | _, _ => none

/-- Every group whose live threads are parked is spilled, where its page can be reached (R252). -/
def spillAll (s : State) : State :=
  s.teams.foldl
    (fun s tm => if tm.place == .resident then (List.range (s.launchOf tm.launch).rcd.groups).foldl (fun s g => spillGroup s (s.team tm.uid) g) s else s) s

/-- Apply a change to every listed entry of a table. -/
def mapTab {α : Type} (f : α → α) (t : Tab α) : Tab α := t.map fun x => (x.1, f x.2)

/-- What waits for a page of a context waits no longer: a thread, a script, a graph, a rotation, a stream. -/
def Thread.served (ctx page : Nat) (t : Thread) : Thread :=
  if t.hold == some (.fault ctx page) || t.hold == some (.logs ctx page) || t.hold == some (.park ctx page) then { t with hold := none } else t
def Script.served (ctx page : Nat) (x : Script) : Script :=
  if x.running && x.ctx == ctx && x.wait == some (.fault page) then { x with wait := none } else x
def GRun.served (page : Nat) (r : GRun) : GRun := if r.fault == some page then { r with fault := none } else r
def Graph.served (ctx page : Nat) (g : Graph) : Graph := if g.ctx == ctx then { g with runs := g.runs.map (GRun.served page) } else g
def Rotation.served (ctx page : Nat) (r : Rotation) : Rotation := if r.ctx == ctx && r.fault == some page then { r with fault := none } else r
def Stream.served (page : Nat) (st : Stream) : Stream := if st.wait == some (.fault page) then { st with wait := none } else st

/-- Every agent that joined a fault goes on (R103). -/
def release (s : State) (ctx page : Nat) : State :=
  let waits := answersOn s ctx page
  let s1 := { s with
    threads := s.threads.map (Thread.served ctx page)
    scripts := mapTab (Script.served ctx page) s.scripts
    graphs := mapTab (Graph.served ctx page) s.graphs
    rots := mapTab (Rotation.served ctx page) s.rots }
  let x := s1.ctx ctx
  let s2 := s1.setCtx ctx { x with streams := mapTab (Stream.served page) x.streams }
  let s3 := waits.foldl (fun s w => answerCall s w.1 w.2) (endHolds s2 ctx page none)
  retryCalls (spillAll (flushWords s3))

/-- A retry is not done yet, and is tried again. -/
def retryLater (s : State) (f : PageFault) : State :=
  { s with faults := modWhere (fun g => g.fid == f.fid) (fun g => { g with retry := true }) s.faults }
/-- A fault is served: its page's entries are replayed in the order of their retirement, then everything goes on; an entry that
must wait holds the rest, which is then tried again (R101, R103, R107, R108). -/
def serveFault (s : State) (f : PageFault) (x : Xlate) : State :=
  match replayAll x s (ordered (logged s f.ctx f.page) fun a b => a.seq ≤ b.seq) with
  | (s1, false) => retryLater s1 f
  | (s1, true) => release { s1 with faults := s1.faults.filter (·.fid != f.fid) } f.ctx f.page

/-- The walk of a retry faults again: a new record under a new FID (R103). -/
def faultAgain (s : State) (f : PageFault) (kind level : Nat) : State :=
  { s with faults := s.faults.filter (·.fid != f.fid) ++
             [{ f with fid := s.hub.nextfid, kind := kind, level := level, time := s.cycle, written := false, retry := false }]
           hub := { s.hub with nextfid := s.hub.nextfid + 1 } }

/-- The last 8-byte value written to FRPL. -/
def noteFrpl (s : State) (fid : Word) (action : Word) : State := { s with hub := { s.hub with frpl := pairOf action fid } }

/-- Registered copies that have locks bound to a fault page find entries for its lines (R163, R164). -/
def entriesFor (s : State) (f : PageFault) : Bool :=
  let hs := lockHolders s
  let held := (hs.flatMap fun (n, _, d) => slicesOf s n d) ++ s.farLocks.flatMap (FarLock.slices s)
  let on := fun (d : Copy) => d.ctx == f.ctx && ([d.srcRange, d.dstRange].any fun r => (rangePages r).any fun p => (p.emod (2 ^ 41 : Nat)).toNat == f.page)
  hs.all fun (n, _, d) => !(on d) || (slicesOf s n d).all fun x => held.count x ≤ 256
/-- A fault's walk comes to a leaf: it is served, once the locks bound to its page are in place, or a write meets no permission
(R103, R164). -/
def retryAt (s : State) (f : PageFault) (x : Xlate) : State :=
  if !(entriesFor s f) then retryLater s f
  else if (f.flags % 2 == 1 || logged s f.ctx f.page != []) && !x.w then faultAgain s { f with flags := f.flags / 2 * 2 + 1 } 1 x.level
  else serveFault s f x
/-- A fault is tried again: a pinned translation stays in use, else the G9 walks again, once a walker is free (R90, R103, R106). -/
def walkAgain (s : State) (f : PageFault) : State :=
  let k := vaKey f.va
  let die := if f.agent ≤ 1 then dieOf f.src.toNat else 0
  match s.pinned.find? (·.covers f.ctx k) with
  | some x => retryAt s f x
  | none => match walker s die f.ctx f.page with
    | none => retryLater s f
    | some s => match walk s f.ctx k with
      | .bad kind level pois => faultAgain (walkCheck s die pois) f kind level
      | .leaf fr level w =>
        let x := leafXlate f.ctx k fr level w
        retryAt (fillDie s die x) f x
/-- Retry (R103). -/
def frplRetry (s : State) (fid : Word) : State :=
  match s.faults.find? (·.fid == fid) with
  | none => s
  | some f => walkAgain s f
/-- Replays that waited are tried again. -/
def retryReplays (s : State) : State :=
  (s.faults.filter (·.retry)).foldl (fun s f => if s.faults.any (·.fid == f.fid) then walkAgain s f else s) s

/-- FRPL_RETRY. -/
def execFrplRetry (fid : Word) (s : State) : Host.Outcome State Fault Refusal := .next (frplRetry (noteFrpl s fid 1) fid)

/-! ### Refuse (R103) -/

/-- A scouting thread whose load waits for a refused page is restored and meets the refusal; that an episode which so ends counts
as stopped by arrival is the model's choice (R103, R180, R181, R479; log entry 152). -/
def refuseScout (s : State) (t : Thread) (ctx page : Nat) : State :=
  match t.scout with
  | some sc =>
    if (sc.acc.ps.any fun x => faultPage (BitVec.ofNat 64 x.1) == page) && (s.launchOfThread t).ctx == ctx && (faultOf s ctx page).isSome then
      let s1 := restoreScout (if t.scouting then scoutCount s t 0x28 else s) t sc
      s1.setThread { s1.thread t.uid with hold := some (.refused ctx page) }
    else s
  | none => s

/-- The launches with an access of their service or park area that waits for a page: answers, calls that wait for room, places
of a side log, and groups that wait to be spilled or to return (R252). -/
def parkWaits (s : State) (ctx page : Nat) : List Nat :=
  let ls := s.launches.filter (·.ctx == ctx)
  let here := fun l : Launch => s.teams.filter (·.launch == l.uid)
  let parked := fun t : Thread => match t.status with | .parked _ => true | _ => false
  let call := fun l : Launch => (faultPage (serviceCounts l.rcd) == page || (List.range (2 ^ l.rcd.svlog)).any fun i => faultPage (serviceAt l.rcd i) == page) &&
    s.threads.any fun t => t.status == .parked none && (s.teamOf t).launch == l.uid
  let spill := fun (l : Launch) (tm : Team) => (List.range l.rcd.groups).any fun g =>
    let ts := s.threads.filter fun t => t.team == tm.uid && groupOf t l.rcd == g
    let all := ts.all fun t => parked t || t.status == .exited
    tm.place == .resident && (if tm.spilled.contains g then !all else ts.any parked && all) &&
      (pagesOf (parkVa l.rcd (tm.core + groupHalf l.rcd g) tm.pos g) (groupBytes l.rcd)).any fun v => faultPage v == page
  let answers := (answersOn s ctx page).map fun x => (s.teamOf (s.thread x.1)).launch
  let logs := (s.threads.filter fun t => t.hold == some (.park ctx page)).map fun t => (s.teamOf t).launch
  answers ++ logs ++ (ls.filter fun l => call l || (here l).any (spill l)).map (·.uid)

/-- The copies suspended on a page. -/
def copiesOn (s : State) (ctx page : Nat) : List (Nat × Nat) :=
  (lockHolders s).filterMap fun (n, i, c) => if c.phase == .suspended ctx page then some (n, i) else none

/-- FRPL_REFUSE: threads trap, copies, scripts, streams, graphs and rotations end, remote requests are refused, and launches
with entries in a log, or with a service access held, are aborted (R103, R210, R244, R252). -/
def refuseFault (s : State) (f : PageFault) : State :=
  let c := f.ctx
  let p := f.page
  let es := logged s c p
  let storing := (es.map fun e => (s.launchOfThread (s.thread e.thread)).uid).eraseDups
  let s1 := s.threads.foldl (fun s t => refuseScout s (s.thread t.uid) c p) s
  let s2 := dropLogged { s1 with faults := s1.faults.filter (·.fid != f.fid) } c p
  let s3 := storing.foldl (fun s l => abortLaunch s l 0x21 0) s2
  let s4 := (parkWaits s3 c p).eraseDups.foldl (fun s l => abortLaunch s l 0x26 0) s3
  let s5 := { s4 with
    threads := modWhere (fun t => t.hold == some (.logs c p)) (fun t => { t with hold := none })
                 (modWhere (fun t => t.hold == some (.fault c p)) (fun t => { t with hold := some (.refused c p) }) s4.threads)
    cwords := s4.cwords.filter fun w => !(w.ctx == c && faultPage w.va == p) }
  let s6 := (copiesOn s5 c p).foldl (fun s x => endCopy s x.1 x.2 7) s5
  let s7 := (List.range 4).foldl (fun s k => let x := s.script k; if x.running && x.ctx == c && x.wait == some (.fault p) then endScript s k 0x05 else s) s6
  let s8 := (List.range 64).foldl (fun s n => if (s.stream c n).wait == some (.fault p) then packetError s c n 0x0004 else s) s7
  let s9 := (List.range 8).foldl (fun s g => let x := s.graph g; if x.state == 2 && x.ctx == c && x.runs.any (·.fault == some p) then runEnd s g 3 else s) s8
  let s10 := (List.range 4).foldl (fun s i => let r := s.rot i; if r.state == 1 && r.ctx == c && r.fault == some p then rotStop s i 3 3 else s) s9
  flushWords (endHolds s10 c p (some 3))

def frplRefuse (s : State) (fid : Word) : State :=
  match s.faults.find? (·.fid == fid) with
  | none => s
  | some f => refuseFault s f

/-- FRPL_REFUSE. -/
def execFrplRefuse (fid : Word) (s : State) : Host.Outcome State Fault Refusal := .next (frplRefuse (noteFrpl s fid 2) fid)

/-! ### Invalidations (R91, R96) -/

/-- XIVC shows the last write that is queued; of the list, the first 64 are, and what comes behind them is held (R91, R96). -/
def showXivc (s : State) : State :=
  match ((s.hub.invq.take 64).getLast?) with
  | some x => { s with hub := { s.hub with xivc := x.2 } }
  | none => s
/-- A write of XIVC queues an invalidation of the page at XIVA; with 64 queued it is held until a slot frees (R91, R96). -/
def writeXivc (s : State) (v : Word) : State :=
  showXivc { s with hub := { s.hub with invq := s.hub.invq ++ [(s.hub.xiva, v &&& 0x00FC0000)] } }
/-- XIVC_WRITE. -/
def execXivcWrite (v : Word) (s : State) : Host.Outcome State Fault Refusal := .next (writeXivc s v)

/-- An invalidation removes a cached translation: of its context, the same page or a smaller one inside it, or every one. -/
def invalidates (va : DWord) (w : Word) (x : Xlate) : Bool :=
  let sz := bits w.toNat 18 2
  x.ctx == bits w.toNat 20 4 && (sz == 3 || (x.level ≤ sz && x.va >>> pageBits sz == vaKey va >>> pageBits sz))

/-- The entries an invalidation removes leave the caches of every core and die, the pinned store apart (R91, R106). -/
def dropXlates (s : State) (va : DWord) (w : Word) : State :=
  let keep := fun l : List Xlate => l.filter fun x => !(invalidates va w x)
  { s with cores := s.cores.map fun (k, c) => (k, { c with tlb := keep c.tlb })
           dtlb := (s.dtlb.map fun (k, l) => (k, keep l)).filter fun x => x.2 != [] }
/-- An address lies in what an invalidation names. -/
def namesVa (va : DWord) (w : Word) (ctx : Nat) (v : Nat) : Bool :=
  let sz := bits w.toNat 18 2
  ctx == bits w.toNat 20 4 && (sz == 3 || v % 2 ^ 57 >>> pageBits sz == vaKey va >>> pageBits sz)
/-- An access that may have used a removed translation is not performed yet: a request to another chip, a chunk of a copy
there, an access to a host window, of a script and of a stream too (R91). -/
def underWay (s : State) (va : DWord) (w : Word) : Bool :=
  let ctx := bits w.toNat 20 4
  (s.lanes.any fun l => l.lane < 64 && l.reqs.any fun q => namesVa va w q.packet.ctx q.packet.va) ||
    (s.cores.any fun (_, c) => c.tags.any fun x => x.2.copy.any fun y => y.ctx == ctx && y.flight.isSome) ||
    (s.threads.any fun t => (s.launchOfThread t).ctx == ctx && (t.hostOut != 0 || t.hold == some .hostLink)) ||
    (s.scripts.any fun (_, x) => x.running && x.ctx == ctx && (match x.wait with | some (.host _ _ _) => true | _ => false)) ||
    (s.ctx ctx).streams.any fun (_, x) => match x.wait with | some (.host _ _ _) => true | _ => false

/-- INVALIDATION_COMPLETE: no cache of a core or a die holds a matching entry and every access that used one has been
performed; XISQ counts (R91). -/
def execInvalidationComplete (s : State) : Host.Outcome State Fault Refusal :=
  .next <| match s.hub.invq with
    | [] => s
    | (va, w) :: rest =>
      let s1 := dropXlates s va w
      if underWay s1 va w then s1 else showXivc { s1 with hub := { s1.hub with invq := rest, xisq := s.hub.xisq + 1 } }

end Sys2Proof.Machine
end

