-- ==== Sys2Proof/Machine/Host.lean ====
section
/-! DEFINITION. The outside world: register writes, host requests, answers over HueriLink, interrupts, CXL links, scrubbing
(R4, R5, R96, R107, R133, R185, R197, R201, R236, R238, R271, R272, R275, R280-R284, R286, R288). -/
namespace Sys2Proof.Machine
open Sys2Proof

/-! ### Replies to faults and the enabling of contexts, as register writes (R103, R238) -/

/-- An 8-byte write of FRPL: Retry, Refuse, or nothing (R103). -/
def writeFrpl (s : State) (v : DWord) : State :=
  let s0 := { s with hub := { s.hub with frpl := v } }
  match (loWord v).toNat with
  | 1 => frplRetry s0 (hiWord v)
  | 2 => frplRefuse s0 (hiWord v)
  | _ => s0

/-- A write of CXCTL: EN; outside the running stage no context can be enabled (R238, R285). -/
def writeCxctl (s : State) (c : Nat) (w : Word) : State :=
  if w.msb then startContext s c else disableContext s c

/-! ### Interrupts (R282) -/

/-- HIPEND or HIPEND1: each 1 clears a pending bit. -/
def clearPending (s : State) (half : Bool) (v : DWord) : State :=
  let m : BitVec 128 := if half then v.setWidth 128 <<< 64 else v.setWidth 128
  { s with hub := { s.hub with hipend := s.hub.hipend &&& ~~~m } }
/-- HIMASK or HIMASK1: a pending vector whose mask is cleared sends its message. -/
def writeMask (s : State) (half : Bool) (v : DWord) : State :=
  let old := s.hub.himask
  let new : BitVec 128 := if half then (v.setWidth 128 <<< 64) ||| (old.setWidth 64).setWidth 128 else (old >>> 64 <<< 64) ||| v.setWidth 128
  let vs := (List.range 128).filter fun i => old.getLsbD i && !(new.getLsbD i) && s.hub.hipend.getLsbD i
  vs.foldl (fun s i => s.send (.interrupt i)) { s with hub := { s.hub with himask := new } }

/-- HIPEND_WRITE and HIMASK_WRITE. -/
def execHipendWrite (half : Bool) (v : DWord) (s : State) : Host.Outcome State Fault Refusal := .next (clearPending s half v)
def execHimaskWrite (half : Bool) (v : DWord) (s : State) : Host.Outcome State Fault Refusal := .next (writeMask s half v)

/-! ### Management commands begin (R286) -/

/-- The stages a command may run in; none for an unknown one. -/
def commandStages (cmd : Nat) : Option (List Nat) :=
  match cmd with
  | 1 => some [3]
  | 2 => some [2, 3]
  | 3 => some [2, 3]
  | 4 => some [1, 2, 3]
  | _ => none

/-- The result of a command that still runs. -/
def unfinished : Byte := 0xFF

/-- A write of CMD starts a command, unless one runs; an unknown one, or one its stage does not have, is over at once; a
command that reads its buffer asks the host for it. -/
def startCommand (s : State) (cmd : Byte) : State :=
  let h := s.hub
  if h.mgbusy then s
  else
    let res : Byte := match commandStages cmd.toNat with
      | none => 1
      | some l => if l.contains h.stage then unfinished else 3
    let s1 := { s with hub := { h with mgcmd := cmd, mgbusy := true, mgnext := res, mgbuf := [] } }
    if res != unfinished then s1
    else match cmd.toNat with
      | 1 => s1.send (.hostRead h.mgarg.toNat 32 0)
      | 2 => s1.send (.hostRead h.mgarg.toNat 0 0)
      | _ => s1

/-! ### Register writes (R4, R5) -/

/-- Replace one half of a doubleword register. -/
def mixHalf (old : DWord) (o : Nat) (w : Word) : DWord := if o % 8 == 0 then pairOf w (hiWord old) else pairOf (loWord old) w

/-- A 4-byte write, or one half of an 8-byte write, of a word of a block: its writable fields are replaced, the others are
ignored (R4, R5). -/
def writeWord (s : State) (b : Block) (o : Nat) (w : Word) : State :=
  let h := s.hub
  let part := fun (r lo : Nat) => r == lo || r == lo + 4
  match b with
  | .translation =>
    if part o 0 then { s with hub := { h with xiva := mixHalf h.xiva o w } } else if o == 8 then writeXivc s w else s
  | .ports => portWrite s o w
  | .fabric => fabricWrite s o 4 (w.setWidth 64)
  | .bellows => rotWrite s o w
  | .hearth =>
    let c := o / 0x40
    let x := s.ctx c
    match o % 0x40 with
    | 0 | 4 => s.setCtx c { x with cxrec := mixHalf x.cxrec o w }
    | 8 => writeCxctl s c w
    | 0x18 => writeLabrt s c w
    | _ => s
  | .checks =>
    match o with
    | 0 | 4 => { s with hub := { h with mcbase := mixHalf h.mcbase o w } }
    | 8 => { s with hub := { h with mclog := w &&& 0x1F } }
    | 12 => { s with hub := { h with mcctl := w &&& 1 } }
    | 0x18 | 0x1C => { s with hub := { h with mccons := mixHalf h.mccons o w } }
    | _ =>
      if 0x20 ≤ o && o < 0x50 then
        { s with hub := { h with cexcl := (List.range 32).foldl (fun l i => nput l (8 * (o - 0x20) + i) (w.getLsbD i)) h.cexcl } }
      else s
  | .link =>
    if o < 0x80 then
      let n := o / 16
      match o % 16 with
      | 0 | 4 => { s with hub := { h with hwbase := tset 0 h.hwbase n (mixHalf (tget 0 h.hwbase n) o w &&& ~~~0xFFFFFFFFF) } }
      | 8 => { s with hub := { h with hwen := nput h.hwen n w.msb } }
      | _ => s
    else match o with
      | 0x80 | 0x84 => clearPending s false (mixHalf 0 o w)
      | 0x90 | 0x94 => clearPending s true (mixHalf 0 o w)
      | 0x88 | 0x8C => writeMask s false (mixHalf (h.himask.setWidth 64) o w)
      | 0x98 | 0x9C => writeMask s true (mixHalf ((h.himask >>> 64).setWidth 64) o w)
      | _ => s
  | .telemetry => if o == 4 then { s with hub := { h with pwrlim := if 3600 < w.toNat then 3600 else if w.toNat < 1200 then 1200 else w } } else s
  | .mgmt =>
    match o with
    | 8 => startCommand s (w.setWidth 8)
    | 0x10 | 0x14 => { s with hub := { h with mgarg := mixHalf h.mgarg o w } }
    | _ => s
  | .sems | .scout => s

/-- Who may write a block (R96, R185, R201, R238, R272, R281, R286). -/
def mayWrite (who : Agent) (b : Block) : Bool :=
  match b with
  | .sems => false
  | .translation => who == .host || who == .hearth
  | .scout => who != .bellows
  | .ports | .fabric | .bellows => true
  | .hearth | .checks | .link | .telemetry | .mgmt => who == .host || who == .mgmt

/-- A write of 4 or 8 bytes to a block: registers that only 8 bytes reach take them whole, every other word by word. -/
def writeBlock (s : State) (b : Block) (o size : Nat) (v : DWord) : State :=
  if size == 8 then
    if b == .scout then scoutWrite s o v
    else if b == .translation && o == 0x18 then writeFrpl s v
    else if b == .hearth && o % 0x40 == 0x10 then writeSvrpl s (o / 0x40) v
    else writeWord (writeWord s b o (loWord v)) b (o + 4) (hiWord v)
  else writeWord s b o (loWord v)

/-- HueriLink answers for an offset: everything once it is open, before that the management block alone (R285). -/
def linkOpen (s : State) (b : Option Block) : Bool := s.hub.hlopen || b == some .mgmt

/-- A naturally aligned access of 4 or 8 bytes. -/
def blockShape (off size : Nat) : Bool := (size == 4 || size == 8) && off % size == 0

/-- REGISTER_WRITE (R5). -/
def execRegisterWrite (who : Agent) (off size : Nat) (v : DWord) (s : State) : Host.Outcome State Fault Refusal :=
  .next <| match blockOf off with
    | some (b, o) => if blockShape off size && mayWrite who b && (who != .host || linkOpen s (some b)) then writeBlock s b o size v else s
    | none => s

/-! ### Host requests (R107, R108, R117, R280, R285) -/

/-- A block a host read reaches. -/
def hostReads (b : Block) (size : Nat) : Bool := b != .sems && (b != .scout || size == 8)

/-- What the host may ask for (R96, R285): memory, or an aligned access of a block open to it. -/
def hostMay (s : State) (write : Bool) (off n : Nat) : Bool :=
  match blockOf off with
  | some (b, _) => linkOpen s (some b) && blockShape off n && (if write then mayWrite .host b else hostReads b n)
  | none => linkOpen s none && n != 0 && (List.range n).all fun i => isMemory s (off + i)

/-- The answer to a request that has been performed: what it read, with a poison indication for each granule (R280). -/
def HostReq.answer (r : HostReq) : Sent :=
  let marks := (List.range ((r.off + r.data.length + 15) / 16 - r.off / 16)).map fun i =>
    r.back.zipIdx.any fun x => x.1.2 && (r.off + x.2) / 16 == r.off / 16 + i
  if r.write then .hostReply [] [] true else .hostReply (r.back.map (·.1)) marks true
/-- One naturally aligned piece of a request at memory (R110, R123). -/
def HostReq.piece (s : State) (r : HostReq) (n : Nat) : State × HostReq :=
  let at_ := r.off + r.done
  if r.write then (s.write at_ ((r.data.drop r.done).take n) false, { r with done := r.done + n })
  else
    let flags := (List.range n).map fun i => s.poisoned (at_ + i) || lost s (at_ + i)
    let (s1, b, _) := s.read at_ n
    (s1, { r with done := r.done + n, back := r.back ++ b.zip flags })

/-- The oldest request of the host goes on: a register access is performed whole, an access of memory by its next naturally
aligned piece of at most 16 bytes, unless a flip, logged stores, a lock or an aside copy holds it; the others wait behind it
(R108, R110, R117, R119, R123, R124). -/
def serveHost (s : State) : State :=
  match s.hostq with
  | [] => s
  | r :: rest =>
    let n := r.data.length
    match blockOf r.off with
    | some (b, o) =>
      let s1 := { s with hostq := rest }
      if r.write then (writeBlock s1 b o n (BitVec.ofNat 64 (natOf r.data))).send (.hostReply [] [] true)
      else s1.send (.hostReply (bytesOf (blockRead s b o n).toNat n) [] true)
    | none =>
      let k := pieceSize (r.off + r.done) (n - r.done)
      match agentHeld s (r.off + r.done) k r.write with
      | (s1, true) => s1
      | (s1, false) =>
        let (s2, r2) := r.piece s1 k
        if n ≤ r2.done then { s2 with hostq := rest }.send r2.answer else { s2 with hostq := r2 :: rest }

/-- HOST_REQUEST (R110, R280). -/
def execHostRequest (write : Bool) (off : Nat) (data : List Byte) (s : State) : Host.Outcome State Fault Refusal :=
  .next <|
    if !(hostMay s write off data.length) then s.send (.hostReply [] [] false)
    else
      let s1 := { s with hostq := s.hostq ++ [{ write := write, off := off, data := data }] }
      if s.hostq == [] then serveHost s1 else s1

/-! ### Answers of the host (R107, R133) -/

/-- The host's data for a thread: its held load has its reply. -/
def threadAnswer (s : State) (t : Thread) (data : List Byte) : State :=
  if t.hold == some .hostLink then s.setThread { t with reply := some ⟨data, false, 0, 0⟩ } else s
/-- The number under which the host answers for a frame's step of coherence. -/
def frameAsker (frame : Nat) : Nat := 2 ^ 40 + frame
/-- The host has resolved coherence for a frame that was asked for: one access of it goes on (R107). -/
def coherenceDone (s : State) (frame : Nat) : State :=
  if s.snoops.contains frame then { s with snoops := s.snoops.filter (· != frame), coherent := nins s.coherent frame } else s

/-- HUERILINK_RESPONSE: load data, the acknowledgement of a store, or a finished step of coherence: for a thread, for the
management controller (0), for a script, for a stream, or for a frame (R107, R133, R286). -/
def execHuerilinkResponse (thread : Nat) (data : List Byte) (s : State) : Host.Outcome State Fault Refusal :=
  let t := s.thread thread
  .next <|
    if 2 ^ 40 ≤ thread then coherenceDone s (thread - 2 ^ 40)
    else if thread == 0 then (if s.hub.mgbusy then { s with hub := { s.hub with mgbuf := s.hub.mgbuf ++ data } } else s)
    else if 2 ^ 33 ≤ thread then
      let c := (thread - 2 ^ 33) / 64
      let n := thread % 64
      match (s.stream c n).wait with
      | some (.host cc mark val) => predwDone s c n cc mark ((wordsOf data 1).headD 0) val
      | _ => s
    else if 2 ^ 32 ≤ thread then
      let k := thread - 2 ^ 32
      let sc := s.script k
      match sc.wait with
      | some (.host d size sx) =>
        let ws := loadWords (data.take size) size sx
        scriptNext (s.setScript k { sc with regs := (ws.zipIdx.foldl (fun l x => lset l (d.toNat + x.2) x.1) sc.regs), wait := none }) k
      | _ => s
    else if !(s.hasThread thread) then s
    else if data == [] && t.hostOut != 0 then s.setThread { t with hostOut := t.hostOut - 1 }
    else threadAnswer s t data

/-! ### Locks of copies of other chips (R117, R163) -/

/-- A copy of another chip takes a lock here, unless a conflicting copy of this chip or of another holds one of its lines, or a
slice has no entry free; how the chips tell each other of locks is not part of the packet plane's description (log entry
136). -/
def takeFarLock (s : State) (f : FarLock) : State :=
  let ls := f.lines s
  let meets := fun ms : List Nat => ms.any fun l => ls.contains l
  let clash := (lockHolders s).any (fun (n, _, d) => meets (linesOf s n d true) || (f.dst && meets (linesOf s n d false))) ||
    s.farLocks.any fun g => g.key != f.key && (f.dst || g.dst) && meets (g.lines s)
  let used := (lockHolders s).flatMap (fun (n, _, d) => slicesOf s n d) ++ (f :: s.farLocks).flatMap (FarLock.slices s)
  if clash || (f.slices s).any fun x => 256 < used.count x then s else { s with farLocks := s.farLocks ++ [f] }
/-- It releases the lock. With the lock of its destination the copy's event here is over: a COMMIT of it that still comes is a
repetition (R168). The release waits for bytes of the copy that have come and are not committed. -/
def dropFarLock (s : State) (f : FarLock) : State :=
  let busy := s.staged.any (fun x => x.chip == f.chip && x.serial == f.serial) ||
    s.commitq.any fun p => (p.src, commitField p 0 4, commitField p 4 4, commitField p 8 4) == f.key
  if !(s.farLocks.contains f) || (f.dst && busy) then s
  else
    let s1 := { s with farLocks := s.farLocks.filter (· != f) }
    if f.dst then { s1 with commits := s1.commits.filter (fun x => x.1 != f.key) ++ [(f.key, 2 ^ 64)] } else s1

/-! ### Machine checks, CXL links, scrubbing (R271, R272, R275, R284) -/

/-- CEXCL_WRITE (R275). -/
def execCexclWrite (w : Nat) (v : DWord) (s : State) : Host.Outcome State Fault Refusal :=
  .next (if w < 6 then writeBlock s .checks (0x20 + 8 * w) 8 v else s)

/-- CXL_LINK_DOWN (R284). -/
def execCxlLinkDown (port : Nat) (s : State) : Host.Outcome State Fault Refusal :=
  .next (if port < s.hub.cxl then { s with hub := { s.hub with cxldn := nins s.hub.cxldn port } } else s)

/-- SCRUB_PASS of a die, over its stacked DRAM and its L2 data: a corrected error gives a record; a codeword of 32 bytes of DRAM
that cannot be corrected is poisoned and recorded, and so is a granule of L2 data, which the list gives 2^60 higher (R268, R271,
R273, R274). -/
def execScrubPass (die : Nat) (fixed : Bool) (lost : List Nat) (s : State) : Host.Outcome State Fault Refusal :=
  let scrubbed := fun (s : State) (x : Nat) =>
    let g := x % 2 ^ 60
    let (mine, gs, uclass, unit) := if 2 ^ 60 ≤ x then (inL2 s (16 * g), [g], 1, die * 192 + homeSlice (16 * g)) else (isDram (16 * g), [g / 2 * 2, g / 2 * 2 + 1], 2, die)
    if mine && homeDie (16 * g) == die then mcRecord { s with poison := gs.foldl nins s.poison } 1 6 uclass unit 0 (physOf s (16 * gs.headD 0)) else s
  .next <| if 4 ≤ die then s else lost.foldl scrubbed (if fixed then corrected s 2 die 0 else s)

end Sys2Proof.Machine
end

