-- ==== Sys2Proof/Machine/Manage.lean ====
section
/-! DEFINITION. Module reset and boot, the management commands, the clock, errors of storage, Quench and the test port
(R11, R147, R268, R274, R276-R278, R283, R285-R289). -/
namespace Sys2Proof.Machine
open Sys2Proof

/-! ### Reset and boot (R278, R283, R285) -/

/-- The installed second tier: 1, 2, 4 or 8 ports, the lowest ones, of one capacity of at most 2 TiB; else none (R283). -/
def population (l : List (Nat × Nat)) : Nat × Nat :=
  let n := l.length
  let cap := (l.headD (0, 0)).2
  if (n == 1 || n == 2 || n == 4 || n == 8) && cap ≤ 2 ^ 41 && l.all (fun x => x.2 == cap) && (List.range n).all fun p => l.any (·.1 == p) then (n, cap)
  else (0, 0)

/-- The step of R285 that an image fails; 0 for none. -/
def bootStep (image : List Byte) : Nat :=
  match Config.imageParts image with
  | none => 1
  | some (key, sig, version, body) =>
    if !(Config.falconVerify key (Config.shake256 body) sig) || Config.shake256 key != Config.fusedKeyDigest then 3
    else if version < Config.fusedVersion then 4
    else 0

/-- The boot ROM's steps: recovery, or %chip, the CXL ports, of which the management controller reports a population that it cannot
use, and HueriLink (R283, R285). -/
def bootCheck (s0 : State) : State :=
  let k := bootStep s0.flash
  let (n, cap) := population Config.cxlPopulation
  let s := if k == 0 && n == 0 then s0.send .badPopulation else s0
  { s with hub := if k != 0 then { s.hub with stage := 2, fstep := k }
                  else { s.hub with stage := 3, chip := Config.suppliedChip.toNat, cxl := n, cxlcap := cap, hlopen := true } }

/-- The boot ROM begins: MGST shows its stage (R285, R286). -/
def bootBegin (s : State) : State := { s with hub := { s.hub with stage := 1 } }

/-- All state is cleared except stacked DRAM and its poison marks (R278); what lies outside the G9, and the model's own
counters, stay. -/
def resetState (s : State) : State :=
  { mem := s.mem.filter fun c => isDram c.1, poison := s.poison.filter fun g => isDram (16 * g), flash := s.flash, sent := s.sent
    agenda := s.agenda, draws := s.draws, nextUid := s.nextUid }

/-- MODULE_RESET: the boot ROM runs next (R278, R285). -/
def execModuleReset (s : State) : Host.Outcome State Fault Refusal := .next (bootBegin (resetState s))

/-! ### Management commands (R286, R287) -/

/-- A command runs and has not finished. -/
def runs (s : State) (cmd : Byte) : Bool := s.hub.mgbusy && s.hub.mgcmd == cmd && s.hub.mgnext == unfinished
/-- A command has come to its result. -/
def finish (s : State) (res : Byte) : State := { s with hub := { s.hub with mgnext := res } }

/-- Exactly n bytes of a list, filled with zeros. -/
def fitBytes (l : List Byte) (n : Nat) : List Byte := (l ++ List.replicate n 0).take n
/-- The attestation report before its signature (R287). -/
def reportHead (s : State) (nonce : List Byte) : List Byte :=
  let (version, body) := match Config.imageParts s.flash with
    | some (_, _, v, b) => (v, b)
    | none => (0, [])
  nonce ++ fitBytes (Config.shake256 body) 64 ++ bytesOf version 4 ++ bytesOf s.hub.chip 4 ++ bytesOf Config.serialNumber.toNat 8

/-- ATTEST: with the nonce there, the report is written after it; a buffer that cannot be read fails (R286, R287). -/
def execAttest (s : State) : Host.Outcome State Fault Refusal :=
  .next <|
    if !(runs s 1) || s.hub.mgbuf == [] then s
    else if s.hub.mgbuf.length != 32 then finish s 2
    else
      let head := reportHead s s.hub.mgbuf
      finish (s.send (.hostWrite (s.hub.mgarg.toNat + 32) (head ++ fitBytes (Config.falconSign (Config.shake256 head)) 1280))) 0

/-- LOAD_FIRMWARE_IMAGE: the image goes into flash, and the module resets and boots again (R286). -/
def execLoadFirmwareImage (s : State) : Host.Outcome State Fault Refusal :=
  .next (if !(runs s 2) || s.hub.mgbuf == [] then s else bootBegin (resetState { s with flash := s.hub.mgbuf }))

/-- REPORT_IDENTITY: the public key, then the serial number (R286). -/
def execReportIdentity (s : State) : Host.Outcome State Fault Refusal :=
  .next (if !(runs s 3) then s
    else finish (s.send (.hostWrite s.hub.mgarg.toNat (fitBytes Config.identityKey 1793 ++ bytesOf Config.serialNumber.toNat 8))) 0)

/-- FREEZE: a request for Quench (R276, R286). -/
def execFreeze (s : State) : Host.Outcome State Fault Refusal := .next (if !(runs s 4) then s else if s.frozen then finish s 0 else quench (finish s 0))

/-- MGMT_COMMAND_COMPLETE: BUSY clears, MGRSP takes the result, vector 65 is raised (R286). -/
def execMgmtCommandComplete (s : State) : Host.Outcome State Fault Refusal :=
  .next (if s.hub.mgbusy && s.hub.mgnext != unfinished then
      raise { s with hub := { s.hub with mgbusy := false, mgrsp := s.hub.mgnext } } 65
    else s)

/-! ### The clock and Quench (R274, R276, R288, R289) -/

/-- The clock the coolant allows (R289). -/
def inletTarget (tinlet tjmax : Nat) : Nat :=
  if 450 < tinlet || 1050 < tjmax then 700 else if tinlet ≤ 400 then 2100 else 2100 - (tinlet - 400) * 1050 / 50
/-- The clock the power limit allows: with the average above it, a lower one than now that the controller chooses (R13,
R289; log entry 15). -/
def powerTarget (fclk pwravg pwrlim : Nat) (w : Word) : Nat :=
  if pwravg ≤ pwrlim then 2100 else 700 + 25 * (w.toNat % max 1 ((fclk - 700) / 25))

/-- CLOCK_ADJUST: the controller's readings, and the clock they call for (R288, R289). -/
def execClockAdjust (pwravg tinlet tjmax : Nat) (s : State) : Host.Outcome State Fault Refusal :=
  let (s0, w) := draw s
  let h := s0.hub
  let target := min (inletTarget tinlet tjmax) (powerTarget h.fclk.toNat pwravg h.pwrlim.toNat w)
  let s1 := { s0 with hub := { h with
    pwravg := BitVec.ofNat 32 pwravg, tinlet := BitVec.ofNat 32 tinlet, tjmax := BitVec.ofNat 32 tjmax
    fclk := BitVec.ofNat 32 (max 700 (target / 25 * 25)), hotSince := if 500 < tinlet then some (h.hotSince.getD s0.htime) else none } }
  .next (if 450 < tinlet || 1050 < tjmax then raise s1 65 else s1)

/-- A fatal check with AQ = 0: every launch is aborted and every context disabled; the launches' status is free (R274;
log entry 3). -/
def fatalStop (s : State) : State :=
  let (s0, w) := draw s
  let s1 := s0.launches.foldl (fun s l => abortLaunch s l.uid (w.toNat % 65536) 0) s0
  (List.range 16).foldl disableContext s1

/-- A fatal check: its record, and Quench, or with AQ = 0 the end of every launch and context (R274). -/
def fatalCheck (s : State) (uclass unit : Nat) : State :=
  let s1 := mcRecord s 2 5 uclass unit 0 0
  if s.hub.mcctl == 0 then fatalStop s1 else quench s1

/-- Memory granules that cannot be corrected are poisoned, with one record at the first (R268, R273, R274). -/
def granuleError (s : State) (uclass unit : Nat) (gs : List Nat) : State :=
  mcRecord { s with poison := gs.foldl nins s.poison } 1 2 uclass unit 0 (physOf s (16 * gs.headD 0))

/-- An error found in storage: a correction is recorded, a word that cannot be corrected is poisoned and recorded, a cache
entry is dropped, and an error of a unit's state is a fatal check (R147, R268, R273, R274; log entry 16). -/
def storageError (s : State) : StorageError → State
  | .corrected uclass unit addr => corrected s uclass unit addr
  | .register u r =>
    let t := s.thread u
    if s.hasThread u && r < t.regs.length && (s.teamOf t).place == .resident then
      mcRecord (s.setThread { t with pois := t.pois.set r true }) 1 2 0 t.core (s.launchOf (s.teamOf t).launch).id 0
    else s
  | .scratch u w =>
    let tm := s.team u
    let r := (s.launchOf tm.launch).rcd
    if s.teams.any (·.uid == u) && tm.place == .resident && 8 * w < scratchLimit r then
      mcRecord (s.setTeam { tm with spois := nins tm.spois w }) 1 2 0 (if 8 * w < r.scratch then tm.core else tm.core + 1) (s.launchOf tm.launch).id 0
    else s
  | .accumulator u half unit row =>
    let tm := s.team u
    if s.teams.any (·.uid == u) && tm.place == .resident && half < 2 && unit < accUnits (s.core (tm.core + half)) && row < 128 then
      mcRecord (s.setTeam { tm with rmark := nins tm.rmark (markKey half unit row) }) 1 2 0 (tm.core + half) (s.launchOf tm.launch).id 0
    else s
  | .l1 c line => if (s.core c).l1.any (·.1 == line) then granuleError s 0 c ((List.range 8).map (8 * line + ·)) else s
  | .l2 g => if inL2 s (16 * g) then granuleError s 1 (homeDie (16 * g) * 192 + homeSlice (16 * g)) [g] else s
  | .dram g => if isDram (16 * g) then granuleError s 2 (homeDie (16 * g)) [g / 2 * 2, g / 2 * 2 + 1] else s
  | .tier g => if isTier s (16 * g) then granuleError s 6 (tierPort s (16 * g)) [g] else s
  | .coreEntry c i => s.setCore c { s.core c with tlb := (s.core c).tlb.eraseIdx i }
  | .dieEntry d i => { s with dtlb := tset [] s.dtlb d ((tget [] s.dtlb d).eraseIdx i) }
  | .recordEntry c i => s.setCore c { s.core c with rcache := (s.core c).rcache.eraseIdx i }
  | .state uclass unit => fatalCheck s uclass unit

/-- THERMAL_QUENCH: the inlet has been above 50 °C for 1 s: a record of a fatal check, and Quench (R274, R289). -/
def execThermalQuench (s : State) : Host.Outcome State Fault Refusal :=
  .next <| match s.hub.hotSince with
    | none => s
    | some t =>
      if s.htime < t + 1000000000 then s
      else
        let s1 := mcRecord s 2 5 4 0 0 0
        quench (if s.hub.mcctl == 0 then fatalStop s1 else s1)

/-- QUENCH_PIN (R276). -/
def execQuenchPin (s : State) : Host.Outcome State Fault Refusal := .next (quench s)

/-! ### The test port (R277) -/

/-- An instruction code enters the instruction register. -/
def selectIr (s : State) (code : Nat) : State := { s with jtag := { s.jtag with ir := code } }
def execBypass (s : State) : Host.Outcome State Fault Refusal := .next (selectIr s 0xFF)
def execIdcode (s : State) : Host.Outcome State Fault Refusal := .next (selectIr s 0x01)
def execSamplePreload (s : State) : Host.Outcome State Fault Refusal := .next (selectIr s 0x02)
def execExtest (s : State) : Host.Outcome State Fault Refusal := .next (selectIr s 0x00)
def execQsel (s : State) : Host.Outcome State Fault Refusal := .next (selectIr s 0x20)
def execQscan (s : State) : Host.Outcome State Fault Refusal := .next { selectIr s 0x21 with jtag := { (selectIr s 0x21).jtag with at_ := 0 } }

/-- The low n bits of a number, lowest first, and the number of bits. -/
def bitList (x n : Nat) : List Bool := (List.range n).map x.testBit
def bitsNat (l : List Bool) : Nat := (l.zipIdx.map fun x => if x.1 then 2 ^ x.2 else 0).sum

/-- The length of a chain in words: the scan map's (R277; log entry 8). -/
def chainWords (chain : Nat) : Nat := bitsNat ((List.range 16).map (Config.scanBit chain))
/-- Bit i of a chain: the first word holds its number and its length, what follows is the scan map's, fixed for one freeze
(R277; log entry 8). -/
def chainBit (s : State) (chain i : Nat) : Bool :=
  if i < 32 then (chain * 2 ^ 16 + chainWords chain).testBit i else Config.scanBit (chain + 2 ^ 17 * (s.jtag.key + 1)) i
/-- The bits a chain shifts out as a ring, from a position. -/
def ringBits (s : State) (n : Nat) : List Bool :=
  let len := 32 * max 1 (chainWords s.jtag.sel)
  (List.range n).map fun i => chainBit s s.jtag.sel ((s.jtag.at_ + i) % len)

/-- A scan of a data register that captured some bits: what is shifted out, and what it holds then. -/
def shiftThrough (cap l : List Bool) : List Bool × List Bool := ((cap ++ l).take l.length, (cap ++ l).drop l.length)

/-- DATA_REGISTER_SCAN: the selected data register is shifted; QSEL takes the chain number, QSCAN rotates the chosen chain,
and outside a freeze shifts out zeros (R277). -/
def execDataRegisterScan (l : List Bool) (s : State) : Host.Outcome State Fault Refusal :=
  let j := s.jtag
  let shift := fun cap => let r := shiftThrough cap l; { s with jtag := { j with tdo := r.1, dr := r.2 } }
  .next <| match j.ir with
    | 0x01 => shift (bitList 0x19480A6F 32)
    | 0x20 =>
      let s1 := shift (bitList j.sel 16)
      { s1 with jtag := { s1.jtag with sel := bitsNat s1.jtag.dr % 2 ^ 16, at_ := 0 } }
    | 0x21 =>
      if s.frozen then { s with jtag := { j with tdo := ringBits s l.length, at_ := (j.at_ + l.length) % (32 * max 1 (chainWords j.sel)) } }
      else { s with jtag := { j with tdo := List.replicate l.length false } }
    | 0x00 | 0x02 =>
      let out := (List.range l.length).map (Config.scanBit (2 ^ 16 + 2 ^ 17 * s.draws))
      { s with jtag := { j with tdo := out, dr := l }, draws := s.draws + 1 }
    | _ => shift [false]

end Sys2Proof.Machine
end

