-- ==== Sys2Proof/Machine/Dispatch.lean ====
section
/-! DEFINITION. One arm per instruction or event, each a direct call of its meaning. -/
namespace Sys2Proof.Machine
open Sys2Proof

/-- What an instruction or event does to the machine. -/
def exec (i : Instr) (s : State) : Host.Outcome State Fault Refusal :=
  match i with
  | .dataRegisterScan bits => Sys2Proof.Machine.execDataRegisterScan bits s
  | .bundlePick core picker fresh => Sys2Proof.Machine.execBundlePick core picker fresh s
  | .clauseChain core picker fresh => Sys2Proof.Machine.execClauseChain core picker fresh s
  | .teamDispatch launch => Sys2Proof.Machine.execTeamDispatch launch s
  | .gangReserve core => Sys2Proof.Machine.execGangReserve core s
  | .placementAging launch => Sys2Proof.Machine.execPlacementAging launch s
  | .teamPreempt team => Sys2Proof.Machine.execTeamPreempt team s
  | .teamResume team => Sys2Proof.Machine.execTeamResume team s
  | .teamComplete team => Sys2Proof.Machine.execTeamComplete team s
  | .deferredMatrixTrap thread => Sys2Proof.Machine.execDeferredMatrixTrap thread s
  | .bundleLeavePicker core picker => Sys2Proof.Machine.execBundleLeavePicker core picker s
  | .coreHang core => Sys2Proof.Machine.execCoreHang core s
  | .faultRecordWrite ctx => Sys2Proof.Machine.execFaultRecordWrite ctx s
  | .translationWalkComplete die ctx page => Sys2Proof.Machine.execTranslationWalkComplete die ctx page s
  | .xivcWrite v => Sys2Proof.Machine.execXivcWrite v s
  | .frplRetry fid => Sys2Proof.Machine.execFrplRetry fid s
  | .frplRefuse fid => Sys2Proof.Machine.execFrplRefuse fid s
  | .snapshotAsideComplete core tag line => Sys2Proof.Machine.execSnapshotAsideComplete core tag line s
  | .matrixComputeStart core => Sys2Proof.Machine.execMatrixComputeStart core s
  | .matrixComplete core => Sys2Proof.Machine.execMatrixComplete core s
  | .copyLockRegistration core => Sys2Proof.Machine.execCopyLockRegistration core s
  | .copyChunkCommit core tag => Sys2Proof.Machine.execCopyChunkCommit core tag s
  | .copyResume core tag => Sys2Proof.Machine.execCopyResume core tag s
  | .copyComplete core tag => Sys2Proof.Machine.execCopyComplete core tag s
  | .zeroCopyComplete core tag => Sys2Proof.Machine.execZeroCopyComplete core tag s
  | .circuitCopyStart core tag => Sys2Proof.Machine.execCircuitCopyStart core tag s
  | .scoutOutcome thread => Sys2Proof.Machine.execScoutOutcome thread s
  | .scoutBudgetEnd thread => Sys2Proof.Machine.execScoutBudgetEnd thread s
  | .scoutRestore thread => Sys2Proof.Machine.execScoutRestore thread s
  | .wavelengthLock port locked => Sys2Proof.Machine.execWavelengthLock port locked s
  | .wavelengthDead port w => Sys2Proof.Machine.execWavelengthDead port w s
  | .retrainRelock port => Sys2Proof.Machine.execRetrainRelock port s
  | .portLockTimeout port => Sys2Proof.Machine.execPortLockTimeout port s
  | .portTrained port => Sys2Proof.Machine.execPortTrained port s
  | .portTrainingTimeout port => Sys2Proof.Machine.execPortTrainingTimeout port s
  | .helloSend port => Sys2Proof.Machine.execHelloSend port s
  | .hello port bytes fixed lost touched => Sys2Proof.Machine.execHello port bytes fixed lost touched s
  | .portHelloTimeout port => Sys2Proof.Machine.execPortHelloTimeout port s
  | .retrain arrived => Sys2Proof.Machine.execRetrain arrived s
  | .lossOfLight port => Sys2Proof.Machine.execLossOfLight port s
  | .engineFailure engine => Sys2Proof.Machine.execEngineFailure engine s
  | .dataFlit port bytes code => Sys2Proof.Machine.execDataFlit port bytes code s
  | .idleFlit port flit => Sys2Proof.Machine.execIdleFlit port flit s
  | .nak port aseq => Sys2Proof.Machine.execNak port aseq s
  | .ackReport port => Sys2Proof.Machine.execAckReport port s
  | .replayLimit port => Sys2Proof.Machine.execReplayLimit port s
  | .frameReceive q bytes => Sys2Proof.Machine.execFrameReceive q bytes s
  | .store p => Sys2Proof.Machine.execStore p s
  | .redPacket p => Sys2Proof.Machine.execRedPacket p s
  | .load p => Sys2Proof.Machine.execLoad p s
  | .atomPacket p => Sys2Proof.Machine.execAtomPacket p s
  | .reply p => Sys2Proof.Machine.execReply p s
  | .ack p => Sys2Proof.Machine.execAck p s
  | .hold p => Sys2Proof.Machine.execHold p s
  | .refuse p => Sys2Proof.Machine.execRefuse p s
  | .busy p => Sys2Proof.Machine.execBusy p s
  | .chunk p => Sys2Proof.Machine.execChunk p s
  | .commit p => Sys2Proof.Machine.execCommit p s
  | .gdata p => Sys2Proof.Machine.execGdata p s
  | .gclear p => Sys2Proof.Machine.execGclear p s
  | .rdata p => Sys2Proof.Machine.execRdata p s
  | .rfree p => Sys2Proof.Machine.execRfree p s
  | .back p => Sys2Proof.Machine.execBack p s
  | .swrep p => Sys2Proof.Machine.execSwrep p s
  | .requestResend chip lane serial => Sys2Proof.Machine.execRequestResend chip lane serial s
  | .leaseEnd port => Sys2Proof.Machine.execLeaseEnd port s
  | .scriptStart k => Sys2Proof.Machine.execScriptStart k s
  | .bellowsWaitTimeout k => Sys2Proof.Machine.execBellowsWaitTimeout k s
  | .graphOpComplete slot op => Sys2Proof.Machine.execGraphOpComplete slot op s
  | .blockForward index => Sys2Proof.Machine.execBlockForward index s
  | .contextEnable ctx => Sys2Proof.Machine.execContextEnable ctx s
  | .contextDisable ctx => Sys2Proof.Machine.execContextDisable ctx s
  | .labrtWrite ctx v => Sys2Proof.Machine.execLabrtWrite ctx v s
  | .svrplWrite ctx v => Sys2Proof.Machine.execSvrplWrite ctx v s
  | .tailObserve ctx stream => Sys2Proof.Machine.execTailObserve ctx stream s
  | .streamEnable ctx stream => Sys2Proof.Machine.execStreamEnable ctx stream s
  | .streamStop ctx stream => Sys2Proof.Machine.execStreamStop ctx stream s
  | .journalRecordWrite ctx => Sys2Proof.Machine.execJournalRecordWrite ctx s
  | .groupReturn team group => Sys2Proof.Machine.execGroupReturn team group s
  | .cexclWrite w v => Sys2Proof.Machine.execCexclWrite w v s
  | .scrubPass die corrected lost => Sys2Proof.Machine.execScrubPass die corrected lost s
  | .hostRequest write off data => Sys2Proof.Machine.execHostRequest write off data s
  | .huerilinkResponse thread data => Sys2Proof.Machine.execHuerilinkResponse thread data s
  | .hipendWrite half v => Sys2Proof.Machine.execHipendWrite half v s
  | .himaskWrite half v => Sys2Proof.Machine.execHimaskWrite half v s
  | .cxlLinkDown port => Sys2Proof.Machine.execCxlLinkDown port s
  | .clockAdjust pwravg tinlet tjmax => Sys2Proof.Machine.execClockAdjust pwravg tinlet tjmax s
  | .sleepExpire thread => Sys2Proof.Machine.execSleepExpire thread s
  | .monwRepoll thread => Sys2Proof.Machine.execMonwRepoll thread s
  | .registerWrite who off size v => Sys2Proof.Machine.execRegisterWrite who off size v s
  | .instructionResultWrite thread index => Sys2Proof.Machine.execInstructionResultWrite thread index s
  | .iadd d a b => Sys2Proof.Machine.execIadd d a b s
  | .iaddLiteral d a x => Sys2Proof.Machine.execIaddLiteral d a x s
  | .isub d a b => Sys2Proof.Machine.execIsub d a b s
  | .isubLiteral d a x => Sys2Proof.Machine.execIsubLiteral d a x s
  | .imul d a b => Sys2Proof.Machine.execImul d a b s
  | .imulLiteral d a x => Sys2Proof.Machine.execImulLiteral d a x s
  | .imulh u d a b => Sys2Proof.Machine.execImulh u d a b s
  | .imulhLiteral u d a x => Sys2Proof.Machine.execImulhLiteral u d a x s
  | .imulw u d a b => Sys2Proof.Machine.execImulw u d a b s
  | .imulwLiteral u d a x => Sys2Proof.Machine.execImulwLiteral u d a x s
  | .imad d a b e => Sys2Proof.Machine.execImad d a b e s
  | .imin u d a b => Sys2Proof.Machine.execImin u d a b s
  | .iminLiteral u d a x => Sys2Proof.Machine.execIminLiteral u d a x s
  | .imax u d a b => Sys2Proof.Machine.execImax u d a b s
  | .imaxLiteral u d a x => Sys2Proof.Machine.execImaxLiteral u d a x s
  | .iabs d a => Sys2Proof.Machine.execIabs d a s
  | .ineg d a => Sys2Proof.Machine.execIneg d a s
  | .icmp c d a b => Sys2Proof.Machine.execIcmp c d a b s
  | .icmpLiteral c d a x => Sys2Proof.Machine.execIcmpLiteral c d a x s
  | .iadd64 d a b => Sys2Proof.Machine.execIadd64 d a b s
  | .lea u sh d a b => Sys2Proof.Machine.execLea u sh d a b s
  | .leaLiteral u sh d a x => Sys2Proof.Machine.execLeaLiteral u sh d a x s
  | .sel d a b e => Sys2Proof.Machine.execSel d a b e s
  | .mov d a => Sys2Proof.Machine.execMov d a s
  | .movi d imm => Sys2Proof.Machine.execMovi d imm s
  | .moviLiteral d x => Sys2Proof.Machine.execMoviLiteral d x s
  | .and d a b => Sys2Proof.Machine.execAnd d a b s
  | .andLiteral d a x => Sys2Proof.Machine.execAndLiteral d a x s
  | .or d a b => Sys2Proof.Machine.execOr d a b s
  | .orLiteral d a x => Sys2Proof.Machine.execOrLiteral d a x s
  | .xor d a b => Sys2Proof.Machine.execXor d a b s
  | .xorLiteral d a x => Sys2Proof.Machine.execXorLiteral d a x s
  | .not d a => Sys2Proof.Machine.execNot d a s
  | .shl d a b => Sys2Proof.Machine.execShl d a b s
  | .shlLiteral d a x => Sys2Proof.Machine.execShlLiteral d a x s
  | .shr d a b => Sys2Proof.Machine.execShr d a b s
  | .shrLiteral d a x => Sys2Proof.Machine.execShrLiteral d a x s
  | .sar d a b => Sys2Proof.Machine.execSar d a b s
  | .sarLiteral d a x => Sys2Proof.Machine.execSarLiteral d a x s
  | .shl64 d a b => Sys2Proof.Machine.execShl64 d a b s
  | .shl64Literal d a x => Sys2Proof.Machine.execShl64Literal d a x s
  | .shr64 d a b => Sys2Proof.Machine.execShr64 d a b s
  | .shr64Literal d a x => Sys2Proof.Machine.execShr64Literal d a x s
  | .bfe sx d a b => Sys2Proof.Machine.execBfe sx d a b s
  | .bfeLiteral sx d a x => Sys2Proof.Machine.execBfeLiteral sx d a x s
  | .bfi d a b e => Sys2Proof.Machine.execBfi d a b e s
  | .brev d a => Sys2Proof.Machine.execBrev d a s
  | .popc d a => Sys2Proof.Machine.execPopc d a s
  | .clz d a => Sys2Proof.Machine.execClz d a s
  | .bsrd d a b => Sys2Proof.Machine.execBsrd d a b s
  | .fadd rm d a b => Sys2Proof.Machine.execFadd rm d a b s
  | .faddLiteral rm d a x => Sys2Proof.Machine.execFaddLiteral rm d a x s
  | .fsub rm d a b => Sys2Proof.Machine.execFsub rm d a b s
  | .fsubLiteral rm d a x => Sys2Proof.Machine.execFsubLiteral rm d a x s
  | .fmul rm d a b => Sys2Proof.Machine.execFmul rm d a b s
  | .fmulLiteral rm d a x => Sys2Proof.Machine.execFmulLiteral rm d a x s
  | .ffma rm d a b e => Sys2Proof.Machine.execFfma rm d a b e s
  | .fmin d a b => Sys2Proof.Machine.execFmin d a b s
  | .fminLiteral d a x => Sys2Proof.Machine.execFminLiteral d a x s
  | .fmax d a b => Sys2Proof.Machine.execFmax d a b s
  | .fmaxLiteral d a x => Sys2Proof.Machine.execFmaxLiteral d a x s
  | .fcmp c d a b => Sys2Proof.Machine.execFcmp c d a b s
  | .fcmpLiteral c d a x => Sys2Proof.Machine.execFcmpLiteral c d a x s
  | .fclass d a => Sys2Proof.Machine.execFclass d a s
  | .frnd rm d a => Sys2Proof.Machine.execFrnd rm d a s
  | .exp2 d a is => Sys2Proof.Machine.execExp2 d a is s
  | .log2 d a is => Sys2Proof.Machine.execLog2 d a is s
  | .rcp d a is => Sys2Proof.Machine.execRcp d a is s
  | .rsq d a is => Sys2Proof.Machine.execRsq d a is s
  | .sqrt rm d a is => Sys2Proof.Machine.execSqrt rm d a is s
  | .tanh d a is => Sys2Proof.Machine.execTanh d a is s
  | .padd t sat rz d a b => Sys2Proof.Machine.execPadd t sat rz d a b s
  | .paddLiteral t sat rz d a x => Sys2Proof.Machine.execPaddLiteral t sat rz d a x s
  | .pmul t sat rz d a b => Sys2Proof.Machine.execPmul t sat rz d a b s
  | .pmulLiteral t sat rz d a x => Sys2Proof.Machine.execPmulLiteral t sat rz d a x s
  | .pfma t sat rz d a b e => Sys2Proof.Machine.execPfma t sat rz d a b e s
  | .pmin t d a b => Sys2Proof.Machine.execPmin t d a b s
  | .pminLiteral t d a x => Sys2Proof.Machine.execPminLiteral t d a x s
  | .pmax t d a b => Sys2Proof.Machine.execPmax t d a b s
  | .pmaxLiteral t d a x => Sys2Proof.Machine.execPmaxLiteral t d a x s
  | .cvt df sf rm sat k d a is => Sys2Proof.Machine.execCvt df sf rm sat k d a is s
  | .cvtsr df sat d a e is => Sys2Proof.Machine.execCvtsr df sat d a e is s
  | .pack t sat hi d a b => Sys2Proof.Machine.execPack t sat hi d a b s
  | .packLiteral t sat hi d a x => Sys2Proof.Machine.execPackLiteral t sat hi d a x s
  | .unpk t hi d a => Sys2Proof.Machine.execUnpk t hi d a s
  | .shfl mode d a b m is => Sys2Proof.Machine.execShfl mode d a b m is s
  | .ballot d a m is => Sys2Proof.Machine.execBallot d a m is s
  | .vote kind d a m is => Sys2Proof.Machine.execVote kind d a m is s
  | .redl op ty d a m is => Sys2Proof.Machine.execRedl op ty d a m is s
  | .scanl op excl ty d a m is => Sys2Proof.Machine.execScanl op excl ty d a m is s
  | .elect d a m is => Sys2Proof.Machine.execElect d a m is s
  | .bra k => Sys2Proof.Machine.execBra k s
  | .brc c k => Sys2Proof.Machine.execBrc c k s
  | .brx a => Sys2Proof.Machine.execBrx a s
  | .call l k => Sys2Proof.Machine.execCall l k s
  | .callx d a => Sys2Proof.Machine.execCallx d a s
  | .ret a => Sys2Proof.Machine.execRet a s
  | .sleep n => Sys2Proof.Machine.execSleep n s
  | .sleepLiteral n => Sys2Proof.Machine.execSleepLiteral n s
  | .trap code => Sys2Proof.Machine.execTrap code s
  | .bar all slot a => Sys2Proof.Machine.execBar all slot a s
  | .monw m d a e => Sys2Proof.Machine.execMonw m d a e s
  | .fence k d => Sys2Proof.Machine.execFence k d s
  | .ld m d a => Sys2Proof.Machine.execLd m d a s
  | .st m a e => Sys2Proof.Machine.execSt m a e s
  | .ldt size cnt d a imm p is => Sys2Proof.Machine.execLdt size cnt d a imm p is s
  | .atom m d a e => Sys2Proof.Machine.execAtom m d a e s
  | .atomf m d a e => Sys2Proof.Machine.execAtomf m d a e s
  | .red m a e => Sys2Proof.Machine.execRed m a e s
  | .pref m a => Sys2Proof.Machine.execPref m a s
  | .mcfg c a is => Sys2Proof.Machine.execMcfg c a is s
  | .mma af bf as c d a b n is => Sys2Proof.Machine.execMma af bf as c d a b n is s
  | .mmas af bf as c d a b n e is => Sys2Proof.Machine.execMmas af bf as c d a b n e is s
  | .mzero a b is => Sys2Proof.Machine.execMzero a b is s
  | .mrd n d a b is => Sys2Proof.Machine.execMrd n d a b is s
  | .mwr n a b e is => Sys2Proof.Machine.execMwr n a b e is s
  | .mst fmt sat n c a off e is => Sys2Proof.Machine.execMst fmt sat n c a off e is s
  | .mwait c is => Sys2Proof.Machine.execMwait c is s
  | .mchk d a b is => Sys2Proof.Machine.execMchk d a b is s
  | .cpy tag d a b is => Sys2Proof.Machine.execCpy tag d a b is s
  | .tagw any a is => Sys2Proof.Machine.execTagw any a is s
  | .tagf d a is => Sys2Proof.Machine.execTagf d a is s
  | .tagc a is => Sys2Proof.Machine.execTagc a is s
  | .racq d a b is => Sys2Proof.Machine.execRacq d a b is s
  | .rrel a b is => Sys2Proof.Machine.execRrel a b is s
  | .srd d n => Sys2Proof.Machine.execSrd d n s
  | .swr a n => Sys2Proof.Machine.execSwr a n s
  | .creq d a b => Sys2Proof.Machine.execCreq d a b s
  | .cawt d a b => Sys2Proof.Machine.execCawt d a b s
  | .crel d a => Sys2Proof.Machine.execCrel d a s
  | .csta d a => Sys2Proof.Machine.execCsta d a s
  | .gload d a b => Sys2Proof.Machine.execGload d a b s
  | .grun d a b => Sys2Proof.Machine.execGrun d a b s
  | .gwait d a b => Sys2Proof.Machine.execGwait d a b s
  | .rotb d a b => Sys2Proof.Machine.execRotb d a b s
  | .rote d a b => Sys2Proof.Machine.execRote d a b s
  | .sems d a b => Sys2Proof.Machine.execSems d a b s
  | .semw d a b => Sys2Proof.Machine.execSemw d a b s
  | .launch rec => Sys2Proof.Machine.execLaunch rec s
  | .ib addr => Sys2Proof.Machine.execIb addr s
  | .predw cc mark addr val => Sys2Proof.Machine.execPredw cc mark addr val s
  | .jmark mark => Sys2Proof.Machine.execJmark mark s
  | .loop count => Sys2Proof.Machine.execLoop count s
  | .mwri wide addr val => Sys2Proof.Machine.execMwri wide addr val s
  | .pin va len => Sys2Proof.Machine.execPin va len s
  | .unpin va len => Sys2Proof.Machine.execUnpin va len s
  | .biasDev va len => Sys2Proof.Machine.execBiasDev va len s
  | .biasHost va len => Sys2Proof.Machine.execBiasHost va len s
  | .tsw addr => Sys2Proof.Machine.execTsw addr s
  | .bstrt k pc arg => Sys2Proof.Machine.execBstrt k pc arg s
  | .hearthSems n val => Sys2Proof.Machine.execHearthSems n val s
  | .hearthSemw dec n val => Sys2Proof.Machine.execHearthSemw dec n val s
  | .moduleReset => Sys2Proof.Machine.execModuleReset s
  | .quenchPin => Sys2Proof.Machine.execQuenchPin s
  | .bypass => Sys2Proof.Machine.execBypass s
  | .idcode => Sys2Proof.Machine.execIdcode s
  | .samplePreload => Sys2Proof.Machine.execSamplePreload s
  | .extest => Sys2Proof.Machine.execExtest s
  | .qsel => Sys2Proof.Machine.execQsel s
  | .qscan => Sys2Proof.Machine.execQscan s
  | .invalidationComplete => Sys2Proof.Machine.execInvalidationComplete s
  | .biasFlipComplete => Sys2Proof.Machine.execBiasFlipComplete s
  | .nakRepeat => Sys2Proof.Machine.execNakRepeat s
  | .sourceEntryExpire => Sys2Proof.Machine.execSourceEntryExpire s
  | .remoteHoldExpire => Sys2Proof.Machine.execRemoteHoldExpire s
  | .rfreeRepeat => Sys2Proof.Machine.execRfreeRepeat s
  | .attest => Sys2Proof.Machine.execAttest s
  | .loadFirmwareImage => Sys2Proof.Machine.execLoadFirmwareImage s
  | .reportIdentity => Sys2Proof.Machine.execReportIdentity s
  | .freeze => Sys2Proof.Machine.execFreeze s
  | .mgmtCommandComplete => Sys2Proof.Machine.execMgmtCommandComplete s
  | .thermalQuench => Sys2Proof.Machine.execThermalQuench s
  | .exit => Sys2Proof.Machine.execExit s
  | .nop => Sys2Proof.Machine.execNop s
  | .yield => Sys2Proof.Machine.execYield s
  | .svc => Sys2Proof.Machine.execSvc s
  | .eret => Sys2Proof.Machine.execEret s
  | .bkpt => Sys2Proof.Machine.execBkpt s
  | .ibret => Sys2Proof.Machine.execIbret s
  | .endl => Sys2Proof.Machine.execEndl s
  | .ffence => Sys2Proof.Machine.execFfence s

end Sys2Proof.Machine
end

