-- ==== Sys2Proof/Machine/Run.lean ====
section
/-! DEFINITION. Turns: what a picker, a script or a stream does with the words it has fetched, and the next turn (R20,
R21, R302, R322). Each agent's turns come in its own program order (R110, R123), prefetches and walks among them change
no value (R111), two stores that R115 lets merge are two turns with none between, and the bundling of threads changes no
result (R25). Progress and dispatch order are R33 and R34: the order is that of the dispatch event, the pace is free.
Where modes meet each acts as its own chapter says (R279). -/
namespace Sys2Proof.Machine
open Sys2Proof

/-- The instructions whose order among the threads of a bundle the manual fixes: scratch accesses, copies, releases and
accumulator writes go by ascending slot (R52, R156, R230). -/
def laneOrder : Instr → Bool
  | .ld m _ _ | .st m _ _ | .atom m _ _ _ | .atomf m _ _ _ | .red m _ _ | .monw m _ _ _ => m.space == 1
  | .ldt .. | .cpy .. | .tagw .. | .tagf .. | .tagc .. | .rrel .. | .mwr .. | .mst .. => true
  | _ => false

/-- The word a bundle stands at, and its continuation words. -/
def Bundle.word (b : Bundle) : Word := b.words.getD (b.pos - 1) 0
def Bundle.conts (b : Bundle) : List Word := (b.words.drop b.pos).take (contRun b.hdr b.pos)
/-- The instruction of a thread of the bundle, in the thread's clause execution, as the step's current one. -/
def Bundle.cur (s : State) (b : Bundle) (u : Nat) : Cur :=
  let a := b.addr + BitVec.ofNat 64 (4 * b.pos)
  { who := .thread u, addr := a, word := b.word, next := a + BitVec.ofNat 64 (4 * (1 + b.conts.length)), hdr := b.addr
    last := b.atLast, pos := b.ipos, exe := (s.thread u).exe }

/-- A bundle's word decoded. -/
def Bundle.decoded (b : Bundle) : Except DecodeErr Instr := decode .core b.word b.conts

/-- One thread of a bundle executes the bundle's instruction (R22, R302, R322). EXIT in mid-clause is both a transfer (R302)
and named in R22; that %einfo holds reason 3 is the model's choice (log entry 124). -/
def runThread (s : State) (b : Bundle) (u : Nat) : Host.Outcome State Fault Refusal :=
  let c := b.cur s u
  let n := fOp b.word
  if !c.last && isTransfer n then .next (trapOr s u 0x02 c.addr 3 c.addr)
  else if !c.last && mustEnd n then .next (trapOr s u 0x02 c.addr 4 c.addr)
  else match b.decoded with
    | .ok i => exec i { s with cur := some c }
    | .error _ => .next (trapOr s u 0x01 c.addr c.word c.addr)

/-- A picker's turn: its bundle goes on, and thread k of those that have not executed the instruction executes it. -/
def runPicker (s : State) (core p k : Nat) : Host.Outcome State Fault Refusal :=
  let c := s.core core
  match (if p == 0 then c.pick0 else c.pick1) with
  | none => .next s
  | some b0 =>
    let b := b0.advance s 16
    let s1 := s.setCore core (if p == 0 then { c with pick0 := some b } else { c with pick1 := some b })
    match b.todo with
    | [] => .next s1
    | u :: rest =>
      let k := match b.decoded with
        | .ok i => if laneOrder i then 0 else k
        | .error _ => k
      runThread s1 b ((u :: rest).getD (k % (rest.length + 1)) u)

/-- A script's turn with the clause it has fetched: the word it stands at is executed (R209, R210, R322). -/
def runScriptWord (s : State) (k : Nat) (sc : Script) (base : DWord) : Host.Outcome State Fault Refusal :=
  let h := sc.words.headD 0
  let w := sc.words.getD sc.pos 0
  let n := contRun h sc.pos
  let a := base + BitVec.ofNat 64 (4 * sc.pos)
  let c : Cur := { who := .script k, addr := a, word := w, next := a + BitVec.ofNat 64 (4 * (1 + n)), hdr := base
                   last := hdrN h ≤ sc.pos + n, pos := 0, exe := 0 }
  if !c.last && isScriptTransfer (fOp w) then .next (endScript s k 0x02)
  else match decode .bellows w ((sc.words.drop (sc.pos + 1)).take n) with
    | .ok i => exec i { s with cur := some c }
    | .error _ => .next (endScript s k 0x01)

/-- A running script has an instruction to execute: it waits for nothing, or for a fault that has been served. -/
def scriptReady (s : State) (k : Nat) : Bool :=
  let sc := s.script k
  sc.running && match sc.wait with
    | none => true
    | some (.fault page) => (faultOf s sc.ctx page).isNone
    | some _ => false
/-- Its turn has come in the Bellows' round robin, one instruction at a time (R207). -/
def scriptDue (s : State) (k : Nat) : Bool :=
  let rank := fun i => (i + 4 - s.hub.scriptTurn) % 4
  (List.range 4).all fun i => i == k || !(scriptReady s i) || rank k < rank i
/-- The round robin goes on behind a script. -/
def pastScript (s : State) (k : Nat) : State := { s with hub := { s.hub with scriptTurn := (k + 1) % 4 } }

/-- A ready script goes on: it executes the word it stands at, or fetches its clause (R207, R208). -/
def scriptGoes (s : State) (k : Nat) : Host.Outcome State Fault Refusal :=
  let sc := s.script k
  let s1 := s.setScript k { sc with wait := none }
  match sc.header with
  | some h => runScriptWord (pastScript s1 k) k sc h
  | none => .next <| match fetchScript s1 k with
    | .ok s2 b => enterClause s2 k b
    | .stop s2 => pastScript s2 k
/-- A script's turn: a port it waits for is looked at, or, when it is due, it goes on (R207-R210, R215). -/
def runScript (s : State) (k : Nat) : Host.Outcome State Fault Refusal :=
  let sc := s.script k
  match sc.wait with
  | some (.port p want d) =>
    .next (if sc.running then (match cawtLook (s.port p) want with | some w => scriptAnswer s k d.toNat w | none => s) else s)
  | _ => if scriptReady s k && scriptDue s k then scriptGoes s k else .next s

/-- A stream's turn (R241). -/
def runStream (s : State) (c n ahead : Nat) : Host.Outcome State Fault Refusal :=
  match streamTurn s c n ahead with
  | .stop s1 => .next s1
  | .go s1 i cur => exec i { s1 with cur := some cur }

/-- What a turn does. -/
def runAct (s : State) : Act → Host.Outcome State Fault Refusal
  | .picker core p k => runPicker s core p k
  | .script k => runScript s k
  | .stream c n ahead => runStream s c n ahead
  | .jtag code => exec (decodeJtag code) s
  | .event i => exec i s
  | .error e => .next (storageError s e)
  | .farLock l held => .next (if held then takeFarLock s l else dropFarLock s l)

/-- What waits and needs no agent's turn is looked at again: aborts that wait for clauses to end (R260), the host's requests
(R110), requests and COMMITs of other chips (R117), replays (R103), answers and calls of services, groups to be spilled (R251,
R252), completion words (R162). -/
def settle (s : State) : State :=
  let s1 := (s.launches.filter (·.abort.isSome)).foldl (fun s l => abortStep s l.uid) s
  flushHub (s1.hubq.length + 1) <| flushWords (spillAll (retryCalls (retryAnswers (retryReplays (serveLanes (serveHost (scoutsAsk s1)))))))

/-- A turn while the machine is frozen: only the test port, the management controller and module reset act (R276, R278, R286). -/
def frozenAct (s : State) : Act → Host.Outcome State Fault Refusal
  | .jtag code => exec (decodeJtag code) s
  | .event .moduleReset => exec .moduleReset s
  | .event (.dataRegisterScan l) => exec (.dataRegisterScan l) s
  | .event .freeze => exec .freeze s
  | .event .loadFirmwareImage => exec .loadFirmwareImage s
  | .event .mgmtCommandComplete => exec .mgmtCommandComplete s
  | _ => .next s

/-- One turn: time passes and the agent acts; a frozen machine's clocks stand (R276). -/
def runTurn (s : State) (t : Turn) : Host.Outcome State Fault Refusal :=
  if s.frozen then frozenAct { s with cur := none } t.act
  else runAct (settle { s with cur := none, cycle := s.cycle + t.cycles, htime := s.htime + t.ns }) t.act

/-- The next turn: the agenda's, else the boot check of a machine just reset, else a free one (R285; log entry 2). -/
def nextTurn (s : State) : Host.Outcome State Fault Refusal :=
  match s.agenda with
  | t :: rest => runTurn { s with agenda := rest } t
  | [] =>
    if s.hub.stage == 0 && !s.frozen then .next (bootBegin s)
    else if s.hub.stage == 1 && !s.frozen && (Config.freeTurn s.draws).isNone then .next (bootCheck { s with draws := s.draws + 1 })
    else
      match Config.freeTurn s.draws with
      | some t => runTurn { s with draws := s.draws + 1 } t
      | none => runTurn { s with draws := s.draws + 1 } ⟨1, 1, .picker 0 0 0⟩

/-! ### Placing an instruction where the next step runs it -/

/-- The header of a clause of one instruction with its continuation words (R300). -/
def oneHeader (exe : Nat) (n : Nat) : Word := BitVec.ofNat 32 ((n + 1) * 2 ^ 28 + exe * 2 ^ 26 + (2 ^ (n + 1) - 2))

/-- A thread alone on core 0 whose bundle has fetched a clause of one instruction. -/
def placeThread (s : State) (w : Word) : State :=
  let ks := zeroWords w
  let u := s.nextUid
  let r : LaunchRec := { x := 1, y := 1, z := 1, groups := 1, nreg := 128 }
  { s with
    launches := [{ uid := u, rcd := r, next := 1 }]
    teams := [{ uid := u + 1, launch := u }]
    threads := [{ uid := u + 2, team := u + 1, regs := List.replicate 128 0, pois := List.replicate 128 false, pc := 4, mid := some 0, exe := 1 }]
    nextUid := u + 3
    agenda := [⟨0, 0, .picker 0 0 0⟩] }.setCore 0
      { s.core 0 with pick0 := some { threads := [u + 2], addr := 0, hdr := oneHeader 0 ks.length, words := w :: ks, exe := 1, todo := [u + 2] } }

/-- Script context 0 running, with a fetched clause of one instruction. -/
def placeScript (s : State) (w : Word) : State :=
  let ks := zeroWords w
  { s with agenda := [⟨0, 0, .script 0⟩] }.setScript 0
    { running := true, pc := 4, regs := List.replicate 32 0, header := some 0, words := oneHeader 1 ks.length :: w :: ks, pos := 1 }

/-- Stream 0 of context 0 running, with a fetched clause of one packet. -/
def placeStream (s : State) (w : Word) : State :=
  let ks := zeroWords w
  let b : Buffer := { word := 1, hdr := some (oneHeader 2 ks.length), fetched := (w :: ks).zipIdx.map fun x => (BitVec.ofNat 64 (4 + 4 * x.2), x.1) }
  let st : Stream := { en := true, fresh := false, lsize := 10, tail := 512, bufs := [b] }
  { s with agenda := [⟨0, 0, .stream 0 0 0⟩] }.setCtx 0 { s.ctx 0 with en := true, active := true, jlog := 8, streams := [(0, st)] }

/-- The machine with one instruction where its next step runs it. -/
def placeWord (s : State) (nbits w : Nat) : State :=
  if nbits ≤ 8 then { s with agenda := [⟨0, 0, .jtag w⟩] }
  else
    let x := BitVec.ofNat 32 w
    match tableSpace x with
    | .core => placeThread s x
    | .bellows => placeScript s x
    | .hearth => placeStream s x

end Sys2Proof.Machine
end

