-- ==== Sys2Proof/Machine/Step.lean ====
section
/-! DEFINITION. One step of the machine, and the placing of one instruction where the next step runs it. -/
namespace Sys2Proof.Machine
open Sys2Proof

/-- One step: the next turn. -/
def step (s : State) : Host.Outcome State Fault Refusal := nextTurn s

/-- The machine with one instruction, its bits numbered as the opcode table numbers them, where the next step runs it
(log entry 10). -/
def State.withFetchWord (s : State) (nbits w : Nat) : State := placeWord s nbits w

end Sys2Proof.Machine
end

