-- ==== Sys2Proof/Safety.lean ====
section
/-! DEFINITION. The terms of the claims: safe runs, who executes, which operands are readable, and what of the machine an
instruction leaves as it was. -/
namespace Sys2Proof
open Sys2Proof.Machine

/-- The step answers a next state: no fault and no refusal. -/
def Completes (s : State) : Prop := ∃ t, step s = .next t

/-- A frozen machine, which only module reset leaves (R278). -/
def Frozen (s : State) : Prop := s.frozen = true

/-- Memory is in its canonical form. -/
def MemoryOk (s : State) : Prop := Memory.wf s.mem = true

end Sys2Proof

namespace Sys2Proof.Machine
open Sys2Proof

/-! ### Threads -/

/-- Thread u executes the instruction of this step, outside scout; th is the thread with the results landed that this
instruction may read (R312, R313). -/
structure Runs (s : State) (u : Nat) (c : Cur) (th : Thread) : Prop where
  cur   : s.cur = some c
  who   : c.who = .thread u
  has   : s.hasThread u = true
  land  : prepare (s.thread u) c = some th
  scout : th.scout = none

/-- The scoreboard counter an X word names can rise by one more, or has risen for this instruction already, which issued in an
earlier turn (R315). -/
def CounterFree (th : Thread) (is : Issue) : Prop :=
  (th.up = none ∧ (is.sb.toNat < 6 → th.sb.getD is.sb.toNat 0 ≠ 63)) ∨ th.up = some is.sb.toNat

/-- Registers that exist and are not poisoned (R46, R269). -/
def Readable (th : Thread) (rs : List Nat) : Prop := ∀ r ∈ rs, r < th.regs.length ∧ (th.reg r).2 = false
/-- Registers that exist (R46). -/
def Exist (th : Thread) (rs : List Nat) : Prop := ∀ r ∈ rs, r < th.regs.length

/-- A thread without its ready stamp, which the end of a clause renews (R20). -/
def Thread.unstamped (t : Thread) : Thread := { t with stamp := 0 }
/-- A core without its bundles. -/
def Core.bare (c : Core) : Core := { c with pick0 := none, pick1 := none, out := [] }
/-- A thread that has executed its instruction: it stands at the next instruction word, and no counter is up for it (R257, R302,
R316). -/
def Thread.goneOn (th : Thread) (c : Cur) : Thread :=
  { th.lower with pc := c.next, mid := if c.last then none else some c.hdr, hold := none, part := none, reply := none, brought := []
                  rerun := false, plain := false, ipos := if c.last then 0 else c.pos + 1, polls := false }
/-- A thread that a control transfer has taken to an address, read as a clause header (R303). -/
def Thread.jumped (th : Thread) (pc : DWord) : Thread :=
  { th.lower with pc := pc, mid := none, hold := none, part := none, reply := none, brought := [], rerun := false, plain := false, ipos := 0
                  polls := false }
/-- A thread whose sticky flags have been raised (R57). -/
def Thread.raising (th : Thread) (fl : Flags) : Thread := { th with fstat := th.fstat ||| fl }

/-- Everything but the executing thread, and the bundles of the cores, is as before; so is every byte of memory. A ready
stamp of another thread of the bundle may change when the clause ends (R20). -/
structure OnlyThread (s t : State) (u : Nat) : Prop where
  rest   : t = { s with threads := t.threads, cores := t.cores }
  memory : ∀ a, t.byte a = s.byte a
  others : ∀ v, v ≠ u → (t.thread v).unstamped = (s.thread v).unstamped
  cores  : ∀ n, (t.core n).bare = (s.core n).bare

/-- The thread has executed its instruction: it is th, ready at the next instruction word, and nothing else changed. -/
structure Advanced (s t : State) (u : Nat) (c : Cur) (th : Thread) : Prop where
  thread : (t.thread u).unstamped = (th.goneOn c).unstamped
  frame  : OnlyThread s t u

/-- The thread has been taken to an address by its transfer, and nothing else changed. -/
structure Arrives (s t : State) (u : Nat) (th : Thread) (pc : DWord) : Prop where
  thread : (t.thread u).unstamped = (th.jumped pc).unstamped
  frame  : OnlyThread s t u

/-- Registers written at once, unpoisoned; older results that wait for them are discarded (R312). -/
def Thread.writes (th : Thread) (rs : List (Nat × Word)) : Thread :=
  { th with
    window := discardFor th.window (rs.map (·.1)), regs := rs.foldl (fun l x => l.set x.1 x.2) th.regs
    pois := rs.foldl (fun l x => l.set x.1 false) th.pois }

/-- The counter an X word names has risen once for the instruction, as it issued, and counts on for what it issued (R315). -/
def Thread.counted (th : Thread) (is : Issue) : Thread :=
  { th with sb := if is.sb.toNat < 6 ∧ th.up = none then th.sb.set is.sb.toNat (th.sb.getD is.sb.toNat 0 + 1) else th.sb, up := none }

/-- Results under the window of an X word with the flags that rise when they land, and the counter it names one higher (R57,
R311, R315). -/
def Thread.issues (th : Thread) (c : Cur) (is : Issue) (rs : List (Nat × Word)) (fl : Flags) : Thread :=
  { th.counted is with
    window := th.window ++ [{ pos := c.pos, exe := c.exe, la := is.la.toNat, regs := rs.map fun x => (x.1, x.2, false, false)
                              sb := is.sb.toNat, ready := true, tok := 0, fl := fl }] }

/-- j is the integer that a magnitude m × 2^e of a sign rounds to under a mode; the magnitude is an integer itself (R66, R73,
R373). -/
def RoundsTo (mode : RMode) (neg : Bool) (m : Nat) (e : Int) (j : Nat) : Prop :=
  let q := 2 ^ (-e).toNat
  (0 ≤ e → j = m * 2 ^ e.toNat) ∧
  (e < 0 →
    (mode = .rz → j = m / q) ∧ (mode = .ru → j = if neg then m / q else (m + q - 1) / q) ∧
    (mode = .rd → j = if neg then (m + q - 1) / q else m / q) ∧
    (mode = .rne → 2 * (j * q) ≤ 2 * m + q ∧ 2 * m ≤ 2 * (j * q) + q ∧ (2 * (j * q) = 2 * m + q ∨ 2 * m = 2 * (j * q) + q → j % 2 = 0)))
abbrev Whole (m : Nat) (e : Int) : Prop := 0 ≤ e ∨ m % 2 ^ (-e).toNat = 0

/-- A register instruction completes for every thread whose named registers exist and whose sources are unpoisoned: its
results stand in the registers dst, its flags are raised, and nothing else changes but the pc. -/
def Computes (i : Instr) (srcs dst : List Nat) (f : Thread → List Word) (fl : Thread → Flags) : Prop :=
  ∀ s u c th, Runs s u c th → Readable th srcs → Exist th dst →
    ∃ t, exec i s = .next t ∧ Advanced s t u c ((Thread.writes th (dst.zip (f th))).raising (fl th))

/-- The same of an instruction with an X word: its results wait under its window, and its flags with them (R57). -/
def ComputesLate (i : Instr) (is : Issue) (srcs dst : List Nat) (f : Thread → List Word) (fl : Thread → Flags) : Prop :=
  ∀ s u c th, Runs s u c th → CounterFree th is → Readable th srcs → Exist th dst →
    ∃ t, exec i s = .next t ∧ Advanced s t u c (Thread.issues th c is (dst.zip (f th)) (fl th))

/-- A register instruction of a script whose named registers are v0 to v31 writes the registers dst, and the script stands
at its next instruction (R207-R210); nothing else changes. -/
def ScriptComputes (i : Instr) (regs dst : List Nat) (f : Script → List Word) : Prop :=
  ∀ s k c, s.cur = some c → c.who = .script k → (∀ r ∈ regs ++ dst, r < 32) →
    exec i s = .next (scriptNext (s.setScript k
      { s.script k with regs := (dst.zip (f (s.script k))).foldl (fun l x => l.set x.1 x.2) (s.script k).regs }) k)

/-- An integer instruction, of a thread and of a script alike: f gives its results from a reader of registers and a reader
of pairs (R324, R209). -/
def ComputesInt (i : Instr) (srcs dst : List Nat) (f : (Reg → Word) → (Reg → DWord) → List Word) : Prop :=
  Computes i srcs dst (fun t => f t.val t.pair) (fun _ => 0) ∧ ScriptComputes i srcs dst (fun k => f k.val k.pair)

/-- A thread's instruction traps: the exception is taken with this code, address and information, at this %epc. -/
def Traps (s : State) (u : Nat) (th : Thread) (i : Instr) (code : Nat) (addr : DWord) (info : Word) (epc : DWord) : Prop :=
  exec i s = .next (takeTrap (s.setThread th) u code addr info epc)

/-! ### Memory -/

/-- A load's results under its window, poisoned together, and the counter it names one higher (R269, R311, R315). -/
def Thread.loads (th : Thread) (c : Cur) (is : Issue) (rs : List (Nat × Word)) (p : Bool) : Thread :=
  { th.counted is with
    window := th.window ++ [{ pos := c.pos, exe := c.exe, la := is.la.toNat, regs := rs.map fun x => (x.1, x.2, p, false)
                              sb := is.sb.toNat, ready := true, tok := 0 }] }

/-- Results under a window, each register with its poison, that a unit has answered. -/
def Thread.fills (th : Thread) (c : Cur) (is : Issue) (rs : List (Nat × Word × Bool)) : Thread :=
  { th.counted is with
    window := th.window ++ [{ pos := c.pos, exe := c.exe, la := is.la.toNat, regs := rs.map fun x => (x.1, x.2.1, x.2.2, false)
                              sb := is.sb.toNat, ready := true, tok := 0 }] }

/-- How far the thread's access has come (R114). -/
def Thread.progress (th : Thread) : Part := th.part.getD ⟨0, [], false, false⟩

/-- A piece of a thread's access at a virtual address finds its translation and memory at a local offset, with nothing in
its way: no side-log entry, no bias flip, no host bias, no range lock, no CXL port down (R90, R101, R107, R108, R117, R284). -/
structure Hits (s : State) (th : Thread) (write : Bool) (va off : Nat) : Prop where
  canon : canonical (BitVec.ofNat 64 va) = true
  found : ∃ x, findXlate s th.core (s.launchOfThread th).ctx (vaKey (BitVec.ofNat 64 va)) = some x ∧ (write = true → x.w = true) ∧
            spotOf s (x.phys (vaKey (BitVec.ofNat 64 va))) = some (.mem off)
  still : flipping s off = false
  own   : hostBias s off = false
  logs  : ∀ tm ∈ s.teams, tm.log = []
  locks : lockHolders s = [] ∧ s.farLocks = [] ∧ waitingSnapshots s = []
  up    : s.hub.cxldn = []
  free  : ∀ x p, th.hold ≠ some (.refused x p) ∧ th.hold ≠ some (.fault x p) ∧ th.hold ≠ some (.logs x p)
  here  : th.hold ≠ some .hostLink ∧ th.asking = false

/-- The pieces x and rest still to come all hit, at the offsets that off gives; when there are several, each translation
lies in the core's own cache. -/
def AllHit (s : State) (th : Thread) (write : Bool) (off : Nat → Nat) (x : Nat × Nat) (rest : List (Nat × Nat)) : Prop :=
  (∀ y ∈ x :: rest, Hits s th write y.1 (off y.1)) ∧
  (rest ≠ [] → ∀ y ∈ x :: rest, (inCore s th.core (s.launchOfThread th).ctx (vaKey (BitVec.ofNat 64 y.1))).isSome = true)

/-- The other threads are as before. -/
def OthersStand (s t : State) (u : Nat) : Prop := ∀ v, v ≠ u → (t.thread v).unstamped = (s.thread v).unstamped

/-- Memory after data has been stored at an offset, poisoned or not: those bytes hold it, every other byte is as before, and
so is every granule's mark but those of the granules touched (R269). With no data nothing has changed. -/
def MemoryStored (s t : State) (off : Nat) (data : List Byte) (p : Bool) : Prop :=
  (∀ k, t.byte k = if off ≤ k ∧ k < off + data.length then data.getD (k - off) 0 else s.byte k) ∧
  (∀ g, nmem t.poison g = if off / 16 ≤ g ∧ g * 16 < off + data.length then
    p || (nmem s.poison g && !(decide (off ≤ g * 16 ∧ g * 16 + 16 ≤ off + data.length))) else nmem s.poison g)

/-- A team's scratch after data has been stored at an offset (R51, R269); memory and the other teams are as before. -/
def ScratchStored (s t : State) (u o : Nat) (data : List Byte) (p : Bool) : Prop :=
  (∀ k, tget 0 (t.team u).scratch k = if o ≤ k ∧ k < o + data.length then data.getD (k - o) 0 else tget 0 (s.team u).scratch k) ∧
  (∀ w, nmem (t.team u).spois w = if o / 8 ≤ w ∧ w * 8 < o + data.length then
    p || (nmem (s.team u).spois w && !(decide (o ≤ w * 8 ∧ w * 8 + 8 ≤ o + data.length))) else nmem (s.team u).spois w) ∧
  ({ t.team u with scratch := [], spois := [] } : Team) = { s.team u with scratch := [], spois := [] } ∧
  (∀ v, v ≠ u → t.team v = s.team v) ∧ (∀ k, t.byte k = s.byte k)

/-- The thread has gone on as th, the other threads are as before, and so is every byte of memory. -/
structure WentOn (s t : State) (u : Nat) (c : Cur) (th : Thread) : Prop where
  thread : (t.thread u).unstamped = (th.goneOn c).unstamped
  others : OthersStand s t u
  memory : ∀ a, t.byte a = s.byte a

/-- One turn of a load: its next piece, b with poison p, has been read; after the last one the results are issued. The counter
its X word names has risen as it issued (R315). A load of memory that has begun is a plain one from then on and opens no
checkpoint (R173). -/
def LoadTurn (s t : State) (u : Nat) (c : Cur) (th : Thread) (is : Issue) (dst : List Nat) (words : List Byte → List Word)
    (last : Bool) (b : List Byte) (p far : Bool) : Prop :=
  let q := th.progress
  (if last then (t.thread u).unstamped = ((th.loads c is (dst.zip (words (q.data ++ b))) (q.pois || p)).goneOn c).unstamped
   else t.thread u = { th.raised (some is) with part := some { done := q.done + 1, data := q.data ++ b, pois := q.pois || p, shape := q.shape }
                                                hold := none, reply := none, plain := far || th.plain }) ∧
  OthersStand s t u ∧ (∀ k, t.byte k = s.byte k) ∧ t.poison = s.poison

/-- One turn of a store, as far as its thread is concerned: the counter its X word names is up until it has completed (R315,
R316). -/
def StoreTurn (s t : State) (u : Nat) (c : Cur) (th : Thread) (is : Issue) (last : Bool) : Prop :=
  let q := th.progress
  (if last then (t.thread u).unstamped = (th.goneOn c).unstamped
   else t.thread u = { th.raised (some is) with part := some { q with done := q.done + 1 }, hold := none, reply := none }) ∧ OthersStand s t u

end Sys2Proof.Machine
end

