-- ==== Sys2Proof/Certificates/Slice0/Obligations.lean ====
section
/-! DEFINITION. The statements for the provers, each about the machine and none about a program. -/
open Sys2Proof Sys2Proof.Machine

/-- The words of IADD, ISUB, IMUL, IMULH, IMIN, IMAX, IABS and INEG, with and without a literal, decode to those
instructions. IADD, ISUB, IMUL, IMULH, IMAD, IMIN, IMAX, IABS and INEG, each with its register and literal forms,
complete for every thread whose named registers exist and whose sources are unpoisoned, and for every script whose
registers are v0 to v31: the destination takes the result modulo 2^32, and nothing else changes but the pc. ICMP
with each of its ten conditions, on two registers or a register and a literal, completes for every thread whose
named registers exist and whose sources are unpoisoned, and for every script: the destination takes 1 when the
condition holds and 0 otherwise, and nothing else changes but the pc. (R380, R392, R388, R389, R387, R386, R379,
R391) -/
def Obligations.IntegerArithmeticAndComparisons : Prop :=
  (∀ (d a b : Reg) (x : Word) (u : Bool),
      let word := fun (op : BitVec 7) (r : Reg) (u : Bool) => op ++ d ++ a ++ r ++ (0 : BitVec 3) ++ BitVec.ofBool u
      decode .core (word 0b0000001 b false) [] = .ok (.iadd d a b) ∧ decode .core (word 0b0000001 0 false) [x] = .ok (.iaddLiteral d a x) ∧
      decode .core (word 0b0000010 b false) [] = .ok (.isub d a b) ∧ decode .core (word 0b0000010 0 false) [x] = .ok (.isubLiteral d a x) ∧
      decode .core (word 0b0000011 b false) [] = .ok (.imul d a b) ∧ decode .core (word 0b0000011 0 false) [x] = .ok (.imulLiteral d a x) ∧
      decode .core (word 0b0000100 b u) [] = .ok (.imulh u d a b) ∧ decode .core (word 0b0000100 0 u) [x] = .ok (.imulhLiteral u d a x) ∧
      decode .core (word 0b0000111 b u) [] = .ok (.imin u d a b) ∧ decode .core (word 0b0000111 0 u) [x] = .ok (.iminLiteral u d a x) ∧
      decode .core (word 0b0001000 b u) [] = .ok (.imax u d a b) ∧ decode .core (word 0b0001000 0 u) [x] = .ok (.imaxLiteral u d a x) ∧
      decode .core (word 0b0001001 0 false) [] = .ok (.iabs d a) ∧ decode .core (word 0b0001010 0 false) [] = .ok (.ineg d a)) ∧
  (∀ (d a b e : Reg) (x : Word) (u : Bool),
      ComputesInt (.iadd d a b) [a.toNat, b.toNat] [d.toNat] (fun v _ => [v a + v b]) ∧
      ComputesInt (.iaddLiteral d a x) [a.toNat] [d.toNat] (fun v _ => [v a + x]) ∧
      ComputesInt (.isub d a b) [a.toNat, b.toNat] [d.toNat] (fun v _ => [v a - v b]) ∧
      ComputesInt (.isubLiteral d a x) [a.toNat] [d.toNat] (fun v _ => [v a - x]) ∧
      ComputesInt (.imul d a b) [a.toNat, b.toNat] [d.toNat] (fun v _ => [v a * v b]) ∧
      ComputesInt (.imulLiteral d a x) [a.toNat] [d.toNat] (fun v _ => [v a * x]) ∧
      ComputesInt (.imulh u d a b) [a.toNat, b.toNat] [d.toNat]
        (fun v _ => [if u then BitVec.ofNat 32 ((v a).toNat * (v b).toNat / 2 ^ 32)
                     else BitVec.ofInt 32 ((v a).toInt * (v b).toInt / 2 ^ 32)]) ∧
      ComputesInt (.imulhLiteral u d a x) [a.toNat] [d.toNat]
        (fun v _ => [if u then BitVec.ofNat 32 ((v a).toNat * x.toNat / 2 ^ 32)
                     else BitVec.ofInt 32 ((v a).toInt * x.toInt / 2 ^ 32)]) ∧
      ComputesInt (.imad d a (.reg b) e) [a.toNat, b.toNat, e.toNat] [d.toNat] (fun v _ => [v a * v b + v e]) ∧
      ComputesInt (.imad d a (.lit x) e) [a.toNat, e.toNat] [d.toNat] (fun v _ => [v a * x + v e]) ∧
      ComputesInt (.imin false d a b) [a.toNat, b.toNat] [d.toNat] (fun v _ => [if (v a).toInt ≤ (v b).toInt then v a else v b]) ∧
      ComputesInt (.imin true d a b) [a.toNat, b.toNat] [d.toNat] (fun v _ => [if (v a).toNat ≤ (v b).toNat then v a else v b]) ∧
      ComputesInt (.iminLiteral false d a x) [a.toNat] [d.toNat] (fun v _ => [if (v a).toInt ≤ x.toInt then v a else x]) ∧
      ComputesInt (.iminLiteral true d a x) [a.toNat] [d.toNat] (fun v _ => [if (v a).toNat ≤ x.toNat then v a else x]) ∧
      ComputesInt (.imax false d a b) [a.toNat, b.toNat] [d.toNat] (fun v _ => [if (v a).toInt ≤ (v b).toInt then v b else v a]) ∧
      ComputesInt (.imax true d a b) [a.toNat, b.toNat] [d.toNat] (fun v _ => [if (v a).toNat ≤ (v b).toNat then v b else v a]) ∧
      ComputesInt (.imaxLiteral false d a x) [a.toNat] [d.toNat] (fun v _ => [if (v a).toInt ≤ x.toInt then x else v a]) ∧
      ComputesInt (.imaxLiteral true d a x) [a.toNat] [d.toNat] (fun v _ => [if (v a).toNat ≤ x.toNat then x else v a]) ∧
      ComputesInt (.iabs d a) [a.toNat] [d.toNat] (fun v _ => [if (v a).toInt < 0 then -(v a) else v a]) ∧
      ComputesInt (.ineg d a) [a.toNat] [d.toNat] (fun v _ => [-(v a)])) ∧
  (∀ (d a b : Reg) (x : Word) (n : BitVec 4) (holds : Word → Word → Bool),
      (n, holds) ∈ ([(0, fun y z => decide (y = z)), (1, fun y z => decide (y ≠ z)),
        (2, fun y z => decide (y.toInt < z.toInt)), (3, fun y z => decide (y.toInt ≤ z.toInt)),
        (4, fun y z => decide (y.toInt > z.toInt)), (5, fun y z => decide (y.toInt ≥ z.toInt)),
        (6, fun y z => decide (y.toNat < z.toNat)), (7, fun y z => decide (y.toNat ≤ z.toNat)),
        (8, fun y z => decide (y.toNat > z.toNat)), (9, fun y z => decide (y.toNat ≥ z.toNat))] : List (BitVec 4 × (Word → Word → Bool))) →
      ComputesInt (.icmp n d a b) [a.toNat, b.toNat] [d.toNat] (fun v _ => [if holds (v a) (v b) then 1 else 0]) ∧
      ComputesInt (.icmpLiteral n d a x) [a.toNat] [d.toNat] (fun v _ => [if holds (v a) x then 1 else 0]))

/-- The words of AND, OR (registers or a literal), NOT and MOV decode to them, with any registers. Each completes
for every thread whose named registers exist and whose sources are unpoisoned, and for every script whose registers
are v0 to v31: the destination takes v[A] & x, v[A] | x, ~v[A] or v[A], and nothing else changes but the pc. MOV of
a poisoned source writes its value with its poison, without a trap. (R326, R409, R418, R419) -/
def Obligations.BitwiseOperationsAndMove : Prop :=
  ∀ (d a b : Reg) (x : Word),
    let word := fun (op : BitVec 7) (r : Reg) => op ++ d ++ a ++ r ++ (0 : BitVec 4)
    decode .core (word 0b0010001 b) [] = .ok (.and d a b) ∧ decode .core (word 0b0010001 0) [x] = .ok (.andLiteral d a x) ∧
    decode .core (word 0b0010010 b) [] = .ok (.or d a b) ∧ decode .core (word 0b0010010 0) [x] = .ok (.orLiteral d a x) ∧
    decode .core (word 0b0010100 0) [] = .ok (.not d a) ∧ decode .core (word 0b0001111 0) [] = .ok (.mov d a) ∧
    ComputesInt (.and d a b) [a.toNat, b.toNat] [d.toNat] (fun v _ => [v a &&& v b]) ∧
    ComputesInt (.andLiteral d a x) [a.toNat] [d.toNat] (fun v _ => [v a &&& x]) ∧
    ComputesInt (.or d a b) [a.toNat, b.toNat] [d.toNat] (fun v _ => [v a ||| v b]) ∧
    ComputesInt (.orLiteral d a x) [a.toNat] [d.toNat] (fun v _ => [v a ||| x]) ∧
    ComputesInt (.not d a) [a.toNat] [d.toNat] (fun v _ => [~~~(v a)]) ∧
    ComputesInt (.mov d a) [a.toNat] [d.toNat] (fun v _ => [v a]) ∧
    (∀ (s : State) (u : Nat) (c : Cur) (th : Thread), Runs s u c th → th.pois.length = th.regs.length → Exist th [d.toNat, a.toNat] →
      ∃ t, exec (.mov d a) s = .next t ∧ Advanced s t u c
        { th with window := discardFor th.window [d.toNat], regs := th.regs.set d.toNat (th.reg a.toNat).1, pois := th.pois.set d.toNat (th.reg a.toNat).2 })

/-- SHL, SHR and SAR for every unsigned count, BFE, BFI, BREV, POPC, CLZ and BSRD, in every form, complete for every
thread whose named registers exist and whose sources are unpoisoned, and for every script: each bit of the
destination is the bit the manual names, and nothing else changes but the pc. A left or logical right shift by 32 or
more writes 0, and an arithmetic one the sign; a field of no bits is 0, signed or not; each byte of BSRD is the byte
its selector names, its sign, or zero. (R444, R451, R453, R445, R333, R334, R339, R428, R347, R341) -/
def Obligations.IntegerShiftsAndBitFields : Prop :=
  ∀ (d a b e : Reg) (x : Word),
    ComputesInt (.shl d a b) [a.toNat, b.toNat] [d.toNat] (fun v _ => [BitVec.ofNat 32 ((v a).toNat * 2 ^ min (v b).toNat 32)]) ∧
    ComputesInt (.shlLiteral d a x) [a.toNat] [d.toNat] (fun v _ => [BitVec.ofNat 32 ((v a).toNat * 2 ^ min x.toNat 32)]) ∧
    ComputesInt (.shr d a b) [a.toNat, b.toNat] [d.toNat] (fun v _ => [BitVec.ofNat 32 ((v a).toNat / 2 ^ min (v b).toNat 32)]) ∧
    ComputesInt (.shrLiteral d a x) [a.toNat] [d.toNat] (fun v _ => [BitVec.ofNat 32 ((v a).toNat / 2 ^ min x.toNat 32)]) ∧
    ComputesInt (.sar d a b) [a.toNat, b.toNat] [d.toNat] (fun v _ => [BitVec.ofInt 32 ((v a).toInt / 2 ^ min (v b).toNat 32)]) ∧
    ComputesInt (.sarLiteral d a x) [a.toNat] [d.toNat] (fun v _ => [BitVec.ofInt 32 ((v a).toInt / 2 ^ min x.toNat 32)]) ∧
    (∀ sx, ComputesInt (.bfe sx d a b) [a.toNat, b.toNat] [d.toNat] (fun v _ => [bfeW sx (v a) (v b)])) ∧
    (∀ sx, ComputesInt (.bfeLiteral sx d a x) [a.toNat] [d.toNat] (fun v _ => [bfeW sx (v a) x])) ∧
    ComputesInt (.bfi d a (.reg b) e) [a.toNat, b.toNat, e.toNat] [d.toNat] (fun v _ => [bfiW (v a) (v b) (v e)]) ∧
    ComputesInt (.bfi d a (.lit x) e) [a.toNat, e.toNat] [d.toNat] (fun v _ => [bfiW (v a) x (v e)]) ∧
    ComputesInt (.brev d a) [a.toNat] [d.toNat] (fun v _ => [brevW (v a)]) ∧
    ComputesInt (.popc d a) [a.toNat] [d.toNat] (fun v _ => [popcW (v a)]) ∧
    ComputesInt (.clz d a) [a.toNat] [d.toNat] (fun v _ => [clzW (v a)]) ∧
    ComputesInt (.bsrd d a b) [a.toNat, b.toNat] [d.toNat] (fun v _ => [bsrdW (v a) (v b)]) ∧
    (∀ w c : Word, ∀ k < 32,
      (bfeW false w c).getLsbD k = (decide (k < min (c.toNat / 256 % 64) (32 - c.toNat % 32)) && w.getLsbD (c.toNat % 32 + k)) ∧
      (0 < min (c.toNat / 256 % 64) (32 - c.toNat % 32) →
        (bfeW true w c).getLsbD k =
          w.getLsbD (c.toNat % 32 + min k (min (c.toNat / 256 % 64) (32 - c.toNat % 32) - 1))) ∧
      (min (c.toNat / 256 % 64) (32 - c.toNat % 32) = 0 → bfeW false w c = 0 ∧ bfeW true w c = 0) ∧
      (∀ y : Word, (bfiW w y c).getLsbD k =
        if c.toNat % 32 ≤ k ∧ k < c.toNat % 32 + min (c.toNat / 256 % 64) (32 - c.toNat % 32)
        then w.getLsbD (k - c.toNat % 32) else y.getLsbD k) ∧
      (brevW w).getLsbD k = w.getLsbD (31 - k)) ∧
    (∀ w y : Word, ∀ k < 4, ∀ j < 8, let sel := y.toNat / 16 ^ k % 16
      (bsrdW w y).getLsbD (8 * k + j) =
        if sel / 4 % 2 = 1 then false else w.getLsbD (8 * (sel % 4) + if sel / 8 = 1 then 7 else j)) ∧
    (∀ w : Word, (popcW w).toNat = ((List.range 32).filter w.getLsbD).length ∧
      (clzW w).toNat ≤ 32 ∧ (∀ k, 32 - (clzW w).toNat ≤ k → w.getLsbD k = false) ∧
      ((clzW w).toNat < 32 → w.getLsbD (31 - (clzW w).toNat) = true))

/-- IMULW, IADD64, LEA, SHL64 and SHR64, in every form whose pair fields are even, and XOR, MOVI (sign-extended
immediate or literal) and SEL, complete for every thread whose named registers exist and whose sources are
unpoisoned, and for every script: the even register takes the low half and the next the high half of a 64-bit result
modulo 2^64, a word goes to its register, and nothing else changes but the pc. SEL, whose condition is unpoisoned,
passes the poison mark of the operand it selects; the other's does not matter. (R47, R269, R390, R381, R400, R410,
R444, R447, R452, R454, R472) -/
def Obligations.IntegerPairsMovesAndSelection : Prop :=
  (∀ (d a b : Reg) (x : Word) (u : Bool) (sh : BitVec 3), evenReg d = true →
      let two := fun y : DWord => [y.extractLsb' 0 32, y.extractLsb' 32 32]
      let wide := fun y : Word => if u then BitVec.ofNat 64 y.toNat else BitVec.ofInt 64 y.toInt
      ComputesInt (.imulw u d a b) [a.toNat, b.toNat] (pairRegs d) (fun v _ => two (wide (v a) * wide (v b))) ∧
      ComputesInt (.imulwLiteral u d a x) [a.toNat] (pairRegs d) (fun v _ => two (wide (v a) * wide x)) ∧
      (evenReg a = true → evenReg b = true →
        ComputesInt (.iadd64 d a b) (pairRegs a ++ pairRegs b) (pairRegs d) (fun _ p => two (p a + p b))) ∧
      (evenReg a = true →
        ComputesInt (.lea u sh d a b) (pairRegs a ++ [b.toNat]) (pairRegs d) (fun v p => two (p a + wide (v b) * BitVec.ofNat 64 (2 ^ sh.toNat))) ∧
        ComputesInt (.leaLiteral u sh d a x) (pairRegs a) (pairRegs d) (fun _ p => two (p a + wide x * BitVec.ofNat 64 (2 ^ sh.toNat))) ∧
        ComputesInt (.shl64 d a b) (pairRegs a ++ [b.toNat]) (pairRegs d)
          (fun v p => two (BitVec.ofNat 64 ((p a).toNat * 2 ^ min (v b).toNat 64))) ∧
        ComputesInt (.shl64Literal d a x) (pairRegs a) (pairRegs d) (fun _ p => two (BitVec.ofNat 64 ((p a).toNat * 2 ^ min x.toNat 64))) ∧
        ComputesInt (.shr64 d a b) (pairRegs a ++ [b.toNat]) (pairRegs d)
          (fun v p => two (BitVec.ofNat 64 ((p a).toNat / 2 ^ min (v b).toNat 64))) ∧
        ComputesInt (.shr64Literal d a x) (pairRegs a) (pairRegs d) (fun _ p => two (BitVec.ofNat 64 ((p a).toNat / 2 ^ min x.toNat 64))))) ∧
  (∀ (d a b e : Reg) (x : Word) (imm : BitVec 11),
    ComputesInt (.xor d a b) [a.toNat, b.toNat] [d.toNat] (fun v _ => [v a ^^^ v b]) ∧
    ComputesInt (.xorLiteral d a x) [a.toNat] [d.toNat] (fun v _ => [v a ^^^ x]) ∧
    ComputesInt (.movi d imm) [] [d.toNat] (fun _ _ => [BitVec.ofInt 32 imm.toInt]) ∧
    ComputesInt (.moviLiteral d x) [] [d.toNat] (fun _ _ => [x]) ∧
    ComputesInt (.sel d a (.reg b) e) [e.toNat, a.toNat, b.toNat] [d.toNat] (fun v _ => [if v e = 0 then v b else v a]) ∧
    ComputesInt (.sel d a (.lit x) e) [e.toNat, a.toNat] [d.toNat] (fun v _ => [if v e = 0 then x else v a]) ∧
    (∀ (s : State) (u : Nat) (c : Cur) (th : Thread), Runs s u c th → th.pois.length = th.regs.length →
      Exist th [d.toNat, a.toNat, b.toNat, e.toNat] → (th.reg e.toNat).2 = false →
      let v := if th.val e = 0 then th.reg b.toNat else th.reg a.toNat
      ∃ t, exec (.sel d a (.reg b) e) s = .next t ∧ Advanced s t u c
        { th with window := discardFor th.window [d.toNat], regs := th.regs.set d.toNat v.1, pois := th.pois.set d.toNat v.2 }))

/-- FADD, FSUB, FMUL and FFMA in every rounding mode, FMIN, FMAX and FRND, in every form, complete for every thread
whose named registers exist and whose sources are unpoisoned: the destination takes Round of the exact sum,
difference, product or sum of product and addend, the lesser or greater operand, or the integral value; the sticky
flags it raises join %fstat, and nothing else changes but the pc. (R362, R363, R374, R372, R369, R371, R370, R373,
R66, R57) -/
def Obligations.FloatArithmeticResults : Prop :=
  ∀ (rm : BitVec 2) (d a b e : Reg) (x : Word),
    let val := fun w : Word => valOf fp32 w.toNat
    let out := fun (r : Nat × Flags) => [BitVec.ofNat 32 r.1]
    let add := fun y z : Word => arith fp32 (rmode rm) false (vadd (rmode rm) (val y) (val z))
    let sub := fun y z : Word => arith fp32 (rmode rm) false (vadd (rmode rm) (val y) (val z).negate)
    let mul := fun y z : Word => arith fp32 (rmode rm) false (vmul (val y) (val z))
    let fma := fun y z w : Word => arith fp32 (rmode rm) false
      ((vadd (rmode rm) (vmul (val y) (val z)).1 (val w)).1,
        (vmul (val y) (val z)).2 || (vadd (rmode rm) (vmul (val y) (val z)).1 (val w)).2)
    Computes (.fadd rm d a b) [a.toNat, b.toNat] [d.toNat] (fun t => out (add (t.val a) (t.val b))) (fun t => (add (t.val a) (t.val b)).2) ∧
    Computes (.faddLiteral rm d a x) [a.toNat] [d.toNat] (fun t => out (add (t.val a) x)) (fun t => (add (t.val a) x).2) ∧
    Computes (.fsub rm d a b) [a.toNat, b.toNat] [d.toNat] (fun t => out (sub (t.val a) (t.val b))) (fun t => (sub (t.val a) (t.val b)).2) ∧
    Computes (.fsubLiteral rm d a x) [a.toNat] [d.toNat] (fun t => out (sub (t.val a) x)) (fun t => (sub (t.val a) x).2) ∧
    Computes (.fmul rm d a b) [a.toNat, b.toNat] [d.toNat] (fun t => out (mul (t.val a) (t.val b))) (fun t => (mul (t.val a) (t.val b)).2) ∧
    Computes (.fmulLiteral rm d a x) [a.toNat] [d.toNat] (fun t => out (mul (t.val a) x)) (fun t => (mul (t.val a) x).2) ∧
    Computes (.ffma rm d a (.reg b) e) [a.toNat, b.toNat, e.toNat] [d.toNat]
      (fun t => out (fma (t.val a) (t.val b) (t.val e))) (fun t => (fma (t.val a) (t.val b) (t.val e)).2) ∧
    Computes (.ffma rm d a (.lit x) e) [a.toNat, e.toNat] [d.toNat]
      (fun t => out (fma (t.val a) x (t.val e))) (fun t => (fma (t.val a) x (t.val e)).2) ∧
    Computes (.fmin d a b) [a.toNat, b.toNat] [d.toNat] (fun t => [BitVec.ofNat 32 (fMin fp32 (t.val a).toNat (t.val b).toNat)]) (fun _ => 0) ∧
    Computes (.fminLiteral d a x) [a.toNat] [d.toNat] (fun t => [BitVec.ofNat 32 (fMin fp32 (t.val a).toNat x.toNat)]) (fun _ => 0) ∧
    Computes (.fmax d a b) [a.toNat, b.toNat] [d.toNat] (fun t => [BitVec.ofNat 32 (fMax fp32 (t.val a).toNat (t.val b).toNat)]) (fun _ => 0) ∧
    Computes (.fmaxLiteral d a x) [a.toNat] [d.toNat] (fun t => [BitVec.ofNat 32 (fMax fp32 (t.val a).toNat x.toNat)]) (fun _ => 0) ∧
    Computes (.frnd rm d a) [a.toNat] [d.toNat] (fun t => [(frndW (rmode rm) (t.val a)).1]) (fun t => (frndW (rmode rm) (t.val a)).2)

/-- In FP32 and every rounding mode: a sum or product with a NaN operand gives the canonical NaN 0x7FC0_0000; inf -
inf and 0 x inf give it and raise NV, and a NaN operand alone raises nothing in a sum; an exact zero sum of opposite
numbers is +0, and -0 under round down; addition and multiplication do not depend on the order of their operands;
minimum and maximum give the other operand of a NaN and order -0 below +0. FRND gives the canonical NaN of a NaN, an
infinity or a zero as it is, and of a finite number the integer it rounds to, a zero with the operand's sign, with
NX alone exactly when that differs. (R65, R69, R70, R370, R371, R373) -/
def Obligations.FloatSpecialCases : Prop :=
  (∀ (m : RMode) (x y : Nat), valOf fp32 x = .nan →
      fAdd fp32 m false x y = (0x7FC00000, 0) ∧ fAdd fp32 m false y x = (0x7FC00000, 0) ∧
      (fMul fp32 m false x y).1 = 0x7FC00000 ∧ (fMul fp32 m false y x).1 = 0x7FC00000 ∧
      (valOf fp32 y ≠ .nan → fMin fp32 x y = y ∧ fMin fp32 y x = y ∧ fMax fp32 x y = y ∧ fMax fp32 y x = y) ∧
      (valOf fp32 y = .nan → fMin fp32 x y = 0x7FC00000 ∧ fMax fp32 x y = 0x7FC00000)) ∧
    (∀ (m : RMode) (x y : Nat) (n : Bool), valOf fp32 x = .inf n →
      (valOf fp32 y = .inf (!n) → fAdd fp32 m false x y = (0x7FC00000, fNV) ∧ fSub fp32 m false x x = (0x7FC00000, fNV)) ∧
      (∀ k, valOf fp32 y = .zero k → fMul fp32 m false x y = (0x7FC00000, fNV) ∧ fMul fp32 m false y x = (0x7FC00000, fNV))) ∧
    (∀ (m : RMode) (x : Nat) (n : Bool) (k : Nat) (e : Int), valOf fp32 x = .fin n k e →
      fSub fp32 m false x x = (if m = .rd then 0x80000000 else 0, 0)) ∧
    (∀ (m : RMode) (x y : Nat), fAdd fp32 m false x y = fAdd fp32 m false y x ∧ fMul fp32 m false x y = fMul fp32 m false y x) ∧
    (∀ (m : RMode) (a : Word), (valOf fp32 a.toNat = .nan → frndW m a = (0x7FC00000, 0)) ∧
      (∀ n, valOf fp32 a.toNat = .inf n ∨ valOf fp32 a.toNat = .zero n → frndW m a = (a, 0)) ∧
      ∀ n k e, valOf fp32 a.toNat = .fin n k e → ∃ j, RoundsTo m n k e j ∧
        roundTo fp32 .rne false (if j = 0 then .zero n else .fin n j 0) = ((frndW m a).1.toNat, 0) ∧
        (frndW m a).2 = if Whole k e then 0 else fNX) ∧
    fMin fp32 0 0x80000000 = 0x80000000 ∧ fMax fp32 0x80000000 0 = 0 ∧ fMin fp32 0x80000000 0 = 0x80000000 ∧ fMax fp32 0 0x80000000 = 0

/-- For each of the formats FP32, FP16, BF16, E4M3, E5M2 and E2M1, each rounding mode, with or without saturation,
and every bit pattern of the format that stands for a zero or a finite number, Round of its exact value gives back
the pattern and raises no flag. For a finite non-zero value m times 2^e rounded in FP32 without overflow: rounding
toward zero gives the greatest representable magnitude not above the value, rounding away the next one when the
value lies between them; the nearest mode gives the nearer of the two, and the even one when both are equally near;
a rounding is inexact exactly when the two differ. Magnitudes are compared through the bit patterns, which count the
representable values in order. (R62, R63, R66, R70) -/
def Obligations.RoundIsExactOrBracketed : Prop :=
  (∀ f ∈ [fp32, fp16, bf16, e4m3, e5m2, e2m1], ∀ (m : RMode) (sat : Bool) (x : Nat), x < 2 ^ f.width →
      (valOf f x ≠ .nan) → (∀ n, valOf f x ≠ .inf n) → roundTo f m sat (valOf f x) = (x, 0)) ∧
  (∀ (n : Bool) (m : Nat) (e : Int), m ≠ 0 →
      let lo := (roundMag fp32 .rz n m e).1
      let near := (roundMag fp32 .rne n m e).1
      let up := (roundMag fp32 .ru false m e).1
      let down := (roundMag fp32 .rd false m e).1
      lo = down ∧ (up = lo ∨ up = lo + 1) ∧ (near = lo ∨ near = up) ∧
      ((roundMag fp32 .rne n m e).2 = true ↔ up = lo + 1) ∧
      (roundMag fp32 .ru true m e).1 = lo ∧ (roundMag fp32 .rd true m e).1 = up ∧
      (up ≤ 0x7F7FFFFF → ∃ k : Int, k ≤ e ∧ k ≤ -149 ∧
        let L := (valOf fp32 lo).onGrid k
        let V := (Val.fin false m e).onGrid k
        let U := (valOf fp32 up).onGrid k
        L ≤ V ∧ V ≤ U ∧ (2 * (V - L) < U - L → near = lo) ∧ (U - L < 2 * (V - L) → near = up) ∧
        (L < V → 2 * (V - L) = U - L → near % 2 = 0)))

/-- FCMP with each of its eight conditions and FCLASS complete for every thread whose named registers exist and
whose sources are unpoisoned, raising no flag. FCMP writes 1 exactly when the condition holds: with a NaN operand
only .ne and .uno hold; .ord holds when there is none; +0 and -0 are equal; a condition and its strict opposite
never hold together. FCLASS writes the one bit of its operand's class. (R364, R365) -/
def Obligations.FloatComparesAndClasses : Prop :=
  (∀ (d a b : Reg) (x : Word) (n : BitVec 4), n.toNat ≤ 7 →
      Computes (.fcmp n d a b) [a.toNat, b.toNat] [d.toNat] (fun t => [if fcmpHolds n.toNat (t.val a) (t.val b) then 1 else 0]) (fun _ => 0) ∧
      Computes (.fcmpLiteral n d a x) [a.toNat] [d.toNat] (fun t => [if fcmpHolds n.toNat (t.val a) x then 1 else 0]) (fun _ => 0) ∧
      Computes (.fclass d a) [a.toNat] [d.toNat] (fun t => [fclassW (t.val a)]) (fun _ => 0)) ∧
    (∀ y z : Word, let nan := valOf fp32 y.toNat = .nan ∨ valOf fp32 z.toNat = .nan
      (fcmpHolds 6 y z = true ↔ nan) ∧ (fcmpHolds 7 y z = true ↔ ¬ nan) ∧
      (nan → fcmpHolds 0 y z = false ∧ fcmpHolds 1 y z = true ∧ fcmpHolds 2 y z = false ∧ fcmpHolds 3 y z = false ∧
        fcmpHolds 4 y z = false ∧ fcmpHolds 5 y z = false) ∧
      (¬ nan → (fcmpHolds 0 y z = !fcmpHolds 1 y z) ∧ (fcmpHolds 2 y z = !fcmpHolds 5 y z) ∧ (fcmpHolds 4 y z = !fcmpHolds 3 y z) ∧
        (fcmpHolds 3 y z = (fcmpHolds 2 y z || fcmpHolds 0 y z)))) ∧
    fcmpHolds 0 0 0x80000000 = true ∧
    (∀ w : Word, (fclassW w = 0x100 ↔ valOf fp32 w.toNat = .nan) ∧ (fclassW w = 1 ↔ w = 0xFF800000) ∧ (fclassW w = 0x80 ↔ w = 0x7F800000) ∧
      (fclassW w = 8 ↔ w = 0x80000000) ∧ (fclassW w = 0x10 ↔ w = 0) ∧
      (fclassW w = 4 ↔ 0x80000001 ≤ w.toNat ∧ w.toNat ≤ 0x807FFFFF) ∧ (fclassW w = 0x20 ↔ 1 ≤ w.toNat ∧ w.toNat ≤ 0x7FFFFF) ∧
      (fclassW w = 2 ↔ 0x80800000 ≤ w.toNat ∧ w.toNat ≤ 0xFF7FFFFF) ∧ (fclassW w = 0x40 ↔ 0x800000 ≤ w.toNat ∧ w.toNat ≤ 0x7F7FFFFF))

/-- EXP2, LOG2, RCP, RSQ, TANH and SQRT in every mode, complete for every thread whose registers exist, whose source
is unpoisoned and whose scoreboard counter can rise: the result stands under the X word's window with the flags that
rise when it lands, and nothing else changes but the pc. For the special operands the results are the manual's. For
other operands the value of the first five is the unit's own (a free value of the model, log entry 4), which this
statement says nothing of. (R78, R79, R361, R401, R432, R433) -/
def Obligations.SpecialFunctionResults : Prop :=
  (∀ (rm : BitVec 2) (d a : Reg) (is : Issue), is.ok = true →
      ComputesLate (.exp2 d a is) is [a.toNat] [d.toNat] (fun t => [(exp2W (t.val a)).1]) (fun t => (exp2W (t.val a)).2) ∧
      ComputesLate (.log2 d a is) is [a.toNat] [d.toNat] (fun t => [(log2W (t.val a)).1]) (fun t => (log2W (t.val a)).2) ∧
      ComputesLate (.rcp d a is) is [a.toNat] [d.toNat] (fun t => [(rcpW (t.val a)).1]) (fun t => (rcpW (t.val a)).2) ∧
      ComputesLate (.rsq d a is) is [a.toNat] [d.toNat] (fun t => [(rsqW (t.val a)).1]) (fun t => (rsqW (t.val a)).2) ∧
      ComputesLate (.tanh d a is) is [a.toNat] [d.toNat] (fun t => [(tanhW (t.val a)).1]) (fun t => (tanhW (t.val a)).2) ∧
      ComputesLate (.sqrt rm d a is) is [a.toNat] [d.toNat] (fun t => [(sqrtW (rmode rm) (t.val a)).1]) (fun t => (sqrtW (rmode rm) (t.val a)).2)) ∧
    (∀ w : Word, valOf fp32 w.toNat = .nan → exp2W w = (0x7FC00000, 0) ∧ log2W w = (0x7FC00000, 0) ∧ rcpW w = (0x7FC00000, 0) ∧
      rsqW w = (0x7FC00000, 0) ∧ tanhW w = (0x7FC00000, 0) ∧ ∀ m, sqrtW m w = (0x7FC00000, 0)) ∧
    (∀ z ∈ ([0, 0x80000000] : List Word), exp2W z = (0x3F800000, 0) ∧ log2W z = (0xFF800000, fDZ) ∧
      rcpW z = (z ||| 0x7F800000, fDZ) ∧ rsqW z = (z ||| 0x7F800000, fDZ) ∧ tanhW z = (z, 0) ∧ ∀ m, sqrtW m z = (z, 0)) ∧
    exp2W 0x7F800000 = (0x7F800000, 0) ∧ exp2W 0xFF800000 = (0, 0) ∧ log2W 0x7F800000 = (0x7F800000, 0) ∧ log2W 0xFF800000 = (0x7FC00000, fNV) ∧
    rcpW 0x7F800000 = (0, 0) ∧ rcpW 0xFF800000 = (0x80000000, 0) ∧ rsqW 0x7F800000 = (0, 0) ∧ rsqW 0xFF800000 = (0x7FC00000, fNV) ∧
    tanhW 0x7F800000 = (0x3F800000, 0) ∧ tanhW 0xFF800000 = (0xBF800000, 0)

/-- PADD, PMUL, PFMA, PMIN and PMAX of every packed type, mode and saturation, in every form, complete for every
thread whose named registers exist and whose sources are unpoisoned: each sub-element of the destination is the
operation on the same sub-elements of the sources, rounded once in its format, a flag is raised when any sub-element
raises it, the flags join %fstat, and nothing else changes but the pc. (R76, R77, R421, R422, R423, R425, R426,
R427) -/
def Obligations.PackedArithmeticResults : Prop :=
  (∀ (t : BitVec 2) (sat rz : Bool) (d a b e : Reg) (x : Word),
      let m : RMode := if rz then .rz else .rne
      let add := fun y z : Word => packed2 t (fun f p q => arith f m sat (vadd m (valOf f p) (valOf f q))) y z
      let mul := fun y z : Word => packed2 t (fun f p q => arith f m sat (vmul (valOf f p) (valOf f q))) y z
      let fma := fun y z w : Word => packed3 t (fun f p q r => arith f m sat
        ((vadd m (vmul (valOf f p) (valOf f q)).1 (valOf f r)).1, (vmul (valOf f p) (valOf f q)).2 || (vadd m (vmul (valOf f p) (valOf f q)).1 (valOf f r)).2)) y z w
      let mn := fun y z : Word => (packed2 t (fun f p q => (fMin f p q, 0)) y z).1
      let mx := fun y z : Word => (packed2 t (fun f p q => (fMax f p q, 0)) y z).1
      Computes (.padd t sat rz d a b) [a.toNat, b.toNat] [d.toNat] (fun r => [(add (r.val a) (r.val b)).1]) (fun r => (add (r.val a) (r.val b)).2) ∧
      Computes (.paddLiteral t sat rz d a x) [a.toNat] [d.toNat] (fun r => [(add (r.val a) x).1]) (fun r => (add (r.val a) x).2) ∧
      Computes (.pmul t sat rz d a b) [a.toNat, b.toNat] [d.toNat] (fun r => [(mul (r.val a) (r.val b)).1]) (fun r => (mul (r.val a) (r.val b)).2) ∧
      Computes (.pmulLiteral t sat rz d a x) [a.toNat] [d.toNat] (fun r => [(mul (r.val a) x).1]) (fun r => (mul (r.val a) x).2) ∧
      Computes (.pfma t sat rz d a (.reg b) e) [a.toNat, b.toNat, e.toNat] [d.toNat]
        (fun r => [(fma (r.val a) (r.val b) (r.val e)).1]) (fun r => (fma (r.val a) (r.val b) (r.val e)).2) ∧
      Computes (.pfma t sat rz d a (.lit x) e) [a.toNat, e.toNat] [d.toNat]
        (fun r => [(fma (r.val a) x (r.val e)).1]) (fun r => (fma (r.val a) x (r.val e)).2) ∧
      Computes (.pmin t d a b) [a.toNat, b.toNat] [d.toNat] (fun r => [mn (r.val a) (r.val b)]) (fun _ => 0) ∧
      Computes (.pminLiteral t d a x) [a.toNat] [d.toNat] (fun r => [mn (r.val a) x]) (fun _ => 0) ∧
      Computes (.pmax t d a b) [a.toNat, b.toNat] [d.toNat] (fun r => [mx (r.val a) (r.val b)]) (fun _ => 0) ∧
      Computes (.pmaxLiteral t d a x) [a.toNat] [d.toNat] (fun r => [mx (r.val a) x]) (fun _ => 0)) ∧
    (∀ (t : BitVec 2) (g : Fmt → Nat → Nat → Nat × Flags) (y z : Word) (k : Nat), k < 32 / (packFmt t).2 →
      (∀ p q, (g (packFmt t).1 p q).1 < 2 ^ (packFmt t).2) →
      subEl (packFmt t).2 k (packed2 t g y z).1 = (g (packFmt t).1 (subEl (packFmt t).2 k y) (subEl (packFmt t).2 k z)).1) ∧
    (∀ (t : BitVec 2) (g : Fmt → Nat → Nat → Nat → Nat × Flags) (y z v : Word) (k : Nat), k < 32 / (packFmt t).2 →
      (∀ p q r, (g (packFmt t).1 p q r).1 < 2 ^ (packFmt t).2) →
      subEl (packFmt t).2 k (packed3 t g y z v).1 =
        (g (packFmt t).1 (subEl (packFmt t).2 k y) (subEl (packFmt t).2 k z) (subEl (packFmt t).2 k v)).1) ∧
    (∀ (t : BitVec 2) (g : Fmt → Nat → Nat → Nat × Flags) (h : Fmt → Nat → Nat → Nat → Nat × Flags) (y z v : Word) (i : Nat), i < 5 →
      let f := (packFmt t).1
      let el := subEl (packFmt t).2
      (packed2 t g y z).2.getLsbD i = ((List.range (32 / (packFmt t).2)).any fun k => (g f (el k y) (el k z)).2.getLsbD i) ∧
      (packed3 t h y z v).2.getLsbD i = ((List.range (32 / (packFmt t).2)).any fun k => (h f (el k y) (el k z) (el k v)).2.getLsbD i)) ∧
    (∀ t : BitVec 2, packFmt t = if t = 0 then (bf16, 16) else if t = 1 then (fp16, 16) else if t = 2 then (e4m3, 8) else (e5m2, 8))

/-- CVT of every admitted pair of formats, CVTSR, PACK and UNPK, complete for every thread whose named registers
exist, whose sources are unpoisoned (for CVT and CVTSR, whose counter can rise): the destination takes the converted
value and the flags join %fstat, for CVT and CVTSR both when the window ends, and nothing else changes but the pc.
CVT to a floating format rounds the exact value of the source element once; an integer destination takes the integer
the value rounds to, saturates with NV alone out of range and takes 0 with NV from a NaN; E8M0 takes the exponent of
the power of two that the magnitude rounds to. CVTSR of a value that its format cannot hold takes the neighbour
toward zero, or the one away when the random bits lie below the truncated fraction; of any other it rounds. PACK
rounds each value into its sub-element and keeps the others of a four-element register; UNPK gives the exact value
of the sub-element, a NaN as the canonical one. (R68, R72, R73, R74, R75, R76, R353, R354, R355, R420, R470) -/
def Obligations.ConversionResults : Prop :=
  (∀ (df sf : BitVec 4) (rm : BitVec 2) (sat : Bool) (k : BitVec 3) (d a e : Reg) (is : Issue), is.ok = true →
      (cvtOk df sf sat k = true →
        ComputesLate (.cvt df sf rm sat k d a is) is [a.toNat] [d.toNat]
          (fun r => [(cvtW df sf rm sat k (r.val a)).1]) (fun r => (cvtW df sf rm sat k (r.val a)).2)) ∧
      (1 ≤ df.toNat → df.toNat ≤ 5 →
        ComputesLate (.cvtsr df sat d a e is) is [a.toNat, e.toNat] [d.toNat]
          (fun r => [(cvtsrW (cvtFmt df.toNat) sat (r.val a) (r.val e)).1]) (fun r => (cvtsrW (cvtFmt df.toNat) sat (r.val a) (r.val e)).2))) ∧
    (∀ (t : BitVec 2) (sat : Bool) (d a b : Reg) (x : Word), t.toNat < 2 →
      Computes (.pack t sat false d a b) [a.toNat, b.toNat] [d.toNat]
        (fun r => [(packW t sat false (r.val a) (r.val b) 0).1]) (fun r => (packW t sat false (r.val a) (r.val b) 0).2) ∧
      Computes (.packLiteral t sat false d a x) [a.toNat] [d.toNat]
        (fun r => [(packW t sat false (r.val a) x 0).1]) (fun r => (packW t sat false (r.val a) x 0).2) ∧
      (evenReg d = true → Computes (.unpk t false d a) [a.toNat] (pairRegs d) (fun r => [unpkW t 0 (r.val a), unpkW t 1 (r.val a)]) (fun _ => 0))) ∧
    (∀ (t : BitVec 2) (sat hi : Bool) (d a b : Reg) (x : Word), 2 ≤ t.toNat →
      Computes (.pack t sat hi d a b) [d.toNat, a.toNat, b.toNat] [d.toNat]
        (fun r => [(packW t sat hi (r.val a) (r.val b) (r.val d)).1]) (fun r => (packW t sat hi (r.val a) (r.val b) (r.val d)).2) ∧
      Computes (.packLiteral t sat hi d a x) [d.toNat, a.toNat] [d.toNat]
        (fun r => [(packW t sat hi (r.val a) x (r.val d)).1]) (fun r => (packW t sat hi (r.val a) x (r.val d)).2) ∧
      (evenReg d = true → Computes (.unpk t hi d a) [a.toNat] (pairRegs d)
        (fun r => [unpkW t (if hi then 2 else 0) (r.val a), unpkW t (if hi then 3 else 1) (r.val a)]) (fun _ => 0))) ∧
    (∀ (m : RMode) (v : Val) (signed : Bool), v = .nan → cvtInt signed m v = (0, fNV)) ∧
    (∀ (m : RMode) (n : Bool), cvtInt true m (.inf n) = (if n then 0x80000000 else 0x7FFFFFFF, fNV) ∧
      cvtInt false m (.inf n) = (if n then 0 else 0xFFFFFFFF, fNV) ∧ ∀ signed, cvtInt signed m (.zero n) = (0, 0)) ∧
    (∀ (m : RMode) (n : Bool) (k : Nat) (e : Int) (signed : Bool), ∃ j, RoundsTo m n k e j ∧
      let x : Int := if n then -(j : Int) else j
      let lo : Int := if signed then -0x80000000 else 0
      let hi : Int := if signed then 0x7FFFFFFF else 0xFFFFFFFF
      (hi < x → cvtInt signed m (.fin n k e) = (BitVec.ofInt 32 hi, fNV)) ∧ (x < lo → cvtInt signed m (.fin n k e) = (BitVec.ofInt 32 lo, fNV)) ∧
      (lo ≤ x → x ≤ hi → cvtInt signed m (.fin n k e) = (BitVec.ofInt 32 x, if Whole k e then 0 else fNX))) ∧
    (∀ (df sf : BitVec 4) (rm : BitVec 2) (sat : Bool) (k : BitVec 3) (a : Word),
      let w := if sf = 1 ∨ sf = 2 then 16 else if sf = 3 ∨ sf = 4 ∨ sf = 6 then 8 else if sf = 5 then 4 else 32
      let x := a.toNat / 2 ^ (w * k.toNat) % 2 ^ w
      let v : Val := if sf = 7 then valInt (BitVec.ofNat 32 x).toInt 0 false else if sf = 8 then valInt x 0 false else valOf (cvtFmt sf.toNat) x
      (sf ≠ 6 → df.toNat ≤ 5 → cvtW df sf rm sat k a =
        (BitVec.ofNat 32 (roundTo (cvtFmt df.toNat) (rmode rm) sat v).1, (roundTo (cvtFmt df.toNat) (rmode rm) sat v).2)) ∧
      (sf ≠ 6 → cvtW 7 sf rm sat k a = cvtInt true (rmode rm) v ∧ cvtW 8 sf rm sat k a = cvtInt false (rmode rm) v) ∧
      (sf = 0 → (∀ n m e, v = .fin n m e →
          let up := rmode rm = .ru ∧ m ≠ 2 ^ Nat.log2 m ∨ rmode rm = .rne ∧ 3 * 2 ^ Nat.log2 m ≤ 2 * m
          let p : Int := Nat.log2 m + e + if up then 1 else 0
          cvtW 6 0 rm sat k a = if p < -127 then (0, fUF ||| fNX) else if 127 < p then (0xFE, fOF ||| fNX)
            else (BitVec.ofInt 32 (p + 127), if m = 2 ^ Nat.log2 m then 0 else fNX)) ∧
        ((∀ n m e, v ≠ .fin n m e) → cvtW 6 0 rm sat k a = (0xFF, fNV))) ∧
      (sf = 6 → cvtW 0 6 rm sat k a =
        (if x = 255 then 0x7FC00000 else if x = 0 then 0x00400000 else BitVec.ofNat 32 (x * 2 ^ 23), 0))) ∧
    (∀ f ∈ [fp16, bf16, e4m3, e5m2, e2m1], ∀ (sat : Bool) (a r : Word),
      let whole := fun v => (BitVec.ofNat 32 (roundTo f .rne sat v).1, (roundTo f .rne sat v).2)
      ((∀ n m e, valOf fp32 a.toNat ≠ .fin n m e) → cvtsrW f sat a r = whole (valOf fp32 a.toNat)) ∧
      ∀ n m e, valOf fp32 a.toNat = .fin n m e →
        let lo := (roundMag f .rz n m e).1
        ((roundMag f .rz n m e).2 = false → cvtsrW f sat a r = whole (.fin n m e)) ∧
        ((roundMag f .rz n m e).2 = true → ∃ sh : Nat,
          (lo ≤ f.max → (valOf f lo).onGrid e = (m / 2 ^ sh * 2 ^ sh : Nat)) ∧
          (lo + 1 ≤ f.max → (valOf f (lo + 1)).onGrid e = ((m / 2 ^ sh + 1) * 2 ^ sh : Nat)) ∧
          let mag := if r.toNat < m % 2 ^ sh * 2 ^ 32 / 2 ^ sh then lo + 1 else lo
          let tiny := (Nat.log2 m : Int) + e < 1 - f.bias
          (mag ≤ f.max → cvtsrW f sat a r = (BitVec.ofNat 32 ((if n then 2 ^ (f.e + f.m) else 0) + mag), if tiny then fUF ||| fNX else fNX)) ∧
          (f.max < mag → cvtsrW f sat a r = (BitVec.ofNat 32 (overflowPat f .rne sat n), fOF ||| fNX)))) ∧
    (∀ (t : BitVec 2) (sat hi : Bool) (a b old : Word),
      let f := (packFmt t).1
      let w := (packFmt t).2
      let y := (packW t sat hi a b old).1
      let p := roundTo f .rne sat (valOf fp32 a.toNat)
      let q := roundTo f .rne sat (valOf fp32 b.toNat)
      let at_ := if w = 8 ∧ hi = true then 2 else 0
      (packW t sat hi a b old).2 = p.2 ||| q.2 ∧ subEl w at_ y = p.1 ∧ subEl w (at_ + 1) y = q.1 ∧
      (w = 8 → ∀ k < 4, k ≠ at_ → k ≠ at_ + 1 → subEl w k y = subEl w k old)) ∧
    (∀ (t : BitVec 2) (k : Nat) (a : Word), k < 32 / (packFmt t).2 →
      let x := subEl (packFmt t).2 k a
      let y := unpkW t k a
      (valOf (packFmt t).1 x = .nan → y = 0x7FC00000) ∧
      (valOf (packFmt t).1 x ≠ .nan → roundTo (packFmt t).1 .rne false (valOf fp32 y.toNat) = (x, 0)))

/-- BRA, BRC, BRX, CALL, CALLX and RET complete for every thread whose named registers exist, whose sources are
unpoisoned, and whose target is aligned and canonical: a taken transfer makes the pc the target (the branch word's
address plus 4 times the signed field, or the pair), read as a clause header; BRC with a zero condition goes to the
next clause; CALL and CALLX write the address of the next clause to the link pair, CALLX after reading its target.
Nothing else changes. A register transfer (BRX, RET, CALLX) whose pair is not a multiple of 4 takes illegal
instruction (0x01) at the instruction; a taken transfer, BRC's too, whose target is aligned but not canonical takes
the translation trap 0x08 with the target in %eaddr and reason 1 in %einfo. No link register is written. (R303,
R325, R337, R338, R340, R343, R344, R438, R256) -/
def Obligations.ControlTransfersOfThreads : Prop :=
  (∀ (s : State) (u : Nat) (c : Cur) (th : Thread), Runs s u c th →
      let goes := fun (i : Instr) (th' : Thread) (pc : DWord) => ∃ t, exec i s = .next t ∧ Arrives s t u th' pc
      let next := fun l : Reg => [(l.toNat, c.next.extractLsb' 0 32), (l.toNat + 1, c.next.extractLsb' 32 32)]
      (∀ k : BitVec 18, canonical (c.addr + BitVec.ofInt 64 (4 * k.toInt)) = true →
        goes (.bra k) th (c.addr + BitVec.ofInt 64 (4 * k.toInt)) ∧
        (∀ r : Reg, Readable th [r.toNat] → th.val r ≠ 0 → goes (.brc r k) th (c.addr + BitVec.ofInt 64 (4 * k.toInt))) ∧
        (∀ l : Reg, evenReg l = true → Exist th (pairRegs l) →
          goes (.call l k) (Thread.writes th (next l)) (c.addr + BitVec.ofInt 64 (4 * k.toInt)))) ∧
      (∀ (r : Reg) (k : BitVec 18), Readable th [r.toNat] → th.val r = 0 → goes (.brc r k) th c.next) ∧
      (∀ a : Reg, evenReg a = true → Readable th (pairRegs a) → (th.pair a).toNat % 4 = 0 → canonical (th.pair a) = true →
        goes (.brx a) th (th.pair a) ∧ goes (.ret a) th (th.pair a) ∧
        (∀ d : Reg, evenReg d = true → Exist th (pairRegs d) → goes (.callx d a) (Thread.writes th (next d)) (th.pair a)))) ∧
  (∀ (s : State) (u : Nat) (c : Cur) (th : Thread) (a d : Reg), Runs s u c th → evenReg a = true → Readable th (pairRegs a) →
      evenReg d = true → Exist th (pairRegs d) →
      ((th.pair a).toNat % 4 ≠ 0 →
        Traps s u th (.brx a) 0x01 c.addr c.word c.addr ∧ Traps s u th (.ret a) 0x01 c.addr c.word c.addr ∧
        Traps s u th (.callx d a) 0x01 c.addr c.word c.addr) ∧
      ((th.pair a).toNat % 4 = 0 → canonical (th.pair a) = false →
        Traps s u th (.brx a) 0x08 (th.pair a) 1 c.addr ∧ Traps s u th (.ret a) 0x08 (th.pair a) 1 c.addr ∧
        Traps s u th (.callx d a) 0x08 (th.pair a) 1 c.addr) ∧
      (∀ k : BitVec 18, canonical (c.addr + BitVec.ofInt 64 (4 * k.toInt)) = false →
        Traps s u th (.bra k) 0x08 (c.addr + BitVec.ofInt 64 (4 * k.toInt)) 1 c.addr ∧
        Traps s u th (.call d k) 0x08 (c.addr + BitVec.ofInt 64 (4 * k.toInt)) 1 c.addr ∧
        (∀ r : Reg, Readable th [r.toNat] → th.val r ≠ 0 → Traps s u th (.brc r k) 0x08 (c.addr + BitVec.ofInt 64 (4 * k.toInt)) 1 c.addr)))

/-- In a script with registers v0 to v31: a taken BRA, BRC, BRX, CALL, CALLX or RET to an aligned canonical target
enters the clause there, the calls writing the next address to their link pair first; BRC with a zero condition and
NOP go on; SLEEP waits for its number of microseconds; EXIT ends the script with code 0 and TRAP with its own code,
0x01 below 0x20. An integer, register-transfer or global memory instruction, well formed, that names a register
beyond v31 ends it with 0x03; one that is not well formed, a SLEEP of 1024 or more, a LD or ST of scratch, an SRD of
another register than %chip and %cycle, and every instruction that R209 does not list for scripts ends it with 0x01.
(R207, R208, R209, R210, R303, R325) -/
def Obligations.ControlTransfersOfScripts : Prop :=
  ∀ (s : State) (k : Nat) (c : Cur), s.cur = some c → c.who = .script k →
    let sc := s.script k
    let linked := fun l : Reg => s.setScript k { sc with regs := (sc.regs.set l.toNat (c.next.extractLsb' 0 32)).set (l.toNat + 1) (c.next.extractLsb' 32 32) }
    (∀ j : BitVec 18, canonical (c.addr + BitVec.ofInt 64 (4 * j.toInt)) = true →
      exec (.bra j) s = .next (scriptJump s k (c.addr + BitVec.ofInt 64 (4 * j.toInt))) ∧
      (∀ r : Reg, r.toNat < 32 → exec (.brc r j) s =
        .next (if sc.val r = 0 then scriptNext s k else scriptJump s k (c.addr + BitVec.ofInt 64 (4 * j.toInt)))) ∧
      (∀ l : Reg, evenReg l = true → l.toNat < 32 →
        exec (.call l j) s = .next (scriptJump (linked l) k (c.addr + BitVec.ofInt 64 (4 * j.toInt))))) ∧
    (∀ a : Reg, evenReg a = true → a.toNat < 32 → (sc.pair a).toNat % 4 = 0 → canonical (sc.pair a) = true →
      exec (.brx a) s = .next (scriptJump s k (sc.pair a)) ∧ exec (.ret a) s = .next (scriptJump s k (sc.pair a)) ∧
      (∀ d : Reg, evenReg d = true → d.toNat < 32 → exec (.callx d a) s = .next (scriptJump (linked d) k (sc.pair a)))) ∧
    exec .nop s = .next (scriptNext s k) ∧
    exec .exit s = .next (endScript s k 0) ∧
    (∀ n : Byte, exec (.trap n) s = .next (endScript s k (if 0x20 ≤ n.toNat then n.toNat else 0x01))) ∧
    (∀ n : Word, exec (.sleepLiteral n) s =
      .next (s.setScript k { sc with wait := some (.sleep (s.htime + n.toNat * 1000)), began := s.htime })) ∧
    (∀ n : BitVec 11, exec (.sleep n) s = .next (if n.toNat < 1024
      then s.setScript k { sc with wait := some (.sleep (s.htime + n.toNat * 1000)), began := s.htime } else endScript s k 0x01)) ∧
    (∀ (d a b e : Reg) (x : Word) (j : BitVec 18) (u sx : Bool) (sh : BitVec 3) (cc : BitVec 4) (imm : BitVec 11) (m : Mem),
      let three := [d.toNat, a.toNat, b.toNat]
      let two := [d.toNat, a.toNat]
      ∀ y ∈ ([(.iadd d a b, three), (.isub d a b, three), (.imul d a b, three), (.imulh u d a b, three), (.imin u d a b, three), (.imax u d a b, three),
          (.and d a b, three), (.or d a b, three), (.xor d a b, three), (.shl d a b, three), (.shr d a b, three), (.sar d a b, three), (.bsrd d a b, three),
          (.bfe sx d a b, three), (.icmp cc d a b, three), (.imulw u d a b, pairRegs d ++ [a.toNat, b.toNat]),
          (.iaddLiteral d a x, two), (.isubLiteral d a x, two), (.imulLiteral d a x, two), (.imulhLiteral u d a x, two), (.iminLiteral u d a x, two),
          (.imaxLiteral u d a x, two), (.andLiteral d a x, two), (.orLiteral d a x, two), (.xorLiteral d a x, two), (.shlLiteral d a x, two),
          (.shrLiteral d a x, two), (.sarLiteral d a x, two), (.bfeLiteral sx d a x, two), (.icmpLiteral cc d a x, two),
          (.imulwLiteral u d a x, pairRegs d ++ [a.toNat]), (.iabs d a, two), (.ineg d a, two), (.mov d a, two), (.not d a, two), (.brev d a, two),
          (.popc d a, two), (.clz d a, two), (.movi d imm, [d.toNat]), (.moviLiteral d x, [d.toNat]), (.imad d a (.reg b) e, e.toNat :: three),
          (.imad d a (.lit x) e, e.toNat :: two), (.sel d a (.reg b) e, e.toNat :: three), (.sel d a (.lit x) e, e.toNat :: two),
          (.bfi d a (.reg b) e, e.toNat :: three), (.bfi d a (.lit x) e, e.toNat :: two), (.iadd64 d a b, pairRegs d ++ pairRegs a ++ pairRegs b),
          (.lea u sh d a b, pairRegs d ++ pairRegs a ++ [b.toNat]), (.leaLiteral u sh d a x, pairRegs d ++ pairRegs a),
          (.shl64 d a b, pairRegs d ++ pairRegs a ++ [b.toNat]), (.shl64Literal d a x, pairRegs d ++ pairRegs a),
          (.shr64 d a b, pairRegs d ++ pairRegs a ++ [b.toNat]), (.shr64Literal d a x, pairRegs d ++ pairRegs a),
          (.brc a j, [a.toNat]), (.brx a, pairRegs a), (.ret a, pairRegs a), (.call a j, pairRegs a), (.callx d a, pairRegs d ++ pairRegs a)] ++
          (if m.space = 0 then [(.ld m d a, regsFrom d ((memBytes m + 3) / 4) ++ pairRegs a), (.st m a d, regsFrom d ((memBytes m + 3) / 4) ++ pairRegs a)] else []) :
          List (Instr × List Nat)),
        (y.1.wf = false → exec y.1 s = .next (endScript s k 0x01)) ∧
        (y.1.wf = true → (∃ r ∈ y.2, 32 ≤ r) → exec y.1 s = .next (endScript s k 0x03))) ∧
    (∀ (d a b e n : Reg) (v : Src) (x : Word) (is : Issue) (m : Mem) (r y : BitVec 2) (t q o : BitVec 3) (h w : BitVec 4) (g : BitVec 6) (c : Byte) (f z : Bool)
        (off : Off) (imm : BitVec 11),
      (m.space = 1 → exec (.ld m d a) s = .next (endScript s k 0x01) ∧ exec (.st m a d) s = .next (endScript s k 0x01)) ∧
      (c ≠ 0x0A → c ≠ 0x0F → exec (.srd d c) s = .next (endScript s k 0x01)) ∧
      ∀ i ∈ ([.fadd r d a b, .faddLiteral r d a x, .fsub r d a b, .fsubLiteral r d a x, .fmul r d a b, .fmulLiteral r d a x, .ffma r d a v e,
          .fmin d a b, .fminLiteral d a x, .fmax d a b, .fmaxLiteral d a x, .fcmp h d a b, .fcmpLiteral h d a x, .fclass d a, .frnd r d a,
          .exp2 d a is, .log2 d a is, .rcp d a is, .rsq d a is, .sqrt r d a is, .tanh d a is] ++
          [.padd y f z d a b, .paddLiteral y f z d a x, .pmul y f z d a b, .pmulLiteral y f z d a x, .pfma y f z d a v e, .pmin y d a b,
          .pminLiteral y d a x, .pmax y d a b, .pmaxLiteral y d a x, .cvt h w r f t d a is, .cvtsr h f d a e is, .pack y f z d a b,
          .packLiteral y f z d a x, .unpk y f d a] ++
          [.shfl r d a b n is, .ballot d a n is, .vote r d a n is, .redl t r d a n is, .scanl t f r d a n is, .elect d a n is, .bar f h a,
          .monw m d a e, .fence r d, .ldt t q d a imm e is, .atom m d a e, .atomf m d a e, .red m a e, .pref m a, .swr a c] ++
          [.mcfg t a is, .mma t q f o d a b n is, .mmas t q f o d a b n e is, .mzero a b is, .mrd t d a b is, .mwr t a b e is, .mst t f q d a off e is,
          .mwait t is, .mchk d a b is, .cpy g d a b is, .tagw f a is, .tagf d a is, .tagc a is, .racq d a b is, .rrel a b is] ++
          [.yield, .svc, .eret, .bkpt] : List Instr),
        exec i s = .next (endScript s k 0x01))

/-- For every thread outside scout: NOP completes with no effect but the pc; YIELD completes and the thread's ready
stamp is renewed; SLEEP for 0 does the same, and for n cycles the thread waits at the instruction until %cycle has
grown by n, when SLEEP_EXPIRE makes it ready at the next clause; for a script whose sleep has passed SLEEP_EXPIRE
goes on to its next instruction; a sleep immediate of 1024 or more is illegal. EXIT of a thread whose team has no
rendezvous waiting, no matrix register configured and no thread parked makes the thread exited with its undelivered
results dropped, and changes no other thread and no memory. (R19, R20, R417, R473, R455, R360) -/
def Obligations.NopYieldSleepAndExit : Prop :=
  (∀ (s : State) (u : Nat) (c : Cur) (th : Thread), Runs s u c th →
      (∃ t, exec .nop s = .next t ∧ Advanced s t u c th) ∧
      (∃ t, exec .yield s = .next t ∧ Advanced s t u c th ∧ (t.thread u).stamp = s.cycle) ∧
      (∀ n : Nat, n < 2 ^ 32 → ∀ i ∈ (if n < 1024 then [Instr.sleep (BitVec.ofNat 11 n)] else []) ++ [Instr.sleepLiteral (BitVec.ofNat 32 n)],
        if n = 0 then ∃ t, exec i s = .next t ∧ Advanced s t u c th ∧ (t.thread u).stamp = s.cycle
        else ∃ t, exec i s = .next t ∧ OnlyThread s t u ∧
          (t.thread u).unstamped =
            { th with status := .waiting (.sleep (s.cycle + n) c.next), hold := none, part := none, polls := false }.unstamped) ∧
      (∀ n : BitVec 11, 1024 ≤ n.toNat → Traps s u th (.sleep n) 0x01 c.addr c.word c.addr) ∧
      ((s.teamOf th).rdvs = [] → (s.teamOf th).convs = [] → (∀ x ∈ s.threads, ∀ e, x.status ≠ .parked e) →
        ∃ t, exec .exit s = .next t ∧ (t.thread u).status = .exited ∧ (t.thread u).window = [] ∧ (∀ a, t.byte a = s.byte a) ∧
          ∀ v, v ≠ u → (t.thread v).unstamped = (s.thread v).unstamped)) ∧
    (∀ (s : State) (u till : Nat) (next : DWord), s.hasThread u = true → (s.thread u).status = .waiting (.sleep till next) →
      (till ≤ s.cycle → exec (.sleepExpire u) s = .next (s.setThread ((s.thread u).readyAt next s.cycle))) ∧
      (s.cycle < till → exec (.sleepExpire u) s = .next s)) ∧
    (∀ (s : State) (k till : Nat), k < 4 → s.hasThread (scriptAsker k) = false → (s.script k).running = true → (s.script k).wait = some (.sleep till) →
      (till ≤ s.htime → exec (.sleepExpire (scriptAsker k)) s = .next (scriptNext s k)) ∧
      (s.htime < till → exec (.sleepExpire (scriptAsker k)) s = .next s))

/-- SRD of each special register of R56 completes for every thread whose destination exists (an even pair for a
64-bit one) and writes its value, nothing else but the pc changing. SWR completes for every thread whose source
exists and is unpoisoned: %fstat loses the bits that are 1 in the operand, %scout takes EN and BUD (at most 256) and
keeps EPI, %epc, %ecode, %eaddr and %einfo take the value, %policy its bits above the lowest eight, and a write of a
read-only special register changes nothing. Numbers from 0x18 are illegal. The model's own choices in it, no rules
of the manual: log entry 128. (R55, R56, R57, R58, R59, R60, R457, R461) -/
def Obligations.SpecialRegisterReadsAndWrites : Prop :=
  ∀ (s : State) (u : Nat) (c : Cur) (th : Thread), Runs s u c th →
    let l := s.launchOfThread (s.thread u)
    let r := l.rcd
    let tm := s.teamOf (s.thread u)
    (∀ (d : Reg) (n : Byte) (v : Word),
      (n.toNat, v) ∈ ([(0, BitVec.ofNat 32 th.tid), (1, BitVec.ofNat 32 (th.tid % r.width)), (2, BitVec.ofNat 32 (th.tid / r.width)), (3, BitVec.ofNat 32 r.width),
          (4, BitVec.ofNat 32 (tm.n % r.x)), (5, BitVec.ofNat 32 (tm.n / r.x % r.y)), (6, BitVec.ofNat 32 (tm.n / (r.x * r.y))), (7, l.id),
          (8, BitVec.ofNat 32 th.core), (9, BitVec.ofNat 32 (th.core / 2)), (10, BitVec.ofNat 32 s.hub.chip), (11, BitVec.ofNat 32 r.nthr),
          (14, th.fstat.setWidth 32), (16, scoutWord th), (18, th.ecode.setWidth 32), (20, th.einfo), (21, pbWord (s.core th.core)),
          (22, th.policy), (23, rsvWord r)] : List (Nat × Word)) →
      Exist th [d.toNat] → ∃ t, exec (.srd d n) s = .next t ∧ Advanced s t u c (Thread.writes th [(d.toNat, v)])) ∧
    (∀ (d : Reg) (n : Byte) (v : DWord),
      (n.toNat, v) ∈ ([(12, tagMask s tm (·.done)), (13, tagMask s tm fun x => x.done && x.err), (15, BitVec.ofNat 64 s.cycle), (17, th.epc), (19, th.eaddr)] :
        List (Nat × DWord)) →
      evenReg d = true → Exist th (pairRegs d) →
      ∃ t, exec (.srd d n) s = .next t ∧
        Advanced s t u c (Thread.writes th [(d.toNat, v.extractLsb' 0 32), (d.toNat + 1, v.extractLsb' 32 32)])) ∧
    (∀ (a : Reg), Readable th [a.toNat] → let v := th.val a
      (∃ t, exec (.swr a 0x0E) s = .next t ∧ Advanced s t u c { th with fstat := th.fstat &&& ~~~(v.extractLsb' 0 5) }) ∧
      (∃ t, exec (.swr a 0x10) s = .next t ∧ Advanced s t u c { th with scoutEn := v.getLsbD 31, scoutBud := min 256 (v.toNat / 2 ^ 16 % 2 ^ 9) }) ∧
      (∃ t, exec (.swr a 0x12) s = .next t ∧ Advanced s t u c { th with ecode := v.extractLsb' 0 8 }) ∧
      (∃ t, exec (.swr a 0x14) s = .next t ∧ Advanced s t u c { th with einfo := v }) ∧
      (∃ t, exec (.swr a 0x16) s = .next t ∧ Advanced s t u c { th with policy := v &&& 0xFFFFFF00 }) ∧
      (∀ n ∈ ([0, 1, 2, 3, 4, 5, 6, 7, 8, 9, 0xA, 0xB, 0x15, 0x17] : List Byte), ∃ t, exec (.swr a n) s = .next t ∧ Advanced s t u c th)) ∧
    (∀ (a : Reg), evenReg a = true → Readable th (pairRegs a) →
      (∃ t, exec (.swr a 0x11) s = .next t ∧ Advanced s t u c { th with epc := th.pair a }) ∧
      (∃ t, exec (.swr a 0x13) s = .next t ∧ Advanced s t u c { th with eaddr := th.pair a }) ∧
      (∀ n ∈ ([0xC, 0xD, 0xF] : List Byte), ∃ t, exec (.swr a n) s = .next t ∧ Advanced s t u c th)) ∧
    (∀ (a : Reg) (n : Byte), 0x18 ≤ n.toNat →
      Traps s u th (.srd a n) 0x01 c.addr c.word c.addr ∧ Traps s u th (.swr a n) 0x01 c.addr c.word c.addr)

/-- TRAP with a code from 0x20 takes the trap of that code for every thread outside scout that has a handler and is
not in it: the results of earlier instructions are written, %epc is the instruction's address, %ecode the code,
%eaddr its address, %einfo 0, HND is set, the thread is ready at HANDLER, read as a clause header, and nothing else
of the machine changes. With HND set, or without a handler, the thread ends at once and its launch is aborted with
status 0x20 and the code as DETAIL. (R257, R258, R467) -/
def Obligations.TrapsAreTakenAsR258Says : Prop :=
  ∀ (s : State) (u : Nat) (c : Cur) (th : Thread) (n : Byte), Runs s u c th → 0x20 ≤ n.toNat →
    ((s.thread u).hnd = false → (s.launchOfThread (s.thread u)).rcd.handler ≠ 0 →
      ∃ t, exec (.trap n) s = .next t ∧ OnlyThread s t u ∧
        (t.thread u).unstamped =
          { (landAll th).lower with
            epc := c.addr, ecode := n, eaddr := c.addr, einfo := 0, hnd := true, trapAt := some (c.addr, (landAll th).mid)
            pc := (s.launchOfThread (s.thread u)).rcd.handler, mid := none, status := .ready, hold := none, part := none
            reply := none, brought := [], rerun := false, plain := false, exe := 0, polls := false }.unstamped) ∧
    ((s.thread u).hnd = true ∨ (s.launchOfThread (s.thread u)).rcd.handler = 0 →
      exec (.trap n) s = .next (abortLaunch (stopForGood (s.setThread (landAll th).lower) (landAll th).lower) (s.launchOfThread (s.thread u)).uid 0x20 n.toNat))

/-- ERET of a thread outside scout in its handler, with an aligned canonical %epc, completes: HND is clear and the
thread is ready at %epc, inside the clause the trap interrupted when %epc still holds the value the trap delivered,
else at a clause header; nothing else changes. Outside the handler, or with a misaligned %epc, it takes illegal
instruction (0x01); with a non-canonical one, the translation trap 0x08 with reason 1. (R259, R359) -/
def Obligations.EretReturnsFromTheHandler : Prop :=
  ∀ (s : State) (u : Nat) (c : Cur) (th : Thread), Runs s u c th →
    (th.hnd = true → th.epc.toNat % 4 = 0 → canonical th.epc = true →
      ∃ t, exec .eret s = .next t ∧ OnlyThread s t u ∧
        (t.thread u).unstamped =
          { th with
            hnd := false, trapAt := none, pc := th.epc, status := .ready, exe := 0
            mid := (match th.trapAt with | some (e, m) => if e = th.epc then m else none | none => none) }.unstamped) ∧
    (th.hnd = false ∨ th.epc.toNat % 4 ≠ 0 → Traps s u th .eret 0x01 c.addr c.word c.addr) ∧
    (th.hnd = true → th.epc.toNat % 4 = 0 → canonical th.epc = false → Traps s u th .eret 0x08 th.epc 1 c.addr)

/-- For the three-register integer and FP32 instructions of a thread: with a named register beyond its declared
count the instruction takes 0x0C with that register, the destination looked at first, in %einfo; else with a
poisoned source it takes poison consumed (0x07) with the first poisoned source in %einfo. An encoding limit comes
before both: an IMULW whose destination is odd, and an ICMP whose condition is reserved, take illegal instruction
(0x01) with the instruction word in %einfo, whatever the registers hold. The model's own choices in it, no rules of
the manual: log entries 70, 71 and 126. (R255, R256, R270, R46, R269, R322) -/
def Obligations.BadOperandsTrapInOrder : Prop :=
  ∀ (s : State) (u : Nat) (c : Cur) (th : Thread) (d a b : Reg) (rm : BitVec 2), Runs s u c th →
    ∀ i ∈ [Instr.iadd d a b, .isub d a b, .imul d a b, .and d a b, .or d a b, .xor d a b, .shl d a b, .shr d a b, .sar d a b, .bsrd d a b,
        .fadd rm d a b, .fsub rm d a b, .fmul rm d a b, .fmin d a b, .fmax d a b],
      (∀ r, [d, a, b].find? (fun r => th.regs.length ≤ r.toNat) = some r → Traps s u th i 0x0C c.addr (BitVec.ofNat 32 r.toNat) c.addr) ∧
      (Exist th [d.toNat, a.toNat, b.toNat] → ∀ r, [a, b].find? (fun r => (th.reg r.toNat).2) = some r →
        Traps s u th i 0x07 c.addr (BitVec.ofNat 32 r.toNat) c.addr) ∧
      (evenReg d = false → ∀ w, Traps s u th (.imulw w d a b) 0x01 c.addr c.word c.addr) ∧
      (∀ n : BitVec 4, 10 ≤ n.toNat → Traps s u th (.icmp n d a b) 0x01 c.addr c.word c.addr)

/-- BALLOT, ELECT, SHFL, VOTE, REDL and SCANL: when a thread outside scout arrives whose mask names its own lane,
every other lane of the mask waits in the same instance, and no waiting instance conflicts, the instruction
completes: every member, waiting or arriving, becomes ready at the next clause with its result in the destination,
written after its earlier results, each result being the manual's function of all the members' operands in ascending
lane order, and the counter its instruction names falls; memory does not change. When lanes are still missing the
thread waits at the instruction, in the instance. Over members in ascending lane order: BALLOT's bit of a lane is 1
exactly when that lane is a member with a non-zero operand; ELECT gives 1 to the lowest member with a non-zero
operand and 0 to all others; SHFL by lane, span or flip gives the value of the source lane when that is a member,
else the member's own, and by rot that of the member b places on; VOTE counts the members that pass in bits 22:16,
sets ALL and NONE as they do and names the lowest and highest. REDL: the integer sum modulo 2^32, the least and
greatest, each bit of and, or and xor; the exact FP32 sum rounded once with its special cases; the least and
greatest FP32 value, -0 below +0, NaN only when all are. SCANL: the same over the members at or below the lane, or
below it, whose lowest receives the identity. (R26, R27, R331, R356, R357, R437, R446, R450, R471) -/
def Obligations.CrossLaneInstructions : Prop :=
  (∀ (s : State) (u : Nat) (c : Cur) (th : Thread) (a b m : Reg) (is : Issue), Runs s u c th → CounterFree th is → is.ok = true → evenReg m = true →
      Readable th [b.toNat, m.toNat] → Exist th [a.toNat, m.toNat + 1] → (32 < (s.launchOfThread th).rcd.width → Readable th [m.toNat + 1]) →
      let s0 := s.setThread th
      let r := (s.launchOfThread th).rcd
      let g := groupOf th r
      let lane := laneOf th r
      let mask := readMask th r.width m
      let here := fun v : Rdv => v.group == g && v.addr == c.addr && v.mask == mask
      let waiting := ((s.teamOf th).rdvs.find? here).getD ⟨g, c.addr, mask, []⟩
      maskOk mask r.width lane = true →
      (∀ v ∈ (s.teamOf th).rdvs, conflictRow v g c.addr mask lane = none) →
      (∀ k ∈ maskLanes mask, ∃ x, laneThread s0 th r g k = some x ∧ x.status ≠ .exited) →
      (∀ (d : Reg) (k : BitVec 2) (op : BitVec 3) (ty : BitVec 2) (ex : Bool) (i : Instr) (dst : List Nat) (sel : Bool)
          (res : List Arrived → Nat → List (Word × Bool)),
        let rows : List (Instr × List Nat × Bool × (List Arrived → Nat → List (Word × Bool))) :=
          [(.shfl k d a b m is, [d.toNat], true, fun (l : List Arrived) (n : Nat) => [shflRes k.toNat r.width l n]),
            (.elect d a m is, [d.toNat], false, fun (l : List Arrived) (n : Nat) => [(electRes l n, false)])] ++
            (if evenReg d then [(Instr.ballot d a m is, pairRegs d, false, fun (l : List Arrived) (_ : Nat) => [((ballotRes l).extractLsb' 0 32, false), ((ballotRes l).extractLsb' 32 32, false)])] else []) ++
            (if k ≠ 3 then [(Instr.vote k d a m is, [d.toNat], false, fun (l : List Arrived) (_ : Nat) => [(voteRes k.toNat l, false)])] else []) ++
            (if redlOk op ty then [(Instr.redl op ty d a m is, [d.toNat], false, fun (l : List Arrived) (_ : Nat) => [(reduce op.toNat ty.toNat (l.map (·.2.1)), false)]),
              (Instr.scanl op ex ty d a m is, [d.toNat], false, fun (l : List Arrived) (n : Nat) => [(scanRes op.toNat ty.toNat ex l n, false)])] else [])
        (i, dst, sel, res) ∈ rows →
        Exist th dst → (sel = false → (th.reg a.toNat).2 = false) →
        let all := { waiting with lanes := waiting.lanes ++ [(lane, u, th.val a, (th.reg a.toNat).2, if sel then th.val b else 0)] }
        (all.lanes.length = (maskLanes mask).length → (all.lanes.map (·.2.1)).Nodup → (∀ x ∈ waiting.lanes, s.hasThread x.2.1 = true) →
          ∃ t, exec i s = .next t ∧ (∀ n, t.byte n = s.byte n) ∧
            ∀ x ∈ all.lanes, let old := if x.2.1 = u then th else s.thread x.2.1
              (t.thread x.2.1).status = .ready ∧ (t.thread x.2.1).pc = c.next ∧ (t.thread x.2.1).mid = none ∧
              (t.thread x.2.1).sb = (landAll old).lower.sb ∧
              (∀ n, n ∉ dst → (t.thread x.2.1).reg n = (landAll old).reg n) ∧
              (old.pois.length = old.regs.length → Exist old dst →
                ∀ y ∈ dst.zip (res all.arrived x.1), (t.thread x.2.1).reg y.1 = y.2)) ∧
        (all.lanes.length < (maskLanes mask).length → s.hasTeam th.team = true →
          ∃ t, exec i s = .next t ∧ (∀ n, t.byte n = s.byte n) ∧ (t.thread u).status = .waiting .rendezvous ∧ (t.thread u).pc = th.pc ∧
            all ∈ (t.teamOf th).rdvs))) ∧
  (∀ (l : List Arrived), (l.map (·.1)).Pairwise (· < ·) → (∀ x ∈ l, x.1 < 64) → l ≠ [] →
      (∀ k < 64, (ballotRes l).getLsbD k = l.any fun x => x.1 == k && x.2.1 != 0) ∧
      (∀ x ∈ l, electRes l x.1 = if x.2.1 ≠ 0 ∧ ∀ y ∈ l, y.2.1 ≠ 0 → x.1 ≤ y.1 then 1 else 0) ∧
      (∀ x ∈ l, ∀ w, 0 < w → shflRes 0 w l x.1 =
        match l.find? (fun y => y.1 == x.2.2.2.toNat % w) with
        | some y => (y.2.1, y.2.2.1)
        | none => (x.2.1, x.2.2.1)) ∧
      (∀ x ∈ l, ∀ w ∈ [8, 16, 32, 64], let n := 2 ^ min (x.2.2.2.toNat % 8) (Nat.log2 w)
        let from_ := fun q : Nat => match l.find? (fun y => y.1 == q) with | some y => (y.2.1, y.2.2.1) | none => (x.2.1, x.2.2.1)
        shflRes 2 w l x.1 = from_ (x.1 / n * n + x.2.2.2.toNat / 256 % 256 % n) ∧ shflRes 3 w l x.1 = from_ (x.1 / n * n + (n - 1 - x.1 % n))) ∧
      (∀ p < l.length, ∀ w, let x := l.getD p (0, 0, false, 0)
        let y := l.getD ((p + x.2.2.2.toNat) % l.length) (0, 0, false, 0)
        shflRes 1 w l x.1 = (y.2.1, y.2.2.1)) ∧
      (∀ y : Word, (voteTest 0 l y = true ↔ y ≠ 0) ∧ (voteTest 1 l y = true ↔ l.head?.map (·.2.1) = some y) ∧ voteTest 2 l y = y.getLsbD 31) ∧
      (∀ k, let p := l.filter fun x => voteTest k l x.2.1
        (voteRes k l).extractLsb' 16 7 = BitVec.ofNat 7 p.length ∧ (voteRes k l).getLsbD 31 = decide (p.length = l.length) ∧
        (voteRes k l).getLsbD 30 = decide (p = []) ∧ (voteRes k l).extractLsb' 0 8 = BitVec.ofNat 8 ((p.head?.map (·.1)).getD 255) ∧
        (voteRes k l).extractLsb' 8 8 = BitVec.ofNat 8 ((p.getLast?.map (·.1)).getD 255) ∧ (voteRes k l).extractLsb' 23 7 = 0) ∧
      (∀ (op ty : Nat), ∀ x ∈ l, scanRes op ty false l x.1 = reduce op ty ((l.filter fun y => y.1 ≤ x.1).map (·.2.1)) ∧
        ((∃ y ∈ l, y.1 < x.1) → scanRes op ty true l x.1 = reduce op ty ((l.filter fun y => y.1 < x.1).map (·.2.1))) ∧
        ((∀ y ∈ l, x.1 ≤ y.1) → ∀ v, (op, ty, v) ∈ ([(0, 0, 0), (0, 1, 0), (0, 2, 0), (1, 0, 0x7FFFFFFF), (1, 1, 0xFFFFFFFF), (1, 2, 0x7F800000),
          (2, 0, 0x80000000), (2, 1, 0), (2, 2, 0xFF800000), (3, 0, 0xFFFFFFFF), (3, 1, 0xFFFFFFFF), (4, 0, 0), (4, 1, 0), (5, 0, 0), (5, 1, 0)] :
          List (Nat × Nat × Word)) → scanRes op ty true l x.1 = v))) ∧
  (∀ p : List Word, p ≠ [] →
      (∀ ty ≤ 1, reduce 0 ty p = BitVec.ofNat 32 (p.map (·.toNat)).sum ∧
        ∀ k < 32, (reduce 3 ty p).getLsbD k = p.all (fun y => y.getLsbD k) ∧ (reduce 4 ty p).getLsbD k = p.any (fun y => y.getLsbD k) ∧
          (reduce 5 ty p).getLsbD k = decide ((p.filter fun y => y.getLsbD k).length % 2 = 1)) ∧
      (∀ ty ≤ 2, (∃ y ∈ p, ty = 2 → valOf fp32 y.toNat ≠ .nan) → reduce 1 ty p ∈ p ∧ reduce 2 ty p ∈ p) ∧
      (∀ y ∈ p, (reduce 1 0 p).toInt ≤ y.toInt ∧ y.toInt ≤ (reduce 2 0 p).toInt ∧ (reduce 1 1 p).toNat ≤ y.toNat ∧ y.toNat ≤ (reduce 2 1 p).toNat) ∧
      (∀ y ∈ p, valOf fp32 y.toNat ≠ .nan →
        (fcmpHolds 3 (reduce 1 2 p) y = true ∧ (y = 0x80000000 → reduce 1 2 p ≠ 0)) ∧
        (fcmpHolds 3 y (reduce 2 2 p) = true ∧ (y = 0 → reduce 2 2 p ≠ 0x80000000))) ∧
      ((∀ y ∈ p, valOf fp32 y.toNat = .nan) → reduce 1 2 p = 0x7FC00000 ∧ reduce 2 2 p = 0x7FC00000) ∧
      ((∃ y ∈ p, valOf fp32 y.toNat = .nan) ∨ 0x7F800000 ∈ p ∧ 0xFF800000 ∈ p → reduce 0 2 p = 0x7FC00000) ∧
      ((∀ y ∈ p, valOf fp32 y.toNat ≠ .nan) → (0x7F800000 ∈ p → 0xFF800000 ∉ p → reduce 0 2 p = 0x7F800000) ∧
        (0xFF800000 ∈ p → 0x7F800000 ∉ p → reduce 0 2 p = 0xFF800000) ∧
        (0x7F800000 ∉ p → 0xFF800000 ∉ p →
          let sum : Int := (p.map fun y => (valOf fp32 y.toNat).onGrid (-149)).sum
          reduce 0 2 p = if sum ≠ 0 then BitVec.ofNat 32 (roundTo fp32 .rne false (.fin (decide (sum < 0)) sum.natAbs (-149))).1
            else if ∀ y ∈ p, y = 0x80000000 then 0x80000000 else 0)))

/-- BAR of a thread outside scout, on a slot below the launch's number of slots and with a count between 1 and the
team's number of threads that agrees with the active generation's: an arrival short of the count leaves the thread
waiting, the slot active with one arrival more; the arrival that reaches the count empties the slot and makes every
thread of the team that waits at it, this one too, ready after its BAR. A count of 0 or above the team's size is
illegal (0x01); another count than the active generation's traps 0x05 with reason 6. A slot at or above the launch's
number of slots is illegal (0x01), whatever the count register holds. (R30, R31, R32, R332) -/
def Obligations.BarrierArrivals : Prop :=
  ∀ (s : State) (u : Nat) (c : Cur) (th : Thread) (all : Bool) (slot : BitVec 4) (a : Reg), Runs s u c th → s.hasTeam th.team = true →
    let r := (s.launchOfThread th).rcd
    let b := tget {} (s.teamOf th).bars slot.toNat
    let n := if all then r.nthr else (th.val a).toNat
    (r.nbar ≤ slot.toNat → Traps s u th (.bar all slot a) 0x01 c.addr c.word c.addr) ∧
    ((all = true → a = 0) → (all = false → Readable th [a.toNat]) → slot.toNat < r.nbar →
    (n = 0 ∨ r.nthr < n → Traps s u th (.bar all slot a) 0x01 c.addr c.word c.addr) ∧
    (1 ≤ n → n ≤ r.nthr → b.active = true → b.target ≠ n → Traps s u th (.bar all slot a) 0x05 c.addr 6 c.addr) ∧
    (1 ≤ n → n ≤ r.nthr → (b.active = true → b.target = n) →
      ∃ t, exec (.bar all slot a) s = .next t ∧ (∀ k, t.byte k = s.byte k) ∧
        (b.arrivals + 1 ≠ n → (t.thread u).status = .waiting (.bar slot.toNat) ∧
          tget {} (t.teamOf th).bars slot.toNat = ⟨true, n, b.arrivals + 1⟩) ∧
        (b.arrivals + 1 = n → (t.thread u).status = .ready ∧ (t.thread u).pc = th.pc + 4 ∧ (t.thread u).mid = none ∧
          tget {} (t.teamOf th).bars slot.toNat = {} ∧
          ∀ v, s.hasThread v = true → v ≠ u → (s.thread v).team = th.team → (s.thread v).status = .waiting (.bar slot.toNat) →
            (t.thread v).status = .ready ∧ (t.thread v).pc = (s.thread v).pc + 4)))

/-- LD, from memory or scratch, and LDT, of a thread outside scout whose registers exist, whose address registers
are unpoisoned and whose pieces are in bounds, canonical and hit memory with no lock, log entry, flip or host bias
in the way (and which opens no checkpoint): each turn reads the next naturally aligned piece; after the last one the
words of all the bytes, extended as SX says, wait under the instruction's window with the poison of what was read,
and the thread goes on. Memory and the other threads do not change. (R51, R86, R101, R113, R114, R269, R309, R310,
R396, R397, R398) -/
def Obligations.LoadsComplete : Prop :=
  ∀ (s : State) (u : Nat) (c : Cur) (th : Thread), Runs s u c th → ∀ x rest,
    let tm := s.team th.team
    let limit := scratchLimit (s.launchOfThread th).rcd
    let last := decide (rest = [])
    (∀ (m : Mem) (d a : Reg), Instr.wf (.ld m d a) = true → CounterFree th m.is → Readable th (memAddrRegs m a) → Exist th (dataRegs d (memBytes m)) →
      (pieces (memAddr m th a) (memBytes m)).drop th.progress.done = x :: rest →
      let words := fun b => loadWords b (memBytes m) m.sx
      (memScr m = true → memAddr m th a + memBytes m ≤ limit → lockHolders s = [] →
        ∃ t, exec (.ld m d a) s = .next t ∧ LoadTurn s t u c th m.is (dataRegs d (memBytes m)) words last (tm.scrBytes x.1 x.2) (tm.anyPoison x.1 x.2) false) ∧
      (∀ off : Nat → Nat, memScr m = false → AllHit s th false off x rest →
        (∀ y ∈ pieces (memAddr m th a) (memBytes m), canonical (BitVec.ofNat 64 y.1) = true) →
        wouldCheckpoint s th (BitVec.ofNat 64 (memAddr m th a)) = false →
        ∃ t, exec (.ld m d a) s = .next t ∧
          LoadTurn s t u c th m.is (dataRegs d (memBytes m)) words last (s.bytes (off x.1) x.2) (s.anyPoison (off x.1) x.2) true)) ∧
    (∀ (size cnt : BitVec 3) (d a : Reg) (i : BitVec 11) (p : Reg) (is : Issue),
      let sz := 2 ^ size.toNat
      let n := 4 * 2 ^ cnt.toNat
      let dst := regsFrom d (n * sz / 4)
      let at_ := fun e : Nat => (th.val a + i.signExtend 32 + BitVec.ofNat 32 e * th.val p).toNat
      Instr.wf (.ldt size cnt d a i p is) = true → CounterFree th is → Readable th [a.toNat, p.toNat] → Exist th dst →
      (∀ e < n, at_ e + sz ≤ limit ∧ at_ e + sz ≤ 2 ^ 32) → lockHolders s = [] →
      ((List.range n).flatMap fun e => pieces (at_ e) sz).drop th.progress.done = x :: rest →
      ∃ t, exec (.ldt size cnt d a i p is) s = .next t ∧
        LoadTurn s t u c th is dst (fun b => wordsOf b dst.length) last (tm.scrBytes x.1 x.2) (tm.anyPoison x.1 x.2) false)

/-- ST, to memory or scratch, of a thread outside scout whose registers exist, whose address registers are
unpoisoned and whose pieces are in bounds, canonical and hit memory with nothing in the way: each turn stores the
next piece's bytes of the data registers at the piece's address, poisoned when a data register is, and clears the
mark of a granule or word it covers whole otherwise; a store over poison does not trap. Every other byte and mark of
memory and of scratch is as before, and after the last piece the thread goes on. (R51, R86, R113, R114, R269, R310,
R458, R459) -/
def Obligations.StoresComplete : Prop :=
  ∀ (s : State) (u : Nat) (c : Cur) (th : Thread) (m : Mem) (a e : Reg), Runs s u c th → CounterFree th m.is →
    let n := memBytes m
    let rs := dataRegs e n
    let addr := memAddr m th a
    Instr.wf (.st m a e) = true → Readable th (memAddrRegs m a) → Exist th rs → ∀ x rest, (pieces addr n).drop th.progress.done = x :: rest →
    let data := ((regBytes th rs n).drop (((pieces addr n).take th.progress.done).map (·.2)).sum).take x.2
    let p := rs.any fun r => (th.reg r).2
    let last := decide (rest = [])
    (memScr m = true → s.hasTeam th.team = true → addr + n ≤ scratchLimit (s.launchOfThread th).rcd → lockHolders s = [] → waitingSnapshots s = [] →
      ∃ t, exec (.st m a e) s = .next t ∧ StoreTurn s t u c th m.is last ∧ ScratchStored s t th.team x.1 data p) ∧
    (∀ off : Nat → Nat, memScr m = false → AllHit s th true off x rest →
      (∀ y ∈ pieces addr n, canonical (BitVec.ofNat 64 y.1) = true) →
      ∃ t, exec (.st m a e) s = .next t ∧ StoreTurn s t u c th m.is last ∧ MemoryStored s t (off x.1) data p)

/-- ATOM, ATOMF and RED of a thread outside scout whose registers exist and are unpoisoned, at an aligned address in
bounds or of memory that hits with nothing in the way: for RED, and for ATOM and ATOMF with no poison there, the
bytes at the address become the operation's result on the old value and the operand (or stay when the operation
writes nothing); what RED finds poisoned stays poisoned, without a trap; ATOM's and ATOMF's old bytes wait under the
window; no other byte of memory or scratch changes, and the thread goes on. On 4 and 8 bytes the integer operations
are addition modulo 2^32 or 2^64, signed minimum and maximum, and, or, exclusive or, exchange, and compare-and-swap,
which writes its second operand exactly when the old value equals the first; on FP32 add, min and max are FADD
rounding to nearest even, FMIN and FMAX, and on FP16 and BF16 the same of those formats. (R51, R113, R269, R327,
R328, R329, R330, R434, R435) -/
def Obligations.AtomicsComplete : Prop :=
  (∀ (s : State) (u : Nat) (c : Cur) (th : Thread) (m : Mem) (d a e : Reg), Runs s u c th → CounterFree th m.is → th.part = none →
      let n := memBytes m
      let addr := memAddr m th a
      let tm := s.team th.team
      let opn := m.opn.toNat
      addr % n = 0 → pieces addr n = [(addr, n)] → Readable th (memAddrRegs m a) →
      ∀ i dst op ops len, (i, dst, op, ops, len) ∈ ([(.atom m d a e, dataRegs d n, opn, operandRegs opn n e, if opn = 7 then 2 * n else n),
          (.atomf m d a e, dataRegs d n, 8 + opn, operandRegs (8 + opn) n e, n), (.red m a e, [], opn, dataRegs e n, n)] :
          List (Instr × List Nat × Nat × List Nat × Nat)) →
        Instr.wf i = true → Readable th ops → Exist th dst →
        let new := fun old : List Byte => ((rmwNew n op (natOf old) (regBytes th ops len)).map fun v => bytesOf v n).getD []
        let after := fun old : List Byte => if dst = [] then th else th.loads c m.is (dst.zip (loadWords old n false)) false
        (memScr m = true → s.hasTeam th.team = true → addr + n ≤ scratchLimit (s.launchOfThread th).rcd → lockHolders s = [] → waitingSnapshots s = [] →
          (dst = [] ∨ tm.anyPoison addr n = false) →
          ∃ t, exec i s = .next t ∧ (t.thread u).unstamped = ((after (tm.scrBytes addr n)).goneOn c).unstamped ∧ OthersStand s t u ∧
            ScratchStored s t th.team addr (new (tm.scrBytes addr n)) (tm.anyPoison addr n)) ∧
        (∀ off, memScr m = false → Hits s th true addr off → (dst = [] ∨ s.anyPoison off n = false) →
          ∃ t, exec i s = .next t ∧ (t.thread u).unstamped = ((after (s.bytes off n)).goneOn c).unstamped ∧ OthersStand s t u ∧
            MemoryStored s t off (new (s.bytes off n)) (s.anyPoison off n))) ∧
  ((∀ x y z : Word, let f := fun op => rmwNew 4 op y.toNat (bytesOf x.toNat 4 ++ bytesOf z.toNat 4)
        f 0 = some (y + x).toNat ∧ f 1 = some (if x.slt y then x else y).toNat ∧ f 2 = some (if y.slt x then x else y).toNat ∧
        f 3 = some (y &&& x).toNat ∧ f 4 = some (y ||| x).toNat ∧ f 5 = some (y ^^^ x).toNat ∧ f 6 = some x.toNat ∧
        f 7 = (if y = x then some z.toNat else none) ∧
        f 8 = some (fAdd fp32 .rne false y.toNat x.toNat).1 ∧ f 9 = some (fMin fp32 y.toNat x.toNat) ∧ f 10 = some (fMax fp32 y.toNat x.toNat)) ∧
      (∀ x y z : DWord, let f := fun op => rmwNew 8 op y.toNat (bytesOf x.toNat 8 ++ bytesOf z.toNat 8)
        f 0 = some (y + x).toNat ∧ f 1 = some (if x.slt y then x else y).toNat ∧ f 2 = some (if y.slt x then x else y).toNat ∧
        f 3 = some (y &&& x).toNat ∧ f 4 = some (y ||| x).toNat ∧ f 5 = some (y ^^^ x).toNat ∧ f 6 = some x.toNat ∧
        f 7 = (if y = x then some z.toNat else none)) ∧
      (∀ x y : BitVec 16, let f := fun op => rmwNew 2 op y.toNat (bytesOf x.toNat 2)
        f 8 = some (fAdd fp16 .rne false y.toNat x.toNat).1 ∧ f 9 = some (fMin fp16 y.toNat x.toNat) ∧ f 10 = some (fMax fp16 y.toNat x.toNat) ∧
        f 12 = some (fAdd bf16 .rne false y.toNat x.toNat).1 ∧ f 13 = some (fMin bf16 y.toNat x.toNat) ∧ f 14 = some (fMax bf16 y.toNat x.toNat)))

/-- An access of a thread outside scout whose registers exist and whose hot sources are unpoisoned: a scratch byte
at or beyond the bound traps 0x0B with the first such offset; else a misaligned atomic, RED or MONW traps 0x0A with
the address and the size's logarithm; else a non-canonical address traps 0x08 with reason 1; else, in a launch that
declares strict residency, a missing translation traps 0x08 with reason 2; a scratch access that meets a range lock
traps 0x03, naming the core, the kind and the tag; poison in scratch under an ATOM, ATOMF or MONW, but not under a
RED, traps 0x07 at the poisoned unit. The model's own choices in it, no rules of the manual: log entries 39 and 42.
(R51, R86, R87, R105, R109, R117, R255, R256, R270) -/
def Obligations.MemoryAccessTraps : Prop :=
  ∀ (s : State) (u : Nat) (c : Cur) (th : Thread) (m : Mem) (d a e : Reg), Runs s u c th → CounterFree th m.is → th.part = none →
    th.hold = none → th.scoutEn = false →
    let n := memBytes m
    let addr := memAddr m th a
    let va := BitVec.ofNat 64 addr
    let l := s.launchOfThread th
    let tm := s.team th.team
    let opn := m.opn.toNat
    ∀ i w al rs hot, (i, w, al, rs, hot) ∈ ([(.ld m d a, false, false, dataRegs d n, []), (.st m a e, true, false, dataRegs e n, []),
        (.atom m d a e, true, true, dataRegs d n ++ operandRegs opn n e, operandRegs opn n e),
        (.atomf m d a e, true, true, dataRegs d n ++ operandRegs (8 + opn) n e, operandRegs (8 + opn) n e),
        (.red m a e, true, true, dataRegs e n, dataRegs e n), (.monw m d a e, false, true, dataRegs d n ++ dataRegs e n, dataRegs e n)] :
        List (Instr × Bool × Bool × List Nat × List Nat)) →
      Instr.wf i = true → Readable th (memAddrRegs m a ++ hot) → Exist th rs →
      let outside := if memScr m then (List.range n).find? fun k => scratchLimit l.rcd ≤ (addr + k) % 2 ^ 32 else none
      (∀ k, outside = some k → Traps s u th i 0x0B (BitVec.ofNat 64 ((addr + k) % 2 ^ 32)) 0 c.addr) ∧
      (outside = none →
        (al = true → addr % n ≠ 0 → Traps s u th i 0x0A va (BitVec.ofNat 32 (Nat.log2 n)) c.addr) ∧
        ((al = true → addr % n = 0) →
          (memScr m = false → canonical va = false → Traps s u th i 0x08 va (xlatInfo 0 w 1) c.addr) ∧
          (memScr m = false → pieces addr n = [(addr, n)] → canonical va = true → l.rcd.strict = true → (∀ x ∈ s.teams, x.log = []) →
            findXlate s th.core l.ctx (vaKey va) = none → Traps s u th i 0x08 va (xlatInfo 3 w 2) c.addr) ∧
          (memScr m = true → pieces addr n = [(addr, n)] → let meets := locksHit s ((List.range n).map fun k => .scr tm.uid (addr + k)) w
            (∀ k core tag kind, meets = some (k, .conflict core tag kind) →
              Traps s u th i 0x03 (BitVec.ofNat 64 (addr + k)) (conflictInfo core tag kind) c.addr) ∧
            (meets = none → al = true → i ≠ .red m a e → tm.anyPoison addr n = true →
              Traps s u th i 0x07 (BitVec.ofNat 64 (addr / 8 * 8)) 0x100 c.addr))))

/-- For a thread outside scout with existing, unpoisoned registers: MONW at an aligned scratch or hitting memory
word that equals its operand waits at the instruction, its counter up, and a re-poll makes it ready to read again
while its team is resident; with another value it issues that value and goes on. PREF of a canonical address, with
no flip running and a translation cached or a walker free, goes on and changes no other thread (with no walk
running) and no byte (with no poison and no CXL port down); with all 256 walkers taken it waits for one; a non-
canonical one traps 0x08 with reason 1. FENCE kind 0 with no remote request outstanding and none of the thread's
stores logged (log entry 143) writes the deferred status and clears it, kind 1 empties the core's record cache and
makes the records that other threads of the core are reading old, kind 2 goes on when its thread has no host-window
store outstanding and no store logged; else kinds 0 and 2 hold the thread. The model's own choices in it, no rules
of the manual: log entries 40 and 41. (R130, R132, R133, R366, R367, R408, R430) -/
def Obligations.MonitorPrefetchAndFence : Prop :=
  (∀ (s : State) (u : Nat) (c : Cur) (th : Thread) (m : Mem) (d a e : Reg), Runs s u c th → CounterFree th m.is → Readable th (memAddrRegs m a) →
      let n := memBytes m
      let addr := memAddr m th a
      let va := BitVec.ofNat 64 addr
      let tm := s.team th.team
      (Instr.wf (.monw m d a e) = true → th.part = none → addr % n = 0 → pieces addr n = [(addr, n)] → Readable th (dataRegs e n) → Exist th (dataRegs d n) →
        let looks := fun (old : List Byte) => ∃ t, exec (.monw m d a e) s = .next t ∧ (∀ k, t.byte k = s.byte k) ∧ OthersStand s t u ∧
          if old = regBytes th (dataRegs e n) n then (t.thread u).unstamped =
            { th.raised (some m.is) with status := .waiting .monw, hold := none, part := none, reply := none, polls := false }.unstamped
          else (t.thread u).unstamped = ((th.loads c m.is ((dataRegs d n).zip (loadWords old n false)) false).goneOn c).unstamped
        (memScr m = true → addr + n ≤ scratchLimit (s.launchOfThread th).rcd → lockHolders s = [] → tm.anyPoison addr n = false →
          looks (tm.scrBytes addr n)) ∧
        (∀ off, memScr m = false → Hits s th false addr off → s.anyPoison off n = false → looks (s.bytes off n))) ∧
      (Instr.wf (.pref m a) = true →
        (canonical va = true → s.flips = [] →
          (findXlate s th.core (s.launchOfThread th).ctx (vaKey va)).isSome = true ∨ (running s (dieOf th.core)).length < 256 →
          ∃ t, exec (.pref m a) s = .next t ∧ (t.thread u).unstamped = (th.goneOn c).unstamped ∧ (s.walks = [] → OthersStand s t u) ∧
          (s.poison = [] → s.hub.cxldn = [] → ∀ k, t.byte k = s.byte k)) ∧
        (canonical va = true → (∀ x ∈ s.teams, x.log = []) → (s.launchOfThread th).rcd.strict = false →
          findXlate s th.core (s.launchOfThread th).ctx (vaKey va) = none → 256 ≤ (running s (dieOf th.core)).length →
          (∀ w ∈ running s (dieOf th.core), w.is (dieOf th.core) (s.launchOfThread th).ctx (faultPage va) = false) →
          exec (.pref m a) s = .next (s.setThread { th.raised (some m.is) with hold := some .aside })) ∧
        (canonical va = false → Traps s u th (.pref m a) 0x08 va (xlatInfo 0 false 1) c.addr))) ∧
    (∀ (s : State) (u : Nat) (c : Cur) (th : Thread) (d : Reg), Runs s u c th →
      (Exist th [d.toNat] → threadReqs s u (fun _ _ => true) = [] → ownLogged s th = false →
        ∃ t, exec (.fence 0 d) s = .next t ∧ Advanced s t u c { Thread.writes th [(d.toNat, th.remerr)] with remerr := 0 }) ∧
      (Exist th [d.toNat] → threadReqs s u (fun _ _ => true) ≠ [] ∨ ownLogged s th = true →
        exec (.fence 0 d) s = .next (s.setThread { th with hold := some .fence })) ∧
      (∃ t, exec (.fence 1 0) s = .next t ∧ (t.thread u).unstamped = (th.goneOn c).unstamped ∧
        (t.core th.core).rcache = [] ∧ (∀ k, t.byte k = s.byte k) ∧ ∀ v, v ≠ u → s.hasThread v = true →
          (t.thread v).unstamped = { s.thread v with stamp := 0, recOld := (s.thread v).recOld ||
            ((s.thread v).core == th.core && (s.thread v).part.any (·.shape)) }) ∧
      (hostPending s th = false → ∃ t, exec (.fence 2 0) s = .next t ∧ Advanced s t u c th) ∧
      (hostPending s th = true → exec (.fence 2 0) s = .next (s.setThread { th with hold := some .fence }))) ∧
    (∀ (s : State) (u : Nat), s.hasThread u = true → (s.thread u).status = .waiting .monw →
      exec (.monwRepoll u) s = .next (if (s.teamOf (s.thread u)).place = .resident then s.setThread { s.thread u with status := .ready, stamp := s.cycle } else s))

/-- For a thread outside scout with a free counter: MCFG of a register below the launch's number, with an existing
unpoisoned operand, configures it with the operand's PAIR and BASE when they fit the team and no signature is
gathering under another configuration, and keeps it when they are the same; values that do not fit are illegal
(0x01); another configuration while signatures gather traps 0x06 with reason 5. MWAIT goes on at once when its
thread has signed nothing there, else the thread waits at it, its counter up. A register number beyond the launch's
is illegal. (R135, R137, R138, R404, R413) -/
def Obligations.MatrixRegistersAndWaits : Prop :=
  ∀ (s : State) (u : Nat) (c : Cur) (th : Thread) (cN : BitVec 3) (a : Reg) (is : Issue), Runs s u c th → CounterFree th is → is.ok = true →
    let r := (s.launchOfThread th).rcd
    let tm := s.team th.team
    let v := tget {} tm.convs cN.toNat
    let w := (th.val a).toNat
    let pair := bits w 31 1 == 1
    let base := bits w 0 11
    let fits := if pair then r.pair = true ∧ r.dup = false ∧ base + 128 = r.nthr / 2
      else base + 128 ≤ r.nthr ∧ (r.pair = true → r.nthr / 2 ≤ base ∨ base + 128 ≤ r.nthr / 2)
    let same := v.configured = true ∧ v.pair = pair ∧ v.base = base
    (r.nconv ≤ cN.toNat → Traps s u th (.mcfg cN a is) 0x01 c.addr c.word c.addr ∧ Traps s u th (.mwait cN is) 0x01 c.addr c.word c.addr) ∧
    (cN.toNat < r.nconv → Readable th [a.toNat] →
      (¬ fits → Traps s u th (.mcfg cN a is) 0x01 c.addr c.word c.addr) ∧
      (fits → ¬ same → v.signs ≠ [] → Traps s u th (.mcfg cN a is) 0x06 c.addr (matInfo false cN.toNat 5) c.addr) ∧
      (fits → same ∨ v.signs = [] → s.hasTeam th.team = true → ∃ t, exec (.mcfg cN a is) s = .next t ∧ WentOn s t u c th ∧
        tget {} (t.team th.team).convs cN.toNat = { v with configured := true, pair := pair, base := base } ∧
        (∀ k, k ≠ cN.toNat → tget {} (t.team th.team).convs k = tget {} tm.convs k) ∧ ∀ x, x ≠ th.team → t.team x = s.team x)) ∧
    (cN.toNat < r.nconv →
      (signedOn s th cN.toNat = false → ∃ t, exec (.mwait cN is) s = .next t ∧ Advanced s t u c th) ∧
      (signedOn s th cN.toNat = true → ∃ t, exec (.mwait cN is) s = .next t ∧ OnlyThread s t u ∧
        (t.thread u).unstamped =
          { th.raised (some is) with status := .waiting (.matrix cN.toNat), hold := none, part := none, polls := false }.unstamped))

/-- For a thread outside scout with readable operands, a valid N, no reserved rotation, its tid in the register's
rows, a form equal to the one gathering, its row not yet signed, and operands and units in bounds: its signature,
with the A row and scale it names, joins the instance, and the thread goes on with its counter one higher; the
signature that completes 128 rows, or 256 of a pair, empties the instance and appends the operation to the queue of
each core it runs on. An unconfigured register traps 0x06 with reason 4, a thread outside the rows with reason 3;
another form (1) or a row signed twice (2) discards the instance first. The model's own choices in it, no rules of
the manual: log entries 57, 59, 149, 150 and 151. (R136, R137, R139, R140, R141, R148, R406, R407) -/
def Obligations.MatrixSignatures : Prop :=
  ∀ (s : State) (u : Nat) (c : Cur) (th : Thread) (af bf : BitVec 3) (as : Bool) (cN : BitVec 3) (d a b n x : Reg) (is : Issue),
    Runs s u c th → CounterFree th is → s.hasTeam th.team = true →
    let l := s.launchOfThread th
    let tm := s.team th.team
    let v := tget {} tm.convs cN.toNat
    let rows := if v.pair then 256 else 128
    let size := matN (th.val n)
    ∀ i sc, (i, sc) ∈ ([(.mma af bf as cN d a b n is, false), (.mmas af bf as cN d a b n x is, true)] : List (Instr × Bool)) →
      Instr.wf i = true → cN.toNat < l.rcd.nconv →
      Readable th ([d.toNat, n.toNat] ++ (if sc then [x.toNat + 1] else []) ++ pairRegs b ++ if as then pairRegs a else []) →
      Exist th ((if sc then [x.toNat] else []) ++ aRegs as af.toNat a) →
      matNOk size = true → (as = true → bits (hiWord (th.pair a)).toNat 28 3 ≠ 7) → bits (hiWord (th.pair b)).toNat 28 3 ≠ 7 →
      let f : MatForm := { scaled := sc, af := af.toNat, bf := bf.toNat, as := as, n := size, unit := unitIn (th.val d)
                           da := if as then descKey (th.pair a) else 0, db := descKey (th.pair b), bscale := if sc then (th.reg (x.toNat + 1)).1 else 0 }
      let g : Sign := ⟨th.tid - v.base, u, c.addr, if as then [] else (regsFrom a (rowRegs af.toNat)).map th.reg, if sc then th.reg x.toNat else (0, false), is.sb.toNat⟩
      let at_ := fun reason => Traps s u th i 0x06 c.addr (matInfo false cN.toNat reason) c.addr
      let drops := fun reason => exec i s = .next (takeTrap (discardGather (s.setThread (th.raised (some is))) th.team cN.toNat reason) u 0x06 c.addr (matInfo false cN.toNat reason) c.addr)
      (v.configured = false → at_ 4) ∧
      (v.configured = true → th.tid < v.base ∨ v.base + rows ≤ th.tid → at_ 3) ∧
      (v.configured = true → v.base ≤ th.tid → th.tid < v.base + rows →
        ((∃ y, v.form = some y ∧ y ≠ f) → drops 1) ∧
        ((∀ y, v.form = some y → y = f) → (∃ y ∈ v.signs, y.row = th.tid - v.base) → drops 2) ∧
        ((∀ y, v.form = some y → y = f) → (∀ y ∈ v.signs, y.row ≠ th.tid - v.base) → (∀ o ∈ operandOffs f rows, o < scratchLimit l.rcd) →
          f.unit + unitsOf size ≤ accUnits (s.core th.core) →
          ∃ t, exec i s = .next t ∧ WentOn s t u c (th.counted is) ∧
            (v.signs.length + 1 < rows → tget {} (t.team th.team).convs cN.toNat = { v with form := some f, signs := v.signs ++ [g] } ∧
              ∀ k, (t.core k).anvil = (s.core k).anvil) ∧
            (rows ≤ v.signs.length + 1 → tget {} (t.team th.team).convs cN.toNat = { v with form := none, signs := [] } ∧
              ∀ k, (t.core k).anvil = (s.core k).anvil ++
                if k ∈ opCores s tm v.pair th.core then [.op { team := th.team, conv := cN.toNat, pair := v.pair, form := f, signs := v.signs ++ [g] }] else [])))

/-- For a thread outside scout with readable operands, a position or tile within its core's region and nothing
queued on its core: MRD issues the n elements with their poison; MWR writes n elements and marks the row when a
source is poisoned; MZERO clears the units with their marks; MST writes the converted elements to scratch, poisoned
as they are; MCHK of a duplicate-check launch issues the common checksum, or aborts the launch with status 0x22 when
the cores differ; in such a launch writes reach both cores. Behind an operation that overlaps it, MRD waits in the
queue. Nothing else changes. The model's own choices in it, no rules of the manual: log entries 60 and 150. (R53,
R145, R146, R147, R148, R149, R405, R411, R412, R414, R416) -/
def Obligations.AccumulatorAccesses : Prop :=
  ∀ (s : State) (u : Nat) (c : Cur) (th : Thread) (n : BitVec 3) (d a b : Reg) (is : Issue), Runs s u c th → CounterFree th is →
    s.hasTeam th.team = true →
    let l := s.launchOfThread th
    let tm := s.team th.team
    let half := th.core - tm.core
    let halves := if l.rcd.dup then [0, 1] else [half]
    let unit := unitIn (th.val a)
    let p := (th.val b).toNat
    let j := bits p 16 16
    let row := bits p 0 7
    let size := matN (th.val b)
    let region := accUnits (s.core th.core)
    let fresh := ∀ w ∈ th.window, w.tok = s.nextUid + 2 → w.ready = true
    let rest := fun t : State => ({ t.team th.team with acc := [], rmark := [], cmark := [] } : Team) = { tm with acc := [], rmark := [], cmark := [] } ∧
      ∀ x, x ≠ th.team → t.team x = s.team x
    Readable th [a.toNat, b.toNat] →
    (j % nOf n = 0 → unit + j / 128 < region →
      (Instr.wf (.mrd n d a b is) = true → fresh → Exist th (regsFrom d (nOf n)) →
        ((s.core th.core).anvil = [] → ∃ t, exec (.mrd n d a b is) s = .next t ∧ t.teams = s.teams ∧
          WentOn s t u c (th.fills c is ((regsFrom d (nOf n)).zip ((List.range (nOf n)).map fun e =>
            (tm.accAt half (unit + j / 128) row (j % 128 + e), tm.accPoison half (unit + j / 128) row (j % 128 + e)))))) ∧
        (∀ o : MatOp, (s.core th.core).anvil = [.op o] → overlap (o.form.unit, unitsOf o.form.n) (unit + j / 128, 1) = true →
          ∃ t, exec (.mrd n d a b is) s = .next t ∧ t.teams = s.teams ∧ WentOn s t u c (th.await c is (s.nextUid + 2) (regsFrom d (nOf n))) ∧
            (t.core th.core).anvil = [.op o, .acc th.team half (.mrd u (s.nextUid + 2) (unit + j / 128) row (j % 128) (nOf n) d.toNat)])) ∧
      (Instr.wf (.mwr n a b d is) = true → Exist th (regsFrom d (nOf n)) → (s.core th.core).anvil = [] →
        ∃ t, exec (.mwr n a b d is) s = .next t ∧ WentOn s t u c th ∧ rest t ∧ (t.team th.team).cmark = tm.cmark ∧
          (∀ k, tget 0 (t.team th.team).acc k =
            match (List.range (nOf n)).find? fun e => halves.any fun h => k == accKey h (unit + j / 128) row (j % 128 + e) with
            | some e => (th.reg (d.toNat + e)).1
            | none => tget 0 tm.acc k) ∧
          ∀ k, nmem (t.team th.team).rmark k =
            (nmem tm.rmark k || ((regsFrom d (nOf n)).any (fun r => (th.reg r).2) && halves.any fun h => k == markKey h (unit + j / 128) row))) ∧
      (∀ (fmt : BitVec 3) (sat : Bool) (x : Reg) (off : Off), Instr.wf (.mst fmt sat n a x off b is) = true → Readable th [x.toNat] →
        (s.core th.core).anvil = [] → lockHolders s = [] → waitingSnapshots s = [] →
        let o := (th.val x + (offValue off).setWidth 32).toNat
        let sz := mstBytes fmt.toNat
        let elem := fun e => mstVal fmt.toNat sat (tm.accAt half (unit + j / 128) row (j % 128 + e))
        o + nOf n * sz ≤ 2 ^ 32 → o + nOf n * sz ≤ scratchLimit l.rcd →
        ∃ t, exec (.mst fmt sat n a x off b is) s = .next t ∧ WentOn s t u c th ∧
          (∀ k, tget 0 (t.team th.team).scratch k =
            if o ≤ k ∧ k < o + nOf n * sz then (bytesOf (elem ((k - o) / sz)) sz).getD ((k - o) % sz) 0 else tget 0 tm.scratch k) ∧
          (∀ w, nmem (t.team th.team).spois w = (nmem tm.spois w || (List.range (nOf n)).any fun e =>
            tm.accPoison half (unit + j / 128) row (j % 128 + e) && decide ((o + e * sz) / 8 ≤ w ∧ w * 8 < o + e * sz + sz))) ∧
          ({ t.team th.team with scratch := [], spois := [] } : Team) = { tm with scratch := [], spois := [] })) ∧
    (matNOk size = true → unit + unitsOf size ≤ region → (s.core th.core).anvil = [] →
      (Instr.wf (.mzero a b is) = true → ∃ t, exec (.mzero a b is) s = .next t ∧ WentOn s t u c th ∧ rest t ∧
        (∀ k, tget 0 (t.team th.team).acc k =
          if halves.any fun h => decide (accKey h unit 0 0 ≤ k ∧ k < accKey h (unit + unitsOf size) 0 0) then 0 else tget 0 tm.acc k) ∧
        ∀ k, let out := halves.any fun h => decide (markKey h unit 0 ≤ k ∧ k < markKey h (unit + unitsOf size) 0)
          nmem (t.team th.team).rmark k = (nmem tm.rmark k && !out) ∧ nmem (t.team th.team).cmark k = (nmem tm.cmark k && !out)) ∧
      (Instr.wf (.mchk d a b is) = true → l.rcd.dup = true → Exist th (pairRegs d) →
        let crc := tileCrc tm 0 unit size
        (crc = tileCrc tm 1 unit size → fresh → ∃ t, exec (.mchk d a b is) s = .next t ∧ t.teams = s.teams ∧
          WentOn s t u c (th.fills c is ((pairRegs d).zip [(loWord crc, false), (hiWord crc, false)]))) ∧
        (crc ≠ tileCrc tm 1 unit size → ∃ t, exec (.mchk d a b is) s = .next (abortLaunch t l.uid 0x22 0))) ∧
      (l.rcd.dup = false → Traps s u th (.mchk d a b is) 0x01 c.addr c.word c.addr)) ∧
    (Instr.wf (.mrd n d a b is) = true → Exist th (regsFrom d (nOf n)) →
      (j % nOf n ≠ 0 → Traps s u th (.mrd n d a b is) 0x01 c.addr c.word c.addr) ∧
      (j % nOf n = 0 → region ≤ unit + j / 128 → Traps s u th (.mrd n d a b is) 0x0B (BitVec.ofNat 64 unit) 1 c.addr))

/-- MATRIX_COMPUTE_START on the first resident operation of its cores, with no access queued beside operations and
no range lock held, reads the scratch bytes of its next operand step, with their poison, each byte once; when every
step is read it starts the compute phase; while the first computes, the next operation's steps are read (the order
of the steps of the B scales is log entry 134's). MATRIX_COMPLETE of an operation alone in its queues makes every
element of the tile, on each core it ran on, the manual's element of its old value, the A row and the B column,
poisoned when it was or its row or column is; the queues are empty, the counter of each signer that does not wait in
MWAIT falls, and threads that waited for the register return after their MWAIT. DEFERRED_MATRIX_TRAP of a thread of
a resident team that is ready at a clause boundary or waits in MWAIT, outside its handler and scout, takes trap 0x06
with the address and information it was given, at that boundary or after the MWAIT (log entry 147). The model's own
choices in it, no rules of the manual: log entries 57, 58 and 60. (R80, R136, R137, R138, R141, R142, R143, R147,
R148, R258) -/
def Obligations.MatrixOperationsRun : Prop :=
  (∀ (s : State) (core : Nat) (o : MatOp), firstOp s core = some o → s.hasTeam o.team = true → o.form.unit < 64 →
      let tm := s.team o.team
      let cs := opCores s tm o.pair core
      let alone := fun k => ∀ x ∈ (s.core k).anvil, ∃ y, x = .op y
      let stepped := fun (x z : MatOp) => z = { x with phase := .operands, steps := x.steps + 1, bytes := z.bytes } ∧
        ∀ a, z.byte a = if a ∈ (operandSteps x.form (if x.pair then 256 else 128)).getD x.steps [] ∧ (x.bytes.any (·.1 == a)) = false
          then (tget 0 (s.team x.team).scratch a, (s.team x.team).anyPoison a 1) else x.byte a
      (o.phase ≠ .compute → (∀ k ∈ cs, firstOp s k = some o ∧ alone k) → o.read = false → lockHolders s = [] →
        ∃ t, exec (.matrixComputeStart core) s = .next t ∧ t = { s with cores := t.cores } ∧ ∀ k ∈ cs, ∃ z, firstOp t k = some z ∧ stepped o z) ∧
      (o.phase ≠ .compute → (∀ k ∈ cs, firstOp s k = some o ∧ alone k) → o.read = true →
        ∃ t, exec (.matrixComputeStart core) s = .next t ∧ t = { s with cores := t.cores } ∧ ∀ k ∈ cs, firstOp t k = some { o with phase := .compute }) ∧
      (∀ y rest, coreOps s core = o :: y :: rest → o.phase = .compute → y.read = false → lockHolders s = [] →
        let ys := opCores s (s.team y.team) y.pair core
        (∀ k ∈ ys, y ∈ (coreOps s k).take 2 ∧ alone k) →
        ∃ t, exec (.matrixComputeStart core) s = .next t ∧ t = { s with cores := t.cores } ∧ ∀ k ∈ ys, ∃ z ∈ (coreOps t k).take 2, stepped y z) ∧
      (o.phase = .compute → matNOk o.form.n = true → (∀ k ∈ tm.core :: (tm.core + 1) :: cs, (s.core k).anvil = if k ∈ cs then [.op o] else []) →
        ∃ t, exec (.matrixComplete core) s = .next t ∧ (∀ k, t.byte k = s.byte k) ∧ (∀ k ∈ cs, (t.core k).anvil = []) ∧
          (∀ k ∈ cs, ∀ r < 128, ∀ y < o.form.n,
            let h := k - tm.core
            let x := if o.pair then 128 * h + r else r
            let sa := (o.sign x).scale.1.toNat
            (t.team o.team).accAt h (o.form.unit + y / 128) r (y % 128) =
              anvilElement o.form (tm.accAt h (o.form.unit + y / 128) r (y % 128)) (o.aRow x) (o.bCol y) [bits sa 0 8, bits sa 8 8]
                [(o.bScale y 0).1.toNat, (o.bScale y 1).1.toNat] ∧
            (t.team o.team).accPoison h (o.form.unit + y / 128) r (y % 128) =
              (tm.accPoison h (o.form.unit + y / 128) r (y % 128) || o.rowPoison x || o.colPoison y)) ∧
          ((o.signs.map (·.thread)).Nodup → ∀ g ∈ o.signs, s.hasThread g.thread = true → (∀ k, (s.thread g.thread).status ≠ .waiting (.matrix k)) →
            (t.thread g.thread).sb = ((s.thread g.thread).sbDown g.sb).sb) ∧
          ((tget {} tm.convs o.conv).signs = [] → ∀ v, s.hasThread v = true → (s.thread v).team = o.team →
            (s.thread v).status = .waiting (.matrix o.conv) → (t.thread v).status = .ready ∧ (t.thread v).pc = (s.thread v).pc + 8))) ∧
    (∀ (s : State) (u : Nat) (addr : DWord) (info : Word) (rest : List (DWord × Word)), s.hasThread u = true →
      (s.thread u).defer = (addr, info) :: rest → (s.teamOf (s.thread u)).place = .resident → (s.thread u).hnd = false → (s.thread u).scout = none →
      let at_ := fun pc => exec (.deferredMatrixTrap u) s =
        .next (takeTrap (s.setThread { s.thread u with defer := rest, pc := pc, mid := none }) u 0x06 addr info pc)
      ((s.thread u).status = .ready → (s.thread u).mid = none → at_ (s.thread u).pc) ∧
      (∀ k, (s.thread u).status = .waiting (.matrix k) → at_ ((s.thread u).pc + 8)))

/-- An INT8 element is the accumulator plus the sum of the signed products modulo 2^32. A floating-point element
does not depend on the order of its products; it is 0x7FC00000 when the accumulator or a product is a NaN or
infinities of both signs occur, else the infinity that occurs; with every product zero it is the accumulator, a zero
accumulator giving +0. The model's own choices in it, no rules of the manual: log entry 148. (R80, R81, R403) -/
def Obligations.AnvilElements : Prop :=
  (∀ (f : MatForm) (acc : Word) (a b sa sb : List Nat), f.af = 4 →
      anvilElement f acc a b sa sb = acc + BitVec.ofInt 32 ((a.zip b).map fun x => sext x.1 8 * sext x.2 8).sum) ∧
    (∀ (acc : Word) (ps qs : List Val), ps.Perm qs → anvilSum acc ps = anvilSum acc qs) ∧
    (∀ (acc : Word) (ps : List Val), let vs := valOf fp32 acc.toNat :: ps
      (Val.nan ∈ vs ∨ (Val.inf true ∈ vs ∧ Val.inf false ∈ vs) → anvilSum acc ps = 0x7FC00000) ∧
      (Val.nan ∉ vs → Val.inf true ∉ vs → Val.inf false ∈ vs → anvilSum acc ps = 0x7F800000) ∧
      (Val.nan ∉ vs → Val.inf false ∉ vs → Val.inf true ∈ vs → anvilSum acc ps = 0xFF800000) ∧
      ((∀ p ∈ ps, ∃ n, p = Val.zero n) → (∀ n, valOf fp32 acc.toNat ≠ .inf n) → valOf fp32 acc.toNat ≠ .nan →
        anvilSum acc ps = if acc.toNat % 2 ^ 31 = 0 then 0 else acc))

/-- For a thread outside scout with a free counter, existing registers and an unpoisoned mask pair: TAGW of owned
tags completes when the mask is empty or all of it, or for ANY one of it, is done, else the thread waits at it, its
counter up, with the tags it has seen done; a tag its team does not own traps 0x04 with reason 4. TAGF writes the
lowest done tag of the mask, or all ones. TAGC of the copy group frees the mask's tags when none is pending; a
pending one traps 0x04 with reason 5, another group reason 1. Nothing else changes. (R116, R156, R157, R463, R464,
R465) -/
def Obligations.TagInstructions : Prop :=
  ∀ (s : State) (u : Nat) (c : Cur) (th : Thread) (any : Bool) (d a : Reg) (is : Issue), Runs s u c th → CounterFree th is → is.ok = true →
    evenReg a = true → Readable th (pairRegs a) →
    let r := (s.launchOfThread th).rcd
    let tm := s.team th.team
    let mask := th.pair a
    let done := tagMask s tm (·.done)
    let unowned := lowestTag mask fun k => !(ownedBy s (copyCore tm r) k th.team)
    let pending := lowestTag mask fun k => ownedBy s th.core k th.team && !(s.tag th.core k).done
    (∀ k, unowned = some k → Traps s u th (.tagw any a is) 0x04 c.addr (rightInfo k 4) c.addr) ∧
    (unowned = none →
      if mask = 0 ∨ (any = true ∧ mask &&& done ≠ 0) ∨ (any = false ∧ mask &&& done = mask) then
        ∃ t, exec (.tagw any a is) s = .next t ∧ Advanced s t u c th
      else ∃ t, exec (.tagw any a is) s = .next t ∧ OnlyThread s t u ∧
        (t.thread u).unstamped =
          { th.raised (some is) with status := .waiting (.tags any mask (mask &&& done)), hold := none, part := none, polls := false }.unstamped) ∧
    (Exist th [d.toNat] → ∃ t, exec (.tagf d a is) s = .next t ∧ Advanced s t u c (Thread.writes th [(d.toNat,
      match (List.range 64).find? fun k => (mask &&& done).getLsbD k with | some k => BitVec.ofNat 32 k | none => 0xFFFFFFFF)])) ∧
    (groupOf th r ≠ r.cgrp → Traps s u th (.tagc a is) 0x04 c.addr (rightInfo ((lowestTag mask fun _ => true).getD 0) 1) c.addr) ∧
    (groupOf th r = r.cgrp →
      (∀ k, pending = some k → Traps s u th (.tagc a is) 0x04 c.addr (rightInfo k 5) c.addr) ∧
      (pending = none → ∃ t, exec (.tagc a is) s = .next t ∧ WentOn s t u c th ∧
        ∀ k, ownedBy t th.core k th.team = (ownedBy s th.core k th.team && !(decide (k < 64) && mask.getLsbD k))))

/-- CPY of a thread outside scout in the copy group, with unpoisoned pairs, a free tag and an aligned record that
the core's record cache holds: the thread goes on and the core's serial is one higher. A copy that fails a check
completes with an error on its tag; one with no element completes at once, or waits behind earlier copies; else,
with entries free at its slices, it is registered and runs when none waits before it, nothing registered conflicts
and both sides are local, or it is queued. With no entries free the tag is pending, its copy queued, and the thread
is held; it goes on once its copy has registered or there is room. Another group, a tag the team owns and a tag
another team owns trap 0x04 with reasons 1, 2 and 3. (Accumulators idle; no completion word due; for a snapshot, no
copy under way that keeps old bytes.) The model's own choices in it, no rules of the manual: log entries 44, 45, 46,
47, 145 and 146. (R117, R156, R157, R159, R160, R161, R163, R348) -/
def Obligations.CopyIssue : Prop :=
  ∀ (s : State) (u : Nat) (c : Cur) (th : Thread) (tag : BitVec 6) (d a b : Reg) (is : Issue), Runs s u c th → th.status = .ready →
    Instr.wf (.cpy tag d a b is) = true → Readable th (pairRegs a ++ pairRegs b ++ pairRegs d) →
    let l := s.launchOfThread th
    let tm := s.team th.team
    let core := s.core th.core
    let k := tag.toNat
    let i := Instr.cpy tag d a b is
    (th.cpyTag = some k → if lacksRoom s th.core k then exec i s = .next (s.setThread { th with hold := some .room })
      else ∃ t, exec i s = .next t ∧ Advanced s t u c { th with cpyTag := none }) ∧
    (th.cpyTag = none → groupOf th l.rcd ≠ l.rcd.cgrp → Traps s u th i 0x04 c.addr (rightInfo k 1) c.addr) ∧
    (th.cpyTag = none → groupOf th l.rcd = l.rcd.cgrp →
      (ownedBy s th.core k th.team = true → Traps s u th i 0x04 c.addr (rightInfo k 2) c.addr) ∧
      (ownedBy s th.core k th.team = false → owned s th.core k = true → Traps s u th i 0x04 c.addr (rightInfo k 3) c.addr) ∧
      (owned s th.core k = false → (th.pair a).toNat % 64 = 0 → ∀ x, (core.rcache.find? fun x => x.1 == l.ctx && x.2.1 == th.pair a) = some x →
        (∀ n, n = tm.core ∨ n = tm.core + 1 → (s.core n).anvil = []) → s.cwords = [] →
        let y : Copy := { team := th.team, ctx := l.ctx, serial := core.serial, shape := parseShape x.2.2, src := th.pair b, dst := th.pair d, policy := th.policy, order := s.nextUid }
        (y.shape.snapshot = true → ∀ x ∈ lockHolders s, x.2.2.old = []) →
        let status := issueStatus (scratchLimit l.rcd) (th.pair a) y
        let earlier := core.tags.any fun x => x.2.copy.isSome
        let ends := fun (err : Bool) => ∃ t, exec i s = .next t ∧ (t.thread u).unstamped = (th.goneOn c).unstamped ∧ (∀ n, t.byte n = s.byte n) ∧
          (t.core th.core).serial = core.serial + 1 ∧ t.tag th.core k = { team := th.team, done := true, err := err }
        let stands := fun (p : CopyPhase) => ∃ t, exec i s = .next t ∧ WentOn s t u c th ∧
          (t.core th.core).serial = core.serial + 1 ∧ t.tag th.core k = { team := th.team, copy := some { y with phase := p } }
        (status ≠ 0 → y.shape.cwe = false → ends true) ∧
        (status = 0 → y.shape.count = 0 → if earlier then stands .zero else y.shape.cwe = false → ends false) ∧
        (status = 0 → y.shape.count ≠ 0 → hasRoom s th.core y = true →
          ((queued s th.core ≠ [] ∨ noConflict s th.core y = false) → stands .queued) ∧
          (queued s th.core = [] → noConflict s th.core y = true → (farChips s th.core y).1 = [] →
            y.shape.path = 0x40 ∨ y.shape.path = 0x42 → stands (if tm.place = .resident then .running else .paused))) ∧
        (status = 0 → y.shape.count ≠ 0 → hasRoom s th.core y = false → ∃ t, exec i s = .next t ∧ (∀ n, t.byte n = s.byte n) ∧ OthersStand s t u ∧
          t.thread u = { th with cpyTag := some k, hold := some .room, part := none, reply := none } ∧
          (t.core th.core).serial = core.serial + 1 ∧ t.tag th.core k = { team := th.team, copy := some { y with phase := .queued } })))

/-- COPY_COMPLETE of a running copy whose cursor has reached its last chunk, or of one that has ended or failed with
a status, no chunk of it unacknowledged, and ZERO_COPY_COMPLETE of an empty copy, each with no earlier copy left on
its core, mark the tag done, with an error when the status is not 0, and release its locks; every thread of the team
that waits for the tag sees it done and goes on when its wait is over; with CWE set, the completion word, the
committed chunks times 2^16 plus the status, is stored at its address, and no other byte of memory changes. Before
that, nothing happens. (Accumulators idle, no other word waiting, the word's translation cached and its place
unlocked.) The model's own choices in it, no rules of the manual: log entries 53 and 54. (R116, R120, R159, R161,
R162, R163) -/
def Obligations.CopyCompletion : Prop :=
  ∀ (s : State) (core k : Nat) (y : Copy), (s.tag core k).copy = some y →
    let tg := s.tag core k
    let tm := s.team tg.team
    let earlier := (s.core core).tags.any fun x => x.2.copy.any fun d => d.serial < y.serial
    (y.flight ≠ none ∨ earlier = true ∨ (y.phase ≠ .running ∧ ∀ e, y.phase ≠ .ended e ∧ y.phase ≠ .failed e) ∨ (y.phase = .running ∧ y.cursor < y.shape.chunks) →
      exec (.copyComplete core k) s = .next s) ∧
    (y.phase ≠ .zero ∨ earlier = true → exec (.zeroCopyComplete core k) s = .next s) ∧
    ((∀ n, n = tm.core ∨ n = tm.core + 1 → (s.core n).anvil = []) → s.cwords = [] →
      ∀ i st, earlier = false → (i = Instr.copyComplete core k ∧ y.flight = none ∧ y.phase = .running ∧ y.shape.chunks ≤ y.cursor ∧ st = 0) ∨
          (i = .copyComplete core k ∧ y.flight = none ∧ (y.phase = .ended st ∨ y.phase = .failed st)) ∨ (i = .zeroCopyComplete core k ∧ y.phase = .zero ∧ st = 0) →
        let ends := fun (t : State) => t.tag core k = { tg with done := true, err := st != 0, copy := none } ∧
          (∀ v any mask seen, s.hasThread v = true → (s.thread v).team = tg.team → (s.thread v).status = .waiting (.tags any mask seen) →
            k < 64 → mask.getLsbD k = true →
            let ends2 := any = true ∨ seen ||| (1#64 <<< k) = mask
            ((t.thread v).status = if ends2 then .ready else .waiting (.tags any mask (seen ||| (1#64 <<< k)))) ∧
              (t.thread v).pc = if ends2 then (s.thread v).pc + 8 else (s.thread v).pc)
        (y.shape.cwe = false → ∃ t, exec i s = .next t ∧ ends t ∧ ∀ n, t.byte n = s.byte n) ∧
        (y.shape.cwe = true → y.shape.cwa.toNat % 8 = 0 → canonical y.shape.cwa = true → (∀ x ∈ s.teams, x.log = []) → s.hub.cxldn = [] →
          lockHolders (s.setTag core k { tg with done := true, copy := none }) = [] → s.farLocks = [] → waitingSnapshots s = [] →
          ∀ x off, findXlate s core y.ctx (vaKey y.shape.cwa) = some x → x.w = true →
          spotOf s (x.phys (vaKey y.shape.cwa)) = some (.mem off) → flipping s off = false → hostBias s off = false →
          ∃ t, exec i s = .next t ∧ ends t ∧ MemoryStored s t off (bytesOf (y.cursor * 2 ^ 16 + st) 8) false))

/-- COPY_CHUNK_COMMIT of a running copy between scratch and scratch on a path of the chip, to which no foreground
copy goes before, nothing set aside, no snapshot waiting and no poison, whose chunk's destination elements are apart
from each other and from the elements and scales it reads: every destination element becomes what R154 makes of its
source element, its scale and its old value; every other scratch byte and all of memory is as before, and the cursor
is one chunk further. Without conversion and reduction an element is its source; INT32 reductions are addition
modulo 2^32, signed minimum and maximum. The model's own choices in it, no rules of the manual: log entries 136 and
141. (R84, R154, R155, R165, R167) -/
def Obligations.CopyChunksMoveElements : Prop :=
  (∀ (s : State) (core tag : Nat) (y : Copy), (s.tag core tag).copy = some y → y.phase = .running → y.shape.ssp = true → y.shape.dsp = true →
      y.aside = [] → s.hasTeam y.team = true → (s.team y.team).spois = [] → yields s core y = false → waitingSnapshots s = [] →
      y.shape.path = 0x40 ∨ y.shape.path = 0x42 →
      let h := y.shape
      let ns := ((List.range h.perChunk).map (y.cursor * h.perChunk + ·)).filter (· < h.count)
      let sn := elemBytes h.sfmt
      let dn := elemBytes h.dfmt
      let src := fun n => y.srcAt n % 2 ^ 32
      let dst := fun n => y.dstAt n % 2 ^ 32
      let sc := fun n => (y.src.toNat + h.soff.toNat + n / 32) % 2 ^ 64 % 2 ^ 32
      let old := (s.team y.team).scratch
      let rd := fun o n => natOf ((List.range n).map fun j => tget 0 old (o + j))
      ns ≠ [] → (∀ n ∈ ns, ∀ m ∈ ns, (n ≠ m → dst n + dn ≤ dst m ∨ dst m + dn ≤ dst n) ∧ (dst n + dn ≤ src m ∨ src m + sn ≤ dst n) ∧
        (h.mx = true → dst n + dn ≤ sc m ∨ sc m + 1 ≤ dst n)) →
      ∃ t, exec (.copyChunkCommit core tag) s = .next t ∧ (∀ k, t.byte k = s.byte k) ∧ ((t.tag core tag).copy.map (·.cursor)) = some (y.cursor + 1) ∧
        (∀ n ∈ ns, ∀ j < dn, tget 0 (t.team y.team).scratch (dst n + j) =
          (bytesOf (elemOut h (rd (src n) sn) (if h.mx then rd (sc n) 1 else 0) (rd (dst n) dn)) dn).getD j 0) ∧
        ∀ k, (∀ n ∈ ns, k < dst n ∨ dst n + dn ≤ k) → tget 0 (t.team y.team).scratch k = tget 0 old k) ∧
    (∀ (h : Shape) (x sc old : Nat), h.red = 0 → h.dfmt = h.sfmt → elemOut h x sc old = x) ∧
    (∀ (h : Shape) (x old : Word) (sc : Nat), h.sfmt = 10 →
      (h.red = 1 → elemOut h x.toNat sc old.toNat = (old + x).toNat) ∧
      (h.red = 2 → elemOut h x.toNat sc old.toNat = (if x.slt old then x else old).toNat) ∧
      (h.red = 3 → elemOut h x.toNat sc old.toNat = (if old.slt x then x else old).toNat))

/-- COPY_LOCK_REGISTRATION of the one queued copy of a core, with no conflict, free slices, local sides and a path
of the chip, makes it run (or pause while its team is away); with a conflict it stays. COPY_RESUME of a suspended
copy whose page has no fault and no log entry left, or of a paused one whose ports have no replay open, its team
resident, makes it run, or ends it with status 9 when the lease of its port is gone; until then it stays.
CIRCUIT_COPY_START makes a circuit copy run once its port is live to the far chip. SNAPSHOT_ASIDE_COMPLETE of a
wanted line sets its 128 bytes aside with their poison, those of memory in a free line of the context's pool, or
ends the copy with status 11 when there is none (no flip running, neither place in host bias); a line nobody wants
stays. No other byte changes. The model's own choices in it, no rules of the manual: log entries 43, 48 and 49.
(R118, R119, R163, R166, R169, R171) -/
def Obligations.CopyEvents : Prop :=
  (∀ (s : State) (core k : Nat) (y : Copy), queued s core = [(k, y)] →
      (noConflict s core y = false ∨ hasRoom s core y = false → exec (.copyLockRegistration core) s = .next s) ∧
      (noConflict s core y = true → hasRoom s core y = true → (farChips s core y).1 = [] →
        y.shape.path = 0x40 ∨ y.shape.path = 0x42 → ∃ t, exec (.copyLockRegistration core) s = .next t ∧ t = { s with cores := t.cores } ∧
          t.tag core k = { s.tag core k with copy := some { y with phase := if (s.team y.team).place = .resident then .running else .paused } })) ∧
    (∀ (s : State) (core k : Nat) (y : Copy), (s.tag core k).copy = some y →
      let runs := fun (i : Instr) => ∃ t, exec i s = .next t ∧ t = { s with cores := t.cores } ∧ t.tag core k = { s.tag core k with copy := some { y with phase := .running } }
      let held := y.shape.path < 48 → (s.port y.shape.path).leased = true ∧ (s.port y.shape.path).ctx = y.ctx
      let goesOn := (s.team (s.tag core k).team).place = .resident →
        (held → runs (.copyResume core k)) ∧ (¬ held → exec (.copyResume core k) s = .next (endCopy s core k 9))
      (∀ x page, y.phase = .suspended x page →
        ((faultOf s x page).isSome = true → exec (.copyResume core k) s = .next s) ∧
        (faultOf s x page = none → logged s x page = [] → goesOn)) ∧
      (y.phase = .paused → (∀ p < 48, y.on (s.port p) p = true → (s.port p).replayed = none) → goesOn) ∧
      (y.phase = .paused → (∃ p < 48, y.on (s.port p) p = true ∧ (s.port p).replayed ≠ none ∧ (s.port p).state ≠ .fault) → exec (.copyResume core k) s = .next s) ∧
      (y.phase = .circuit →
        ((s.port y.shape.path).state ≠ .live → exec (.circuitCopyStart core k) s = .next s) ∧
        ((s.port y.shape.path).state = .live → (s.team y.team).place = .resident →
          (∀ x ∈ (farChips s core y).1, x = (s.port y.shape.path).peer) → runs (.circuitCopyStart core k))) ∧
      (∀ line, (nmem y.wanted line = false → exec (.snapshotAsideComplete core k line) s = .next s) ∧
        (nmem y.wanted line = true → y.shape.ssp = true → ∃ t, exec (.snapshotAsideComplete core k line) s = .next t ∧ t = { s with cores := t.cores } ∧
          ∃ z, (t.tag core k).copy = some z ∧ nmem z.wanted line = false ∧ (∀ n, n ≠ line → nmem z.wanted n = nmem y.wanted n) ∧
            z.aside = y.aside ++ (List.range 128).map fun j => (line * 128 + j, tget 0 (s.team (s.tag core k).team).scratch (line * 128 + j),
              (s.team (s.tag core k).team).anyPoison (line * 128 + j) 1)) ∧
        (nmem y.wanted line = true → y.shape.ssp = false → s.flips = [] →
          let free := (List.range (s.ctx y.ctx).aslines).find? fun n => !((poolTaken s y.ctx).contains n)
          let gone := { y with wanted := ndel y.wanted line }
          (free = none → exec (.snapshotAsideComplete core k line) s = .next (endCopy (setCopy s core k gone) core k 11)) ∧
          (∀ n, free = some n → s.hub.cxldn = [] → let at_ := (s.ctx y.ctx).asbase % 2 ^ 47 + 128 * n
            hostBias s (offOf (line * 128)) = false → hostBias s at_ = false →
            ∃ t, exec (.snapshotAsideComplete core k line) s = .next t ∧
              (∀ j, t.byte j = if at_ ≤ j ∧ j < at_ + 128 then s.byte (offOf (line * 128) + (j - at_)) else s.byte j) ∧
              t.tag core k = { s.tag core k with copy := some { gone with pool := y.pool ++ [(line, n)], aside := y.aside ++ (List.range 128).map fun j =>
                (line * 128 + j, s.byte (offOf (line * 128) + j), s.poisoned (offOf (line * 128) + j)) } }))))

/-- BUNDLE_PICK at a free picker 0, or at a free picker 1 while picker 0 is busy, with no bundle to return: when the
oldest candidate's clause is fetched, its Wait counters are zero and it is outside scout, a bundle of at most 64
ready threads of the core, of the leader's launch and at its pc, executes the clause from its first word, the leader
among them. CLAUSE_CHAIN of a bundle of one launch that ended a clause without YLD and not in YIELD, chained less
than four times, all of it ready at one header with its Wait counters zero and no candidate that may issue waiting
1,024 cycles, goes on with that clause, chained once more; after YLD, YIELD or the fourth clause it stays.
BUNDLE_LEAVE_PICKER frees the picker of a bundle that a demand fault, a full log, a remote access, a lane or slice
without room, a fence, an answer of the host or a bias flip holds; a bundle whose members wait for a walk,
coherence, an aside copy or a result stays. A returning bundle whose eldest thread is older than every candidate
that may issue takes a free picker unchanged. A busy picker changes nothing. The model's own choices in it, no rules
of the manual: log entries 62 and 63. (R18, R20, R23, R100, R181, R300, R304, R317) -/
def Obligations.PickersFormBundles : Prop :=
  ∀ (s : State) (core p : Nat) (fresh : Bool), p < 2 →
    let at_ := s.core core
    let s0 := s.setCore core (at_.setPick p none)
    let first := p = 0 ∨ atBoundary s core 0 = false
    let issued := fun (t s1 : State) (b : Bundle) (x : Thread) (h : Word) (ws : List Word) (n : Nat) =>
      (t.core core).pick p = some b ∧ t.mem = s1.mem ∧ b.addr = x.pc ∧ b.hdr = h ∧ b.words = ws ∧ b.pos = 1 ∧ b.chain = n ∧ x.uid ∈ b.threads ∧
      b.threads.length ≤ 64 ∧ (∀ v ∈ b.threads, ∃ y ∈ s.threads, y.uid = v ∧ y.pc = x.pc ∧ y.core = core ∧ y.status = .ready ∧ (s.teamOf y).launch = (s.teamOf x).launch) ∧
      ∀ v ∈ b.threads, (t.thread v).pc = x.pc + 4 ∧ (t.thread v).mid = some x.pc
    (∀ b, at_.pick p = some b → b.finished s = false →
      exec (.bundlePick core p fresh) s = .next s ∧ exec (.clauseChain core p fresh) s = .next s) ∧
    (∀ x xs h ws s1, first → at_.pick p = none → returning s0 core = none → candidates s core = x :: xs → x.mid = none → x.scout = none →
      fetchClause s0 x fresh false x.pc = (s1, .ok (h :: ws)) → waitsMet h x = true →
      ∃ t b, exec (.bundlePick core p fresh) s = .next t ∧ issued t s1 b x h ws 1) ∧
    (∀ b, first → at_.pick p = none → at_.out = [b] → (∀ u ∈ b.todo, stillHeld s (s.thread u) = false) →
      (∀ x ∈ candidates s core, readyNow s0 x = true → older (b.eldest s0) x = true) →
      ∃ t, exec (.bundlePick core p fresh) s = .next t ∧ t = { s with cores := t.cores } ∧ (t.core core).pick p = some b ∧ (t.core core).out = []) ∧
    (∀ b u us h ws s1, at_.pick p = some b → b.finished s = true → hdrYld b.hdr = false → b.yields = false → b.chain < 4 → b.threads = u :: us → b.threads.length ≤ 64 →
      (∀ v ∈ b.threads, (s.teamOf (s.thread v)).launch = (s.teamOf (s.thread u)).launch) →
      (∀ v ∈ b.threads, pickable s core (taken s core) (s.thread v) = true ∧ s.hasThread v = true ∧ (s.thread v).pc = (s.thread u).pc ∧
        (s.thread v).mid = none ∧ (s.thread v).inEpisode = false ∧ waitsMet h (s.thread v) = true) →
      (∀ y ∈ candidates s core, readyNow s y = true → s.cycle < y.stamp + 1024) → (s.thread u).scout = none →
      fetchClause s0 (s.thread u) fresh false (s.thread u).pc = (s1, .ok (h :: ws)) →
      ∃ t b1, exec (.clauseChain core p fresh) s = .next t ∧ issued t s1 b1 (s.thread u) h ws (b.chain + 1) ∧ ∀ v ∈ b.threads, v ∈ b1.threads) ∧
    (∀ b, at_.pick p = some b → b.finished s = true → hdrYld b.hdr = true ∨ b.yields = true ∨ 4 ≤ b.chain → exec (.clauseChain core p fresh) s = .next s) ∧
    (∀ b, at_.pick p = some b →
      let leaves := fun u : Nat => match (s.thread u).hold with
        | some (.fault _ _) | some (.park _ _) | some .log | some (.remote _ _ _) | some .room | some .fence | some .hostLink | some .flip => true
        | _ => false
      ((∃ u ∈ b.todo, leaves u = true) →
        ∃ t, exec (.bundleLeavePicker core p) s = .next t ∧ t = { s with cores := t.cores } ∧ (t.core core).pick p = none ∧ (t.core core).out = at_.out ++ [b]) ∧
      ((∀ u ∈ b.todo, leaves u = false) → exec (.bundleLeavePicker core p) s = .next s))

/-- For a thread outside scout: of a resident team, INSTRUCTION_RESULT_WRITE of a result whose value is there, and
whose window has passed or whose clause execution has gone, writes its registers with their poison, raises its
flags, decrements the counter it names, removes it, and discards the same registers of every older waiting result;
the younger ones stay, and no other register changes. An index beyond the window, a result whose window has not
passed, and a team that is not resident change nothing. The model's own choices in it, no rules of the manual: log
entry 128. (R57, R269, R312, R313, R316) -/
def Obligations.WindowsLandInOrder : Prop :=
  ∀ (s : State) (u : Nat) (p : Pending) (w1 w2 : List Pending), s.hasThread u = true → (s.thread u).scout = none →
    (s.thread u).window = w1 ++ p :: w2 → p ∉ w1 → p ∉ w2 → p.ready = true → (p.regs.map (·.1)).Nodup →
    (∀ x ∈ p.regs, x.1 < (s.thread u).regs.length ∧ x.1 < (s.thread u).pois.length) →
    let passed := (s.teamOf (s.thread u)).place = .resident ∧ ((s.thread u).mid = none ∨ p.exe ≠ (s.thread u).exe ∨ p.la + p.pos < (s.thread u).ipos)
    (¬ passed → exec (.instructionResultWrite u w1.length) s = .next s) ∧ (passed → ∃ t, exec (.instructionResultWrite u w1.length) s = .next t ∧ t = { s with threads := t.threads } ∧
      (∀ x ∈ p.regs, (t.thread u).reg x.1 = (x.2.1, x.2.2.1)) ∧ (∀ r, (∀ x ∈ p.regs, x.1 ≠ r) → (t.thread u).reg r = (s.thread u).reg r) ∧
      (t.thread u).window = discardFor w1 (p.regs.map (·.1)) ++ w2 ∧ (t.thread u).fstat = (s.thread u).fstat ||| p.fl ∧ (t.thread u).sb = ((s.thread u).sbDown p.sb).sb ∧
      (∀ v, v ≠ u → t.thread v = s.thread v) ∧ ∀ n, (s.thread u).window.length ≤ n → exec (.instructionResultWrite u n) s = .next s)

/-- SVC, and BKPT of a launch with a service area, of a thread outside scout with v1 to v8 existing and unpoisoned,
no host store outstanding, nothing logged, poisoned, locked or flipping, and the area mapped for writing in memory
with device bias: with room in the ring the entry of the call (registers, pc, launch, core, team, thread) is written
at its slot, the producer grows by one, the context's service vector is pending, and the thread parks on the entry
at the next clause; no other byte changes. With the ring full the thread parks at the call and memory does not
change. SVC without a service area ends its thread and aborts the launch with status 0x25; BKPT then goes on. The
model's own choices in it, no rules of the manual: log entries 27, 28 and 32. (R19, R251, R252, R336, R460) -/
def Obligations.ServiceCallsAndBreakpoints : Prop :=
  ∀ (s : State) (u : Nat) (c : Cur) (th : Thread), Runs s u c th →
    let l := s.launchOfThread th
    let die := dieOf th.core
    let reach := fun (va : DWord) (off n : Nat) => canonical va = true ∧ flipping s off = false ∧ flipping s (off + n - 1) = false ∧
      hostBias s off = false ∧ hostBias s (off + n - 1) = false ∧ ∃ x, findDie s die l.ctx (vaKey va) = some x ∧ x.w = true ∧ spotOf s (x.phys (vaKey va)) = some (.mem off)
    (l.rcd.svlog = 0 → (∃ t, exec .bkpt s = .next t ∧ OnlyThread s t u ∧ (t.thread u).unstamped = (th.jumped c.next).unstamped) ∧
      (Readable th (from_ 1 8) → exec .svc s = .next (abortLaunch (stopForGood (s.setThread th) th) l.uid 0x25 0))) ∧
    (l.rcd.svlog ≠ 0 → Readable th (from_ 1 8) → th.hostOut = 0 → th.hold = none → (∀ x ∈ s.teams, x.log = []) → s.hub.cxldn = [] → s.poison = [] →
      lockHolders s = [] → s.farLocks = [] → waitingSnapshots s = [] → ∀ off eo, reach (serviceCounts l.rcd) off 8 →
      let prod := s.num off 4
      let cons := s.num (off + 4) 4
      reach (serviceAt l.rcd prod) eo 128 → ∀ i pc, (i, pc) ∈ ([(.svc, c.addr), (.bkpt, c.addr + 1)] : List (Instr × DWord)) →
        (2 ^ l.rcd.svlog ≤ (prod + 2 ^ 32 - cons) % 2 ^ 32 → ∃ t, exec i s = .next t ∧ (∀ k, t.byte k = s.byte k) ∧
          (t.thread u).status = .parked none ∧ (t.thread u).pc = c.addr ∧ (t.thread u).mid = none ∧ (t.thread u).brk = (pc != c.addr)) ∧
        ((prod + 2 ^ 32 - cons) % 2 ^ 32 < 2 ^ l.rcd.svlog → ∃ t, exec i s = .next t ∧
          (t.thread u).status = .parked (some (prod % 2 ^ l.rcd.svlog)) ∧ (t.thread u).pc = c.next ∧ (t.thread u).mid = none ∧
          (4 * l.ctx + 1 < 128 → t.hub.hipend.getLsbD (4 * l.ctx + 1) = true) ∧
          ∀ k, t.byte k = if off ≤ k ∧ k < off + 4 then (bytesOf ((prod + 1) % 2 ^ 32) 4).getD (k - off) 0
            else if eo ≤ k ∧ k < eo + 128 then (serviceEntry th (s.team th.team) l pc).getD (k - eo) 0 else s.byte k))

/-- TEAM_COMPLETE of a resident team of a launch that is not aborted, whose threads have all exited and whose
copies, completion words, logs, remote requests, host stores and matrix work are done, removes the team and its
threads and counts it; when it was the launch's last, the launch ends and its record is queued with status 0, or
0x23 after an unread deferred remote error. Otherwise nothing happens. CORE_HANG of a core with a thread that a
picker could take at a clause boundary, unserved for 2^24 cycles, and no clause issued for as long ends such
threads, aborts their launches, of which any still there waits only for clauses in progress, and excludes the core;
before that, nothing happens. The model's own choices in it, no rules of the manual: log entries 3 and 68. (R17,
R130, R248, R253, R260, R274, R275) -/
def Obligations.TeamsEndAndCoresHang : Prop :=
  (∀ (s : State) (team : Nat), s.hasTeam team = true → (s.launches.any fun l => l.uid == (s.team team).launch) = true →
      let tm := s.team team
      let l := s.launchOf tm.launch
      let idle := tm.place = .resident ∧ l.abort = none ∧ (∀ x ∈ s.threads, x.team = team → x.status = .exited) ∧ teamIdle s tm = true
      let unread := s.threads.any fun x => x.team == team && x.remerr.msb
      (¬ idle → exec (.teamComplete team) s = .next s) ∧
      (idle → ∃ t, exec (.teamComplete team) s = .next t ∧ (∀ k, t.byte k = s.byte k) ∧ t.hasTeam team = false ∧ (∀ x ∈ t.threads, x.team ≠ team) ∧
        (l.done + 1 < l.rcd.total → (t.launchOf l.uid).done = l.done + 1 ∧ (t.ctx l.ctx).jqueue = (s.ctx l.ctx).jqueue) ∧
        (l.rcd.total ≤ l.done + 1 → (∀ x ∈ t.launches, x.uid ≠ l.uid) ∧ (t.ctx l.ctx).jqueue = (s.ctx l.ctx).jqueue ++
          [{ seq := (s.ctx l.ctx).seq, addr := BitVec.ofNat 64 l.seq, kind := 1, stream := l.stream, level := l.level, opc := 1, detail := 0
             status := if l.remErr || tm.remErr || unread then 0x23 else 0, time := s.htime, sem := if l.rcd.cse then some l.rcd.csem else none }]))) ∧
    (∀ (s : State) (core : Nat),
      let stuck := s.threads.filter fun t => pickable s core (taken s core) t && t.mid.isNone && readyNow s t && t.stamp + 2 ^ 24 ≤ s.cycle
      (stuck = [] ∨ s.cycle < (s.core core).issued + 2 ^ 24 → exec (.coreHang core) s = .next s) ∧
      (stuck ≠ [] → (s.core core).issued + 2 ^ 24 ≤ s.cycle → ∃ t, exec (.coreHang core) s = .next t ∧ nmem t.hub.cexcl core = true ∧
        ∀ x ∈ stuck, (∀ y ∈ t.threads, y.uid = x.uid → y.status = .exited) ∧ ∀ l ∈ t.launches, l.uid = (s.teamOf x).launch → l.abort ≠ none))

/-- TEAM_DISPATCH of a launch whose head unit waits, without a gang, places its next team on the first core of the
search that fits it, that no unit before it in the order could use and to which no spilled group returns: a resident
team with its threads at ENTRY, ready, v0:v1 the argument address and every other register, scratch byte and
accumulator zero; the pointer moves past the core. GANG_RESERVE places the reserving gang's next team on the core
its search gives, the pointer moving past it; the team starts with its gang when the last one has its slot.
PLACEMENT_AGING ages a unit that has waited 65,536 cycles. GROUP_RETURN brings a spilled group back that has an
answered thread and fits. Where the conditions fail, nothing happens. The model's own choices in it, no rules of the
manual: log entries 64, 65 and 125. (R18, R36, R39, R40, R41, R42, R48, R54, R58, R252) -/
def Obligations.TeamsArePlaced : Prop :=
  (∀ (s : State) (u : Nat), (s.launches.any fun l => l.uid == u) = true →
      let l := s.launchOf u
      let r := l.rcd
      let slot := (searchFrom r.pair (tget 0 s.hub.rr l.prio)).find? (openTo s l)
      let past := (slot.getD 0 + if r.pair then 2 else 1) % 384
      let placed := fun (t : State) (core : Nat) (tm : Team) (first : Nat) => t.teams.getLast? = some tm ∧ t.teams.length = s.teams.length + 1 ∧
        tm.launch = u ∧ tm.n = l.next ∧ tm.core = core ∧ tm.scratch = [] ∧ tm.acc = [] ∧ (t.launchOf u).next = l.next + 1 ∧
        (t.threads.drop s.threads.length).length = r.nthr ∧ ∀ x ∈ t.threads.drop s.threads.length, x.team = tm.uid ∧ first ≤ x.uid ∧ x.pc = r.entry ∧
          x.status = .ready ∧ x.stamp = s.cycle ∧ x.mid = none ∧ x.tid < r.nthr ∧ x.core = coreOf r core x.tid ∧ x.scoutBud = r.scout ∧
          x.reg 0 = (loWord r.args, false) ∧ x.reg 1 = (hiWord r.args, false) ∧ ∀ n, 2 ≤ n → x.reg n = (0, false)
      (headWaits s l = false ∨ gangSize r ≠ 1 ∨ slot = none → exec (.teamDispatch u) s = .next s) ∧
      (∀ core, headWaits s l = true → gangSize r = 1 → slot = some core → ∃ t tm, exec (.teamDispatch u) s = .next t ∧ placed t core tm s.nextUid ∧
        tm.place = .resident ∧ tget 0 t.hub.rr l.prio = past ∧ t.mem = s.mem) ∧
      (∀ core, reservingGang s = some u → l.next < r.total → l.abort = none → slot = some core → gangSize r ≠ 1 →
        let g := gangAt r l.next
        let held := (s.teams.filter fun t => t.launch == u && g.1 ≤ t.n && t.n < g.1 + g.2 && t.place == .reserved).length
        ∃ t tm, exec (.gangReserve core) s = .next t ∧ placed t core tm s.nextUid ∧ tget 0 t.hub.rr l.prio = past ∧ t.mem = s.mem ∧
          (held + 1 < g.2 → tm.place = .reserved ∧ t.gang = some u) ∧ (held + 1 = g.2 → tm.place = .resident ∧ t.gang = none)) ∧
      (l.next < r.total → l.aged = none → l.since + 65536 ≤ s.cycle → exec (.placementAging u) s = .next (s.setLaunch { l with aged := some s.cycle })) ∧
      (s.cycle < l.since + 65536 ∨ l.aged ≠ none → exec (.placementAging u) s = .next s)) ∧
    (∀ (s : State) (team g : Nat) (s1 : State), s.hasTeam team = true →
      let tm := s.team team
      let l := s.launchOf tm.launch
      let half := groupHalf l.rcd g
      let mine := fun x : Thread => x.team = team ∧ x.tid / l.rcd.width = g
      let size := (l.rcd.width * (l.rcd.nreg + 8) * 4 + 4095) / 4096 * 4096
      (g ∉ tm.spilled → exec (.groupReturn team g) s = .next s) ∧
      (g ∈ tm.spilled → tm.place = .resident → l.abort = none → (∃ x ∈ s.threads, mine x ∧ x.status = .ready) →
        fitsCore s [team] l.rcd (tm.spilled.filter (· != g)) half (tm.core + half) = true →
        reachPages s (dieOf (tm.core + half)) l.ctx 3 0xFFFFFFFF 0 (pagesOf (parkVa l.rcd (tm.core + half) tm.pos g) size) = (s1, true) →
        ∃ t, exec (.groupReturn team g) s = .next t ∧ g ∉ (t.team team).spilled ∧
          ((s.threads.map (·.uid)).Nodup → ∀ x ∈ s.threads, mine x → (t.thread x.uid).spilled = false ∧ (t.thread x.uid).stamp = s.cycle)))

/-- With no flip running and no host bias: TEAM_PREEMPT saves a resident victim of a launch that is not aborted,
whose threads have stopped and whose matrix work is quiet, into the slot of its core and priority, its threads kept;
alone in the slot, with no pair, its header counts one team and names its core, and record i holds its thread i as
it stopped; any other team it leaves alone. TEAM_RESUME of a saved team without a gang, whose slot's hidden region
matches, whose entries are valid, whose queue is empty and which has a core to go to, makes it resident there; a
slot that does not match aborts every launch in it; a team that is not saved stays. A thread restored from its own
record has every field as it was, only its slot, core, ready stamp and lane new; a MONW or RACQ that waited is tried
again (log entry 66). The model's own choices in it, no rules of the manual: log entries 65 and 67. (R43, R44, R45,
R261, R265, R266) -/
def Obligations.PreemptionAndReturn : Prop :=
  (∀ (s : State) (team : Nat), s.hasTeam team = true →
      let tm := s.team team
      let l := s.launchOf tm.launch
      let ts := s.threads.filter (·.team == team)
      let saves := tm.place = .resident ∧ isVictim s tm = true ∧ l.abort = none ∧ ts.all (stopped s) = true ∧ quiet s tm (ts.map (·.uid)) = true
      let base := slotBase s l.ctx (3 * tm.core + l.prio)
      (¬ saves → exec (.teamPreempt team) s = .next s) ∧
      (saves → s.flips = [] → s.bias = [] → ∃ t, exec (.teamPreempt team) s = .next t ∧ (t.team team).place = .saved (3 * tm.core + l.prio) ∧ t.launches = s.launches ∧
        t.threads.map (·.uid) = s.threads.map (·.uid) ∧
        (l.rcd.pair = false → slotMates s tm (3 * tm.core + l.prio) = [] → tm.pos < 64 → s.hub.cxldn = [] →
          t.num base 4 = 1 ∧ t.num (base + 4) 4 = tm.core % 2 ^ 32 ∧
          ∀ i x, i < 2048 → (halfThreads ((ts.map (·.uid)).foldl stopThread s) tm 0)[i]? = some x → t.bytes (base + 0x8000 + 64 * i) 64 = threadRecord x)) ∧
      (tm.isSaved = false ∨ l.abort ≠ none → exec (.teamResume team) s = .next s) ∧
      (tm.isSaved = true → l.abort = none → gangSize l.rcd = 1 → (s.teams.map (·.uid)).Nodup →
        (brokenSlots s tm ≠ [] → ∃ t, exec (.teamResume team) s = .next t ∧ ∀ u ∈ slotLaunches s tm (brokenSlots s tm), ∀ x ∈ t.launches, x.uid = u → x.abort ≠ none) ∧
        (brokenSlots s tm = [] → entriesHold s tm = false → exec (.teamResume team) s = .next s) ∧
        (∀ core, brokenSlots s tm = [] → entriesHold s tm = true → s.flips = [] → s.bias = [] → resumeCore s tm = some core → tm.anvil = [] → (s.core core).anvil = [] → (s.core (core + 1)).anvil = [] →
          ∃ t, exec (.teamResume team) s = .next t ∧ (t.team team).place = .resident ∧ (t.team team).core = core ∧ t.launches = s.launches ∧
            t.threads.map (·.uid) = s.threads.map (·.uid)) ∧
        (brokenSlots s tm = [] → entriesHold s tm = true → resumeCore s tm = none → exec (.teamResume team) s = .next s))) ∧
    (∀ (th : Thread) (slot core now : Nat) (free : Nat → Word), th.sb.length = 6 → (∀ x ∈ th.sb, x < 64) → th.scoutBud ≤ 256 → th.tid < 2048 →
      (th.remerr.msb = false → th.remerr = 0) → th.policy &&& 0xFF = 0 →
      let again := (match th.status with | .waiting .monw | .waiting (.racq _ _ _) => { th with status := .ready, reply := none } | _ => th : Thread)
      restoreThread { th with remerr := 0, kept := stateCode th, keptSb := th.sb } (threadRecord th) th.regs slot core now free =
        { again with kept := stateCode th, keptSb := th.sb, slot := slot, core := core, stamp := now, paths := th.paths.map fun x => (x.1, changedPath) })

/-- A global load of a thread outside scout that would checkpoint, with a free log slot, goes on without its result,
which waits, and holds the checkpoint. SCOUT_OUTCOME: performed closes the checkpoint, the result of a load of one
piece of memory ready with the words and poison read; a load the checkpoint does not serve is undone and will be a
plain one; long makes it an episode and counts it; a trap is taken at the load, the thread undone; once known,
nothing happens. SCOUT_BUDGET_END marks a running episode whose count has reached its budget as stopped.
SCOUT_RESTORE, once the data has arrived, makes the thread ready at the load, outside scout, every saved register as
it was and no other changed; before that, nothing happens. The model's own choices in it, no rules of the manual:
log entries 75, 76, 144 and 152. (R60, R173, R174, R175, R176, R178, R180, R181, R186) -/
def Obligations.ScoutEpisodes : Prop :=
  (∀ (s : State) (u : Nat) (c : Cur) (th : Thread) (m : Mem) (d a : Reg), Runs s u c th → CounterFree th m.is → Instr.wf (.ld m d a) = true →
      memScr m = false → Readable th (memAddrRegs m a) → Exist th (dataRegs d (memBytes m)) → th.part = none → (∀ x ∈ s.teams, x.log = []) →
      (∀ y ∈ pieces (memAddr m th a) (memBytes m), canonical (BitVec.ofNat 64 y.1) = true) →
      wouldCheckpoint s th (BitVec.ofNat 64 (memAddr m th a)) = true → slotsUsed s th.core < logSlots s th.core →
      ∃ t sc, exec (.ld m d a) s = .next t ∧ (t.thread u).scout = some sc ∧ sc.pc = c.addr ∧ sc.header = c.hdr ∧ sc.long = false ∧
        sc.stop = none ∧ sc.saves = [] ∧ sc.budget = th.scoutBud ∧ sc.va = BitVec.ofNat 64 (memAddr m th a) ∧ (t.thread u).pc = c.next ∧
        (t.thread u).regs = th.regs ∧ (∃ p ∈ (t.thread u).window, p.tok = sc.tok ∧ p.ready = false ∧ p.prov = true ∧
          p.regs.map (·.1) = dataRegs d (memBytes m)) ∧ (∀ k, t.byte k = s.byte k) ∧ OthersStand s t u) ∧
    (∀ (s : State) (u : Nat) (sc : Scout), s.hasThread u = true → (s.thread u).scout = some sc →
      let th := s.thread u
      (sc.long = true ∨ sc.stop ≠ none → exec (.scoutOutcome u) s = .next s) ∧
      (sc.long = false → sc.stop = none →
        (outcome s th sc = .performed → ∃ t, exec (.scoutOutcome u) s = .next t ∧ (t.thread u).scout = none ∧
          (s.hub.cxldn = [] → (∀ k, t.byte k = s.byte k) ∧ ∀ a n off p, sc.later = [] → sc.acc.ps = [(a, n)] →
            (lookAt s { th with hold := none } sc.acc (a, n)).2 = .go (.mem off) → p ∈ th.window → p.tok = sc.tok → p.ready = false → p.prov = true →
            p.regs.map (·.1) = sc.dst → sc.dst.Nodup → (loadWords (s.bytes off n) sc.size sc.sx).length = sc.dst.length →
            ∃ q ∈ (t.thread u).window, q.ready = true ∧ q.prov = false ∧
              q.regs = (sc.dst.zip (loadWords (s.bytes off n) sc.size sc.sx)).map fun x => (x.1, x.2, s.anyPoison off n, false))) ∧
        (outcome s th sc = .plain → ∃ t, exec (.scoutOutcome u) s = .next t ∧ (t.thread u).scout = none ∧ (t.thread u).pc = sc.pc ∧
          (t.thread u).plain = true ∧ ∀ k, t.byte k = s.byte k) ∧
        (outcome s th sc = .long → ∃ t z, exec (.scoutOutcome u) s = .next t ∧ (t.thread u).scout = some z ∧ z.long = true ∧ z.pc = sc.pc ∧
          z.saves = sc.saves ∧ (t.thread u).scoutEpi = th.scoutEpi + 1) ∧
        (∀ code addr info, outcome s th sc = .trap code addr info →
          ∃ t, exec (.scoutOutcome u) s = .next (takeTrap t u code addr info sc.pc) ∧ (t.thread u).scout = none ∧ (t.thread u).pc = sc.pc)) ∧
      (sc.long = false ∨ sc.stop ≠ none ∨ sc.count < sc.budget → exec (.scoutBudgetEnd u) s = .next s) ∧
      (sc.long = true → sc.stop = none → sc.budget ≤ sc.count → ∃ t, exec (.scoutBudgetEnd u) s = .next t ∧
        (t.thread u).scout = some { sc with stop := some .budget } ∧ t.mem = s.mem) ∧
      (sc.long = false ∨ scoutArrived s th sc = false → exec (.scoutRestore u) s = .next s) ∧
      (sc.long = true → scoutArrived s th sc = true → (sc.saves.map (·.1)).Nodup → (∀ x ∈ sc.saves, x.1 < th.regs.length ∧ x.1 < th.pois.length) →
        ∃ t, exec (.scoutRestore u) s = .next t ∧ (t.thread u).scout = none ∧ (t.thread u).pc = sc.pc ∧ (t.thread u).mid = some sc.header ∧
          (t.thread u).status = .ready ∧ (t.thread u).rerun = true ∧ (∀ x ∈ sc.saves, (t.thread u).reg x.1 = (x.2.1, x.2.2.2)) ∧
          ∀ r, (∀ x ∈ sc.saves, x.1 ≠ r) → (t.thread u).reg r = th.reg r))

/-- TRANSLATION_WALK_COMPLETE of a walk among the 256 that run ends it: a leaf is found in the die's cache from then
on and its waiting threads go on; anything else, and a leaf that forbids a write that joined, is a demand fault of
the first request that meets it (entry 11), which holds its threads or sends their stores into the side log.
FAULT_RECORD_WRITE with room and its places free writes the oldest unwritten record and the new producer count and
makes the context's fault vector pending; a full ring or no record leaves all as it is. FRPL_RETRY and FRPL_REFUSE
of an unknown identifier only note the value; a retry that faults again gets a new record; one that succeeds (a
walker free, no flip, no frame with host bias, no copy, and the page's logged stores in memory here) empties the
page's log and frees its threads; a refusal leaves the ready ones refused and aborts the launches with entries
there, of which any still there waits only for clauses in progress. XIVC_WRITE queues an invalidation, one beyond 64
held until a slot is free; INVALIDATION_COMPLETE removes every entry that matches from every core and die, the
pinned store apart, and counts once no access under way uses one. The model's own choices in it, no rules of the
manual: log entries 11, 22, 23, 130, 131 and 132. (R90, R91, R96, R99, R101, R102, R103, R106, R282) -/
def Obligations.FaultsAreServed : Prop :=
  (∀ (s : State) (die x page : Nat), let this := fun w : Walk => w.die == die && w.ctx == x && w.page == page
      let va := page * 65536
      ((running s die).find? this = none → exec (.translationWalkComplete die x page) s = .next s) ∧
      (∀ w, (running s die).find? this = some w → ∃ t, exec (.translationWalkComplete die x page) s = .next t ∧ t.walks = s.walks.filter (fun y => !(this y)) ∧
        (∀ v ∈ t.threads, ∀ a b, v.hold ≠ some (.walk die x page a b)) ∧
        match walk s x va with
        | .leaf _ _ wr => (findDie t die x va).isSome = true ∧ t.mem = s.mem ∧
          (∀ v, (s.thread v).hold = some (.walk die x page true true) ∨ (s.thread v).hold = some (.walk die x page true false) →
            (t.thread v).hold = if wr then none else some (if (s.thread v).hold = some (.walk die x page true true) then .logs x page else .fault x page)) ∧
          (∀ v g, (s.thread v).hold = some (.walk die x page false g) → (t.thread v).hold = none) ∧
          (wr = true ∨ (∀ q ∈ w.reqs, q.flags % 2 = 0) → t.faults = s.faults) ∧
          (wr = false → (faultOf s x page) = none → ∀ q, w.reqs.find? (fun q => q.flags % 2 == 1) = some q → faultPage q.va = page →
            ∃ f, faultOf t x page = some f ∧ f.va = q.va ∧ f.src = q.src ∧ f.launch = q.launch ∧ f.agent = q.agent ∧ f.flags = q.flags ∧ f.kind = 1)
        | .bad kind _ _ => (∀ v a g, (s.thread v).hold = some (.walk die x page a g) →
            (t.thread v).hold = some (if g then .logs x page else .fault x page)) ∧ (w.reqs = [] → t.faults = s.faults) ∧
          ((faultOf s x page) = none → ∀ q, w.reqs.head? = some q → faultPage q.va = page →
            ∃ f, faultOf t x page = some f ∧ f.va = q.va ∧ f.src = q.src ∧ f.launch = q.launch ∧ f.flags = q.flags ∧ f.kind = kind))) ∧
    (∀ (s : State) (x : Nat), let r := s.ctx x
      let base := r.frbase % 2 ^ 47
      let counts := base + 32 * 2 ^ r.frlog
      let full := 2 ^ r.frlog ≤ (r.frprod + 2 ^ 32 - s.num (counts + 4) 4) % 2 ^ 32
      let waits := s.faults.find? fun f => f.ctx == x && !f.written
      (waits = none ∨ full → exec (.faultRecordWrite x) s = .next s) ∧
      (∀ f, waits = some f → ¬ full → s.hub.cxldn = [] →
        let n := (r.frprod + 1) % 2 ^ 32
        let slot := base + 32 * (r.frprod % 2 ^ r.frlog)
        placesWait s [(slot, 32), (counts, 4)] true = (s, false) → ∃ t, exec (.faultRecordWrite x) s = .next t ∧
        (∀ k, t.byte k = if counts ≤ k ∧ k < counts + 4 then (bytesOf n 4).getD (k - counts) 0
          else if slot ≤ k ∧ k < slot + 32 then (faultRecord s f).getD (k - slot) 0 else s.byte k) ∧
        (t.ctx x).frprod = n ∧ (∀ g ∈ t.faults, g.fid = f.fid → g.written = true) ∧ (4 * x < 128 → t.hub.hipend.getLsbD (4 * x) = true))) ∧
    (∀ (s : State) (fid : Word),
      (s.faults.find? (·.fid == fid) = none → exec (.frplRetry fid) s = .next { s with hub := { s.hub with frpl := pairOf 1 fid } } ∧
        exec (.frplRefuse fid) s = .next { s with hub := { s.hub with frpl := pairOf 2 fid } }) ∧
      (∀ f, s.faults.find? (·.fid == fid) = some f →
        let walks := s.pinned.find? (·.covers f.ctx (vaKey f.va)) = none
        let free := ∀ die, (running s die).length < 256 ∧ (running s die).find? (Walk.is die f.ctx f.page) = none
        (∀ kind level, walks → free → walk s f.ctx (vaKey f.va) = .bad kind level none → ∃ t, exec (.frplRetry fid) s = .next t ∧
          t.faults = s.faults.filter (·.fid != fid) ++
            [{ f with fid := s.hub.nextfid, kind := kind, level := level, time := s.cycle, written := false, retry := false }]) ∧
        (∀ fr level, walks → free → walk s f.ctx (vaKey f.va) = .leaf fr level true → s.flips = [] → s.bias = [] → lockHolders s = [] →
          (∀ e ∈ logged s f.ctx f.page, ∃ off, spotOf s ((leafXlate f.ctx (vaKey f.va) fr level true).phys (vaKey e.va)) = some (.mem off)) → ∃ t, exec (.frplRetry fid) s = .next t ∧ logged t f.ctx f.page = [] ∧
          ∀ v, (s.thread v).status = .ready → (s.thread v).hold = some (.fault f.ctx f.page) → (t.thread v).hold = none) ∧
        ∃ t, exec (.frplRefuse fid) s = .next t ∧ logged t f.ctx f.page = [] ∧
          (∀ e ∈ logged s f.ctx f.page, ∀ l ∈ t.launches, l.uid = (s.launchOfThread (s.thread e.thread)).uid → l.abort ≠ none) ∧
          ∀ v, (s.threads.map (·.uid)).Nodup → (s.thread v).status = .ready → (s.thread v).scout = none → (s.thread v).hold = some (.fault f.ctx f.page) → t.hasThread v = true → (t.thread v).status = .ready →
            (t.thread v).hold = some (.refused f.ctx f.page))) ∧
    (∀ (s : State) (v : Word),
      (∃ t, exec (.xivcWrite v) s = .next t ∧ t.hub.invq = s.hub.invq ++ [(s.hub.xiva, v &&& 0x00FC0000)] ∧ t.mem = s.mem ∧
        (s.hub.invq.length < 64 → t.hub.xivc = v &&& 0x00FC0000) ∧
        (64 ≤ s.hub.invq.length → some t.hub.xivc = ((s.hub.invq.take 64).getLast?).map (·.2))) ∧
      (s.hub.invq = [] → exec .invalidationComplete s = .next s) ∧
      (∀ va w rest, s.hub.invq = (va, w) :: rest → ∃ t, exec .invalidationComplete s = .next t ∧
        (if underWay s va w then t.hub = s.hub else t.hub.invq = rest ∧ t.hub.xisq = s.hub.xisq + 1) ∧
        t.pinned = s.pinned ∧ t.mem = s.mem ∧ (∀ k, ∀ x ∈ (t.core k).tlb, invalidates va w x = false) ∧ ∀ y ∈ t.dtlb, ∀ x ∈ y.2, invalidates va w x = false))

/-- With no thread request outstanding and no path noted, each port event in its state and time makes the port what
R194 and R195 give: locking with 7 wavelengths, training within 6 microseconds, LIVE on a HELLO that matches within
2, retraining with its cause and counter, DARK on loss of light, FAULT with cause 4, 5, 6, 7 or 11; in another state
or time it changes nothing. The lasers are on in LOCKING, TRAINED and LIVE. HELLO and RETRAIN flits carry the BODY
of R196; one whose CRC or CTYPE is wrong acts on nothing, and what the code corrected or lost is counted. An ACK or
a NAK names the flits received; a NAK replays the kept flits in order or, after 9 sendings, retrains. A lease that
has run out leaves the port dark and unleased. The grant of a requested lease sets it; path set makes a dark port
lock. The model's own choices in it, no rules of the manual: log entries 78, 79, 80, 82, 83, 85 and 86. (R10, R190,
R192, R194, R195, R196, R197, R198) -/
def Obligations.PortsFollowTheirStates : Prop :=
  (∀ x : PState, x.lasersOn = true ↔ x = .locking ∨ x = .trained ∨ x = .live) ∧
    ∀ (s : State) (p : Nat), s.lanes = [] → (∀ th ∈ s.threads, th.paths = []) →
    let t := s.port p
    let now := s.htime
    let goes := fun (i : Instr) (x : Port) => exec i s = .next (s.setPort p x)
    let stays := fun (i : Instr) => exec i s = .next s
    let fails := fun (cause : Nat) => { t with state := .fault, cause := cause, dead := if t.state = .live then 0 else t.dead, retrain := false, wlock := none }
    let locks := fun (sending : Bool) => { t with state := .locking, retrain := sending, since := now, wlock := none, locked := 0, dead := 0
                                                  replay := t.replay.map fun r => (r.1, r.2.1, min 1 r.2.2) }
    let retrains := fun (cause : Nat) => { locks true with cause := cause, ptrn := t.ptrn + 1 }
    let restarts := fun (i : Instr) (cause : Nat) => exec i s = .next ((s.setPort p (retrains cause)).send (.flit p (flitBytes 1 0 0 (bytesOf 2 4))))
    let heard := fun c : FlitCode => { t with pcorr := t.pcorr + BitVec.ofNat 64 c.fixed, punc := t.punc + BitVec.ofNat 32 c.lost }
    let control := fun (b : List Byte) (c : FlitCode) (ctype : Nat) =>
      c.touched = false ∧ flitOk b = true ∧ bits (flitWord b 0) 28 4 = 1 ∧ flitWord b 4 = 0 ∧ flitWord b 8 = ctype
    (∀ l : BitVec 8, let i := Instr.wavelengthLock p l
      (t.state = .locking ∧ t.retrain = false ∧ t.wlock = none ∧ now ≤ t.since + 12000 →
        goes i (if 7 ≤ lit l then { t with locked := l, wlock := some now, dead := ~~~l } else { t with locked := l })) ∧
      (t.state ≠ .locking ∨ t.since + 12000 < now → stays i)) ∧
    (t.state = .locking ∧ t.retrain = false ∧ t.wlock = none ∧ t.since + 12000 ≤ now → goes (.portLockTimeout p) (fails 4)) ∧
    (t.state ≠ .locking ∨ now < t.since + 12000 → stays (.portLockTimeout p)) ∧
    (∀ w, t.wlock = some w → t.state = .locking →
      (now ≤ w + 6000 → goes (.portTrained p) { t with state := .trained, since := now, wlock := none }) ∧
      (w + 6000 ≤ now → goes (.portTrainingTimeout p) (fails 5)) ∧ (now < w + 6000 → stays (.portTrainingTimeout p))) ∧
    (t.wlock = none → stays (.portTrained p) ∧ stays (.portTrainingTimeout p)) ∧
    (t.state = .trained → exec (.helloSend p) s = .next (s.send (.flit p (flitBytes 1 0 0
      (bytesOf 1 4 ++ bytesOf s.hub.chip 4 ++ bytesOf t.peer 4 ++ bytesOf t.ltag.toNat 4 ++ bytesOf p 4))))) ∧
    (t.state ≠ .trained → stays (.helloSend p) ∧ stays (.portHelloTimeout p)) ∧
    (t.state = .trained → t.since + 2000 ≤ now → goes (.portHelloTimeout p) (fails 6)) ∧
    (∀ b c, t.state = .trained → control b c 1 →
      let self := flitWord b 0x0C % 2 ^ 21
      let fits := self = t.peer ∧ flitWord b 0x10 % 2 ^ 21 = s.hub.chip ∧ BitVec.ofNat 32 (flitWord b 0x14) = t.ltag ∧ self ≠ s.hub.chip
      let q := flitWord b 0x18 % 64
      (fits → now ≤ t.since + 2000 → t.queue = [] → ∃ x, exec (.hello p b c.fixed c.lost c.touched) s = .next x ∧ x.port p = { heard c with state := .live, ppeer := q }) ∧
      (¬ fits → goes (.hello p b c.fixed c.lost c.touched) { heard c with state := .fault, cause := 7, retrain := false, wlock := none, ppeer := q })) ∧
    (t.state = .trained ∨ t.state = .live →
      (∀ b c, (c.touched = true ∨ flitOk b = false → goes (.hello p b c.fixed c.lost c.touched) (heard c) ∧ goes (.retrain ⟨p, b, c⟩) (heard c)) ∧
        (control b c 1 → goes (.retrain ⟨p, b, c⟩) (heard c)) ∧ (control b c 2 → goes (.hello p b c.fixed c.lost c.touched) (heard c) ∧
          goes (.retrain ⟨p, b, c⟩) { locks false with cause := 10, ptrn := t.ptrn + 1, pcorr := (heard c).pcorr, punc := (heard c).punc })) ∧
      (∀ w < 8, t.dead = 0 → goes (.wavelengthDead p w) { t with dead := 1#8 <<< w }) ∧
      (∀ w < 8, t.dead ≠ 0 → t.dead.getLsbD w = false → restarts (.wavelengthDead p w) 8)) ∧
    (t.state = .trained ∨ t.state = .live ∨ t.state = .locking →
      goes (.lossOfLight p) { t with state := .dark, cause := 2, dead := if t.state = .live then 0 else t.dead, retrain := false, wlock := none }) ∧
    (t.state = .dark ∨ t.state = .fault → (∀ b c, stays (.retrain ⟨p, b, c⟩) ∧ stays (.hello p b c.fixed c.lost c.touched)) ∧ stays (.lossOfLight p) ∧ (∀ w, stays (.wavelengthDead p w)) ∧ stays (.retrainRelock p) ∧
      stays (.ackReport p) ∧ stays (.replayLimit p) ∧ ∀ n, stays (.nak p n)) ∧
    (t.state = .locking → t.retrain = true → t.since + 200 ≤ now → goes (.retrainRelock p) (locks false)) ∧
    (t.state = .live →
      exec (.ackReport p) s = .next (s.send (.flit p (flitBytes 0 0 (2 ^ 31 + (t.rxseq + 2 ^ 24 - 1) % 2 ^ 24) []))) ∧
      ((∃ r ∈ t.replay, 9 ≤ r.2.2) → restarts (.replayLimit p) 9) ∧ ((∀ r ∈ t.replay, r.2.2 < 9) → stays (.replayLimit p)) ∧
      (∀ n, let again := fun r : Nat × List Byte × Nat => seqLe (n % 2 ^ 24) r.1
        ((∃ r ∈ t.replay, again r = true ∧ 9 ≤ r.2.2) → restarts (.nak p n) 9) ∧
        ((∀ r ∈ t.replay, again r = true → r.2.2 < 9) → lockHolders s = [] → ∃ x, exec (.nak p n) s = .next x ∧ (x.port p).prpl = t.prpl + 1 ∧
          x.sent = s.sent ++ (t.replay.filter again).map fun r => .flit p (flitBytes 2 r.1 0 r.2.1))) ∧
      (∀ (n : Nat) (b : List Byte) (c : FlitCode), (c.touched = true ∨ flitOk b = false → goes (.idleFlit p ⟨b, c⟩) (heard c)) ∧
        (t.queue = [] → c.touched = false → flitOk b = true → bits (flitWord b 0) 28 4 = 0 → flitWord b 4 = 2 ^ 31 + n → n < 2 ^ 24 →
          ∃ x, exec (.idleFlit p ⟨b, c⟩) s = .next x ∧ (x.port p).replay = t.replay.filter (fun r => !(seqLe r.1 n)) ∧ (x.port p).pcorr = (heard c).pcorr))) ∧
    (∃ x, exec .nakRepeat s = .next x ∧ x.ports = s.ports ∧ x.sent = s.sent ++ ((List.range 48).filter fun q => (s.port q).state == .live && (s.port q).nakOut).map
      fun q => .flit q (flitBytes 0 0 (2 ^ 31 + 2 ^ 30 + (s.port q).rxseq % 2 ^ 24) [])) ∧
    (∀ e < 12, ∃ x, exec (.engineFailure e) s = .next x ∧ nmem x.hub.engines e = true ∧
      (∀ n < 4, (x.port (4 * e + n)).state = .fault ∧ (x.port (4 * e + n)).cause = 11) ∧ ∀ n, n / 4 ≠ e → x.port n = s.port n) ∧
    (t.leased = false ∨ now < t.lend → stays (.leaseEnd p)) ∧
    (t.leased = true → t.lend ≤ now → t.state ≠ .fault → t.state ≠ .dark →
      ∃ x, exec (.leaseEnd p) s = .next x ∧ (x.port p).leased = false ∧ (x.port p).state = .dark ∧ (x.port p).cause = 3 ∧ (x.port p).ltag = 0) ∧
    (∀ (pk : Packet) (tag : Word), pk.data.length = 16 → let w := fun o => BitVec.ofNat 32 (natOf ((pk.data.drop o).take 4))
      (natOf (pk.data.take 1) = 1 → requestOf s (w 4) = some p → t.leased = false → ∀ r, t.request = some r → ∃ x, exec (.swrep pk) s = .next x ∧
        (x.port p).leased = true ∧ (x.port p).ctx = r.1 ∧ (x.port p).peer = r.2.2.1 ∧ (x.port p).lend = now + r.2.2.2.2 * 1000 ∧ (x.port p).ltag = w 8 ∧
        (x.port p).request = none ∧ (x.port p).state = t.state) ∧
      (natOf (pk.data.take 1) = 2 → w 8 = tag → leaseOf s tag = some p → t.state = .dark → goes (.swrep pk) (locks false)) ∧
      (natOf (pk.data.take 1) = 3 → requestOf s (w 4) = some p → goes (.swrep pk) { t with request := none, refused := true }))

/-- A request of a tracked chip that is its lane's next and is admitted is performed: STORE puts its bytes into
memory with their poison, RED and ATOM make the value their operation's result, LOAD and ATOM are answered with the
old bytes, which are kept, the others with ACK; the lane expects the next serial and no other byte changes. A
refused one is answered with its cause; one that faults is held, its fault outstanding. A performed one that comes
again, and one of a chip that cannot be tracked, change neither memory nor the lanes. A request held 50 microseconds
is refused; a chip idle for a millisecond is tracked no longer. The model's own choices in it, no rules of the
manual: log entries 87, 88, 89 and 90. (R117, R129, R200, R202, R204, R205, R269) -/
def Obligations.RequestsOfOtherChipsAreServed : Prop :=
  (∀ (s : State) (p : Packet) (i : Instr) (typ : Nat), (i, typ) ∈ ([(.store p, tSTORE), (.redPacket p, tRED), (.load p, tLOAD), (.atomPacket p, tATOM)] : List (Instr × Nat)) →
      let pk : Packet := { p with typ := typ }
      let l := tgtLane s p.src p.lane p.serial
      let n := 2 ^ (p.op / 8)
      let old := s.bytes p.off n
      let known := s.chips.any (·.1 == p.src)
      (known = false → 16384 ≤ s.chips.length → ∃ t, exec i s = .next t ∧ t.mem = s.mem ∧ t.served = s.served) ∧
      (known = true → serialLt p.serial l.want = true → ∃ t, exec i s = .next t ∧ t.mem = s.mem ∧ t.served = s.served) ∧
      (known = true → l.held = none → l.early = [] → l.want = p.serial →
        (∀ cause, (admission s pk).2 = .refuse cause → ∃ t, exec i s = .next t ∧ t.mem = s.mem ∧ (tgtLane t p.src p.lane 0).want = (p.serial + 1) % 2 ^ 32 ∧
          ∃ a, (p.serial, a) ∈ (tgtLane t p.src p.lane 0).kept ∧ a.typ = tREFUSE ∧ a.data = bytesOf (typ * 256 + cause) 4) ∧
        (∀ kind level, (admission s pk).2 = .fault kind level → ∃ t, exec i s = .next t ∧ (tgtLane t p.src p.lane 0).held = some (pk, s.htime) ∧
          (faultOf t p.ctx (faultPage (pageVa (p.va / 65536) + BitVec.ofNat 64 (p.va % 65536)))).isSome = true) ∧
        ((admission s pk).2 = .go → s.hub.cxldn = [] → s.anyPoison p.off n = false →
          ∃ t, exec i s = .next t ∧ (tgtLane t p.src p.lane 0).want = (p.serial + 1) % 2 ^ 32 ∧ (tgtLane t p.src p.lane 0).held = none ∧
            (typ = tSTORE → MemoryStored s t p.off (p.data.take n) (p.pmask != 0)) ∧ (typ = tLOAD → MemoryStored s t 0 [] false) ∧
            (typ = tRED ∨ typ = tATOM → MemoryStored s t p.off (((rmwNew n (p.op % 8) (natOf old) p.data).map fun v => bytesOf v n).getD []) false) ∧
            (typ = tLOAD ∨ typ = tATOM → ∃ a, (p.serial, a) ∈ (tgtLane t p.src p.lane 0).kept ∧ a.typ = tREPLY ∧ a.data = old ∧ a.pmask = 0) ∧
            (livePort s p.ctx p.src = none → ∀ q nx, route s p.src = some (q, nx) → ∃ a : Packet,
              t.sent = s.sent ++ [.frame q (frameBytes (macOf nx q) (macOf s.hub.chip q) (s.hub.plet.toNat % 65536) a)] ∧ a.typ = (if typ = tLOAD ∨ typ = tATOM then tREPLY else tACK) ∧ a.serial = p.serial ∧ a.dst = p.src)))) ∧
    (∀ s : State, (∀ l ∈ s.served, ∀ h, l.held = some h → s.htime < h.2 + 50000) → exec .remoteHoldExpire s = .next s) ∧
    (∀ (s : State) (l : TgtLane) (p : Packet) (since : Nat), s.served = [l] → l.held = some (p, since) → l.early = [] → p.src = l.chip → p.lane = l.lane →
      since + 50000 ≤ s.htime → ∃ t, exec .remoteHoldExpire s = .next t ∧ t.mem = s.mem ∧ (tgtLane t l.chip l.lane 0).held = none ∧
        ∃ a, (p.serial, a) ∈ (tgtLane t l.chip l.lane 0).kept ∧ a.typ = tREFUSE ∧ a.data = bytesOf (p.typ * 256 + 1) 4) ∧
    (∀ s : State, ∃ t, exec .sourceEntryExpire s = .next t ∧ t.mem = s.mem ∧ ∀ x ∈ s.chips,
      ((∀ l ∈ s.served, l.chip = x.1 → l.held = none ∧ l.early = []) → x.2 + 1000000 ≤ s.htime + 1 → x ∉ t.chips) ∧
      ((∀ y ∈ s.chips, y.1 = x.1 → s.htime + 1 < y.2 + 1000000) → x ∈ t.chips))

/-- REPLY takes the load or atomic it answers off its lane and gives the waiting thread its data and poison. ACK
takes off every store and RED up to its serial. HOLD and BUSY mark their request and restart its time. REFUSE takes
its request off: a load's thread gets the cause, a store's thread a deferred status. REQUEST_RESEND does nothing
before the time, sends again and counts after it, and refuses after 8 resends. CHUNK stages its bytes; COMMIT of a
new chunk writes the staged bytes under the lock of its own copy and records it; without that lock, and where a
write waits (another copy's lock, a flip, a log), it waits, which is the model's reading (entry 136); a repeated one
only discards. The model's own choices in it, no rules of the manual: log entries 14, 50, 77 and 136. (R128, R129,
R130, R167, R202, R204) -/
def Obligations.AnswersReachTheirRequests : Prop :=
  (∀ (s : State) (p : Packet) (q : Req), reqOf s p.src p.lane p.serial = some q →
      let l := srcLane s p.src p.lane
      let th := s.thread q.thread
      (q.packet.typ = tLOAD ∨ q.packet.typ = tATOM → ∃ t, exec (.reply p) s = .next t ∧ reqOf t p.src p.lane p.serial = none ∧ t.mem = s.mem ∧
        (s.hasThread q.thread = true → th.scout = none → th.hold = some (.remote p.src q.packet.lane q.packet.serial) →
          (t.thread q.thread).reply = some ⟨p.data, p.pmask != 0, 0, p.src⟩)) ∧
      (q.packet.typ = tSTORE ∨ q.packet.typ = tRED → exec (.reply p) s = .next s) ∧
      (p.data.length ≠ 20 → ∃ t, exec (.ack p) s = .next t ∧ t.mem = s.mem ∧ (srcLane t p.src p.lane).reqs =
        l.reqs.filter fun r => serialLt p.serial r.packet.serial || r.packet.typ == tLOAD || r.packet.typ == tATOM) ∧
      (∃ t, exec (.hold p) s = .next t ∧ ∀ r ∈ (srcLane t p.src p.lane).reqs, r.packet.serial = p.serial → r.held = true ∧ r.sent = s.htime) ∧
      (∃ t, exec (.busy p) s = .next t ∧ ∀ r ∈ (srcLane t p.src p.lane).reqs, r.packet.serial = p.serial → r.busy = true ∧ r.sent = s.htime) ∧
      (∀ cause < 8, s.lanes = [l] → l.reqs = [q] → q.packet.ctx = p.ctx → q.packet.va = p.va → l.lane = p.lane →
        1 ≤ q.packet.typ → q.packet.typ ≤ 4 → p.data = bytesOf (q.packet.typ * 256 + cause) 4 → s.hasThread q.thread = true →
        ∃ t, exec (.refuse p) s = .next t ∧ (srcLane t l.chip l.lane).reqs = [] ∧
          (q.packet.typ = tSTORE ∨ q.packet.typ = tRED → t.thread q.thread = th.deferred cause l.chip) ∧
          (q.packet.typ = tLOAD ∨ q.packet.typ = tATOM → th.scout = none → th.hold = some (.remote l.chip q.packet.lane q.packet.serial) →
            (t.thread q.thread).reply = some ⟨[], false, cause, l.chip⟩)) ∧
      (let time := if q.busy then 2000 else if q.held then 60000 else 20000
       let i := Instr.requestResend p.src p.lane p.serial
       (s.htime < q.sent + time → exec i s = .next s) ∧
       (q.sent + time ≤ s.htime → p.lane < 64 → q.busy = false →
         (q.resends < 8 → hasRoute s (pathTo s q.packet.ctx p.src) p.src = true → ∃ t, exec i s = .next t ∧ t.mem = s.mem ∧
           ∀ r ∈ (srcLane t p.src p.lane).reqs, r.packet.serial = p.serial → r.resends = q.resends + 1 ∧ r.sent = s.htime ∧ r.held = false) ∧
         (8 ≤ q.resends → ∃ t, exec i s = .next t ∧ reqOf t p.src p.lane p.serial = none)))) ∧
    (∀ (s : State) (p : Packet), exec (.chunk p) s = .next { s with staged := s.staged ++ [⟨p.src, p.serial, p.off, p.data, p.pmask⟩] }) ∧
    (∀ (s : State) (p : Packet) (x : Staged), s.hub.cxldn = [] → let w := fun o n => natOf ((p.data.drop o).take n)
      let key := (p.src, w 0 4, w 4 4, w 8 4)
      let mine := fun y : Staged => y.chip = p.src ∧ y.serial = w 8 4
      ((∃ y ∈ s.commits, y.1 = key ∧ w 12 8 ≤ y.2) → ∃ t, exec (.commit p) s = .next t ∧ t.mem = s.mem ∧ t.commits = s.commits ∧ ∀ y ∈ t.staged, ¬ mine y) ∧
      ((∀ y ∈ s.commits, y.1 = key → y.2 < w 12 8) → s.staged = [x] → mine x → isMemory s x.off = true → isMemory s (x.off + x.data.length - 1) = true → s.bias = [] →
        let own := fun f : FarLock => f.chip = p.src ∧ f.core = w 0 4 ∧ f.tag = w 4 4 ∧ f.serial = w 8 4
        let covered := ∃ f ∈ s.farLocks, own f ∧ f.dst = true ∧ f.off ≤ x.off ∧ x.off + x.data.length ≤ f.off + f.len
        let held := (agentHeld { s with farLocks := s.farLocks.filter fun f => !(decide (own f)) } x.off x.data.length true).2
        (held = true ∨ ¬ covered → ∃ t, exec (.commit p) s = .next t ∧ t.mem = s.mem ∧ t.commitq = s.commitq ++ [p] ∧ t.staged = s.staged) ∧
        (held = false → covered → ∃ t, exec (.commit p) s = .next t ∧ t.staged = [] ∧ (key, w 12 8) ∈ t.commits ∧
          ∀ k, t.byte k = if x.off ≤ k ∧ k < x.off + x.data.length then x.data.getD (k - x.off) 0 else s.byte k)))

/-- A well-formed packet in a frame to this chip's port, with the machine's EtherType, arrives as that packet; a
frame with a bad length, check sequence, address or type is dropped and counted. A built flit passes its check, and
a packet in a body, zeros behind it, is read back. On a live port, a data flit that touches an uncorrectable
codeword, fails its CRC, is of another kind or is not the next is not accepted and the first such asks for a replay;
the next one advances the expected number, and its packets arrive in order. What the code corrected and lost is
counted either way. The model's own choices in it, no rules of the manual: log entry 12. (R191, R192, R199, R200,
R201) -/
def Obligations.FramesAndFlitsCarryPackets : Prop :=
  (∀ (s : State) (q : Nat) (p : Packet) (src : Nat), q < 2 → s.hub.chip < 2 ^ 21 → src < 2 ^ 48 →
      p.typ < 64 ∧ p.op < 64 ∧ p.ttl < 256 ∧ p.data.length ≤ 256 ∧ p.lane < 64 ∧ p.ctx < 16 ∧ p.src < 2 ^ 21 ∧ p.dst < 2 ^ 21 ∧ p.serial < 2 ^ 32 ∧
        p.pmask < 2 ^ 16 ∧ p.off < 2 ^ 47 ∧ p.va < 2 ^ 57 →
      let e := s.hub.plet.toNat % 65536
      e ≠ 0x8100 → e ≠ 0x8808 → exec (.frameReceive q (frameBytes (macOf s.hub.chip q) src e p)) s = .next (arrive s p true)) ∧
    (∀ (s : State) (q : Nat) (b : List Byte), q ≥ 2 ∨ frameOk s q b = false →
      exec (.frameReceive q b) s = .next { s with hub := { s.hub with pdrop := s.hub.pdrop + 1 } }) ∧
    (∀ (kind seq ackw : Nat) (body : List Byte), body.length ≤ 244 → flitOk (flitBytes kind seq ackw body) = true) ∧
    (∀ (p : Packet) (z : Nat), 1 ≤ p.typ → p.typ < 64 ∧ p.op < 64 ∧ p.ttl < 256 ∧ p.data.length ≤ 256 ∧ p.lane < 64 ∧ p.ctx < 16 ∧ p.src < 2 ^ 21 ∧ p.dst < 2 ^ 21 ∧
        p.serial < 2 ^ 32 ∧ p.pmask < 2 ^ 16 ∧ p.off < 2 ^ 47 ∧ p.va < 2 ^ 57 →
      takePackets 276 (packetBytes p ++ List.replicate z 0) = ([(p, true)], if z ≤ 3 then List.replicate z 0 else [])) ∧
    (∀ (s : State) (p : Nat) (b : List Byte) (c : FlitCode), let t := s.port p
      let i := Instr.dataFlit p b c
      let counted := fun x : Port => { x with pcorr := t.pcorr + BitVec.ofNat 64 c.fixed, punc := t.punc + BitVec.ofNat 32 c.lost }
      let bad := c.touched = true ∨ flitOk b = false ∨ bits (flitWord b 0) 28 4 ≠ 2 ∨ bits (flitWord b 0) 0 24 ≠ t.rxseq
      (t.state ≠ .live → exec i s = .next s) ∧
      (t.state = .live → bad → ∃ x, exec i s = .next x ∧ x.port p = counted { t with nakOut := true } ∧ x.mem = s.mem ∧
        x.sent = s.sent ++ if t.nakOut then [] else [.flit p (flitBytes 0 0 (2 ^ 31 + 2 ^ 30 + t.rxseq % 2 ^ 24) [])]) ∧
      (∀ ps rest, t.state = .live → ¬ bad → bits (flitWord b 4) 31 1 = 0 → takePackets 276 (joinBody t.rxpart ((b.drop 8).take 244)) = (ps, rest) →
        exec i s = .next (ps.foldl (fun s y => arrive s y.1 y.2)
          (s.setPort p (counted { t with rxseq := (t.rxseq + 1) % 2 ^ 24, nakOut := false, rxpart := rest })))))

/-- A Bellows instruction of a script with an ill-formed word ends it with 0x01, with a register above v31 with
0x03; a core thread that meets one traps with 0x01. CREQ, CAWT, CREL and CSTA end the script with 0x04 on a port
above 47 (CREQ on length 0, CAWT on a state above 4); else CREQ answers BUSY, PORT_FAULT, NO_ROUTE or DONE with
SWREQ sent and the request pending, CAWT the first condition of its loop that holds, else it waits, CREL gives up
the lease and the pending request, CSTA reads PSTAT. SEMS adds where nobody waits, SEMW takes, reports TIMEOUT or
waits. The timeout of a wait answers TIMEOUT. SCRIPT_START starts an idle context for the stream that waits for it,
once the journal has room (entry 101). The model's own choices in it, no rules of the manual: log entries 84, 91 and
101. (R207, R210, R212, R213, R215, R216, R318, R342, R345, R448, R449) -/
def Obligations.ScriptCircuitsAndSemaphores : Prop :=
  (∀ (s : State) (k : Nat) (c : Cur) (d a b : Reg), s.cur = some c → c.who = .script k →
      let sc := s.script k
      let ends := fun (i : Instr) (code : Nat) => exec i s = .next (endScript s k code)
      let answers := fun (i : Instr) (x : State) (v : Word) => exec i s = .next (scriptAnswer x k d.toNat v)
      let waits := fun (i : Instr) (w : ScriptWait) (t : Word) => exec i s = .next (s.setScript k { sc with wait := some w, began := s.htime, timeout := t })
      let good := fun (i : Instr) (rs : List Nat) => Instr.wf i = true ∧ ∀ r ∈ rs, r < 32
      let pair := fun r : Reg => [r.toNat, r.toNat + 1]
      let p := (sc.val a).toNat % 64
      let t := s.port p
      let high := (hiWord (sc.pair a)).toNat
      (∀ y ∈ [(Instr.creq d a b, d.toNat :: pair a ++ pair b), (.cawt d a b, d.toNat :: b.toNat :: pair a), (.crel d a, [d.toNat, a.toNat]),
              (.csta d a, [d.toNat, a.toNat]), (.gload d a b, d.toNat :: a.toNat :: pair b), (.grun d a b, d.toNat :: pair a ++ pair b),
              (.gwait d a b, [d.toNat, a.toNat, b.toNat]), (.rotb d a b, d.toNat :: a.toNat :: pair b), (.rote d a b, [d.toNat, a.toNat, b.toNat]),
              (.sems d a b, d.toNat :: a.toNat :: pair b), (.semw d a b, d.toNat :: pair a ++ pair b)],
        (Instr.wf y.1 = false → ends y.1 0x01) ∧ (Instr.wf y.1 = true → (∃ r ∈ y.2, 32 ≤ r) → ends y.1 0x03)) ∧
      (let i := Instr.creq d a b
        let peer := high % 2 ^ 21
        let swport := loWord (sc.pair b)
        let len := (hiWord (sc.pair b)).toNat
        let busy := t.request ≠ none ∨ (t.leased = true ∧ ¬ (t.ctx = sc.ctx ∧ t.peer = peer ∧ t.swport = swport))
        let failed := t.state = .fault ∧ t.cause = 11
        let mac := s.hub.swcm.toNat % 2 ^ 48
        good i (d.toNat :: pair a ++ pair b) →
          (48 ≤ p ∨ len = 0 → ends i 0x04) ∧
          (p < 48 → len ≠ 0 →
            (busy → answers i s 6) ∧ (¬ busy → failed → answers i s 0x0A) ∧ (¬ busy → ¬ failed → mac = 0 → answers i s 4) ∧
            (¬ busy → ¬ failed → mac ≠ 0 → ∃ x pk q, answers i x 0 ∧ pk.typ = 0x20 ∧ pk.ctx = sc.ctx ∧
              x.sent = s.sent ++ [.frame q (frameBytes mac (macOf s.hub.chip q) (s.hub.plet.toNat % 65536) pk)] ∧
              pk.data = bytesOf p 4 ++ bytesOf peer 4 ++ bytesOf swport.toNat 4 ++ bytesOf len 4 ++ bytesOf s.hub.nextreq.toNat 4 ∧
              x.hub.nextreq = s.hub.nextreq + 1 ∧
              x.port p = { t with request := some (sc.ctx, s.hub.nextreq, peer, swport, len), refused := false }))) ∧
      (let i := Instr.cawt d a b
        let want := high % 8
        let word := fun n : Nat => BitVec.ofNat 32 (t.state.code * 2 ^ 29 + n)
        let gone := t.leased = false ∧ t.request = none
        good i (d.toNat :: b.toNat :: pair a) →
          (48 ≤ p ∨ 4 < want → ends i 0x04) ∧
          (p < 48 → want ≤ 4 →
            (t.state.code = want → answers i s (word 0)) ∧
            (t.state.code ≠ want →
              (t.refused = true → answers i s (word 3)) ∧ (t.refused = false → gone → answers i s (word 2)) ∧
              (t.refused = false → ¬ gone →
                (t.state = .fault → answers i s (word 0x0A)) ∧
                (t.state ≠ .fault → (sc.val b = 0 → answers i s (word 1)) ∧ (sc.val b ≠ 0 → waits i (.port p want d) (sc.val b))))))) ∧
      (let i := Instr.crel d a;
        good i [d.toNat, a.toNat] →
          (48 ≤ p → ends i 0x04) ∧
          (p < 48 →
            (t.leased = true ∧ t.ctx = sc.ctx → s.lanes = [] → ∃ x, answers i x 0 ∧ (x.port p).leased = false ∧ (x.port p).ltag = 0 ∧
              (t.state ≠ .fault → (x.port p).state = .dark) ∧ ∀ r, t.request = some r → r.1 = sc.ctx → (x.port p).request = none) ∧
            (¬ (t.leased = true ∧ t.ctx = sc.ctx) →
              ((∀ r, t.request = some r → r.1 ≠ sc.ctx) → answers i s 2) ∧
              ∀ n r, t.request = some (sc.ctx, n, r) → answers i (s.setPort p { t with request := none, cancelled := t.cancelled ++ [(n, sc.ctx)] }) 2))) ∧
      (let i := Instr.csta d a;
        good i [d.toNat, a.toNat] → (48 ≤ p → ends i 0x04) ∧ (p < 48 → answers i s (pstat t))) ∧
      (let i := Instr.sems d a b
        let n := (sc.val a).toNat
        good i (d.toNat :: a.toNat :: pair b) →
          (256 ≤ n → ends i 0x04) ∧
          (n < 256 → (∀ y ∈ s.scripts, ∀ v dec e, y.2.wait ≠ some (.semaphore n v dec e)) →
            (∀ y ∈ (s.ctx sc.ctx).streams, ∀ v dec e, y.2.wait ≠ some (.semaphore n v dec e)) →
            answers i (s.setSem sc.ctx n (s.sem sc.ctx n + sc.pair b)) 0)) ∧
      (let i := Instr.semw d a b
        let w := (sc.val a).toNat
        let n := w % 256
        let dec := w.testBit 8
        let val := sc.pair b
        good i (d.toNat :: pair a ++ pair b) →
          (512 ≤ w → ends i 0x04) ∧
          (w < 512 →
            (val ≤ s.sem sc.ctx n → answers i (if dec then s.setSem sc.ctx n (s.sem sc.ctx n - val) else s) 0) ∧
            (s.sem sc.ctx n < val → (hiWord (sc.pair a) = 0 → answers i s 1) ∧
              (hiWord (sc.pair a) ≠ 0 → waits i (.semaphore n val dec d) (hiWord (sc.pair a))))))) ∧
    (∀ (s : State) (u : Nat) (c : Cur) (d a b : Reg), s.cur = some c → c.who = .thread u → (s.thread u).scout = none →
      ∀ i ∈ [Instr.creq d a b, .cawt d a b, .crel d a, .csta d a, .gload d a b, .grun d a b, .gwait d a b, .rotb d a b, .rote d a b, .sems d a b, .semw d a b],
        exec i s = .next (takeTrap s u 0x01 c.addr c.word c.addr)) ∧
    (∀ (s : State) (k : Nat), let sc := s.script k
      let i := Instr.bellowsWaitTimeout k
      let passed := sc.running = true ∧ sc.timeout ≠ 0xFFFFFFFF ∧ sc.began + sc.timeout.toNat * 1000 ≤ s.htime
      (¬ passed ∨ sc.wait = none → exec i s = .next s) ∧
      (passed →
        (∀ n v dec d, sc.wait = some (.semaphore n v dec d) → exec i s = .next (scriptAnswer s k d.toNat 1)) ∧
        (∀ g d, sc.wait = some (.graph g d) → exec i s = .next (scriptAnswer s k d.toNat 1)) ∧
        (∀ p want d, sc.wait = some (.port p want d) → cawtLook (s.port p) want = none →
          exec i s = .next (scriptAnswer s k d.toNat (BitVec.ofNat 32 ((s.port p).state.code * 2 ^ 29 + 1)))))) ∧
    ∀ (s : State) (k : Nat), let i := Instr.scriptStart k
      ((s.script k).running = true → exec i s = .next s) ∧
      ((∀ x ∈ s.ctxs, ∀ y ∈ x.2.streams, ∀ pc arg, y.2.wait ≠ some (.script k pc arg)) → exec i s = .next s) ∧
      ∀ c n x st pc arg, (s.script k).running = false → s.ctxs = [(c, x)] → x.streams = [(n, st)] → st.wait = some (.script k pc arg) →
        (streamRoom s c = false → exec i s = .next s) ∧ (streamRoom s c = true →
        ∃ t, exec i s = .next t ∧ (t.script k).running = true ∧ (t.script k).ctx = c ∧ (t.script k).pc = pc ∧ (t.script k).header = none ∧
          (t.script k).wait = none ∧ (t.script k).regs = loWord arg :: hiWord arg :: List.replicate 30 0 ∧ (t.stream c n).wait = some .journal)

/-- GLOAD, GRUN and GWAIT of a script end it on a slot above 7 and answer BUSY, NOT_LOADED or BAD_RECORD as the
record and the slot say; a readable record is loaded exactly when its operations pass the checks, and no loaded
graph has a cycle. GRUN starts a run with the record's bases and counters. GRAPH_OP_COMPLETE of an operation that is
not ready does nothing; a signal adds to its semaphore, a copy moves its bytes, a send reads its chunk at once and
keeps each packet until it is covered, a receive sends CLEAR, gathers data in order and lands all of it with the
last packet (entry 137); a finished operation lowers its successors' counters and the last one ends the run DONE; a
lost lease ends it LEASE_EXPIRED. The model's own choices in it, no rules of the manual: log entries 93, 94, 96 and
137. (R117, R211, R219, R220, R221, R222, R223, R225, R235, R375, R376, R377) -/
def Obligations.GraphsLoadRunAndEnd : Prop :=
  (∀ (s : State) (k : Nat) (c : Cur) (d a b : Reg), s.cur = some c → c.who = .script k → d.toNat < 32 → a.toNat < 31 → b.toNat < 31 → evenReg b = true →
      let sc := s.script k
      let answers := fun (i : Instr) (x : State) (n : Nat) => exec i s = .next (scriptAnswer x k d.toNat (BitVec.ofNat 32 n))
      let g := (sc.val a).toNat
      let x := s.graph g
      let va := sc.pair b
      let mine := x.ctx = sc.ctx
      (8 ≤ g → exec (.gload d a b) s = .next (endScript s k 0x04) ∧ (evenReg a = true → exec (.grun d a b) s = .next (endScript s k 0x04)) ∧
        exec (.gwait d a b) s = .next (endScript s k 0x04)) ∧
      (g < 8 →
        (x.state ≠ 0 → ¬ mine → answers (.gload d a b) s 6) ∧
        (x.state = 0 ∨ mine →
          (va.toNat % 64 ≠ 0 → ∃ y, answers (.gload d a b) y 8 ∧ (y.graph g).state = 0 ∧ (y.graph g).ops = []) ∧
          (∀ s1 s2 h l, let n := natOf (h.take 4)
            va.toNat % 64 = 0 → scriptRead s k va 64 0 = .ok s1 h → 1 ≤ n → n ≤ 4096 → scriptRead s1 k va (64 + 64 * n) 0 = .ok s2 l →
              ∃ y, answers (.gload d a b) y (graphOf l n).2 ∧ (y.graph g).ops = (graphOf l n).1 ∧
                (y.graph g).state = (if (graphOf l n).2 = 0 then 1 else 0) ∧ ((graphOf l n).2 = 0 → (y.graph g).ctx = sc.ctx) ∧
                ((s2.graph g).state = 2 → (y.graph g).status = 5))) ∧
        (evenReg a = true →
          (x.state = 0 ∨ ¬ mine → answers (.grun d a b) s 7) ∧ (x.state = 2 → mine → answers (.grun d a b) s 6) ∧
          (x.state = 1 → mine → (va.toNat % 8 ≠ 0 → exec (.grun d a b) s = .next (endScript s k 0x06)) ∧
            ∀ s1 l, va.toNat % 8 = 0 → scriptRead s k va 128 0 = .ok s1 l → ∃ y, answers (.grun d a b) y 0 ∧
              let z := y.graph g
              z.state = 2 ∧ z.status = 0 ∧ z.run = hiWord (sc.pair a) ∧ z.ndone = 0 ∧ z.ops = x.ops ∧ z.runs = x.ops.map (fun o => { deps := o.deps }) ∧
                ∀ i < 16, z.bases.getD i 0 = BitVec.ofNat 64 (natOf ((l.drop (8 * i)).take 8)))) ∧
        (x.state = 0 ∨ ¬ mine → answers (.gwait d a b) s 7) ∧
        (x.state = 1 → mine → answers (.gwait d a b) s x.status) ∧
        (x.state = 2 → mine → (sc.val b = 0 → answers (.gwait d a b) s 1) ∧
          (sc.val b ≠ 0 → exec (.gwait d a b) s = .next (s.setScript k { sc with wait := some (.graph g d), began := s.htime, timeout := sc.val b }))))) ∧
    (∀ (l : List Byte) (n : Nat), (graphOf l n).2 = 0 → (graphOf l n).1.length = n ∧ ∃ rank : Nat → Nat, ∀ i < n, ∀ j ∈ ((graphOf l n).1.getD i {}).succ,
      j < n ∧ rank i < rank j) ∧
    (∀ (s : State) (g op : Nat), let x := s.graph g
      let o := x.ops.getD op {}
      let r := x.runs.getD op {}
      let i := Instr.graphOpComplete g op
      let path := pathTo s x.ctx o.peer
      let finished := fun t : State => ((t.graph g).runs.getD op {}).done = true ∧ (t.graph g).ndone = x.ndone + 1 ∧
        (o.succ.Nodup → ∀ j ∈ o.succ, j ≠ op → j < x.runs.length → ((t.graph g).runs.getD j {}).deps = (x.runs.getD j {}).deps - 1) ∧
        ((∀ j < x.runs.length, j ∉ op :: o.succ → (x.runs.getD j {}).done = true) → (∀ j ∈ o.succ, j < x.runs.length → (x.runs.getD j {}).done = true) →
          (t.graph g).state = 1 ∧ (t.graph g).status = 0) ∧
        ((∃ j < x.runs.length, j ≠ op ∧ (x.runs.getD j {}).done = false) → (t.graph g).state = 2)
      let ready := g < 8 ∧ x.state = 2 ∧ op < x.ops.length ∧ op < x.runs.length ∧ r.done = false ∧ r.deps = 0
      (8 ≤ g ∨ x.state = 0 ∨ x.ops.length ≤ op ∨ (r.done = true ∧ (o.len ≠ 0 ∨ r.clear = true)) ∨ (r.done = false ∧ (x.state ≠ 2 ∨ r.deps ≠ 0)) → exec i s = .next s) ∧
      (ready → r.fault = none → s.hub.cxldn = [] →
        (o.kind = 5 → (∀ y ∈ s.scripts, ∀ v dec e, y.2.wait ≠ some (.semaphore (o.doff.toNat % 256) v dec e)) →
          (∀ y ∈ (s.ctx x.ctx).streams, ∀ v dec e, y.2.wait ≠ some (.semaphore (o.doff.toNat % 256) v dec e)) →
          ∃ t, exec i s = .next t ∧ finished t ∧ t.sem x.ctx (o.doff.toNat % 256) = s.sem x.ctx (o.doff.toNat % 256) + o.soff) ∧
        (o.kind = 1 ∨ o.kind = 4 → o.len = 0 → ∃ t, exec i s = .next t ∧ finished t ∧ t.mem = s.mem) ∧
        (o.kind = 4 → o.len ≠ 0 → writesBlocked x op = true → exec i s = .next s) ∧
        (o.kind = 4 → writesBlocked x op = false → o.len ≠ 0 → ∀ p q, hubReach x.ctx false s (segsOf (o.src x) o.len) = (s, .ok [(p, o.len)]) →
          hubReach x.ctx true s (segsOf (o.dst x) o.len) = (s, .ok [(q, o.len)]) →
          ∃ t, exec i s = .next t ∧ finished t ∧ ∀ j, t.byte j = if q ≤ j ∧ j < q + o.len then s.byte (p + (j - q)) else s.byte j) ∧
        (1 ≤ o.kind → o.kind ≤ 3 → o.path < 48 → o.len ≠ 0 → writesBlocked x op = false →
          ¬ ((s.port o.path).leased = true ∧ (s.port o.path).ctx = x.ctx) →
          ∃ t, exec i s = .next t ∧ (t.graph g).state = 1 ∧ (t.graph g).status = 2) ∧
        (o.kind = 1 → o.path = 0x42 → r.clear = true → hasRoute s path o.peer = true → r.bytes < o.len → onOtherPath s (graphAsker g) o.peer path 1 = false →
          let n := min 256 (o.len - r.bytes)
          let sends := fun chunk : List Byte => ∃ t, exec i s = .next t ∧ ((t.graph g).runs.getD op {}).bytes = r.bytes + n ∧ (t.graph g).state = 2 ∧
            ((t.graph g).runs.getD op {}).buf.map (·.1) = chunk ∧ t.mem = s.mem ∧
            anyBellows t (fun l q => l.chip == o.peer && q.packet.op == 1 && q.packet.ctx == x.ctx && q.packet.off == r.bytes &&
              q.packet.va == o.mtch.toNat * 2 ^ 32 + x.run.toNat && q.packet.data == (chunk.drop r.bytes).take n) = true
          (r.buf ≠ [] → sends (r.buf.map (·.1))) ∧
          ∀ p, r.buf = [] → hubReach x.ctx false s (segsOf (o.src x) o.len) = (s, .ok [(p, o.len)]) → sends (s.bytes p o.len)) ∧
        (o.kind = 1 → o.path = 0x42 → r.clear = true → o.len ≤ r.bytes → o.len ≠ 0 →
          let open_ := anyBellows s fun l q => l.chip == o.peer && q.packet.op == 1 && q.thread == graphAsker g && q.packet.va == o.mtch.toNat * 2 ^ 32 + x.run.toNat
          (open_ = true → exec i s = .next s) ∧ (open_ = false → ∃ t, exec i s = .next t ∧ finished t)) ∧
        (o.kind = 2 → o.path = 0x42 → r.clear = false → o.len ≠ 0 → hasRoute s path o.peer = true → writesBlocked x op = false →
          ∃ t, exec i s = .next t ∧ ((t.graph g).runs.getD op {}).clear = true ∧
            anyBellows t (fun l q => l.chip == o.peer && q.packet.op == 2 && q.packet.ctx == x.ctx && q.packet.va == o.mtch.toNat * 2 ^ 32 + x.run.toNat) = true))) ∧
    ∀ (s : State) (p : Packet),
      (∀ g op, pairedOp s p true = some (g, op) → op < (s.graph g).runs.length →
        ((s.graph g).state = 2 → ∃ t, exec (.gclear p) s = .next t ∧ ((t.graph g).runs.getD op {}).clear = true ∧ t.mem = s.mem) ∧
        ((s.graph g).state ≠ 2 → exec (.gclear p) s = .next s)) ∧
      (pairedOp s p true = none → exec (.gclear p) s = .next s) ∧ (pairedOp s p false = none → exec (.gdata p) s = .next s) ∧
      (∀ g op, pairedOp s p false = some (g, op) → op < (s.graph g).runs.length → s.hub.cxldn = [] →
        hasRoute s (pathTo s (s.graph g).ctx p.src) p.src = true →
        let x := s.graph g
        let o := x.ops.getD op {}
        let r := x.runs.getD op {}
        let n := p.data.length
        (r.done = true ∨ (x.state = 2 ∧ r.clear = true ∧ p.off < r.bytes) → ∃ t, exec (.gdata p) s = .next t ∧ t.graphs = s.graphs ∧ ∀ j, t.byte j = s.byte j) ∧
        (x.state = 2 → r.done = false → r.clear = true → o.kind = 2 → p.off = r.bytes → 0 < n →
          (p.off + n < o.len → ∃ t, exec (.gdata p) s = .next t ∧ t.mem = s.mem ∧ ((t.graph g).runs.getD op {}).bytes = r.bytes + n ∧
            ((t.graph g).runs.getD op {}).done = false ∧ ((t.graph g).runs.getD op {}).buf.map (·.1) = r.buf.map (·.1) ++ p.data) ∧
          ∀ q, p.off + n = o.len → r.fault = none → r.buf.length = r.bytes → hubReach x.ctx true s (segsOf (o.dst x) o.len) = (s, .ok [(q, o.len)]) →
            ∃ t, exec (.gdata p) s = .next t ∧ ((t.graph g).runs.getD op {}).bytes = o.len ∧ ((t.graph g).runs.getD op {}).done = true ∧
              ∀ j, t.byte j = if q ≤ j ∧ j < q + o.len then (r.buf.map (·.1) ++ p.data).getD (j - q) 0 else s.byte j)) ∧
      ∃ t, exec (.back p) s = .next t ∧ t.graphs = s.graphs ∧ t.mem = s.mem ∧ (∀ l ∈ s.lanes, l.chip ≠ p.src → l ∈ t.lanes) ∧
        ∀ l ∈ t.lanes, 64 ≤ l.lane → l.chip = p.src → ∀ q ∈ l.reqs, q.packet.ctx = p.ctx → q.packet.op = 1 → q.packet.va = p.va →
          p.off < q.packet.off + q.packet.data.length

/-- ROTB of a free index with a readable, well-formed record and no index of its instance starts the rotation with
its own credit; ROTE answers the status of a rotation that has ended and frees its index, waits on a running one,
and with timeout 0 cancels it, upon which the threads that wait in RACQ are ready with the status. A block's data
lands in order at its slot and no other memory changes; a packet of another generation or of no index is counted and
dropped. Credits take the maximum. RFREE_REPEAT changes no rotation; BLOCK_FORWARD keeps the packet it sends until
it is covered. RACQ gives what its wait came to, else slot, generation and origin of a block that has arrived, waits
for one that has not, and faults with its reason; RREL counts a release, once the thread's earlier accesses are
placed, or faults with its reason. The model's own choices in it, no rules of the manual: log entries 93, 95 and
137. (R211, R226, R227, R228, R229, R230, R231, R232, R234, R431, R441, R442) -/
def Obligations.RotationsTurn : Prop :=
  (∀ (s : State) (k : Nat) (c : Cur) (d a b : Reg), s.cur = some c → c.who = .script k → d.toNat < 32 → a.toNat < 32 → b.toNat < 31 → evenReg b = true →
      let sc := s.script k
      let answers := fun (x : Instr) (y : State) (n : Nat) => exec x s = .next (scriptAnswer y k d.toNat (BitVec.ofNat 32 n))
      let i := (sc.val a).toNat
      let r := s.rot i
      let va := sc.pair b
      (4 ≤ i → exec (.rotb d a b) s = .next (endScript s k 0x04) ∧ exec (.rote d a b) s = .next (endScript s k 0x04)) ∧
      (i < 4 →
        (r.state ≠ 0 → answers (.rotb d a b) s 6) ∧ (r.state = 0 → va.toNat % 64 ≠ 0 → answers (.rotb d a b) s 8) ∧
        (∀ s1 l, r.state = 0 → va.toNat % 64 = 0 → scriptRead s k va 64 0 = .ok s1 l →
          let held := ∃ j < 4, (s1.rot j).state ≠ 0 ∧ (s1.rot j).ctx = sc.ctx ∧ (s1.rot j).inst = BitVec.ofNat 32 (natOf (l.take 4))
          (held → answers (.rotb d a b) s1 6) ∧ (¬ held → parseRot l = none → answers (.rotb d a b) s1 8) ∧
          (∀ q, ¬ held → parseRot l = some q → hasRoute s1 (pathTo s1 sc.ctx q.prevc) q.prevc = true →
            ∃ y, answers (.rotb d a b) y 0 ∧ (y.rot i).state = 1 ∧ (y.rot i).ctx = sc.ctx ∧ (y.rot i).inst = q.inst ∧ (y.rot i).ring = q.ring ∧
              (y.rot i).slots = q.slots ∧ (y.rot i).own = q.slots ∧ (y.rot i).got = [] ∧ (y.rot i).rels = [] ∧ (y.rot i).rdrpi = (s1.rot i).rdrpi)) ∧
        (r.state = 0 ∨ r.ctx ≠ sc.ctx → answers (.rote d a b) s 7) ∧
        (r.state ≠ 0 → r.state ≠ 1 → r.ctx = sc.ctx → ∃ y, answers (.rote d a b) y r.status ∧ (y.rot i).state = 0 ∧ (y.rot i).rdrpi = r.rdrpi) ∧
        (r.state = 1 → r.ctx = sc.ctx → sc.val b ≠ 0 →
          exec (.rote d a b) s = .next (s.setScript k { sc with wait := some (.rotation i d), began := s.htime, timeout := sc.val b })) ∧
        (r.state = 1 → r.ctx = sc.ctx → sc.val b = 0 → (∀ y ∈ s.scripts, ∀ j e, y.2.wait ≠ some (.rotation j e)) → d.toNat < sc.regs.length →
          ∃ y, exec (.rote d a b) s = .next y ∧ (y.rot i).state = 0 ∧ (y.script k).val d = 5 ∧ (y.script k).wait = none ∧
            ∀ v n, s.hasThread v = true → (s.thread v).status = .waiting (.racq i r.inst n) → (s.launchOfThread (s.thread v)).ctx = r.ctx → n.toNat < r.ring →
              (y.thread v).status = .ready ∧ (y.thread v).reply = some ⟨bytesOf (5 * 256) 4 ++ bytesOf 0 4, false, 0, 0⟩))) ∧
    (∀ (l : List Byte) (q : Rotation), parseRot l = some q → 2 ≤ q.ring ∧ q.ring ≤ 4096 ∧ 2 ≤ q.slots ∧ q.slots ≤ 16 ∧ 1 ≤ q.cons ∧ 1 ≤ q.blk ∧
      q.blk ≤ 16384 ∧ q.base.toNat % 4096 = 0 ∧ q.posn < q.ring ∧ q.inst = BitVec.ofNat 32 (natOf (l.take 4))) ∧
    (∀ (s : State) (p : Packet), (∀ y ∈ s.scripts, ∀ j e, y.2.wait ≠ some (.rotation j e)) →
      (rotIndex s p = none → ∃ t u, exec (.rdata p) s = .next t ∧ exec (.rfree p) s = .next u ∧ t.mem = s.mem ∧ u.mem = s.mem ∧
        ∀ i < 4, (s.rot i).state ≠ 0 → (s.rot i).ctx = p.ctx → (t.rot i).rdrpi = (s.rot i).rdrpi + 1 ∧ (u.rot i).rdrpi = (s.rot i).rdrpi + 1) ∧
      ∀ i, rotIndex s p = some i →
        let r := s.rot i
        let k := vaLo p % 65536
        let n := p.data.length
        (r.gen ≠ vaLo p / 65536 → exec (.rdata p) s = .next (s.setRot i { r with rdrpg := r.rdrpg + 1 })) ∧
        (r.state = 1 → exec (.rfree p) s = .next (s.setRot i { r with fnxt := max r.fnxt (vaLo p) })) ∧
        (∀ q, r.gen = vaLo p / 65536 → r.state = 1 → 0 < k → k < r.ring → k < r.own → p.off = tget 0 r.got k → 0 < n → p.off + n ≤ r.bytes → r.fault = none →
          s.hub.cxldn = [] → hubReach r.ctx true s (segsOf (r.slotVa k + BitVec.ofNat 64 p.off) n) = (s, .ok [(q, n)]) →
          ∃ t, exec (.rdata p) s = .next t ∧ tget 0 (t.rot i).got k = p.off + n ∧ tget 0 (t.rot i).orig k = p.src ∧
            ∀ j, t.byte j = if q ≤ j ∧ j < q + n then p.data.getD (j - q) 0 else s.byte j)) ∧
    (∀ (s : State), (∀ i < 4, (s.rot i).state = 1 → hasRoute s (pathTo s (s.rot i).ctx (s.rot i).prevc) (s.rot i).prevc = true) →
      ∃ t, exec .rfreeRepeat s = .next t ∧ t.mem = s.mem ∧ ∀ i, t.rot i = s.rot i) ∧
    (∀ (s : State) (i : Nat), (∀ y ∈ s.scripts, ∀ j e, y.2.wait ≠ some (.rotation j e)) → (s.rot i).pend = [] →
      let r := s.rot i
      let k := r.fwd
      let n := min 256 (r.bytes - r.fsent)
      let path := pathTo s r.ctx r.nextc
      let due := i < 4 ∧ r.state = 1 ∧ k + 1 < r.ring ∧ r.arrived k = true ∧ k + 1 < r.fnxt
      (¬ due → exec (.blockForward i) s = .next s) ∧
      (due → r.fault = none → r.npath < 48 → ¬ ((s.port r.npath).leased = true ∧ (s.port r.npath).ctx = r.ctx) →
        ∃ t, exec (.blockForward i) s = .next t ∧ (t.rot i).state = 3 ∧ (t.rot i).status = 2) ∧
      (∀ q, due → r.fault = none → r.npath = 0x42 → hasRoute s path r.nextc = true → onOtherPath s (rotAsker s i) r.nextc path 3 = false →
        hubReach r.ctx false s (segsOf (r.slotVa k + BitVec.ofNat 64 r.fsent) n) = (s, .ok [(q, n)]) → r.fsent + n < r.bytes →
        ∃ t, exec (.blockForward i) s = .next t ∧ t.mem = s.mem ∧ (t.rot i).fsent = r.fsent + n ∧ (t.rot i).fwd = k ∧
          anyBellows t (fun l x => l.chip == r.nextc && x.packet.op == 3 && x.packet.ctx == r.ctx && x.packet.off == r.fsent &&
            x.packet.va == r.inst.toNat * 2 ^ 32 + (r.gen * 65536 + k + 1) && x.packet.data == (List.range n).map fun j => s.byte (q + j)) = true) ∧
      (∀ q, due → r.fault = none → r.npath = 0x42 → hasRoute s path r.nextc = true → onOtherPath s (rotAsker s i) r.nextc path 3 = false →
        hubReach r.ctx false s (segsOf (r.slotVa k + BitVec.ofNat 64 r.fsent) n) = (s, .ok [(q, n)]) → r.bytes ≤ r.fsent + n →
        ∃ t, exec (.blockForward i) s = .next t ∧ t.mem = s.mem ∧ (t.rot i).fwd = k + 1 ∧ (t.rot i).fsent = 0)) ∧
    ∀ (s : State) (u : Nat) (c : Cur) (th : Thread) (d a b : Reg) (is : Issue), Runs s u c th → CounterFree th is → is.ok = true → evenReg a = true → evenReg d = true →
      Readable th (pairRegs a ++ [b.toNat]) → Exist th (pairRegs d) →
      let i := (th.val a).toNat % 4
      let inst := hiWord (th.pair a)
      let k := (th.val b).toNat
      let r := s.rot i
      let own := r.ctx = (s.launchOfThread th).ctx
      let faults := fun (x : Instr) (reason : Nat) => Traps s u th x 0x0D c.addr (BitVec.ofNat 32 (i * 16 + reason)) c.addr
      let gives := fun w0 w1 => ∃ t, exec (.racq d a b is) s = .next t ∧ Advanced s t u c (th.issues c is [(d.toNat, w0), (d.toNat + 1, w1)] 0)
      let waits := ∃ t, exec (.racq d a b is) s = .next t ∧ OnlyThread s t u ∧ (t.thread u).unstamped =
        { th.raised (some is) with status := .waiting (.racq i inst (th.val b)), hold := none, part := none, polls := false }.unstamped
      (∀ v, th.reply = some v → (v.cause = 0 → gives (BitVec.ofNat 32 (natOf (v.data.take 4))) (BitVec.ofNat 32 (natOf (v.data.drop 4)))) ∧
        (v.cause ≠ 0 → faults (.racq d a b is) v.cause)) ∧
      (r.state ≠ 0 → ¬ own → faults (.rrel a b is) 5) ∧
      (th.reply = none → r.state = 0 → waits) ∧
      (th.reply = none → r.state ≠ 0 → (¬ own → faults (.racq d a b is) 5) ∧
        (own → (r.inst ≠ inst → waits) ∧
          (r.inst = inst → (r.ring ≤ k → faults (.racq d a b is) 1) ∧
            (k < r.ring →
              (r.state = 3 → gives (BitVec.ofNat 32 (r.status * 256)) 0) ∧
              (r.state ≠ 3 → (r.freed k = true → faults (.racq d a b is) 2) ∧ (r.arrived k = false → waits) ∧
                (r.freed k = false → r.arrived k = true →
                  gives (BitVec.ofNat 32 (r.gen * 65536 + k % r.slots)) (BitVec.ofNat 32 (tget 0 r.orig k)))))))) ∧
      (r.state = 0 ∨ own → r.state ≠ 1 ∨ r.inst ≠ inst → ∃ t, exec (.rrel a b is) s = .next t ∧ Advanced s t u c th) ∧
      (r.state = 1 → own → r.inst = inst → (r.ring ≤ k → faults (.rrel a b is) 1) ∧
        (k < r.ring → (r.arrived k = false → faults (.rrel a b is) 3) ∧
          (r.arrived k = true → (r.cons ≤ tget 0 r.rels k → faults (.rrel a b is) 4) ∧
            (tget 0 r.rels k < r.cons → unplaced s th = true → ∃ t, exec (.rrel a b is) s = .next t ∧ OnlyThread s t u ∧
              (t.thread u).unstamped = { th.raised (some is) with hold := some .aside }.unstamped) ∧
            (tget 0 r.rels k < r.cons → unplaced s th = false → (∀ y ∈ s.scripts, ∀ j e, y.2.wait ≠ some (.rotation j e)) →
              ∃ t, exec (.rrel a b is) s = .next t ∧ (t.thread u).unstamped = (th.goneOn c).unstamped ∧ t.mem = s.mem ∧
                tget 0 (t.rot i).rels k = tget 0 r.rels k + 1))))

/-- A completed packet queues its record, and its stream goes on and waits for the record; a failed one queues its
record with the status, writes ERR and clears EN in memory, or has that write wait where the hub's writes wait
(entry 139), and stops the stream; an ill-formed one is bad-encoding; core threads and scripts have no packets.
JMARK, IB, IBRET, LOOP, ENDL, FFENCE, PREDW, MWRI, TSW, SEMS, SEMW, BSTRT, PIN, UNPIN and both BIAS packets do what
their rules say on aligned canonical operands within the nesting limits, and give nesting, memory, misaligned, pin-
failed and bias errors else; TSW stores HTIME as it was when the packet started; PREDW also tests the words of the
blocks the Hearth reads. LAUNCH of a record that passes every check queues the launch with the lower priority of
record and stream; a failed check gives its status. BIAS_FLIP_COMPLETE sets the frames' bits; its packet, as one
that a semaphore wakes, completes once the journal has room (entry 101). The model's own choices in it, no rules of
the manual: log entries 101, 105, 106, 107 and 139. (R108, R245, R248, R249, R253, R335, R342, R415, R424, R429,
R448, R449) -/
def Obligations.HearthPacketsComplete : Prop :=
  (∀ (s : State) (c n detail st : Nat) (go : Stream → Stream) (a nx : DWord) (op : Nat), (s.stream c n).pkt = some (a, nx, op) →
      let rec_ : JRec := { seq := (s.ctx c).seq, addr := a, kind := 0, stream := n, level := (s.stream c n).bufs.length - 1, opc := op, detail := detail, status := st, time := s.htime, sem := none }
      (let t := packetDoneTo s c n detail st go;
        t.stream c n = { go (s.stream c n) with wait := some .journal, began := none } ∧ (t.ctx c).jqueue = (s.ctx c).jqueue ++ [rec_] ∧ (t.ctx c).seq = (s.ctx c).seq + 1 ∧
          t.mem = s.mem ∧ t.threads = s.threads ∧ ∀ x, x ≠ c → t.ctx x = s.ctx x) ∧
      (s.hub.cxldn = [] → st < 65536 → let t := packetError s c n st
        let e := (s.ctx c).stab % 2 ^ 47 + 32 * n;
        (t.stream c n).en = false ∧ (t.stream c n).wait = none ∧ t.noted = s.noted ∧ (t.ctx c).jqueue = (s.ctx c).jqueue ++ [{ rec_ with detail := 0 }] ∧
          (quietAt s e 32 = false → t.mem = s.mem ∧ t.hubq = s.hubq ++ [.stop e st]) ∧
          (quietAt s e 32 = true → ∀ k, t.byte k = if k = e + 14 then BitVec.ofNat 8 st else if k = e + 15 then BitVec.ofNat 8 (st / 256)
            else if k = e + 11 then s.byte k &&& 0x7F else s.byte k))) ∧
    (∀ (s : State) (c : Cur) (i : Instr) (mark : BitVec 16) (a b : DWord) (w : Word) (k : Byte) (j : BitVec 2) (cc : BitVec 3) (p : Bool), s.cur = some c →
      i ∈ [.jmark mark, .ib a, .ibret, .loop w, .endl, .predw cc mark a w, .ffence, .mwri p a b, .tsw a, .hearthSems k b, .hearthSemw p k b, .bstrt j a b,
        .pin a b, .unpin a b, .biasDev a b, .biasHost a b, .launch a] →
      (∀ u, c.who = .thread u → (s.thread u).scout = none → exec i s = .next (takeTrap s u 0x01 c.addr c.word c.addr)) ∧
      (∀ q, c.who = .script q → exec i s = .next (endScript s q 0x01)) ∧
      (∀ x n, c.who = .stream x n → Instr.wf i = false → exec i s = .next (packetError s x n 0x0001))) ∧
    (∀ (s : State) (c n : Nat) (cur : Cur), s.cur = some cur → cur.who = .stream c n →
      let st := s.stream c n
      let goes := fun (i : Instr) (x : State) (detail : Nat) (go : Stream → Stream) => exec i s = .next (packetDoneTo x c n detail 0 go)
      let done := fun (i : Instr) (x : State) => goes i x 0 Stream.advance
      let fails := fun (i : Instr) (e : Nat) => exec i s = .next (packetError s c n e)
      let waits := fun (i : Instr) (w : StreamWait) => ∃ t, exec i s = .next t ∧ t.stream c n = { st with wait := some w } ∧ t.mem = s.mem
      let hits := fun (va : DWord) (size : Nat) (write : Bool) (off : Nat) => ∃ phys, translateNow s 0 c va write = (s, .ok phys) ∧ spotOf s phys = some (.mem off) ∧
        agentWaits s off size write = (s, false) ∧ s.hub.cxldn = []
      let stored := fun (x : State) (off size : Nat) (v : DWord) => x.ctxs = s.ctxs ∧ ∀ k, x.byte k = if off ≤ k ∧ k < off + size then (bytesOf v.toNat size).getD (k - off) 0 else s.byte k
      let idle := fun (k : Nat) => (∀ y ∈ s.scripts, ∀ v dec e, y.2.wait ≠ some (.semaphore k v dec e)) ∧ ∀ y ∈ (s.ctx c).streams, ∀ v dec e, y.2.wait ≠ some (.semaphore k v dec e)
      let depth := (st.bufs.map fun b => b.loops.length).sum
      (∀ mark : BitVec 16, goes (.jmark mark) s mark.toNat Stream.advance) ∧
      (∀ a : DWord, (a.toNat % 4 ≠ 0 → fails (.ib a) 0x05) ∧ (a.toNat % 4 = 0 → canonical a = false → fails (.ib a) 0x04) ∧
        (a.toNat % 4 = 0 → canonical a = true → 5 ≤ st.bufs.length → fails (.ib a) 0x03) ∧
        (a.toNat % 4 = 0 → canonical a = true → st.bufs.length < 5 → goes (.ib a) s 0 fun x => { x with bufs := { clause := a } :: x.bufs })) ∧
      (∀ b b2 rest, st.bufs = b :: b2 :: rest → (b.loops ≠ [] → fails .ibret 0x03) ∧ (b.loops = [] → goes .ibret s 0 fun x => ({ x with bufs := b2 :: rest } : Stream).advance)) ∧
      (st.bufs.length ≤ 1 → fails .ibret 0x03) ∧
      (∀ w : Word, (4 ≤ depth → fails (.loop w) 0x03) ∧ (depth < 4 → (w = 0 → goes (.loop w) s 0 fun x => { x.advance with skip := some ⟨none, 0⟩ }) ∧
        (w ≠ 0 → goes (.loop w) s 0 fun x => x.advance.mapBuf fun b => { b with loops := ⟨b.clause, w.toNat, 0⟩ :: b.loops }))) ∧
      (∀ b rest, st.bufs = b :: rest → (b.loops = [] → fails .endl 0x03) ∧
        ∀ l ls, b.loops = l :: ls → (l.count ≤ l.done + 1 → goes .endl s 0 fun x => x.advance.mapBuf fun y => { y with loops := ls }) ∧
          (l.done + 1 < l.count → goes .endl s 0 fun x => (x.retireClause.atClause l.body).mapBuf fun y => { y with fetched := [], loops := { l with done := l.done + 1 } :: ls })) ∧
      goes .ffence s 0 (fun x => { x.advance with bufs := x.advance.bufs.map fun b => { b with fetched := [] } }) ∧
      (∀ (cc : BitVec 3) (mark : BitVec 16) (a : DWord) (v : Word), cc.toNat ≤ 5 → let i := Instr.predw cc mark a v;
        let holds := fun w : Word => match cc.toNat with | 0 => w = v | 1 => w ≠ v | 2 => w.toNat < v.toNat | 3 => v.toNat ≤ w.toNat | 4 => w.toInt < v.toInt | _ => v.toInt ≤ w.toInt
        let tests := fun w : Word => (holds w → done i s) ∧ (¬ holds w → goes i s 1 fun x => { x.advance with skip := some ⟨some mark, 0⟩ })
        (a.toNat % 4 ≠ 0 → fails i 0x05) ∧ (a.toNat % 4 = 0 → canonical a = false → fails i 0x04) ∧
        (∀ off, a.toNat % 4 = 0 → canonical a = true → hits a 4 false off → s.anyPoison off 4 = false → tests (BitVec.ofNat 32 (s.num off 4))) ∧
        (∀ phys o, a.toNat % 4 = 0 → canonical a = true → translateNow s 0 c a false = (s, .ok phys) →
          (∀ b ∈ [Block.translation, .ports, .fabric, .bellows, .telemetry], spotOf s phys = some (.block b o) → tests (blockWord s b o)) ∧
          (∀ b ∈ [Block.sems, .scout, .hearth, .checks, .link, .mgmt], spotOf s phys = some (.block b o) → fails i 0x04)) ∧
        (∀ s1 kind level, a.toNat % 4 = 0 → canonical a = true → translateNow s 0 c a false = (s1, .fault kind level) →
          ∃ t, exec i s = .next t ∧ (t.stream c n).wait = some (.fault (faultPage a)) ∧ (faultOf t c (faultPage a)).isSome = true)) ∧
      (∀ (wide : Bool) (a v : DWord), wide = true ∨ v.toNat < 2 ^ 32 → let i := Instr.mwri wide a v;
        let size := if wide then 8 else 4
        (a.toNat % size ≠ 0 → fails i 0x05) ∧ (a.toNat % size = 0 → canonical a = false → fails i 0x04) ∧
        (∀ off, a.toNat % size = 0 → canonical a = true → hits a size true off → ∃ x, done i x ∧ stored x off size v) ∧
        (∀ phys o, wide = true → a.toNat % 8 = 0 → canonical a = true → translateNow s 0 c a true = (s, .ok phys) → spotOf s phys = some (.block .sems o) →
          exec i s = .next (semWrite (packetDone s c n 0 0) (o / 0x10000) (o % 0x10000 / 8) v))) ∧
      (∀ (a : DWord) (off : Nat), (a.toNat % 8 ≠ 0 → fails (.tsw a) 0x05) ∧
        (a.toNat % 8 = 0 → canonical a = true → hits a 8 true off → ∃ x, done (.tsw a) x ∧ stored x off 8 (BitVec.ofNat 64 (st.began.getD s.htime)))) ∧
      (∀ (k : Byte) (v : DWord), (idle k.toNat → ∃ t, exec (.hearthSems k v) s = .next t ∧ t.sem c k.toNat = s.sem c k.toNat + v ∧ (t.stream c n).wait = some .journal) ∧
        (∀ (m : Nat) (x y : Stream) (v2 : DWord) (dec : Bool) (since : Nat), (s.ctx c).streams = [(m, x), (n, y)] → m < n → x.wait = some (.semaphore k.toNat v2 dec since) →
          v2 ≤ s.sem c k.toNat + v → (∀ z ∈ s.scripts, ∀ v dec e, z.2.wait ≠ some (.semaphore k.toNat v dec e)) →
          let room := streamRoom (packetDone s c n 0 0) c
          ∃ t, exec (.hearthSems k v) s = .next t ∧ (t.stream c m).wait = some (if room then .journal else .held) ∧
            t.sem c k.toNat = s.sem c k.toNat + v - (if room ∧ dec then v2 else 0)) ∧
        (∀ dec, (v ≤ s.sem c k.toNat → done (.hearthSemw dec k v) (if dec then s.setSem c k.toNat (s.sem c k.toNat - v) else s)) ∧
          (s.sem c k.toNat < v → waits (.hearthSemw dec k v) (.semaphore k.toNat v dec s.nextUid)))) ∧
      (∀ (k : BitVec 2) (pc arg : DWord), (pc.toNat % 4 ≠ 0 → fails (.bstrt k pc arg) 0x05) ∧
        (pc.toNat % 4 = 0 → ((s.script k.toNat).running = true → waits (.bstrt k pc arg) (.script k.toNat pc arg)) ∧
          ((s.script k.toNat).running = false → ∃ x, done (.bstrt k pc arg) x ∧ x.ctxs = s.ctxs ∧ (x.script k.toNat).running = true ∧ (x.script k.toNat).ctx = c ∧
            (x.script k.toNat).pc = pc ∧ (x.script k.toNat).regs = loWord arg :: hiWord arg :: List.replicate 30 0))) ∧
      (∀ va len : DWord, let odd := va.toNat % 65536 ≠ 0 ∨ len.toNat % 65536 ≠ 0;
        (odd → fails (.pin va len) 0x05 ∧ fails (.unpin va len) 0x05 ∧ fails (.biasDev va len) 0x05 ∧ fails (.biasHost va len) 0x05) ∧
        (¬ odd → (len = 0 → done (.pin va len) s ∧ done (.unpin va len) s) ∧
          (∀ l, len ≠ 0 → pinPages s c (va.toNat + len.toNat - 1) (len.toNat / 65536) va.toNat = .ok l → (l.foldl pinOne s.pinned).length ≤ 65536 →
            done (.pin va len) { s with pinned := l.foldl pinOne s.pinned } ∧ ∀ y ∈ l, ∃ z ∈ l.foldl pinOne s.pinned, Xlate.same y z = true) ∧
          (len ≠ 0 → pinPages s c (va.toNat + len.toNat - 1) (len.toNat / 65536) va.toNat = .error none → fails (.pin va len) 0x0E) ∧
          (∀ l, len ≠ 0 → pinPages s c (va.toNat + len.toNat - 1) (len.toNat / 65536) va.toNat = .ok l → 65536 < (l.foldl pinOne s.pinned).length → fails (.pin va len) 0x0E) ∧
          (len ≠ 0 → done (.unpin va len) { s with pinned := s.pinned.filterMap fun x =>
            if x.ctx = c ∧ (pageVa (x.va / 65536)).toNat < va.toNat + len.toNat ∧ va.toNat < (pageVa (x.va / 65536)).toNat + 2 ^ pageBits x.level then
              (if x.pins ≤ 1 then none else some { x with pins := x.pins - 1 }) else some x }) ∧
          ∀ (toHost : Bool) (l : List Nat), let i := if toHost then Instr.biasHost va len else .biasDev va len;
            biasFrames c n s ((List.range (len.toNat / 65536)).map fun k => va + BitVec.ofNat 64 (65536 * k)) = (s, some l) →
            ((∀ g ∈ l, nmem s.bias g = toHost ∧ ∀ f ∈ s.flips, g ∉ f.frames) → done i s) ∧
            ((∃ g ∈ l, nmem s.bias g ≠ toHost ∨ ∃ f ∈ s.flips, g ∈ f.frames) → ∃ t, exec i s = .next t ∧ (t.stream c n).wait = some .flip ∧ t.flips.length = s.flips.length + 1 ∧
              t.bias = s.bias ∧ t.mem = s.mem))) ∧
      ∀ rcd : DWord, let i := Instr.launch rcd;
        (rcd.toNat % 64 ≠ 0 → fails i 0x05) ∧ (rcd.toNat % 64 = 0 → canonical rcd = false → fails i 0x04) ∧
        (rcd.toNat % 64 = 0 → canonical rcd = true → launchWaits s c = true → waits i .launch) ∧
        ∀ b, rcd.toNat % 64 = 0 → canonical rcd = true → launchWaits s c = false → streamRead s c n rcd 256 0 = .ok s b →
          let r := (parseLaunch b).1
          let e := launchStatus s r (parseLaunch b).2
          (e ≠ 0 → fails i e) ∧
          (e = 0 → r.x * r.y * r.z ≠ 0 → ∃ t l, exec i s = .next t ∧ t.launches = s.launches ++ [l] ∧ l.rcd = r ∧ l.ctx = c ∧ l.stream = n ∧ l.seq = (s.ctx c).seq ∧
            l.prio = min r.prio st.prio ∧ l.next = 0 ∧ (t.stream c n).wait = some .journal ∧ t.mem = s.mem)) ∧
    (∀ (s : State) (r : LaunchRec) (clear : Bool), launchStatus s r clear = 0 → clear = true ∧ r.entry.toNat % 4 = 0 ∧ r.wcode ≠ 3 ∧ r.nreg % 8 = 0 ∧ 8 ≤ r.nreg ∧ r.nreg ≤ 128 ∧
      1 ≤ r.groups ∧ r.groups ≤ 64 ∧ r.nbar ≤ 16 ∧ r.nconv ≤ 8 ∧ r.cgrp < r.groups ∧ r.pb1 ≤ r.pb2 ∧ r.pb2 ≤ r.pb3 ∧ r.pb3 ≤ 192 ∧ (r.pb2 - r.pb1) % 4 = 0 ∧ (r.dup = true → r.pair = true)) ∧
    ∀ (s : State), (s.flips = [] → exec .biasFlipComplete s = .next s) ∧
      ∀ f, s.flips = [f] → (flipClear s f = false → exec .biasFlipComplete s = .next s) ∧
        (flipClear s f = true → ∃ t, exec .biasFlipComplete s = .next t ∧ t.flips = [] ∧ t.mem = s.mem ∧ (∀ g, nmem t.bias g = if g ∈ f.frames then f.toHost else nmem s.bias g) ∧
          ((s.stream f.ctx f.stream).wait = some .flip → (t.stream f.ctx f.stream).wait = some (if streamRoom s f.ctx then .journal else .held)) ∧
          ((s.stream f.ctx f.stream).wait ≠ some .flip → t.ctxs = s.ctxs))

/-- CONTEXT_ENABLE of a disabled context, not in recovery, reads its record, once nothing holds it (entry 139):
unreadable is ERR 1, out of order ERR 2, else it is active with the record's fields; CONTEXT_DISABLE leaves it
inactive with no streams. Each observes the oldest unobserved store to EN or TAIL: STREAM_ENABLE of a fresh stream
with a valid entry starts it at HEAD, a bad base or size fails it, a stopped one resumes with its fetched words and
headers discarded; STREAM_STOP stops it; TAIL_OBSERVE takes a tail in range and marks any other. LABRT_WRITE aborts
the launch it names, which ends at once where no thread is in a clause and no operation computes; SVRPL_WRITE wakes
the parked thread that its bits 15:0 name with the eight reply words. JOURNAL_RECORD_WRITE with room and its places
free writes the oldest record at its slot and the new count. The model's own choices in it, no rules of the manual:
log entries 101, 108, 109, 110 and 139. (R237, R238, R239, R240, R249, R252, R253, R254) -/
def Obligations.ContextsStreamsAndJournal : Prop :=
  (∀ (s : State) (c n : Nat), let x := s.ctx c
      let st := s.stream c n
      let e := x.stab % 2 ^ 47 + 32 * n
      let word := s.num (e + 8) 4
      let tail := s.num (e + 16) 8
      let next := nextNoted s c n
      let s1 := { s with noted := s.noted.eraseP fun y => y.1 == c && y.2.1 == n }
      let free := placesWait s [(e, 32)] false = (s, false)
      let base := BitVec.ofNat 64 (s.num e 8)
      let head := s.num (e + 24) 8
      let size := word % 32
      let reserved := word / 2 ^ 5 % 2 ^ 19 ≠ 0 ∨ word / 2 ^ 26 % 2 ^ 5 ≠ 0 ∨ s.num (e + 12) 2 ≠ 0
      ((∀ v, next ≠ some (1, v)) → exec (.tailObserve c n) s = .next s) ∧
      (∀ v, next = some (1, v) → (st.en = false ∨ st.badTail = true → exec (.tailObserve c n) s = .next s1) ∧
        (st.en = true → st.badTail = false →
          (st.tail ≤ v → v ≤ st.head + 2 ^ st.lsize → exec (.tailObserve c n) s = .next (s1.setStream c n { st with tail := v })) ∧
          (v < st.tail ∨ st.head + 2 ^ st.lsize < v → ∃ t, exec (.tailObserve c n) s = .next t ∧ (t.stream c n).badTail = true ∧
            (t.stream c n).tail = st.tail ∧ t.mem = s.mem))) ∧
      (next ≠ some (0, 1) → exec (.streamEnable c n) s = .next s) ∧
      (next = some (0, 1) → free → x.active = false ∨ st.en = true → exec (.streamEnable c n) s = .next s1) ∧
      (next = some (0, 1) → free → x.active = true → st.en = false →
        let s2 := { s1 with noted := s1.noted.filter fun y => !(y.1 == c && y.2.1 == n && y.2.2.1 == 1) }
        (st.fresh = false → ∃ t, exec (.streamEnable c n) s = .next t ∧ (t.stream c n).en = true ∧ (t.stream c n).head = st.head ∧
          (t.stream c n).prio = word / 2 ^ 24 % 4 ∧ (∀ b ∈ (t.stream c n).bufs, b.fetched = [] ∧ b.hdr = none) ∧ t.noted = s2.noted ∧ t.mem = s.mem) ∧
        (st.fresh = true → base.toNat % 4096 ≠ 0 → exec (.streamEnable c n) s = .next (streamError s2 c n 0 0 base 0 0x05)) ∧
        (st.fresh = true → base.toNat % 4096 = 0 → size < 10 ∨ 24 < size ∨ reserved → exec (.streamEnable c n) s = .next (streamError s2 c n 0 0 base 0 0x06)) ∧
        (st.fresh = true → base.toNat % 4096 = 0 → 10 ≤ size → size ≤ 24 → ¬ reserved → ∃ t, exec (.streamEnable c n) s = .next t ∧ t.mem = s.mem ∧
          let y := t.stream c n
          y.en = true ∧ y.fresh = false ∧ y.base = base ∧ y.lsize = size ∧ y.prio = word / 2 ^ 24 % 4 ∧ y.head = head ∧ y.bufs = [{ clause := BitVec.ofNat 64 head }] ∧
            (head ≤ tail → tail ≤ head + 2 ^ size → y.tail = tail ∧ y.badTail = false) ∧ (tail < head ∨ head + 2 ^ size < tail → y.tail = head ∧ y.badTail = true))) ∧
      (next ≠ some (0, 0) → exec (.streamStop c n) s = .next s) ∧ (next = some (0, 0) → st.en = false → exec (.streamStop c n) s = .next s1) ∧
      (next = some (0, 0) → st.en = true → ∃ t, exec (.streamStop c n) s = .next t ∧ (t.stream c n).en = false ∧ (t.stream c n).head = st.head ∧
        (t.stream c n).bufs = st.bufs ∧ t.mem = s.mem)) ∧
    (∀ (s : State) (c : Nat), c < 16 → let x := s.ctx c
      let rec_ := x.cxrec.toNat * 16
      let readable := inMemory s rec_ 128 false = true ∧ s.anyPoison (offOf rec_) 128 = false ∧ s.hub.cxldn = []
      let p := parseContext s x (s.bytes (offOf rec_) 128)
      let can := x.en = false ∧ s.hub.stage = 3 ∧ HubDue.enable c ∉ s.hubq
      let now := can ∧ enableWaits s c = (s, false)
      (¬ can → exec (.contextEnable c) s = .next s) ∧
      (can → (enableWaits s c).2 = true → ∃ t, exec (.contextEnable c) s = .next t ∧ t.hubq = s.hubq ++ [.enable c] ∧ t.ctxs = s.ctxs ∧ t.mem = s.mem) ∧
      (can → s.hub.cxldn = [] → inMemory s rec_ 128 false = false ∨ s.anyPoison (offOf rec_) 128 = true → exec (.contextEnable c) s = .next (s.setCtx c { x with en := true, err := 1 })) ∧
      (now → readable → rec_ % 64 ≠ 0 ∨ p.2 = false → exec (.contextEnable c) s = .next (s.setCtx c { x with en := true, err := 2 })) ∧
      (now → readable → rec_ % 64 = 0 → p.2 = true → ∃ t, exec (.contextEnable c) s = .next t ∧ (t.ctx c).en = true ∧ (t.ctx c).active = true ∧ (t.ctx c).err = 0 ∧
        (t.ctx c).root = s.num (offOf rec_ + 8) 8 * 16 ∧ (t.ctx c).frbase = s.num (offOf rec_ + 16) 8 * 16 ∧ (t.ctx c).jbase = s.num (offOf rec_ + 0x20) 8 * 16 ∧
        (t.ctx c).stab = s.num (offOf rec_ + 0x30) 8 * 16 ∧ (t.ctx c).save = s.num (offOf rec_ + 0x48) 8 * 16 ∧ ∀ y, y ≠ c → t.ctx y = s.ctx y) ∧
      (x.en = false → exec (.contextDisable c) s = .next { s with hubq := s.hubq.filter (· != .enable c) }) ∧
      (x.en = true → ∃ t, exec (.contextDisable c) s = .next t ∧ (t.ctx c).en = false ∧ (t.ctx c).active = false ∧ (t.ctx c).streams = [] ∧ t.threads = s.threads ∧
        t.launches = s.launches ∧ ∀ y, y ≠ c → t.ctx y = s.ctx y) ∧
      (∀ v, launchNamed s c v = none → exec (.labrtWrite c v) s = .next (s.setCtx c { x with labrt := v })) ∧
      (∀ v l, launchNamed s c v = some l → ∃ t, exec (.labrtWrite c v) s = .next t ∧ (∀ y ∈ t.launches, y.uid = l.uid → y.abort ≠ none) ∧
        ((∀ y ∈ s.launches, y.uid = l.uid → y.abort = none) → (s.threads.map (·.uid)).Nodup → (∀ y ∈ s.threads, (s.team y.team).launch = l.uid → y.inClause = false) →
          (∀ y ∈ s.cores, y.2.anvil = []) → ∀ y ∈ t.launches, y.uid ≠ l.uid)) ∧
      (∀ v, launchNamed s c (hiWord v) = none → exec (.svrplWrite c v) s = .next (s.setCtx c { x with svrpl := v &&& 0xFFFFFFFF0000FFFF })) ∧
      ∀ v u off, let s0 := s.setCtx c { x with svrpl := v &&& 0xFFFFFFFF0000FFFF }
        let th := s.thread u
        let l := s.launchOfThread th
        let i := v.toNat % 2 ^ 16
        launchNamed s c (hiWord v) = some l → l.abort = none → s.hasThread u = true → th.status = .parked (some i) → th.hold = none → (s.team th.team).launch = l.uid →
        (∀ y ∈ s.threads, y.status = .parked (some i) → (s.team y.team).launch = l.uid → y.uid = u) → (s.team th.team).place = .resident →
        hubReach l.ctx false s0 (segsOf (serviceAt l.rcd i + 0x20) 32) = (s0, .ok [(off, 32)]) → s.anyPoison off 32 = false → s.hub.cxldn = [] →
        ∃ t, exec (.svrplWrite c v) s = .next t ∧ (t.thread u).status = .ready ∧ (t.thread u).hold = none ∧ (t.thread u).pc = th.pc ∧ t.mem = s.mem ∧
          (∀ k < 8, 1 + k < th.regs.length → th.pois.length = th.regs.length → (t.thread u).reg (1 + k) = (BitVec.ofNat 32 (s.num (off + 4 * k) 4), false)) ∧
          ∀ r, r = 0 ∨ 8 < r → (t.thread u).reg r = th.reg r) ∧
    ∀ (s : State) (c : Nat), let x := s.ctx c
      let base := x.jbase % 2 ^ 47
      (x.jqueue = [] ∨ journalRoom s c = false → exec (.journalRecordWrite c) s = .next s) ∧
      ∀ r rest, x.jqueue = r :: rest → journalRoom s c = true → s.hub.cxldn = [] → r.sem = none →
        let n := r.seq % 2 ^ 64
        let slot := base + 32 * (n % 2 ^ x.jlog)
        let counts := base + 32 * 2 ^ x.jlog
        placesWait s [(slot, 32), (counts, 8)] true = (s, false) → ∃ t, exec (.journalRecordWrite c) s = .next t ∧
        (t.ctx c).jqueue = rest ∧ (t.ctx c).jprod = n + 1 ∧ t.threads = s.threads ∧
          (r.kind ≠ 0 → (∀ k, t.byte k = if counts ≤ k ∧ k < counts + 8 then (bytesOf (n + 1) 8).getD (k - counts) 0
            else if slot ≤ k ∧ k < slot + 32 then (recordBytes c r).getD (k - slot) 0 else s.byte k) ∧ ∀ m, t.stream c m = s.stream c m) ∧
          (r.kind = 0 → (s.stream c r.stream).wait = some .journal → (∀ y ∈ rest, y.kind ≠ 0 ∨ y.stream ≠ r.stream) → (t.stream c r.stream).wait = none ∧
            (1 < (s.stream c r.stream).bufs.length → ∀ k, slot ≤ k → k < slot + 32 → t.byte k = (recordBytes c r).getD (k - slot) 0)) ∧
          ∀ y, y ≠ c → t.ctx y = s.ctx y

/-- With HueriLink open a host request of memory is queued behind earlier ones; the oldest reads or writes its first
naturally aligned piece where nothing holds it, and a request of one piece is answered, a read's reply carrying the
bytes; anything unassigned, or closed, is refused. REGISTER_WRITE where nothing is assigned, of a wrong shape or by
an agent the block does not admit changes nothing; port counters and PWRLIM take their values, read-only words none.
HIPEND writes clear the bits they name; HIMASK writes send the pending vectors they unmask. HUERILINK_RESPONSE gives
a held load its data, counts a store's acknowledgement, fills the command buffer and ends a frame's step of
coherence. CEXCL_WRITE sets 64 exclusion bits, CXL_LINK_DOWN marks the port and SCRUB_PASS poisons the codewords of
DRAM and the granules of L2 it lost. With records off, a storage error of a register, accumulator row or DRAM
granule marks that register, row or pair of granules and no more, and one in a unit's state, with AQ = 1, freezes
the machine. The model's own choices in it, no rules of the manual: log entries 16, 97, 98, 111 and 140. (R5, R107,
R133, R197, R268, R275, R280, R281, R282, R284, R285, R288) -/
def Obligations.HostRequestsAndRegisterWrites : Prop :=
  (∀ (s : State) (off : Nat) (data : List Byte), data ≠ [] →
      let n := data.length
      (s.hub.hlopen = false → blockOf off = none → ∀ w, exec (.hostRequest w off data) s = .next (s.send (.hostReply [] [] false))) ∧
      (blockOf off = none → (∃ i < n, isMemory s (off + i) = false) → ∀ w, exec (.hostRequest w off data) s = .next (s.send (.hostReply [] [] false))) ∧
      (s.hub.hlopen = true → blockOf off = none → (∀ i < n, isMemory s (off + i) = true) →
        let p := pieceSize off n
        (s.hostq ≠ [] → ∀ w, exec (.hostRequest w off data) s = .next { s with hostq := s.hostq ++ [{ write := w, off := off, data := data }] }) ∧
        (∀ w, s.hostq = [] → (∀ q, (agentHeld { s with hostq := q } off p w).2 = true) → ∃ t, exec (.hostRequest w off data) s = .next t ∧ t.mem = s.mem ∧ t.sent = s.sent ∧
          t.hostq = [{ write := w, off := off, data := data }]) ∧
        (s.hostq = [] → s.hub.cxldn = [] → p < n → ∀ w, (∀ q, agentHeld { s with hostq := q } off p w = ({ s with hostq := q }, false)) →
          ∃ t r, exec (.hostRequest w off data) s = .next t ∧ t.hostq = [r] ∧ r.done = p ∧ r.data = data ∧ t.sent = s.sent ∧
            ∀ k, t.byte k = if w = true ∧ off ≤ k ∧ k < off + p then data.getD (k - off) 0 else s.byte k) ∧
        (s.hostq = [] → s.hub.cxldn = [] → p = n → ∀ w, (∀ q, agentHeld { s with hostq := q } off p w = ({ s with hostq := q }, false)) →
          (w = false → ∃ t marks, exec (.hostRequest w off data) s = .next t ∧ t.sent = s.sent ++ [.hostReply (s.bytes off n) marks true] ∧ t.mem = s.mem ∧
            (s.anyPoison off n = false → ∀ b ∈ marks, b = false)) ∧
          (w = true → ∃ t, exec (.hostRequest w off data) s = .next t ∧ t.sent = s.sent ++ [.hostReply [] [] true] ∧
            t.threads = s.threads ∧ ∀ k, t.byte k = if off ≤ k ∧ k < off + n then data.getD (k - off) 0 else s.byte k)))) ∧
    (∀ (s : State) (who : Agent) (off size : Nat) (v : DWord), let i := Instr.registerWrite who off size v;
      (blockOf off = none ∨ (size ≠ 4 ∧ size ≠ 8) ∨ off % size ≠ 0 → exec i s = .next s) ∧
      (∀ b o, blockOf off = some (b, o) → mayWrite who b = false → exec i s = .next s) ∧
      (s.hub.hlopen = false → who = .host → off < 0x7F00001B0000 → exec i s = .next s) ∧
      (s.hub.hlopen = true →
        (∀ p < 48, let t := s.port p
          let at_ := 0x7F0000140000 + 0x40 * p
          exec (.registerWrite who (at_ + 0x18) 4 v) s = .next (s.setPort p { t with punc := loWord v }) ∧
          exec (.registerWrite who (at_ + 0x10) 8 v) s = .next ((s.setPort p { t with pcorr := pairOf (loWord v) (hiWord t.pcorr) }).setPort p { t with pcorr := v }) ∧
          exec (.registerWrite who at_ 4 v) s = .next s ∧ exec (.registerWrite who (at_ + 0x24) 4 v) s = .next s) ∧
        exec (.registerWrite .host 0x7F00001A0004 4 v) s = .next { s with hub := { s.hub with pwrlim :=
          if 3600 < (loWord v).toNat then 3600 else if (loWord v).toNat < 1200 then 1200 else loWord v } })) ∧
    (∀ (s : State) (half : Bool) (v : DWord), let lo := if half then 64 else 0
      let named := fun i : Nat => decide (lo ≤ i ∧ i < lo + 64)
      (∃ t, exec (.hipendWrite half v) s = .next t ∧ t.sent = s.sent ∧ ∀ i < 128, t.hub.hipend.getLsbD i = (s.hub.hipend.getLsbD i && !(named i && v.getLsbD (i - lo)))) ∧
      ∃ t, exec (.himaskWrite half v) s = .next t ∧ t.hub.hipend = s.hub.hipend ∧
        (∀ i < 128, t.hub.himask.getLsbD i = if named i then v.getLsbD (i - lo) else s.hub.himask.getLsbD i) ∧
        t.sent = s.sent ++ ((List.range 128).filter fun i => named i && s.hub.himask.getLsbD i && !(v.getLsbD (i - lo)) && s.hub.hipend.getLsbD i).map .interrupt) ∧
    (∀ (s : State) (data : List Byte),
      (s.hub.mgbusy = true → exec (.huerilinkResponse 0 data) s = .next { s with hub := { s.hub with mgbuf := s.hub.mgbuf ++ data } }) ∧
      (∀ u, 0 < u → u < 2 ^ 32 → (s.hasThread u = false → exec (.huerilinkResponse u data) s = .next s) ∧
        (s.hasThread u = true → (s.thread u).uid = u → ((s.thread u).hostOut ≠ 0 → exec (.huerilinkResponse u []) s = .next (s.setThread { s.thread u with hostOut := (s.thread u).hostOut - 1 })) ∧
          (data ≠ [] → (s.thread u).hold = some .hostLink → exec (.huerilinkResponse u data) s = .next (s.setThread { s.thread u with reply := some ⟨data, false, 0, 0⟩ })))) ∧
      (∀ f, exec (.huerilinkResponse (2 ^ 40 + f) data) s = .next (if f ∈ s.snoops then
        { s with snoops := s.snoops.filter (· != f), coherent := nins s.coherent f } else s)) ∧
      (∀ c n cc mark val, c < 16 → n < 64 → (s.stream c n).wait = some (.host cc mark val) →
        exec (.huerilinkResponse (2 ^ 33 + 64 * c + n) data) s = .next (predwDone s c n cc mark ((wordsOf data 1).headD 0) val)) ∧
      ∀ k d, k < 2 ^ 32 → (s.script k).running = true → (s.script k).wait = some (.host d 4 false) → data.length = 4 →
        exec (.huerilinkResponse (2 ^ 32 + k) data) s = .next (scriptAnswer s k d.toNat (BitVec.ofNat 32 (natOf data)))) ∧
    ∀ (s : State), (∀ w v, w < 6 → ∃ t, exec (.cexclWrite w v) s = .next t ∧ ∀ k, nmem t.hub.cexcl k = if k / 64 = w then v.getLsbD (k % 64) else nmem s.hub.cexcl k) ∧
      (∀ w v, 6 ≤ w → exec (.cexclWrite w v) s = .next s) ∧
      (∀ p, (s.hub.cxl ≤ p → exec (.cxlLinkDown p) s = .next s) ∧
        (p < s.hub.cxl → ∃ t, exec (.cxlLinkDown p) s = .next t ∧ t.mem = s.mem ∧ ∀ q, nmem t.hub.cxldn q = (q == p || nmem s.hub.cxldn q))) ∧
      (∀ die l b, 4 ≤ die → exec (.scrubPass die b l) s = .next s) ∧ (∀ die l, die < 4 → s.hub.mcbase = 0 → ∃ t, exec (.scrubPass die false l) s = .next t ∧ t.mem = s.mem ∧
        ∀ g, nmem t.poison g = (nmem s.poison g || l.any fun x => let y := 16 * (x % 2 ^ 60);
          homeDie y == die && if 2 ^ 60 ≤ x then x % 2 ^ 60 == g && inL2 s y else x / 2 == g / 2 && isDram y)) ∧
      (s.hub.mcbase = 0 →
        (∀ u r, s.hasThread u = true → (s.teamOf (s.thread u)).place = .resident → r < (s.thread u).regs.length →
          storageError s (.register u r) = s.setThread { s.thread u with pois := (s.thread u).pois.set r true }) ∧
        (∀ u half unit row, s.teams.any (·.uid == u) = true → (s.team u).place = .resident → half < 2 → row < 128 → unit < accUnits (s.core ((s.team u).core + half)) →
          storageError s (.accumulator u half unit row) = s.setTeam { s.team u with rmark := nins (s.team u).rmark (half * 2 ^ 16 + unit * 2 ^ 7 + row) }) ∧
        (∀ g, isDram (16 * g) = true → ∃ t, storageError s (.dram g) = t ∧ t.mem = s.mem ∧ ∀ x, nmem t.poison x = (nmem s.poison x || x / 2 == g / 2)) ∧
        ∀ uclass unit, s.hub.mcctl = 1 → ∃ t, storageError s (.state uclass unit) = t ∧ t.frozen = true ∧ t.mem = s.mem ∧ t.threads = s.threads)

/-- While the machine is frozen, every step that is not module reset, by itself or by the command that loads an
image and resets, leaves it frozen, with memory, poison marks, threads, cores and both clocks as they were. Module
reset makes every field of the state what it is after reset, with the boot ROM at its first stage, except stacked
DRAM's bytes and poison marks, which stay; the model's own fields and what lies outside the module (flash, what was
sent, the agenda and the counters) stay. The model's own choices in it, no rules of the manual: log entries 6, 10,
114 and 116. (R278) -/
def Obligations.FrozenUntilModuleReset : Prop :=
  (∀ (s : State) (turn : Turn) (rest : List Turn), s.frozen = true → s.agenda = turn :: rest → turn.act ≠ .event .moduleReset → turn.act ≠ .event .loadFirmwareImage →
      ∃ t, step s = .next t ∧ t.frozen = true ∧ t.mem = s.mem ∧ t.poison = s.poison ∧ t.threads = s.threads ∧ t.cores = s.cores ∧ t.cycle = s.cycle ∧ t.htime = s.htime) ∧
    (∀ s t : State, s.frozen = true → s.agenda = [] → step s = .next t → t.frozen = true ∨ ∃ turn, Config.freeTurn s.draws = some turn ∧ (turn.act = .event .moduleReset ∨ turn.act = .event .loadFirmwareImage)) ∧
    ∀ s : State, ∃ t, exec .moduleReset s = .next t ∧ t.frozen = false ∧
      t = { State.reset with mem := t.mem, poison := t.poison, flash := s.flash, sent := s.sent, agenda := s.agenda, draws := s.draws, nextUid := s.nextUid, hub := t.hub } ∧
      t.hub = { State.reset.hub with stage := 1 } ∧
      (∀ k, t.byte k = if isDram k then s.byte k else State.reset.byte k) ∧ ∀ g, nmem t.poison g = (nmem s.poison g && isDram (16 * g))

/-- A reset machine begins its boot: a bad image leaves recovery with the step it failed; a good one runs, with the
chip number, HueriLink open and the CXL ports, whose population is reported when it cannot be used. ATTEST with its
nonce and REPORT_IDENTITY send their reports, LOAD_FIRMWARE_IMAGE takes the image and resets, FREEZE, QUENCH_PIN,
and THERMAL_QUENCH after a second above the limit, freeze; MGMT_COMMAND_COMPLETE reports and raises vector 65; a
command that does not run does nothing. CLOCK_ADJUST sets a multiple of 25 from 700 to 2,100: full when cool and
within the limit, 700 with vector 65 when hot, lower than before when over the limit. Each test port instruction
selects its register; a scan shifts the identity, the chain number, the frozen ring, zeros, or one bypass bit. The
model's own choices in it, no rules of the manual: log entries 10, 15, 69, 112, 113, 115 and 117. (R276, R277, R282,
R285, R286, R287, R288, R289) -/
def Obligations.ManagementClockAndTestPort : Prop :=
  (∀ s : State, s.agenda = [] → s.frozen = false →
      (s.hub.stage = 0 → step s = .next { s with hub := { s.hub with stage := 1 } }) ∧
      (s.hub.stage = 1 → (∃ turn, Config.freeTurn s.draws = some turn ∧ step s = runTurn { s with draws := s.draws + 1 } turn) ∨
        step s = .next (bootCheck { s with draws := s.draws + 1 }))) ∧
    (∀ s : State, let t := bootCheck s
      t.mem = s.mem ∧ (bootStep s.flash ≠ 0 → t.hub = { s.hub with stage := 2, fstep := bootStep s.flash } ∧ t.sent = s.sent) ∧
      (bootStep s.flash = 0 → t.hub.stage = 3 ∧ t.hub.fstep = s.hub.fstep ∧ t.hub.hlopen = true ∧ t.hub.chip = Config.suppliedChip.toNat ∧
        t.hub.cxl = (population Config.cxlPopulation).1 ∧
        t.sent = s.sent ++ if (population Config.cxlPopulation).1 = 0 then [.badPopulation] else [])) ∧
    (∀ l : List (Nat × Nat), let n := l.length
      (n ∉ [1, 2, 4, 8] ∨ (∃ x ∈ l, x.2 ≠ (l.headD (0, 0)).2) ∨ 2 ^ 41 < (l.headD (0, 0)).2 ∨ (∃ p < n, ∀ x ∈ l, x.1 ≠ p) → population l = (0, 0)) ∧
      (n ∈ [1, 2, 4, 8] → ∀ cap, cap ≤ 2 ^ 41 → (∀ x ∈ l, x.2 = cap) → (∀ p < n, ∃ x ∈ l, x.1 = p) → population l = (n, cap))) ∧
    (∀ (image : List Byte), (Config.imageParts image = none → bootStep image = 1) ∧
      ∀ key sig version body, Config.imageParts image = some (key, sig, version, body) →
        (Config.falconVerify key (Config.shake256 body) sig = false ∨ Config.shake256 key ≠ Config.fusedKeyDigest → bootStep image = 3) ∧
        (Config.falconVerify key (Config.shake256 body) sig = true → Config.shake256 key = Config.fusedKeyDigest →
          bootStep image = if version < Config.fusedVersion then 4 else 0)) ∧
    (∀ s : State, let h := s.hub
      let going := fun cmd : Byte => h.mgbusy = true ∧ h.mgcmd = cmd ∧ h.mgnext = 0xFF
      let ends := fun (i : Instr) (n : Byte) => ∃ t, exec i s = .next t ∧ t.hub.mgnext = n ∧ t.mem = s.mem
      (¬ going 1 → exec .attest s = .next s) ∧ (¬ going 2 → exec .loadFirmwareImage s = .next s) ∧ (¬ going 3 → exec .reportIdentity s = .next s) ∧
      (¬ going 4 → exec .freeze s = .next s) ∧
      (going 1 → (h.mgbuf = [] → exec .attest s = .next s) ∧ (h.mgbuf ≠ [] → h.mgbuf.length ≠ 32 → ends .attest 2) ∧
        (h.mgbuf.length = 32 → ends .attest 0 ∧ ∃ t l, exec .attest s = .next t ∧ t.sent = s.sent ++ [.hostWrite (h.mgarg.toNat + 32) l] ∧ l.length = 1392 ∧ l.take 32 = h.mgbuf ∧
          (l.drop 100).take 4 = bytesOf h.chip 4 ∧ (l.drop 104).take 8 = bytesOf Config.serialNumber.toNat 8)) ∧
      (going 2 → (h.mgbuf = [] → exec .loadFirmwareImage s = .next s) ∧ (h.mgbuf ≠ [] → exec .loadFirmwareImage s = exec .moduleReset { s with flash := h.mgbuf })) ∧
      (going 3 → ends .reportIdentity 0 ∧ ∃ t l, exec .reportIdentity s = .next t ∧ t.sent = s.sent ++ [.hostWrite h.mgarg.toNat l] ∧ l.length = 1801 ∧
        l.drop 1793 = bytesOf Config.serialNumber.toNat 8) ∧
      (going 4 → ∃ t, exec .freeze s = .next t ∧ t.frozen = true ∧ t.hub.mgnext = 0 ∧ t.mem = s.mem) ∧
      (h.mgbusy = false ∨ h.mgnext = 0xFF → exec .mgmtCommandComplete s = .next s) ∧
      (h.mgbusy = true → h.mgnext ≠ 0xFF → ∃ t, exec .mgmtCommandComplete s = .next t ∧ t.hub.mgbusy = false ∧ t.hub.mgrsp = h.mgnext ∧ t.hub.hipend.getLsbD 65 = true) ∧
      (∃ t, exec .quenchPin s = .next t ∧ t.frozen = true ∧ t.mem = s.mem ∧ t.threads = s.threads) ∧
      (h.hotSince = none → exec .thermalQuench s = .next s) ∧
      (∀ x, h.hotSince = some x → (s.htime < x + 1000000000 → exec .thermalQuench s = .next s) ∧
        (x + 1000000000 ≤ s.htime → h.cxldn = [] → ∃ t, exec .thermalQuench s = .next t ∧ t.frozen = true ∧ (h.mcbase ≠ 0 → t.hub.mcprod = h.mcprod + 1))) ∧
      ∀ pwr inlet tj : Nat, ∃ t, exec (.clockAdjust pwr inlet tj) s = .next t ∧ t.mem = s.mem ∧ t.hub.pwravg = BitVec.ofNat 32 pwr ∧ t.hub.tinlet = BitVec.ofNat 32 inlet ∧
        t.hub.tjmax = BitVec.ofNat 32 tj ∧ 700 ≤ t.hub.fclk.toNat ∧ t.hub.fclk.toNat ≤ 2100 ∧ t.hub.fclk.toNat % 25 = 0 ∧
        (450 < inlet ∨ 1050 < tj → t.hub.fclk = 700 ∧ t.hub.hipend.getLsbD 65 = true) ∧
        (inlet ≤ 400 → tj ≤ 1050 → pwr ≤ h.pwrlim.toNat → t.hub.fclk = 2100) ∧
        (h.pwrlim.toNat < pwr → 725 ≤ h.fclk.toNat → t.hub.fclk.toNat < h.fclk.toNat) ∧
        (inlet = 430 → t.hub.fclk.toNat ≤ 1450) ∧
        (t.hub.hotSince = if 500 < inlet then some (h.hotSince.getD s.htime) else none)) ∧
    ∀ (s : State) (l : List Bool), let j := s.jtag
      let picks := fun (i : Instr) (code : Nat) => exec i s = .next { s with jtag := { j with ir := code } }
      picks .bypass 0xFF ∧ picks .idcode 0x01 ∧ picks .samplePreload 0x02 ∧ picks .extest 0x00 ∧ picks .qsel 0x20 ∧
      exec .qscan s = .next { s with jtag := { j with ir := 0x21, at_ := 0 } } ∧
      (j.ir = 0x01 → ∃ t, exec (.dataRegisterScan l) s = .next t ∧ t.jtag.tdo = (((List.range 32).map (0x19480A6F).testBit) ++ l).take l.length ∧ t.mem = s.mem) ∧
      (j.ir = 0x20 → ∀ n, n < 2 ^ 16 → l = (List.range 16).map n.testBit → ∃ t, exec (.dataRegisterScan l) s = .next t ∧ t.jtag.sel = n ∧ t.jtag.at_ = 0 ∧
        t.jtag.tdo = (List.range 16).map j.sel.testBit ∧ t.mem = s.mem) ∧
      (j.ir = 0x21 → s.frozen = false → exec (.dataRegisterScan l) s = .next { s with jtag := { j with tdo := List.replicate l.length false } }) ∧
      (j.ir = 0x21 → s.frozen = true → ∃ t, exec (.dataRegisterScan l) s = .next t ∧ t.jtag.tdo.length = l.length ∧ t.mem = s.mem ∧
        (j.at_ = 0 → ∀ i < 16, 16 + i < l.length → t.jtag.tdo.getD (16 + i) false = j.sel.testBit i)) ∧
      (∀ t, (j.ir = 0x00 ∨ j.ir = 0x02) → exec (.dataRegisterScan l) s = .next t → t.jtag.dr = l ∧ t.mem = s.mem ∧ t.threads = s.threads) ∧
      (j.ir ∉ [0x00, 0x01, 0x02, 0x20, 0x21] → exec (.dataRegisterScan l) s = .next { s with jtag := { j with tdo := (false :: l).take l.length, dr := (false :: l).drop l.length } })

/-- On a machine that is not frozen, time passes by the turn's cycles and nanoseconds, what waits is looked at again
(which changes nothing where nothing waits), and then: a picker whose bundle holds one thread and stands at words
that decode runs that instruction for the thread; a script that stands in a clause at words that decode and whose
turn in the round robin it is runs it; a stream that stands at a packet whose words are fetched and decode, no ready
stream before it, runs it, if its journal has room; a test port code, an event and a storage error run as they are.
Undecodable words are illegal instruction for a thread, script fault 0x01 for a script and bad-encoding for a
stream. The model's own choices in it, no rules of the manual: log entries 2, 37 and 123. (R20, R21, R209, R240,
R302, R322) -/
def Obligations.StepRunsTheDecodedInstruction : Prop :=
  (∀ (s : State) (cyc ns core p k u : Nat) (rest : List Turn) (b : Bundle), s.frozen = false → s.agenda = ⟨cyc, ns, .picker core p k⟩ :: rest →
      let s0 := settle { s with agenda := rest, cur := none, cycle := s.cycle + cyc, htime := s.htime + ns }
      let c := s0.core core
      let s1 := s0.setCore core (if p = 0 then { c with pick0 := some b } else { c with pick1 := some b })
      let at_ := b.addr + BitVec.ofNat 64 (4 * b.pos)
      let w := b.words.getD (b.pos - 1) 0
      let ks := (b.words.drop b.pos).take (contRun b.hdr b.pos)
      (if p = 0 then c.pick0 else c.pick1) = some b → b.todo = [u] →
        (∀ i, decode .core w ks = .ok i → (b.cur s1 u).last = true ∨ (isTransfer (fOp w) = false ∧ mustEnd (fOp w) = false) →
          step s = exec i { s1 with cur := some (b.cur s1 u) } ∧ (b.cur s1 u).who = .thread u ∧ (b.cur s1 u).addr = at_ ∧ (b.cur s1 u).word = w ∧
            (b.cur s1 u).next = at_ + BitVec.ofNat 64 (4 * (1 + ks.length))) ∧
        (∀ e, decode .core w ks = .error e → isTransfer (fOp w) = false → mustEnd (fOp w) = false → (s1.thread u).scout = none →
          step s = .next (takeTrap s1 u 0x01 at_ w at_))) ∧
    (∀ (s : State) (cyc ns k : Nat) (rest : List Turn) (base : DWord), s.frozen = false → s.agenda = ⟨cyc, ns, .script k⟩ :: rest →
      let s0 := settle { s with agenda := rest, cur := none, cycle := s.cycle + cyc, htime := s.htime + ns }
      let sc := s0.script k
      let s1 := pastScript (s0.setScript k sc) k
      let h := sc.words.headD 0
      let w := sc.words.getD sc.pos 0
      let ks := (sc.words.drop (sc.pos + 1)).take (contRun h sc.pos)
      sc.running = true → sc.wait = none → scriptDue s0 k = true → sc.header = some base → hdrN h ≤ sc.pos + contRun h sc.pos ∨ isScriptTransfer (fOp w) = false →
        (∀ i, decode .bellows w ks = .ok i → ∃ c, step s = exec i { s1 with cur := some c } ∧ c.who = .script k ∧ c.addr = base + BitVec.ofNat 64 (4 * sc.pos) ∧ c.word = w) ∧
        (∀ e, decode .bellows w ks = .error e → step s = .next (endScript s1 k 0x01))) ∧
    (∀ (s s1 : State) (cyc ns c n : Nat) (rest : List Turn) (h w : Word) (ks : List Word), s.frozen = false → s.agenda = ⟨cyc, ns, .stream c n 0⟩ :: rest →
      let s0 := settle { s with agenda := rest, cur := none, cycle := s.cycle + cyc, htime := s.htime + ns }
      let st := s0.stream c n
      let pos := (st.bufs.headD {}).word
      let run := contRun h pos
      let at_ := st.wordVa pos
      (s0.ctx c).active = true → st.en = true → st.wait = none → st.badTail = false → st.headDue = false → st.skip = none → streamDue s0 c n = true →
        (st.bufs.headD {}).hdr = some h →
        streamWords c n ((pastStream s0 c n).setStream c n { st with pkt := some (at_, st.wordVa (pos + 1 + run), 0) }) ((from_ pos (run + 1)).map st.wordVa) = (s1, some (w :: ks)) →
        let s2 := s1.setStream c n { s1.stream c n with pkt := some (at_, st.wordVa (pos + 1 + run), fOp w), wait := none }
        let s3 := s2.setStream c n { s2.stream c n with began := some ((s2.stream c n).began.getD s2.htime) }
        hearthMustEnd (fOp w) = false ∨ hdrN h ≤ pos + run →
        (∀ e, decode .hearth w ks = .error e → step s = .next (packetError s3 c n 0x0001)) ∧
        (∀ i, decode .hearth w ks = .ok i →
          (streamRoom s3 c = false → step s = .next s3) ∧
          (streamRoom s3 c = true → ∃ (s4 : State) (x : Cur), step s = exec i { s4 with cur := some x } ∧ x.who = .stream c n ∧ x.addr = at_ ∧ x.word = w ∧
            (s3.poison = [] → s3.hub.cxldn = [] → s4.mem = s3.mem)))) ∧
    (∀ s : State, (∀ l ∈ s.launches, l.abort = none) → (∀ t ∈ s.threads, t.inEpisode = false) → s.hubq = [] → s.hostq = [] → s.served = [] → s.commitq = [] → (∀ f ∈ s.faults, f.retry = false) →
      (∀ t ∈ s.threads, ∀ i, t.status ≠ .parked i) → (∀ t ∈ s.teams, ∀ g, spillGroup s (s.team t.uid) g = s) → s.cwords = [] → settle s = s) ∧
    ∀ (s : State) (cyc ns : Nat) (rest : List Turn), s.frozen = false →
      let s0 := settle { s with agenda := rest, cur := none, cycle := s.cycle + cyc, htime := s.htime + ns }
      (∀ code, s.agenda = ⟨cyc, ns, .jtag code⟩ :: rest → step s = exec (decodeJtag code) s0) ∧ (∀ i, s.agenda = ⟨cyc, ns, .event i⟩ :: rest → step s = exec i s0) ∧
        (∀ e, s.agenda = ⟨cyc, ns, .error e⟩ :: rest → step s = .next (storageError s0 e)) ∧
        ∀ l held, s.agenda = ⟨cyc, ns, .farLock l held⟩ :: rest → step s = .next (if held then takeFarLock s0 l else dropFarLock s0 l)

/-- In the state after reset the clocks read 0 and run, no thread, team or launch exists, every port is DARK with no
lease and no cause, every script, graph and rotation is idle or empty, every context is off, no fault, walk,
invalidation, request, lock of another chip, COMMIT or store to a stream's entry waits, no interrupt is pending;
HueriLink is closed in stage 0, PLET is 0x88B5, MCCTL 1, PWRLIM 3,600 and FCLK 2,100. Memory is in canonical form
and lists nothing; that it then reads 0 is the model's choice (log entry 1), as is the empty flash (log entry 6).
The first step begins the boot, whose stage 1 the status register then shows. The model's own choices in it, no
rules of the manual: log entry 10. (R194, R197, R201, R236, R238, R276, R278, R285, R286, R288) -/
def Obligations.ResetValues : Prop :=
  let r := State.reset
  r.cycle = 0 ∧ r.htime = 0 ∧ r.frozen = false ∧ r.threads = [] ∧ r.teams = [] ∧ r.launches = [] ∧ r.mem = [] ∧ Memory.wf r.mem = true ∧ (∀ k, r.byte k = 0) ∧ r.poison = [] ∧
    (∀ p, (r.port p).state = .dark ∧ (r.port p).cause = 0 ∧ (r.port p).leased = false ∧ (r.port p).request = none ∧ (r.port p).ltag = 0 ∧ (r.port p).ptrn = 0) ∧
    (∀ k, (r.script k).running = false ∧ (r.script k).code = 0) ∧ (∀ g, (r.graph g).state = 0) ∧ (∀ i, (r.rot i).state = 0) ∧
    (∀ c, (r.ctx c).en = false ∧ (r.ctx c).active = false ∧ (r.ctx c).err = 0 ∧ (r.ctx c).streams = [] ∧ ∀ n, r.sem c n = 0) ∧
    r.faults = [] ∧ r.walks = [] ∧ r.pinned = [] ∧ r.flips = [] ∧ r.hostq = [] ∧ r.served = [] ∧ r.lanes = [] ∧ r.farLocks = [] ∧ r.commitq = [] ∧ r.staged = [] ∧
    r.noted = [] ∧ r.snoops = [] ∧ r.hub.invq = [] ∧ r.hub.hipend = 0 ∧ r.hub.stage = 0 ∧ r.hub.hlopen = false ∧ r.hub.mgbusy = false ∧
    r.hub.plet = 0x88B5 ∧ r.hub.mcctl = 1 ∧ r.hub.pwrlim = 3600 ∧ r.hub.fclk = 2100 ∧
    r.hubq = [] ∧ step r = .next { r with hub := { r.hub with stage := 1 } }

/-- From every state whose memory is in canonical form (offsets strictly rising, no entry equal to what an unlisted
offset reads as), whatever executes and whatever the free turns and values are, the next state's memory is in
canonical form: two equal memories are always equal data. (R86, R92, R278) -/
def Obligations.MemoryStaysCanonical : Prop :=
  ∀ s t : State, Memory.wf s.mem = true → step s = .next t → Memory.wf t.mem = true

/-- For every well-formed instruction that has an encoding, at every value of its fields, decoding its words in its
executor's space gives it back; the instructions scripts share with threads decode back in the Bellows space too.
Conversely, words that decode in a space are the encoding of what they decode to, so no bit of a word is ignored and
no two words mean one instruction; in a script alone the issue-control fields that scripts ignore are put in order
first. Every test port code selects what its number says and any other BYPASS. (R244, R300, R306, R308, R309, R310,
R318, R319, R320, R321) -/
def Obligations.DecodeAndEncodeAgree : Prop :=
  (∀ (i : Instr) (ex : Exec), Instr.wf i = true → i.space = some ex → ∃ w ks, encode i = w :: ks ∧ decode ex w ks = .ok i) ∧
    (∀ (i : Instr) (w : Word) (ks : List Word), Instr.wf i = true → i.space = some .core → encode i = w :: ks → scriptAdmits i = true →
      ((1 ≤ fOp w ∧ fOp w ≤ 0x1F) ∨ (0x48 ≤ fOp w ∧ fOp w ≤ 0x4F) ∨ fOp w ∈ [0x51, 0x52, 0x60, 0x61, 0x77]) → decode .bellows w ks = .ok i) ∧
    (∀ (ex : Exec) (w : Word) (ks : List Word) (i : Instr), decode ex w ks = .ok i →
      encode i = w :: if ex = .bellows then scriptWords w ks else ks) ∧
    decodeJtag 0x01 = .idcode ∧ decodeJtag 0x02 = .samplePreload ∧ decodeJtag 0x00 = .extest ∧ decodeJtag 0x20 = .qsel ∧ decodeJtag 0x21 = .qscan ∧
    ∀ n < 256, n ∉ [0x00, 0x01, 0x02, 0x20, 0x21] → decodeJtag n = .bypass

/-- The encoded examples of the instruction reference, one or more for each family of the three executors (integer,
floating point, packed and conversion, cross-lane, control, memory, matrix, copies, special registers, Bellows,
Hearth), decode to the instructions beside which they stand; opcode 0 and words with a reserved bit set decode to
none. (R326, R337, R353, R380, R382, R407, R430, R437, R440, R448, R449, R465) -/
def Obligations.DecodedExampleWords : Prop :=
  let no : Issue := ⟨0, 7⟩
  decode .core 0x220C0820 [] = .ok (.and 3 1 2) ∧ decode .core 0x02102000 [1] = .ok (.iaddLiteral 4 4 1) ∧ decode .core 0x16143006 [0x64] = .ok (.icmpLiteral 6 5 6 100) ∧
    decode .core 0x1C143070 [0x0E200000] = .ok (.sel 5 6 (.reg 7) 8) ∧ decode .core 0x201407FD [] = .ok (.movi 5 0x7FD) ∧ decode .core 0x30281000 [4] = .ok (.shl64Literal 10 2 4) ∧
    decode .core 0x401C2063 [] = .ok (.fadd 3 7 4 6) ∧ decode .core 0x46200821 [0x0E0C0000] = .ok (.ffma 1 8 1 (.reg 2) 3) ∧ decode .core 0x5A142002 [0x0E000000] = .ok (.sqrt 2 5 4 no) ∧
    decode .core 0x6014184A [] = .ok (.padd 2 true false 5 3 4) ∧ decode .core 0x6A142000 [0x0E00C080] = .ok (.cvt 3 0 0 true 0 5 4 no) ∧
    decode .core 0x7018280A [] = .ok (.unpk 2 true 6 5) ∧ decode .core 0x861C2000 [0x0E280002] = .ok (.redl 0 2 7 4 10 no) ∧ decode .core 0x8A1C1800 [0x1E280000] = .ok (.elect 7 3 10 ⟨1, 7⟩) ∧
    decode .core 0x90000004 [] = .ok (.bra 4) ∧ decode .core 0x9A001000 [] = .ok (.ret 2) ∧ decode .core 0xA4000040 [] = .ok (.trap 0x40) ∧ decode .core 0xAC002802 [] = .ok (.bar false 2 5) ∧
    decode .core 0xB0240000 [] = .ok (.fence 0 9) ∧ decode .core 0xCC001080 [0x0E000000] = .ok (.pref ⟨0, 0, false, false, 0, 0, .imm 128, no⟩ 2) ∧
    decode .core 0xAE281000 [0x0E306000] = .ok (.monw ⟨0, 3, false, false, 0, 0, .imm 0, no⟩ 10 2 12) ∧
    decode .core 0xD4103080 [0x0E2AD8C1] = .ok (.mmas 5 5 true 1 4 6 8 10 12 no) ∧ decode .core 0xDC08F040 [0x0E148800] = .ok (.mst 1 false 1 2 30 (.imm 64) 5 no) ∧
    decode .core 0xE260A160 [0x0E000005] = .ok (.cpy 5 24 20 22 no) ∧ decode .core 0xE4005001 [0x0E000000] = .ok (.tagw true 10 no) ∧ decode .core 0xEE10000F [] = .ok (.srd 4 0x0F) ∧
    decode .core 0xEC008120 [0x0E000000] = .ok (.rrel 16 18 no) ∧ decode .bellows 0xBA0C2060 [] = .ok (.gload 3 4 6) ∧ decode .bellows 0xF20C2060 [] = .ok (.rotb 3 4 6) ∧
    decode .bellows 0xF80C2060 [] = .ok (.semw 3 4 6) ∧ decode .hearth 0x1E000003 [1, 0] = .ok (.hearthSems 3 1) ∧ decode .hearth 0x20000103 [2, 0] = .ok (.hearthSemw true 3 2) ∧
    decode .hearth 0x04000000 [0x1000, 0x40] = .ok (.ib 0x0000004000001000) ∧ decode .core 0 [] = .error .unassigned ∧ decode .core 0x220C0821 [] = .error .reserved ∧
    decode .core 0xF20C2060 [] = .error .unassigned ∧ decode .hearth 0x1E000103 [1, 0] = .error .reserved
end

