-- ==== Sys2Proof/Laws/PerInstr.lean ====
section
/-! SUPPORT. Per-instruction lemmas: the number of words each instruction is written in (R300, R305-R307, R244). -/
namespace Sys2Proof.Laws.Length
open Sys2Proof

/-- An instruction of an executor has one word and at most four continuation words; an event or a test-port code has none. -/
def Statement (i : Instr) : Prop := (encode i).length ≤ 5 ∧ (i.space = none → encode i = [])

theorem encRRR_length (op : Nat) (d a b : Reg) (m : BitVec 4) : (encRRR op d a b m).length = 1 := rfl
theorem encLit_length (op : Nat) (d a : Reg) (m : BitVec 4) (x : Word) : (encLit op d a m x).length = 2 := rfl
theorem encX_length (op : Nat) (d a b : Reg) (m : BitVec 4) (is : Issue) (e : Reg) (x : BitVec 18) : (encX op d a b m is e x).length = 2 := rfl
theorem srcField_length (b : Src) : (srcField b).2.length ≤ 1 := by cases b <;> simp [srcField]
theorem offField_length (o : Off) : (offField o).2.length ≤ 1 := by cases o <;> simp [offField]
theorem encShort_length (op : Nat) (d a : Reg) (b : Src) (m : BitVec 4) (e : Reg) : (encShort op d a b m e).length ≤ 3 := by
  have := srcField_length b
  simp only [encShort, List.length_cons]; omega
theorem encMem_length (op : Nat) (d a e : Reg) (m : Mem) : (encMem op d a e m).length ≤ 3 := by
  have := offField_length m.off
  simp only [encMem, List.length_cons]; omega
/-- An instruction whose words are there and few enough. -/
theorem of_words {i : Instr} {w : Word} {ks : List Word} (h : encode i = w :: ks) (n : ks.length ≤ 4) (sp : i.space.isSome = true) : Statement i :=
  ⟨by rw [h]; exact Nat.succ_le_succ n, fun e => by rw [e] at sp; exact nomatch sp⟩
/-- An event. -/
theorem of_none {i : Instr} (h : encode i = []) : Statement i := ⟨by rw [h]; decide, fun _ => h⟩

theorem dataRegisterScan (bits : List Bool) : Statement (.dataRegisterScan bits) := of_none rfl
theorem bundlePick (core picker : Nat) (fresh : Bool) : Statement (.bundlePick core picker fresh) := of_none rfl
theorem clauseChain (core picker : Nat) (fresh : Bool) : Statement (.clauseChain core picker fresh) := of_none rfl
theorem teamDispatch (launch : Nat) : Statement (.teamDispatch launch) := of_none rfl
theorem gangReserve (core : Nat) : Statement (.gangReserve core) := of_none rfl
theorem placementAging (launch : Nat) : Statement (.placementAging launch) := of_none rfl
theorem teamPreempt (team : Nat) : Statement (.teamPreempt team) := of_none rfl
theorem teamResume (team : Nat) : Statement (.teamResume team) := of_none rfl
theorem teamComplete (team : Nat) : Statement (.teamComplete team) := of_none rfl
theorem deferredMatrixTrap (thread : Nat) : Statement (.deferredMatrixTrap thread) := of_none rfl
theorem bundleLeavePicker (core picker : Nat) : Statement (.bundleLeavePicker core picker) := of_none rfl
theorem coreHang (core : Nat) : Statement (.coreHang core) := of_none rfl
theorem faultRecordWrite (ctx : Nat) : Statement (.faultRecordWrite ctx) := of_none rfl
theorem translationWalkComplete (die ctx page : Nat) : Statement (.translationWalkComplete die ctx page) := of_none rfl
theorem xivcWrite (v : Word) : Statement (.xivcWrite v) := of_none rfl
theorem frplRetry (fid : Word) : Statement (.frplRetry fid) := of_none rfl
theorem frplRefuse (fid : Word) : Statement (.frplRefuse fid) := of_none rfl
theorem snapshotAsideComplete (core tag line : Nat) : Statement (.snapshotAsideComplete core tag line) := of_none rfl
theorem matrixComputeStart (core : Nat) : Statement (.matrixComputeStart core) := of_none rfl
theorem matrixComplete (core : Nat) : Statement (.matrixComplete core) := of_none rfl
theorem copyLockRegistration (core : Nat) : Statement (.copyLockRegistration core) := of_none rfl
theorem copyChunkCommit (core tag : Nat) : Statement (.copyChunkCommit core tag) := of_none rfl
theorem copyResume (core tag : Nat) : Statement (.copyResume core tag) := of_none rfl
theorem copyComplete (core tag : Nat) : Statement (.copyComplete core tag) := of_none rfl
theorem zeroCopyComplete (core tag : Nat) : Statement (.zeroCopyComplete core tag) := of_none rfl
theorem circuitCopyStart (core tag : Nat) : Statement (.circuitCopyStart core tag) := of_none rfl
theorem scoutOutcome (thread : Nat) : Statement (.scoutOutcome thread) := of_none rfl
theorem scoutBudgetEnd (thread : Nat) : Statement (.scoutBudgetEnd thread) := of_none rfl
theorem scoutRestore (thread : Nat) : Statement (.scoutRestore thread) := of_none rfl
theorem wavelengthLock (port : Nat) (locked : BitVec 8) : Statement (.wavelengthLock port locked) := of_none rfl
theorem wavelengthDead (port w : Nat) : Statement (.wavelengthDead port w) := of_none rfl
theorem retrainRelock (port : Nat) : Statement (.retrainRelock port) := of_none rfl
theorem portLockTimeout (port : Nat) : Statement (.portLockTimeout port) := of_none rfl
theorem portTrained (port : Nat) : Statement (.portTrained port) := of_none rfl
theorem portTrainingTimeout (port : Nat) : Statement (.portTrainingTimeout port) := of_none rfl
theorem helloSend (port : Nat) : Statement (.helloSend port) := of_none rfl
theorem hello (port : Nat) (bytes : List Byte) (fixed lost : Nat) (touched : Bool) : Statement (.hello port bytes fixed lost touched) := of_none rfl
theorem portHelloTimeout (port : Nat) : Statement (.portHelloTimeout port) := of_none rfl
theorem retrain (arrived : PortFlit) : Statement (.retrain arrived) := of_none rfl
theorem lossOfLight (port : Nat) : Statement (.lossOfLight port) := of_none rfl
theorem engineFailure (engine : Nat) : Statement (.engineFailure engine) := of_none rfl
theorem dataFlit (port : Nat) (bytes : List Byte) (code : FlitCode) : Statement (.dataFlit port bytes code) := of_none rfl
theorem idleFlit (port : Nat) (flit : FlitIn) : Statement (.idleFlit port flit) := of_none rfl
theorem nak (port aseq : Nat) : Statement (.nak port aseq) := of_none rfl
theorem ackReport (port : Nat) : Statement (.ackReport port) := of_none rfl
theorem replayLimit (port : Nat) : Statement (.replayLimit port) := of_none rfl
theorem frameReceive (q : Nat) (bytes : List Byte) : Statement (.frameReceive q bytes) := of_none rfl
theorem store (p : Packet) : Statement (.store p) := of_none rfl
theorem redPacket (p : Packet) : Statement (.redPacket p) := of_none rfl
theorem load (p : Packet) : Statement (.load p) := of_none rfl
theorem atomPacket (p : Packet) : Statement (.atomPacket p) := of_none rfl
theorem reply (p : Packet) : Statement (.reply p) := of_none rfl
theorem ack (p : Packet) : Statement (.ack p) := of_none rfl
theorem hold (p : Packet) : Statement (.hold p) := of_none rfl
theorem refuse (p : Packet) : Statement (.refuse p) := of_none rfl
theorem busy (p : Packet) : Statement (.busy p) := of_none rfl
theorem chunk (p : Packet) : Statement (.chunk p) := of_none rfl
theorem commit (p : Packet) : Statement (.commit p) := of_none rfl
theorem gdata (p : Packet) : Statement (.gdata p) := of_none rfl
theorem gclear (p : Packet) : Statement (.gclear p) := of_none rfl
theorem rdata (p : Packet) : Statement (.rdata p) := of_none rfl
theorem rfree (p : Packet) : Statement (.rfree p) := of_none rfl
theorem back (p : Packet) : Statement (.back p) := of_none rfl
theorem swrep (p : Packet) : Statement (.swrep p) := of_none rfl
theorem requestResend (chip lane serial : Nat) : Statement (.requestResend chip lane serial) := of_none rfl
theorem leaseEnd (port : Nat) : Statement (.leaseEnd port) := of_none rfl
theorem scriptStart (k : Nat) : Statement (.scriptStart k) := of_none rfl
theorem bellowsWaitTimeout (k : Nat) : Statement (.bellowsWaitTimeout k) := of_none rfl
theorem graphOpComplete (slot op : Nat) : Statement (.graphOpComplete slot op) := of_none rfl
theorem blockForward (index : Nat) : Statement (.blockForward index) := of_none rfl
theorem contextEnable (ctx : Nat) : Statement (.contextEnable ctx) := of_none rfl
theorem contextDisable (ctx : Nat) : Statement (.contextDisable ctx) := of_none rfl
theorem labrtWrite (ctx : Nat) (v : Word) : Statement (.labrtWrite ctx v) := of_none rfl
theorem svrplWrite (ctx : Nat) (v : DWord) : Statement (.svrplWrite ctx v) := of_none rfl
theorem tailObserve (ctx stream : Nat) : Statement (.tailObserve ctx stream) := of_none rfl
theorem streamEnable (ctx stream : Nat) : Statement (.streamEnable ctx stream) := of_none rfl
theorem streamStop (ctx stream : Nat) : Statement (.streamStop ctx stream) := of_none rfl
theorem journalRecordWrite (ctx : Nat) : Statement (.journalRecordWrite ctx) := of_none rfl
theorem groupReturn (team group : Nat) : Statement (.groupReturn team group) := of_none rfl
theorem cexclWrite (w : Nat) (v : DWord) : Statement (.cexclWrite w v) := of_none rfl
theorem scrubPass (die : Nat) (corrected : Bool) (lost : List Nat) : Statement (.scrubPass die corrected lost) := of_none rfl
theorem hostRequest (write : Bool) (off : Nat) (data : List Byte) : Statement (.hostRequest write off data) := of_none rfl
theorem huerilinkResponse (thread : Nat) (data : List Byte) : Statement (.huerilinkResponse thread data) := of_none rfl
theorem hipendWrite (half : Bool) (v : DWord) : Statement (.hipendWrite half v) := of_none rfl
theorem himaskWrite (half : Bool) (v : DWord) : Statement (.himaskWrite half v) := of_none rfl
theorem cxlLinkDown (port : Nat) : Statement (.cxlLinkDown port) := of_none rfl
theorem clockAdjust (pwravg tinlet tjmax : Nat) : Statement (.clockAdjust pwravg tinlet tjmax) := of_none rfl
theorem sleepExpire (thread : Nat) : Statement (.sleepExpire thread) := of_none rfl
theorem monwRepoll (thread : Nat) : Statement (.monwRepoll thread) := of_none rfl
theorem registerWrite (who : Agent) (off size : Nat) (v : DWord) : Statement (.registerWrite who off size v) := of_none rfl
theorem instructionResultWrite (thread index : Nat) : Statement (.instructionResultWrite thread index) := of_none rfl
theorem iadd (d a b : Reg) : Statement (.iadd d a b) := of_words rfl (Nat.le_of_ble_eq_true rfl) rfl
theorem iaddLiteral (d a : Reg) (x : Word) : Statement (.iaddLiteral d a x) := of_words rfl (Nat.le_of_ble_eq_true rfl) rfl
theorem isub (d a b : Reg) : Statement (.isub d a b) := of_words rfl (Nat.le_of_ble_eq_true rfl) rfl
theorem isubLiteral (d a : Reg) (x : Word) : Statement (.isubLiteral d a x) := of_words rfl (Nat.le_of_ble_eq_true rfl) rfl
theorem imul (d a b : Reg) : Statement (.imul d a b) := of_words rfl (Nat.le_of_ble_eq_true rfl) rfl
theorem imulLiteral (d a : Reg) (x : Word) : Statement (.imulLiteral d a x) := of_words rfl (Nat.le_of_ble_eq_true rfl) rfl
theorem imulh (u : Bool) (d a b : Reg) : Statement (.imulh u d a b) := of_words rfl (Nat.le_of_ble_eq_true rfl) rfl
theorem imulhLiteral (u : Bool) (d a : Reg) (x : Word) : Statement (.imulhLiteral u d a x) := of_words rfl (Nat.le_of_ble_eq_true rfl) rfl
theorem imulw (u : Bool) (d a b : Reg) : Statement (.imulw u d a b) := of_words rfl (Nat.le_of_ble_eq_true rfl) rfl
theorem imulwLiteral (u : Bool) (d a : Reg) (x : Word) : Statement (.imulwLiteral u d a x) := of_words rfl (Nat.le_of_ble_eq_true rfl) rfl
theorem imad (d a : Reg) (b : Src) (e : Reg) : Statement (.imad d a b e) := of_words rfl (by have := srcField_length b; simp only [List.length_cons]; omega) rfl
theorem imin (u : Bool) (d a b : Reg) : Statement (.imin u d a b) := of_words rfl (Nat.le_of_ble_eq_true rfl) rfl
theorem iminLiteral (u : Bool) (d a : Reg) (x : Word) : Statement (.iminLiteral u d a x) := of_words rfl (Nat.le_of_ble_eq_true rfl) rfl
theorem imax (u : Bool) (d a b : Reg) : Statement (.imax u d a b) := of_words rfl (Nat.le_of_ble_eq_true rfl) rfl
theorem imaxLiteral (u : Bool) (d a : Reg) (x : Word) : Statement (.imaxLiteral u d a x) := of_words rfl (Nat.le_of_ble_eq_true rfl) rfl
theorem iabs (d a : Reg) : Statement (.iabs d a) := of_words rfl (Nat.le_of_ble_eq_true rfl) rfl
theorem ineg (d a : Reg) : Statement (.ineg d a) := of_words rfl (Nat.le_of_ble_eq_true rfl) rfl
theorem icmp (c : BitVec 4) (d a b : Reg) : Statement (.icmp c d a b) := of_words rfl (Nat.le_of_ble_eq_true rfl) rfl
theorem icmpLiteral (c : BitVec 4) (d a : Reg) (x : Word) : Statement (.icmpLiteral c d a x) := of_words rfl (Nat.le_of_ble_eq_true rfl) rfl
theorem iadd64 (d a b : Reg) : Statement (.iadd64 d a b) := of_words rfl (Nat.le_of_ble_eq_true rfl) rfl
theorem lea (u : Bool) (sh : BitVec 3) (d a b : Reg) : Statement (.lea u sh d a b) := of_words rfl (Nat.le_of_ble_eq_true rfl) rfl
theorem leaLiteral (u : Bool) (sh : BitVec 3) (d a : Reg) (x : Word) : Statement (.leaLiteral u sh d a x) := of_words rfl (Nat.le_of_ble_eq_true rfl) rfl
theorem sel (d a : Reg) (b : Src) (e : Reg) : Statement (.sel d a b e) := of_words rfl (by have := srcField_length b; simp only [List.length_cons]; omega) rfl
theorem mov (d a : Reg) : Statement (.mov d a) := of_words rfl (Nat.le_of_ble_eq_true rfl) rfl
theorem movi (d : Reg) (imm : BitVec 11) : Statement (.movi d imm) := of_words rfl (Nat.le_of_ble_eq_true rfl) rfl
theorem moviLiteral (d : Reg) (x : Word) : Statement (.moviLiteral d x) := of_words rfl (Nat.le_of_ble_eq_true rfl) rfl
theorem and (d a b : Reg) : Statement (.and d a b) := of_words rfl (Nat.le_of_ble_eq_true rfl) rfl
theorem andLiteral (d a : Reg) (x : Word) : Statement (.andLiteral d a x) := of_words rfl (Nat.le_of_ble_eq_true rfl) rfl
theorem or (d a b : Reg) : Statement (.or d a b) := of_words rfl (Nat.le_of_ble_eq_true rfl) rfl
theorem orLiteral (d a : Reg) (x : Word) : Statement (.orLiteral d a x) := of_words rfl (Nat.le_of_ble_eq_true rfl) rfl
theorem xor (d a b : Reg) : Statement (.xor d a b) := of_words rfl (Nat.le_of_ble_eq_true rfl) rfl
theorem xorLiteral (d a : Reg) (x : Word) : Statement (.xorLiteral d a x) := of_words rfl (Nat.le_of_ble_eq_true rfl) rfl
theorem not (d a : Reg) : Statement (.not d a) := of_words rfl (Nat.le_of_ble_eq_true rfl) rfl
theorem shl (d a b : Reg) : Statement (.shl d a b) := of_words rfl (Nat.le_of_ble_eq_true rfl) rfl
theorem shlLiteral (d a : Reg) (x : Word) : Statement (.shlLiteral d a x) := of_words rfl (Nat.le_of_ble_eq_true rfl) rfl
theorem shr (d a b : Reg) : Statement (.shr d a b) := of_words rfl (Nat.le_of_ble_eq_true rfl) rfl
theorem shrLiteral (d a : Reg) (x : Word) : Statement (.shrLiteral d a x) := of_words rfl (Nat.le_of_ble_eq_true rfl) rfl
theorem sar (d a b : Reg) : Statement (.sar d a b) := of_words rfl (Nat.le_of_ble_eq_true rfl) rfl
theorem sarLiteral (d a : Reg) (x : Word) : Statement (.sarLiteral d a x) := of_words rfl (Nat.le_of_ble_eq_true rfl) rfl
theorem shl64 (d a b : Reg) : Statement (.shl64 d a b) := of_words rfl (Nat.le_of_ble_eq_true rfl) rfl
theorem shl64Literal (d a : Reg) (x : Word) : Statement (.shl64Literal d a x) := of_words rfl (Nat.le_of_ble_eq_true rfl) rfl
theorem shr64 (d a b : Reg) : Statement (.shr64 d a b) := of_words rfl (Nat.le_of_ble_eq_true rfl) rfl
theorem shr64Literal (d a : Reg) (x : Word) : Statement (.shr64Literal d a x) := of_words rfl (Nat.le_of_ble_eq_true rfl) rfl
theorem bfe (sx : Bool) (d a b : Reg) : Statement (.bfe sx d a b) := of_words rfl (Nat.le_of_ble_eq_true rfl) rfl
theorem bfeLiteral (sx : Bool) (d a : Reg) (x : Word) : Statement (.bfeLiteral sx d a x) := of_words rfl (Nat.le_of_ble_eq_true rfl) rfl
theorem bfi (d a : Reg) (b : Src) (e : Reg) : Statement (.bfi d a b e) := of_words rfl (by have := srcField_length b; simp only [List.length_cons]; omega) rfl
theorem brev (d a : Reg) : Statement (.brev d a) := of_words rfl (Nat.le_of_ble_eq_true rfl) rfl
theorem popc (d a : Reg) : Statement (.popc d a) := of_words rfl (Nat.le_of_ble_eq_true rfl) rfl
theorem clz (d a : Reg) : Statement (.clz d a) := of_words rfl (Nat.le_of_ble_eq_true rfl) rfl
theorem bsrd (d a b : Reg) : Statement (.bsrd d a b) := of_words rfl (Nat.le_of_ble_eq_true rfl) rfl
theorem fadd (rm : BitVec 2) (d a b : Reg) : Statement (.fadd rm d a b) := of_words rfl (Nat.le_of_ble_eq_true rfl) rfl
theorem faddLiteral (rm : BitVec 2) (d a : Reg) (x : Word) : Statement (.faddLiteral rm d a x) := of_words rfl (Nat.le_of_ble_eq_true rfl) rfl
theorem fsub (rm : BitVec 2) (d a b : Reg) : Statement (.fsub rm d a b) := of_words rfl (Nat.le_of_ble_eq_true rfl) rfl
theorem fsubLiteral (rm : BitVec 2) (d a : Reg) (x : Word) : Statement (.fsubLiteral rm d a x) := of_words rfl (Nat.le_of_ble_eq_true rfl) rfl
theorem fmul (rm : BitVec 2) (d a b : Reg) : Statement (.fmul rm d a b) := of_words rfl (Nat.le_of_ble_eq_true rfl) rfl
theorem fmulLiteral (rm : BitVec 2) (d a : Reg) (x : Word) : Statement (.fmulLiteral rm d a x) := of_words rfl (Nat.le_of_ble_eq_true rfl) rfl
theorem ffma (rm : BitVec 2) (d a : Reg) (b : Src) (e : Reg) : Statement (.ffma rm d a b e) := of_words rfl (by have := srcField_length b; simp only [List.length_cons]; omega) rfl
theorem fmin (d a b : Reg) : Statement (.fmin d a b) := of_words rfl (Nat.le_of_ble_eq_true rfl) rfl
theorem fminLiteral (d a : Reg) (x : Word) : Statement (.fminLiteral d a x) := of_words rfl (Nat.le_of_ble_eq_true rfl) rfl
theorem fmax (d a b : Reg) : Statement (.fmax d a b) := of_words rfl (Nat.le_of_ble_eq_true rfl) rfl
theorem fmaxLiteral (d a : Reg) (x : Word) : Statement (.fmaxLiteral d a x) := of_words rfl (Nat.le_of_ble_eq_true rfl) rfl
theorem fcmp (c : BitVec 4) (d a b : Reg) : Statement (.fcmp c d a b) := of_words rfl (Nat.le_of_ble_eq_true rfl) rfl
theorem fcmpLiteral (c : BitVec 4) (d a : Reg) (x : Word) : Statement (.fcmpLiteral c d a x) := of_words rfl (Nat.le_of_ble_eq_true rfl) rfl
theorem fclass (d a : Reg) : Statement (.fclass d a) := of_words rfl (Nat.le_of_ble_eq_true rfl) rfl
theorem frnd (rm : BitVec 2) (d a : Reg) : Statement (.frnd rm d a) := of_words rfl (Nat.le_of_ble_eq_true rfl) rfl
theorem exp2 (d a : Reg) (is : Issue) : Statement (.exp2 d a is) := of_words rfl (Nat.le_of_ble_eq_true rfl) rfl
theorem log2 (d a : Reg) (is : Issue) : Statement (.log2 d a is) := of_words rfl (Nat.le_of_ble_eq_true rfl) rfl
theorem rcp (d a : Reg) (is : Issue) : Statement (.rcp d a is) := of_words rfl (Nat.le_of_ble_eq_true rfl) rfl
theorem rsq (d a : Reg) (is : Issue) : Statement (.rsq d a is) := of_words rfl (Nat.le_of_ble_eq_true rfl) rfl
theorem sqrt (rm : BitVec 2) (d a : Reg) (is : Issue) : Statement (.sqrt rm d a is) := of_words rfl (Nat.le_of_ble_eq_true rfl) rfl
theorem tanh (d a : Reg) (is : Issue) : Statement (.tanh d a is) := of_words rfl (Nat.le_of_ble_eq_true rfl) rfl
theorem padd (t : BitVec 2) (sat rz : Bool) (d a b : Reg) : Statement (.padd t sat rz d a b) := of_words rfl (Nat.le_of_ble_eq_true rfl) rfl
theorem paddLiteral (t : BitVec 2) (sat rz : Bool) (d a : Reg) (x : Word) : Statement (.paddLiteral t sat rz d a x) := of_words rfl (Nat.le_of_ble_eq_true rfl) rfl
theorem pmul (t : BitVec 2) (sat rz : Bool) (d a b : Reg) : Statement (.pmul t sat rz d a b) := of_words rfl (Nat.le_of_ble_eq_true rfl) rfl
theorem pmulLiteral (t : BitVec 2) (sat rz : Bool) (d a : Reg) (x : Word) : Statement (.pmulLiteral t sat rz d a x) := of_words rfl (Nat.le_of_ble_eq_true rfl) rfl
theorem pfma (t : BitVec 2) (sat rz : Bool) (d a : Reg) (b : Src) (e : Reg) : Statement (.pfma t sat rz d a b e) := of_words rfl (by have := srcField_length b; simp only [List.length_cons]; omega) rfl
theorem pmin (t : BitVec 2) (d a b : Reg) : Statement (.pmin t d a b) := of_words rfl (Nat.le_of_ble_eq_true rfl) rfl
theorem pminLiteral (t : BitVec 2) (d a : Reg) (x : Word) : Statement (.pminLiteral t d a x) := of_words rfl (Nat.le_of_ble_eq_true rfl) rfl
theorem pmax (t : BitVec 2) (d a b : Reg) : Statement (.pmax t d a b) := of_words rfl (Nat.le_of_ble_eq_true rfl) rfl
theorem pmaxLiteral (t : BitVec 2) (d a : Reg) (x : Word) : Statement (.pmaxLiteral t d a x) := of_words rfl (Nat.le_of_ble_eq_true rfl) rfl
theorem cvt (df sf : BitVec 4) (rm : BitVec 2) (sat : Bool) (k : BitVec 3) (d a : Reg) (is : Issue) : Statement (.cvt df sf rm sat k d a is) := of_words rfl (Nat.le_of_ble_eq_true rfl) rfl
theorem cvtsr (df : BitVec 4) (sat : Bool) (d a e : Reg) (is : Issue) : Statement (.cvtsr df sat d a e is) := of_words rfl (Nat.le_of_ble_eq_true rfl) rfl
theorem pack (t : BitVec 2) (sat hi : Bool) (d a b : Reg) : Statement (.pack t sat hi d a b) := of_words rfl (Nat.le_of_ble_eq_true rfl) rfl
theorem packLiteral (t : BitVec 2) (sat hi : Bool) (d a : Reg) (x : Word) : Statement (.packLiteral t sat hi d a x) := of_words rfl (Nat.le_of_ble_eq_true rfl) rfl
theorem unpk (t : BitVec 2) (hi : Bool) (d a : Reg) : Statement (.unpk t hi d a) := of_words rfl (Nat.le_of_ble_eq_true rfl) rfl
theorem shfl (mode : BitVec 2) (d a b m : Reg) (is : Issue) : Statement (.shfl mode d a b m is) := of_words rfl (Nat.le_of_ble_eq_true rfl) rfl
theorem ballot (d a m : Reg) (is : Issue) : Statement (.ballot d a m is) := of_words rfl (Nat.le_of_ble_eq_true rfl) rfl
theorem vote (kind : BitVec 2) (d a m : Reg) (is : Issue) : Statement (.vote kind d a m is) := of_words rfl (Nat.le_of_ble_eq_true rfl) rfl
theorem redl (op : BitVec 3) (ty : BitVec 2) (d a m : Reg) (is : Issue) : Statement (.redl op ty d a m is) := of_words rfl (Nat.le_of_ble_eq_true rfl) rfl
theorem scanl (op : BitVec 3) (excl : Bool) (ty : BitVec 2) (d a m : Reg) (is : Issue) : Statement (.scanl op excl ty d a m is) := of_words rfl (Nat.le_of_ble_eq_true rfl) rfl
theorem elect (d a m : Reg) (is : Issue) : Statement (.elect d a m is) := of_words rfl (Nat.le_of_ble_eq_true rfl) rfl
theorem bra (k : BitVec 18) : Statement (.bra k) := of_words rfl (Nat.le_of_ble_eq_true rfl) rfl
theorem brc (c : Reg) (k : BitVec 18) : Statement (.brc c k) := of_words rfl (Nat.le_of_ble_eq_true rfl) rfl
theorem brx (a : Reg) : Statement (.brx a) := of_words rfl (Nat.le_of_ble_eq_true rfl) rfl
theorem call (l : Reg) (k : BitVec 18) : Statement (.call l k) := of_words rfl (Nat.le_of_ble_eq_true rfl) rfl
theorem callx (d a : Reg) : Statement (.callx d a) := of_words rfl (Nat.le_of_ble_eq_true rfl) rfl
theorem ret (a : Reg) : Statement (.ret a) := of_words rfl (Nat.le_of_ble_eq_true rfl) rfl
theorem sleep (n : BitVec 11) : Statement (.sleep n) := of_words rfl (Nat.le_of_ble_eq_true rfl) rfl
theorem sleepLiteral (n : Word) : Statement (.sleepLiteral n) := of_words rfl (Nat.le_of_ble_eq_true rfl) rfl
theorem trap (code : Byte) : Statement (.trap code) := of_words rfl (Nat.le_of_ble_eq_true rfl) rfl
theorem bar (all : Bool) (slot : BitVec 4) (a : Reg) : Statement (.bar all slot a) := of_words rfl (Nat.le_of_ble_eq_true rfl) rfl
theorem monw (m : Mem) (d a e : Reg) : Statement (.monw m d a e) := of_words rfl (by have := offField_length m.off; simp only [List.length_cons]; omega) rfl
theorem fence (k : BitVec 2) (d : Reg) : Statement (.fence k d) := of_words rfl (Nat.le_of_ble_eq_true rfl) rfl
theorem ld (m : Mem) (d a : Reg) : Statement (.ld m d a) := of_words rfl (by have := offField_length m.off; simp only [List.length_cons]; omega) rfl
theorem st (m : Mem) (a e : Reg) : Statement (.st m a e) := of_words rfl (by have := offField_length m.off; simp only [List.length_cons]; omega) rfl
theorem ldt (size : BitVec 3) (cnt : BitVec 3) (d a : Reg) (imm : BitVec 11) (p : Reg) (is : Issue) : Statement (.ldt size cnt d a imm p is) := of_words rfl (Nat.le_of_ble_eq_true rfl) rfl
theorem atom (m : Mem) (d a e : Reg) : Statement (.atom m d a e) := of_words rfl (by have := offField_length m.off; simp only [List.length_cons]; omega) rfl
theorem atomf (m : Mem) (d a e : Reg) : Statement (.atomf m d a e) := of_words rfl (by have := offField_length m.off; simp only [List.length_cons]; omega) rfl
theorem red (m : Mem) (a e : Reg) : Statement (.red m a e) := of_words rfl (by have := offField_length m.off; simp only [List.length_cons]; omega) rfl
theorem pref (m : Mem) (a : Reg) : Statement (.pref m a) := of_words rfl (by have := offField_length m.off; simp only [List.length_cons]; omega) rfl
theorem mcfg (c : BitVec 3) (a : Reg) (is : Issue) : Statement (.mcfg c a is) := of_words rfl (Nat.le_of_ble_eq_true rfl) rfl
theorem mma (af bf : BitVec 3) (as : Bool) (c : BitVec 3) (d a b n : Reg) (is : Issue) : Statement (.mma af bf as c d a b n is) := of_words rfl (Nat.le_of_ble_eq_true rfl) rfl
theorem mmas (af bf : BitVec 3) (as : Bool) (c : BitVec 3) (d a b n e : Reg) (is : Issue) : Statement (.mmas af bf as c d a b n e is) := of_words rfl (Nat.le_of_ble_eq_true rfl) rfl
theorem mzero (a b : Reg) (is : Issue) : Statement (.mzero a b is) := of_words rfl (Nat.le_of_ble_eq_true rfl) rfl
theorem mrd (n : BitVec 3) (d a b : Reg) (is : Issue) : Statement (.mrd n d a b is) := of_words rfl (Nat.le_of_ble_eq_true rfl) rfl
theorem mwr (n : BitVec 3) (a b e : Reg) (is : Issue) : Statement (.mwr n a b e is) := of_words rfl (Nat.le_of_ble_eq_true rfl) rfl
theorem mst (fmt : BitVec 3) (sat : Bool) (n : BitVec 3) (c a : Reg) (off : Off) (e : Reg) (is : Issue) : Statement (.mst fmt sat n c a off e is) := of_words rfl (by have := offField_length off; simp only [List.length_cons]; omega) rfl
theorem mwait (c : BitVec 3) (is : Issue) : Statement (.mwait c is) := of_words rfl (Nat.le_of_ble_eq_true rfl) rfl
theorem mchk (d a b : Reg) (is : Issue) : Statement (.mchk d a b is) := of_words rfl (Nat.le_of_ble_eq_true rfl) rfl
theorem cpy (tag : BitVec 6) (d a b : Reg) (is : Issue) : Statement (.cpy tag d a b is) := of_words rfl (Nat.le_of_ble_eq_true rfl) rfl
theorem tagw (any : Bool) (a : Reg) (is : Issue) : Statement (.tagw any a is) := of_words rfl (Nat.le_of_ble_eq_true rfl) rfl
theorem tagf (d a : Reg) (is : Issue) : Statement (.tagf d a is) := of_words rfl (Nat.le_of_ble_eq_true rfl) rfl
theorem tagc (a : Reg) (is : Issue) : Statement (.tagc a is) := of_words rfl (Nat.le_of_ble_eq_true rfl) rfl
theorem racq (d a b : Reg) (is : Issue) : Statement (.racq d a b is) := of_words rfl (Nat.le_of_ble_eq_true rfl) rfl
theorem rrel (a b : Reg) (is : Issue) : Statement (.rrel a b is) := of_words rfl (Nat.le_of_ble_eq_true rfl) rfl
theorem srd (d : Reg) (n : Byte) : Statement (.srd d n) := of_words rfl (Nat.le_of_ble_eq_true rfl) rfl
theorem swr (a : Reg) (n : Byte) : Statement (.swr a n) := of_words rfl (Nat.le_of_ble_eq_true rfl) rfl
theorem creq (d a b : Reg) : Statement (.creq d a b) := of_words rfl (Nat.le_of_ble_eq_true rfl) rfl
theorem cawt (d a b : Reg) : Statement (.cawt d a b) := of_words rfl (Nat.le_of_ble_eq_true rfl) rfl
theorem crel (d a : Reg) : Statement (.crel d a) := of_words rfl (Nat.le_of_ble_eq_true rfl) rfl
theorem csta (d a : Reg) : Statement (.csta d a) := of_words rfl (Nat.le_of_ble_eq_true rfl) rfl
theorem gload (d a b : Reg) : Statement (.gload d a b) := of_words rfl (Nat.le_of_ble_eq_true rfl) rfl
theorem grun (d a b : Reg) : Statement (.grun d a b) := of_words rfl (Nat.le_of_ble_eq_true rfl) rfl
theorem gwait (d a b : Reg) : Statement (.gwait d a b) := of_words rfl (Nat.le_of_ble_eq_true rfl) rfl
theorem rotb (d a b : Reg) : Statement (.rotb d a b) := of_words rfl (Nat.le_of_ble_eq_true rfl) rfl
theorem rote (d a b : Reg) : Statement (.rote d a b) := of_words rfl (Nat.le_of_ble_eq_true rfl) rfl
theorem sems (d a b : Reg) : Statement (.sems d a b) := of_words rfl (Nat.le_of_ble_eq_true rfl) rfl
theorem semw (d a b : Reg) : Statement (.semw d a b) := of_words rfl (Nat.le_of_ble_eq_true rfl) rfl
theorem launch (rec : DWord) : Statement (.launch rec) := of_words rfl (Nat.le_of_ble_eq_true rfl) rfl
theorem ib (addr : DWord) : Statement (.ib addr) := of_words rfl (Nat.le_of_ble_eq_true rfl) rfl
theorem predw (cc : BitVec 3) (mark : BitVec 16) (addr : DWord) (val : Word) : Statement (.predw cc mark addr val) := of_words rfl (Nat.le_of_ble_eq_true rfl) rfl
theorem jmark (mark : BitVec 16) : Statement (.jmark mark) := of_words rfl (Nat.le_of_ble_eq_true rfl) rfl
theorem loop (count : Word) : Statement (.loop count) := of_words rfl (Nat.le_of_ble_eq_true rfl) rfl
theorem mwri (wide : Bool) (addr val : DWord) : Statement (.mwri wide addr val) := by cases wide <;> exact of_words rfl (Nat.le_of_ble_eq_true rfl) rfl
theorem pin (va len : DWord) : Statement (.pin va len) := of_words rfl (Nat.le_of_ble_eq_true rfl) rfl
theorem unpin (va len : DWord) : Statement (.unpin va len) := of_words rfl (Nat.le_of_ble_eq_true rfl) rfl
theorem biasDev (va len : DWord) : Statement (.biasDev va len) := of_words rfl (Nat.le_of_ble_eq_true rfl) rfl
theorem biasHost (va len : DWord) : Statement (.biasHost va len) := of_words rfl (Nat.le_of_ble_eq_true rfl) rfl
theorem tsw (addr : DWord) : Statement (.tsw addr) := of_words rfl (Nat.le_of_ble_eq_true rfl) rfl
theorem bstrt (k : BitVec 2) (pc arg : DWord) : Statement (.bstrt k pc arg) := of_words rfl (Nat.le_of_ble_eq_true rfl) rfl
theorem hearthSems (n : Byte) (val : DWord) : Statement (.hearthSems n val) := of_words rfl (Nat.le_of_ble_eq_true rfl) rfl
theorem hearthSemw (dec : Bool) (n : Byte) (val : DWord) : Statement (.hearthSemw dec n val) := of_words rfl (Nat.le_of_ble_eq_true rfl) rfl
theorem moduleReset : Statement .moduleReset := of_none rfl
theorem quenchPin : Statement .quenchPin := of_none rfl
theorem bypass : Statement .bypass := of_none rfl
theorem idcode : Statement .idcode := of_none rfl
theorem samplePreload : Statement .samplePreload := of_none rfl
theorem extest : Statement .extest := of_none rfl
theorem qsel : Statement .qsel := of_none rfl
theorem qscan : Statement .qscan := of_none rfl
theorem invalidationComplete : Statement .invalidationComplete := of_none rfl
theorem biasFlipComplete : Statement .biasFlipComplete := of_none rfl
theorem nakRepeat : Statement .nakRepeat := of_none rfl
theorem sourceEntryExpire : Statement .sourceEntryExpire := of_none rfl
theorem remoteHoldExpire : Statement .remoteHoldExpire := of_none rfl
theorem rfreeRepeat : Statement .rfreeRepeat := of_none rfl
theorem attest : Statement .attest := of_none rfl
theorem loadFirmwareImage : Statement .loadFirmwareImage := of_none rfl
theorem reportIdentity : Statement .reportIdentity := of_none rfl
theorem freeze : Statement .freeze := of_none rfl
theorem mgmtCommandComplete : Statement .mgmtCommandComplete := of_none rfl
theorem thermalQuench : Statement .thermalQuench := of_none rfl
theorem exit : Statement .exit := of_words rfl (Nat.le_of_ble_eq_true rfl) rfl
theorem nop : Statement .nop := of_words rfl (Nat.le_of_ble_eq_true rfl) rfl
theorem yield : Statement .yield := of_words rfl (Nat.le_of_ble_eq_true rfl) rfl
theorem svc : Statement .svc := of_words rfl (Nat.le_of_ble_eq_true rfl) rfl
theorem eret : Statement .eret := of_words rfl (Nat.le_of_ble_eq_true rfl) rfl
theorem bkpt : Statement .bkpt := of_words rfl (Nat.le_of_ble_eq_true rfl) rfl
theorem ibret : Statement .ibret := of_words rfl (Nat.le_of_ble_eq_true rfl) rfl
theorem endl : Statement .endl := of_words rfl (Nat.le_of_ble_eq_true rfl) rfl
theorem ffence : Statement .ffence := of_words rfl (Nat.le_of_ble_eq_true rfl) rfl

end Sys2Proof.Laws.Length
end

