-- ==== Sys2Proof/Laws/Tables.lean ====
section
/-! SUPPORT. Tables, number lists and memory: a read after a write, and the canonical form that every write keeps. -/
namespace Sys2Proof.Machine
open Sys2Proof

/-! ### Folds and tables -/

theorem foldNat_eq {α : Type} (f : Nat → α → Nat) (l : List α) (n : Nat) : foldNat f l n = l.foldl f n := by
  induction l generalizing n with
  | nil => rfl
  | cons x t ih => simp only [foldNat, List.foldl]; split <;> rename_i h <;> rw [ih, h]

@[simp] theorem tget_nil {α : Type} (d : α) (n : Nat) : tget d [] n = d := rfl

theorem tget_tdel {α : Type} (d : α) (t : Tab α) (n m : Nat) :
    tget d (tdel t n) m = if m = n then d else tget d t m := by
  induction t with
  | nil => simp [tdel]
  | cons x t ih =>
    obtain ⟨k, v⟩ := x
    simp only [tdel, tget]
    by_cases hk : n = k
    · subst hk
      simp only [beq_self_eq_true, ↓reduceIte, ih]
      by_cases hm : m = n <;> simp [hm]
    · by_cases hm : m = n
      · subst hm; simp [hk, tget, ih]
      · by_cases hmk : m = k
        · subst hmk; simp [hk, tget, hm]
        · simp [hk, tget, hmk, ih, hm]

theorem tget_tins {α : Type} (d : α) (t : Tab α) (n m : Nat) (x : α) :
    tget d (tins t n x) m = if m = n then x else tget d t m := by
  induction t with
  | nil => simp [tins, tget]
  | cons y t ih =>
    obtain ⟨k, v⟩ := y
    simp only [tins]
    by_cases hlt : n < k
    · simp only [hlt, ↓reduceIte, tget]
      by_cases hm : m = n <;> simp [hm]
    · by_cases hk : n = k
      · subst hk
        by_cases hm : m = n <;> simp [tget, hm]
      · simp only [hlt, ↓reduceIte, beq_iff_eq, hk, tget, ih]
        by_cases hm : m = n
        · subst hm; simp [hk]
        · simp [hm]

/-- A table read after a write. -/
theorem tget_tset {α : Type} [DecidableEq α] (d : α) (t : Tab α) (n m : Nat) (x : α) :
    tget d (tset d t n x) m = if m = n then x else tget d t m := by
  unfold tset
  by_cases h : x = d
  · simp only [h, ↓reduceIte, tget_tdel]
  · simp only [h, ↓reduceIte, tget_tins]

@[simp] theorem tget_tset_same {α : Type} [DecidableEq α] (d : α) (t : Tab α) (n : Nat) (x : α) :
    tget d (tset d t n x) n = x := by simp [tget_tset]
theorem tget_tset_other {α : Type} [DecidableEq α] (d : α) (t : Tab α) {n m : Nat} (x : α) (h : m ≠ n) :
    tget d (tset d t n x) m = tget d t m := by simp [tget_tset, h]

/-! ### The canonical form of a table -/

/-- Canonical, said by membership: sorted numbers, no default. -/
theorem twf_iff {α : Type} [DecidableEq α] (d : α) (t : Tab α) :
    twf d t = true ↔ (t.map (·.1)).Pairwise (· < ·) ∧ ∀ x ∈ t, x.2 ≠ d := by
  induction t with
  | nil => simp [twf]
  | cons x t ih =>
    obtain ⟨k, v⟩ := x
    cases t with
    | nil => simp [twf]
    | cons y t =>
      obtain ⟨k', v'⟩ := y
      simp only [twf, Bool.and_eq_true, decide_eq_true_eq, Bool.not_eq_true', decide_eq_false_iff_not, ih]
      simp only [List.map_cons, List.pairwise_cons, List.mem_cons]
      constructor
      · rintro ⟨⟨h1, h2⟩, ⟨h3, h4⟩, h5⟩
        refine ⟨⟨?_, h3, h4⟩, ?_⟩
        · rintro a (rfl | ha)
          · exact h1
          · exact lt_trans h1 (h3 a ha)
        · rintro x (rfl | hx)
          · exact h2
          · exact h5 x hx
      · rintro ⟨⟨h1, h3, h4⟩, h5⟩
        exact ⟨⟨h1 _ (.inl rfl), h5 _ (.inl rfl)⟩, ⟨h3, h4⟩, fun x hx => h5 x (.inr hx)⟩

theorem mem_tdel {α : Type} {t : Tab α} {n : Nat} {x : Nat × α} (h : x ∈ tdel t n) : x ∈ t := by
  induction t with
  | nil => simp [tdel] at h
  | cons y t ih =>
    obtain ⟨k, v⟩ := y
    simp only [tdel] at h
    split at h
    · exact List.mem_cons_of_mem _ (ih h)
    · rcases List.mem_cons.mp h with rfl | h
      · exact List.mem_cons_self
      · exact List.mem_cons_of_mem _ (ih h)

theorem mem_tins {α : Type} {t : Tab α} {n : Nat} {v : α} {x : Nat × α} (h : x ∈ tins t n v) : x = (n, v) ∨ x ∈ t := by
  induction t with
  | nil => simpa [tins] using h
  | cons y t ih =>
    obtain ⟨k, w⟩ := y
    simp only [tins] at h
    split at h
    · simpa using h
    · split at h
      · rcases List.mem_cons.mp h with rfl | h
        · exact .inl rfl
        · exact .inr (List.mem_cons_of_mem _ h)
      · rcases List.mem_cons.mp h with rfl | h
        · exact .inr List.mem_cons_self
        · exact (ih h).imp id (List.mem_cons_of_mem _)

theorem sorted_tdel {α : Type} {t : Tab α} (n : Nat) (h : (t.map (·.1)).Pairwise (· < ·)) :
    ((tdel t n).map (·.1)).Pairwise (· < ·) := by
  induction t with
  | nil => simp [tdel]
  | cons y t ih =>
    obtain ⟨k, v⟩ := y
    simp only [List.map_cons, List.pairwise_cons] at h
    simp only [tdel]
    split
    · exact ih h.2
    · simp only [List.map_cons, List.pairwise_cons]
      refine ⟨?_, ih h.2⟩
      intro a ha
      obtain ⟨x, hx, rfl⟩ := List.mem_map.mp ha
      exact h.1 _ (List.mem_map.mpr ⟨x, mem_tdel hx, rfl⟩)

theorem sorted_tins {α : Type} {t : Tab α} (n : Nat) (v : α) (h : (t.map (·.1)).Pairwise (· < ·)) :
    ((tins t n v).map (·.1)).Pairwise (· < ·) := by
  induction t with
  | nil => simp [tins]
  | cons y t ih =>
    obtain ⟨k, w⟩ := y
    have h' := h
    simp only [List.map_cons, List.pairwise_cons] at h
    simp only [tins]
    split
    next hlt =>
      simp only [List.map_cons, List.pairwise_cons]
      refine ⟨?_, h.1, h.2⟩
      intro a ha
      rcases List.mem_cons.mp ha with rfl | ha
      · exact hlt
      · exact lt_trans hlt (h.1 a ha)
    next hlt =>
      split
      next he =>
        have : n = k := by simpa using he
        subst this
        exact h'
      next hne =>
        simp only [List.map_cons, List.pairwise_cons]
        refine ⟨?_, ih h.2⟩
        intro a ha
        obtain ⟨x, hx, rfl⟩ := List.mem_map.mp ha
        rcases mem_tins hx with rfl | hx
        · have : n ≠ k := by simpa using hne
          show k < n
          omega
        · exact h.1 _ (List.mem_map.mpr ⟨x, hx, rfl⟩)

/-- A write keeps a table canonical. -/
theorem twf_tset {α : Type} [DecidableEq α] (d : α) (t : Tab α) (n : Nat) (x : α) (h : twf d t = true) :
    twf d (tset d t n x) = true := by
  rw [twf_iff] at h ⊢
  unfold tset
  split
  · exact ⟨sorted_tdel n h.1, fun y hy => h.2 y (mem_tdel hy)⟩
  next hx =>
    refine ⟨sorted_tins n x h.1, fun y hy => ?_⟩
    rcases mem_tins hy with rfl | hy
    · exact hx
    · exact h.2 y hy

/-- Two canonical tables that read alike are the same data. -/
theorem twf_ext {α : Type} [DecidableEq α] (d : α) {t u : Tab α} (ht : twf d t = true) (hu : twf d u = true)
    (h : ∀ n, tget d t n = tget d u n) : t = u := by
  have absent : ∀ {t : Tab α} {n : Nat}, (∀ x ∈ t, n < x.1) → tget d t n = d := by
    intro t n h
    induction t with
    | nil => rfl
    | cons x t ih =>
      obtain ⟨k, v⟩ := x
      have hk : n < k := h _ List.mem_cons_self
      have : ¬ n = k := by omega
      simp only [tget, beq_iff_eq, this, ↓reduceIte]
      exact ih fun x hx => h x (List.mem_cons_of_mem _ hx)
  induction t generalizing u with
  | nil =>
    cases u with
    | nil => rfl
    | cons y u =>
      obtain ⟨k, v⟩ := y
      have := h k
      simp only [tget, beq_self_eq_true, ↓reduceIte] at this
      exact absurd this.symm ((twf_iff d _).mp hu |>.2 _ List.mem_cons_self)
  | cons x t ih =>
    obtain ⟨j, w⟩ := x
    have ht' := (twf_iff d _).mp ht
    cases u with
    | nil =>
      have := h j
      simp only [tget, beq_self_eq_true, ↓reduceIte] at this
      exact absurd this (ht'.2 _ List.mem_cons_self)
    | cons y u =>
      obtain ⟨k, v⟩ := y
      have hu' := (twf_iff d _).mp hu
      simp only [List.map_cons, List.pairwise_cons] at ht' hu'
      have above : ∀ x ∈ t, j < x.1 := fun x hx => ht'.1.1 _ (List.mem_map.mpr ⟨x, hx, rfl⟩)
      have above' : ∀ x ∈ u, k < x.1 := fun x hx => hu'.1.1 _ (List.mem_map.mpr ⟨x, hx, rfl⟩)
      have hjk : j = k := by
        rcases Nat.lt_trichotomy j k with hl | he | hl
        · have := h j
          have e : tget d ((k, v) :: u) j = d := absent (by
            intro x hx
            rcases List.mem_cons.mp hx with rfl | hx
            · exact hl
            · exact lt_trans hl (above' x hx))
          rw [e] at this
          simp only [tget, beq_self_eq_true, ↓reduceIte] at this
          exact absurd this (ht'.2 _ List.mem_cons_self)
        · exact he
        · have := h k
          have e : tget d ((j, w) :: t) k = d := absent (by
            intro x hx
            rcases List.mem_cons.mp hx with rfl | hx
            · exact hl
            · exact lt_trans hl (above x hx))
          rw [e] at this
          simp only [tget, beq_self_eq_true, ↓reduceIte] at this
          exact absurd this.symm (hu'.2 _ List.mem_cons_self)
      subst hjk
      have hwv : w = v := by simpa [tget] using h j
      subst hwv
      have : t = u := by
        apply ih
        · exact (twf_iff d _).mpr ⟨ht'.1.2, fun x hx => ht'.2 x (List.mem_cons_of_mem _ hx)⟩
        · exact (twf_iff d _).mpr ⟨hu'.1.2, fun x hx => hu'.2 x (List.mem_cons_of_mem _ hx)⟩
        · intro n
          by_cases hn : n = j
          · subst hn; rw [absent above, absent above']
          · have := h n
            simpa [tget, hn] using this
      rw [this]

/-! ### Number lists -/

theorem nmem_nins (l : List Nat) (n m : Nat) : nmem (nins l n) m = (m == n || nmem l m) := by
  induction l with
  | nil => simp [nins, nmem]
  | cons k t ih =>
    simp only [nins]
    split
    · simp [nmem]
    · split
      next h => have : n = k := by simpa using h
                subst this; simp [nmem]
      · simp only [nmem, ih]; cases m == k <;> cases m == n <;> rfl

theorem nmem_ndel (l : List Nat) (n m : Nat) : nmem (ndel l n) m = (nmem l m && !(m == n)) := by
  induction l with
  | nil => simp [ndel, nmem]
  | cons k t ih =>
    simp only [ndel]
    split
    next h => have : n = k := by simpa using h
              subst this; simp only [ih, nmem]; cases m == n <;> simp
    next h =>
      simp only [nmem, ih]
      by_cases hm : m = k
      · subst hm
        have : ¬ m = n := fun e => h (by simp [e])
        simp [this]
      · have : (m == k) = false := by simpa using hm
        rw [this, Bool.false_or, Bool.false_or]

theorem nmem_nput (l : List Nat) (n m : Nat) (on : Bool) : nmem (nput l n on) m = if m = n then on else nmem l m := by
  cases on <;> by_cases h : m = n <;> simp [nput, nmem_nins, nmem_ndel, h]

/-! ### Memory -/

/-- Every write of bytes keeps memory canonical. -/
theorem putBytes_wf (m : List Host.Cell) (off : Nat) (l : List Byte) (h : Memory.wf m = true) :
    Memory.wf (putBytes m off l) = true := by
  induction l generalizing m off with
  | nil => exact h
  | cons b t ih => exact ih _ _ (twf_tset _ _ _ _ h)

/-- A byte read after a write of bytes. -/
theorem tget_putBytes (m : List Host.Cell) (off : Nat) (l : List Byte) (a : Nat) :
    tget unlisted (putBytes m off l) a =
      if off ≤ a ∧ a < off + l.length then l.getD (a - off) 0 else tget unlisted m a := by
  induction l generalizing m off with
  | nil => have h : ¬ (off ≤ a ∧ a < off + ([] : List Byte).length) := by simp
           rw [if_neg h]; rfl
  | cons b t ih =>
    simp only [putBytes, ih, tget_tset, List.length_cons]
    by_cases h1 : a = off
    · subst h1; simp
    · by_cases h2 : off ≤ a ∧ a < off + (t.length + 1)
      · have h3 : off + 1 ≤ a ∧ a < off + 1 + t.length := by omega
        have h4 : a - off = (a - (off + 1)) + 1 := by omega
        simp [h2, h3, h4]
      · have h3 : ¬ (off + 1 ≤ a ∧ a < off + 1 + t.length) := by omega
        rw [if_neg h3, if_neg h1, if_neg h2]

/-- Outside the bytes written, memory reads as before. -/
theorem putBytes_other (m : List Host.Cell) (off : Nat) (l : List Byte) (a : Nat) (h : a < off ∨ off + l.length ≤ a) :
    tget unlisted (putBytes m off l) a = tget unlisted m a := by
  rw [tget_putBytes, if_neg (by omega)]

/-! ### Lists -/

@[simp] theorem lset_length {α : Type} (l : List α) (i : Nat) (x : α) : (lset l i x).length = l.length := by simp [lset]

theorem lset_getD {α : Type} (l : List α) (i j : Nat) (x d : α) :
    (lset l i x).getD j d = if i = j ∧ j < l.length then x else l.getD j d := by
  unfold lset
  by_cases h : i = j
  · subst h
    by_cases hl : i < l.length
    · simp [hl]
    · simp [hl]
  · simp [h, List.getD_eq_getElem?_getD]

end Sys2Proof.Machine
end

