-- ==== Sys2Proof/Laws/State.lean ====
section
/-! SUPPORT. What each update of the state leaves as it was, one lemma per field, and what it changes. -/
namespace Sys2Proof.Machine
open Sys2Proof


/-! ### setCore changes the field cores alone -/

@[simp] theorem State.setCore_mem (s : State) (c : Nat) (x : Core) : (s.setCore c x).mem = s.mem := rfl
@[simp] theorem State.setCore_poison (s : State) (c : Nat) (x : Core) : (s.setCore c x).poison = s.poison := rfl
@[simp] theorem State.setCore_bias (s : State) (c : Nat) (x : Core) : (s.setCore c x).bias = s.bias := rfl
@[simp] theorem State.setCore_cycle (s : State) (c : Nat) (x : Core) : (s.setCore c x).cycle = s.cycle := rfl
@[simp] theorem State.setCore_htime (s : State) (c : Nat) (x : Core) : (s.setCore c x).htime = s.htime := rfl
@[simp] theorem State.setCore_frozen (s : State) (c : Nat) (x : Core) : (s.setCore c x).frozen = s.frozen := rfl
@[simp] theorem State.setCore_hub (s : State) (c : Nat) (x : Core) : (s.setCore c x).hub = s.hub := rfl
@[simp] theorem State.setCore_threads (s : State) (c : Nat) (x : Core) : (s.setCore c x).threads = s.threads := rfl
@[simp] theorem State.setCore_teams (s : State) (c : Nat) (x : Core) : (s.setCore c x).teams = s.teams := rfl
@[simp] theorem State.setCore_launches (s : State) (c : Nat) (x : Core) : (s.setCore c x).launches = s.launches := rfl
@[simp] theorem State.setCore_ctxs (s : State) (c : Nat) (x : Core) : (s.setCore c x).ctxs = s.ctxs := rfl
@[simp] theorem State.setCore_scripts (s : State) (c : Nat) (x : Core) : (s.setCore c x).scripts = s.scripts := rfl
@[simp] theorem State.setCore_graphs (s : State) (c : Nat) (x : Core) : (s.setCore c x).graphs = s.graphs := rfl
@[simp] theorem State.setCore_rots (s : State) (c : Nat) (x : Core) : (s.setCore c x).rots = s.rots := rfl
@[simp] theorem State.setCore_ports (s : State) (c : Nat) (x : Core) : (s.setCore c x).ports = s.ports := rfl
@[simp] theorem State.setCore_dtlb (s : State) (c : Nat) (x : Core) : (s.setCore c x).dtlb = s.dtlb := rfl
@[simp] theorem State.setCore_pinned (s : State) (c : Nat) (x : Core) : (s.setCore c x).pinned = s.pinned := rfl
@[simp] theorem State.setCore_walks (s : State) (c : Nat) (x : Core) : (s.setCore c x).walks = s.walks := rfl
@[simp] theorem State.setCore_faults (s : State) (c : Nat) (x : Core) : (s.setCore c x).faults = s.faults := rfl
@[simp] theorem State.setCore_l2 (s : State) (c : Nat) (x : Core) : (s.setCore c x).l2 = s.l2 := rfl
@[simp] theorem State.setCore_dirty (s : State) (c : Nat) (x : Core) : (s.setCore c x).dirty = s.dirty := rfl
@[simp] theorem State.setCore_snoops (s : State) (c : Nat) (x : Core) : (s.setCore c x).snoops = s.snoops := rfl
@[simp] theorem State.setCore_coherent (s : State) (c : Nat) (x : Core) : (s.setCore c x).coherent = s.coherent := rfl
@[simp] theorem State.setCore_flips (s : State) (c : Nat) (x : Core) : (s.setCore c x).flips = s.flips := rfl
@[simp] theorem State.setCore_lanes (s : State) (c : Nat) (x : Core) : (s.setCore c x).lanes = s.lanes := rfl
@[simp] theorem State.setCore_served (s : State) (c : Nat) (x : Core) : (s.setCore c x).served = s.served := rfl
@[simp] theorem State.setCore_chips (s : State) (c : Nat) (x : Core) : (s.setCore c x).chips = s.chips := rfl
@[simp] theorem State.setCore_staged (s : State) (c : Nat) (x : Core) : (s.setCore c x).staged = s.staged := rfl
@[simp] theorem State.setCore_commitq (s : State) (c : Nat) (x : Core) : (s.setCore c x).commitq = s.commitq := rfl
@[simp] theorem State.setCore_commits (s : State) (c : Nat) (x : Core) : (s.setCore c x).commits = s.commits := rfl
@[simp] theorem State.setCore_cwords (s : State) (c : Nat) (x : Core) : (s.setCore c x).cwords = s.cwords := rfl
@[simp] theorem State.setCore_farLocks (s : State) (c : Nat) (x : Core) : (s.setCore c x).farLocks = s.farLocks := rfl
@[simp] theorem State.setCore_hostq (s : State) (c : Nat) (x : Core) : (s.setCore c x).hostq = s.hostq := rfl
@[simp] theorem State.setCore_hubq (s : State) (c : Nat) (x : Core) : (s.setCore c x).hubq = s.hubq := rfl
@[simp] theorem State.setCore_noted (s : State) (c : Nat) (x : Core) : (s.setCore c x).noted = s.noted := rfl
@[simp] theorem State.setCore_gang (s : State) (c : Nat) (x : Core) : (s.setCore c x).gang = s.gang := rfl
@[simp] theorem State.setCore_jtag (s : State) (c : Nat) (x : Core) : (s.setCore c x).jtag = s.jtag := rfl
@[simp] theorem State.setCore_flash (s : State) (c : Nat) (x : Core) : (s.setCore c x).flash = s.flash := rfl
@[simp] theorem State.setCore_sent (s : State) (c : Nat) (x : Core) : (s.setCore c x).sent = s.sent := rfl
@[simp] theorem State.setCore_agenda (s : State) (c : Nat) (x : Core) : (s.setCore c x).agenda = s.agenda := rfl
@[simp] theorem State.setCore_cur (s : State) (c : Nat) (x : Core) : (s.setCore c x).cur = s.cur := rfl
@[simp] theorem State.setCore_draws (s : State) (c : Nat) (x : Core) : (s.setCore c x).draws = s.draws := rfl
@[simp] theorem State.setCore_nextUid (s : State) (c : Nat) (x : Core) : (s.setCore c x).nextUid = s.nextUid := rfl

/-! ### setCtx changes the field ctxs alone -/

@[simp] theorem State.setCtx_mem (s : State) (c : Nat) (x : Ctx) : (s.setCtx c x).mem = s.mem := rfl
@[simp] theorem State.setCtx_poison (s : State) (c : Nat) (x : Ctx) : (s.setCtx c x).poison = s.poison := rfl
@[simp] theorem State.setCtx_bias (s : State) (c : Nat) (x : Ctx) : (s.setCtx c x).bias = s.bias := rfl
@[simp] theorem State.setCtx_cycle (s : State) (c : Nat) (x : Ctx) : (s.setCtx c x).cycle = s.cycle := rfl
@[simp] theorem State.setCtx_htime (s : State) (c : Nat) (x : Ctx) : (s.setCtx c x).htime = s.htime := rfl
@[simp] theorem State.setCtx_frozen (s : State) (c : Nat) (x : Ctx) : (s.setCtx c x).frozen = s.frozen := rfl
@[simp] theorem State.setCtx_hub (s : State) (c : Nat) (x : Ctx) : (s.setCtx c x).hub = s.hub := rfl
@[simp] theorem State.setCtx_cores (s : State) (c : Nat) (x : Ctx) : (s.setCtx c x).cores = s.cores := rfl
@[simp] theorem State.setCtx_threads (s : State) (c : Nat) (x : Ctx) : (s.setCtx c x).threads = s.threads := rfl
@[simp] theorem State.setCtx_teams (s : State) (c : Nat) (x : Ctx) : (s.setCtx c x).teams = s.teams := rfl
@[simp] theorem State.setCtx_launches (s : State) (c : Nat) (x : Ctx) : (s.setCtx c x).launches = s.launches := rfl
@[simp] theorem State.setCtx_scripts (s : State) (c : Nat) (x : Ctx) : (s.setCtx c x).scripts = s.scripts := rfl
@[simp] theorem State.setCtx_graphs (s : State) (c : Nat) (x : Ctx) : (s.setCtx c x).graphs = s.graphs := rfl
@[simp] theorem State.setCtx_rots (s : State) (c : Nat) (x : Ctx) : (s.setCtx c x).rots = s.rots := rfl
@[simp] theorem State.setCtx_ports (s : State) (c : Nat) (x : Ctx) : (s.setCtx c x).ports = s.ports := rfl
@[simp] theorem State.setCtx_dtlb (s : State) (c : Nat) (x : Ctx) : (s.setCtx c x).dtlb = s.dtlb := rfl
@[simp] theorem State.setCtx_pinned (s : State) (c : Nat) (x : Ctx) : (s.setCtx c x).pinned = s.pinned := rfl
@[simp] theorem State.setCtx_walks (s : State) (c : Nat) (x : Ctx) : (s.setCtx c x).walks = s.walks := rfl
@[simp] theorem State.setCtx_faults (s : State) (c : Nat) (x : Ctx) : (s.setCtx c x).faults = s.faults := rfl
@[simp] theorem State.setCtx_l2 (s : State) (c : Nat) (x : Ctx) : (s.setCtx c x).l2 = s.l2 := rfl
@[simp] theorem State.setCtx_dirty (s : State) (c : Nat) (x : Ctx) : (s.setCtx c x).dirty = s.dirty := rfl
@[simp] theorem State.setCtx_snoops (s : State) (c : Nat) (x : Ctx) : (s.setCtx c x).snoops = s.snoops := rfl
@[simp] theorem State.setCtx_coherent (s : State) (c : Nat) (x : Ctx) : (s.setCtx c x).coherent = s.coherent := rfl
@[simp] theorem State.setCtx_flips (s : State) (c : Nat) (x : Ctx) : (s.setCtx c x).flips = s.flips := rfl
@[simp] theorem State.setCtx_lanes (s : State) (c : Nat) (x : Ctx) : (s.setCtx c x).lanes = s.lanes := rfl
@[simp] theorem State.setCtx_served (s : State) (c : Nat) (x : Ctx) : (s.setCtx c x).served = s.served := rfl
@[simp] theorem State.setCtx_chips (s : State) (c : Nat) (x : Ctx) : (s.setCtx c x).chips = s.chips := rfl
@[simp] theorem State.setCtx_staged (s : State) (c : Nat) (x : Ctx) : (s.setCtx c x).staged = s.staged := rfl
@[simp] theorem State.setCtx_commitq (s : State) (c : Nat) (x : Ctx) : (s.setCtx c x).commitq = s.commitq := rfl
@[simp] theorem State.setCtx_commits (s : State) (c : Nat) (x : Ctx) : (s.setCtx c x).commits = s.commits := rfl
@[simp] theorem State.setCtx_cwords (s : State) (c : Nat) (x : Ctx) : (s.setCtx c x).cwords = s.cwords := rfl
@[simp] theorem State.setCtx_farLocks (s : State) (c : Nat) (x : Ctx) : (s.setCtx c x).farLocks = s.farLocks := rfl
@[simp] theorem State.setCtx_hostq (s : State) (c : Nat) (x : Ctx) : (s.setCtx c x).hostq = s.hostq := rfl
@[simp] theorem State.setCtx_hubq (s : State) (c : Nat) (x : Ctx) : (s.setCtx c x).hubq = s.hubq := rfl
@[simp] theorem State.setCtx_noted (s : State) (c : Nat) (x : Ctx) : (s.setCtx c x).noted = s.noted := rfl
@[simp] theorem State.setCtx_gang (s : State) (c : Nat) (x : Ctx) : (s.setCtx c x).gang = s.gang := rfl
@[simp] theorem State.setCtx_jtag (s : State) (c : Nat) (x : Ctx) : (s.setCtx c x).jtag = s.jtag := rfl
@[simp] theorem State.setCtx_flash (s : State) (c : Nat) (x : Ctx) : (s.setCtx c x).flash = s.flash := rfl
@[simp] theorem State.setCtx_sent (s : State) (c : Nat) (x : Ctx) : (s.setCtx c x).sent = s.sent := rfl
@[simp] theorem State.setCtx_agenda (s : State) (c : Nat) (x : Ctx) : (s.setCtx c x).agenda = s.agenda := rfl
@[simp] theorem State.setCtx_cur (s : State) (c : Nat) (x : Ctx) : (s.setCtx c x).cur = s.cur := rfl
@[simp] theorem State.setCtx_draws (s : State) (c : Nat) (x : Ctx) : (s.setCtx c x).draws = s.draws := rfl
@[simp] theorem State.setCtx_nextUid (s : State) (c : Nat) (x : Ctx) : (s.setCtx c x).nextUid = s.nextUid := rfl

/-! ### setScript changes the field scripts alone -/

@[simp] theorem State.setScript_mem (s : State) (k : Nat) (x : Script) : (s.setScript k x).mem = s.mem := rfl
@[simp] theorem State.setScript_poison (s : State) (k : Nat) (x : Script) : (s.setScript k x).poison = s.poison := rfl
@[simp] theorem State.setScript_bias (s : State) (k : Nat) (x : Script) : (s.setScript k x).bias = s.bias := rfl
@[simp] theorem State.setScript_cycle (s : State) (k : Nat) (x : Script) : (s.setScript k x).cycle = s.cycle := rfl
@[simp] theorem State.setScript_htime (s : State) (k : Nat) (x : Script) : (s.setScript k x).htime = s.htime := rfl
@[simp] theorem State.setScript_frozen (s : State) (k : Nat) (x : Script) : (s.setScript k x).frozen = s.frozen := rfl
@[simp] theorem State.setScript_hub (s : State) (k : Nat) (x : Script) : (s.setScript k x).hub = s.hub := rfl
@[simp] theorem State.setScript_cores (s : State) (k : Nat) (x : Script) : (s.setScript k x).cores = s.cores := rfl
@[simp] theorem State.setScript_threads (s : State) (k : Nat) (x : Script) : (s.setScript k x).threads = s.threads := rfl
@[simp] theorem State.setScript_teams (s : State) (k : Nat) (x : Script) : (s.setScript k x).teams = s.teams := rfl
@[simp] theorem State.setScript_launches (s : State) (k : Nat) (x : Script) : (s.setScript k x).launches = s.launches := rfl
@[simp] theorem State.setScript_ctxs (s : State) (k : Nat) (x : Script) : (s.setScript k x).ctxs = s.ctxs := rfl
@[simp] theorem State.setScript_graphs (s : State) (k : Nat) (x : Script) : (s.setScript k x).graphs = s.graphs := rfl
@[simp] theorem State.setScript_rots (s : State) (k : Nat) (x : Script) : (s.setScript k x).rots = s.rots := rfl
@[simp] theorem State.setScript_ports (s : State) (k : Nat) (x : Script) : (s.setScript k x).ports = s.ports := rfl
@[simp] theorem State.setScript_dtlb (s : State) (k : Nat) (x : Script) : (s.setScript k x).dtlb = s.dtlb := rfl
@[simp] theorem State.setScript_pinned (s : State) (k : Nat) (x : Script) : (s.setScript k x).pinned = s.pinned := rfl
@[simp] theorem State.setScript_walks (s : State) (k : Nat) (x : Script) : (s.setScript k x).walks = s.walks := rfl
@[simp] theorem State.setScript_faults (s : State) (k : Nat) (x : Script) : (s.setScript k x).faults = s.faults := rfl
@[simp] theorem State.setScript_l2 (s : State) (k : Nat) (x : Script) : (s.setScript k x).l2 = s.l2 := rfl
@[simp] theorem State.setScript_dirty (s : State) (k : Nat) (x : Script) : (s.setScript k x).dirty = s.dirty := rfl
@[simp] theorem State.setScript_snoops (s : State) (k : Nat) (x : Script) : (s.setScript k x).snoops = s.snoops := rfl
@[simp] theorem State.setScript_coherent (s : State) (k : Nat) (x : Script) : (s.setScript k x).coherent = s.coherent := rfl
@[simp] theorem State.setScript_flips (s : State) (k : Nat) (x : Script) : (s.setScript k x).flips = s.flips := rfl
@[simp] theorem State.setScript_lanes (s : State) (k : Nat) (x : Script) : (s.setScript k x).lanes = s.lanes := rfl
@[simp] theorem State.setScript_served (s : State) (k : Nat) (x : Script) : (s.setScript k x).served = s.served := rfl
@[simp] theorem State.setScript_chips (s : State) (k : Nat) (x : Script) : (s.setScript k x).chips = s.chips := rfl
@[simp] theorem State.setScript_staged (s : State) (k : Nat) (x : Script) : (s.setScript k x).staged = s.staged := rfl
@[simp] theorem State.setScript_commitq (s : State) (k : Nat) (x : Script) : (s.setScript k x).commitq = s.commitq := rfl
@[simp] theorem State.setScript_commits (s : State) (k : Nat) (x : Script) : (s.setScript k x).commits = s.commits := rfl
@[simp] theorem State.setScript_cwords (s : State) (k : Nat) (x : Script) : (s.setScript k x).cwords = s.cwords := rfl
@[simp] theorem State.setScript_farLocks (s : State) (k : Nat) (x : Script) : (s.setScript k x).farLocks = s.farLocks := rfl
@[simp] theorem State.setScript_hostq (s : State) (k : Nat) (x : Script) : (s.setScript k x).hostq = s.hostq := rfl
@[simp] theorem State.setScript_hubq (s : State) (k : Nat) (x : Script) : (s.setScript k x).hubq = s.hubq := rfl
@[simp] theorem State.setScript_noted (s : State) (k : Nat) (x : Script) : (s.setScript k x).noted = s.noted := rfl
@[simp] theorem State.setScript_gang (s : State) (k : Nat) (x : Script) : (s.setScript k x).gang = s.gang := rfl
@[simp] theorem State.setScript_jtag (s : State) (k : Nat) (x : Script) : (s.setScript k x).jtag = s.jtag := rfl
@[simp] theorem State.setScript_flash (s : State) (k : Nat) (x : Script) : (s.setScript k x).flash = s.flash := rfl
@[simp] theorem State.setScript_sent (s : State) (k : Nat) (x : Script) : (s.setScript k x).sent = s.sent := rfl
@[simp] theorem State.setScript_agenda (s : State) (k : Nat) (x : Script) : (s.setScript k x).agenda = s.agenda := rfl
@[simp] theorem State.setScript_cur (s : State) (k : Nat) (x : Script) : (s.setScript k x).cur = s.cur := rfl
@[simp] theorem State.setScript_draws (s : State) (k : Nat) (x : Script) : (s.setScript k x).draws = s.draws := rfl
@[simp] theorem State.setScript_nextUid (s : State) (k : Nat) (x : Script) : (s.setScript k x).nextUid = s.nextUid := rfl

/-! ### setPort changes the field ports alone -/

@[simp] theorem State.setPort_mem (s : State) (p : Nat) (x : Port) : (s.setPort p x).mem = s.mem := rfl
@[simp] theorem State.setPort_poison (s : State) (p : Nat) (x : Port) : (s.setPort p x).poison = s.poison := rfl
@[simp] theorem State.setPort_bias (s : State) (p : Nat) (x : Port) : (s.setPort p x).bias = s.bias := rfl
@[simp] theorem State.setPort_cycle (s : State) (p : Nat) (x : Port) : (s.setPort p x).cycle = s.cycle := rfl
@[simp] theorem State.setPort_htime (s : State) (p : Nat) (x : Port) : (s.setPort p x).htime = s.htime := rfl
@[simp] theorem State.setPort_frozen (s : State) (p : Nat) (x : Port) : (s.setPort p x).frozen = s.frozen := rfl
@[simp] theorem State.setPort_hub (s : State) (p : Nat) (x : Port) : (s.setPort p x).hub = s.hub := rfl
@[simp] theorem State.setPort_cores (s : State) (p : Nat) (x : Port) : (s.setPort p x).cores = s.cores := rfl
@[simp] theorem State.setPort_threads (s : State) (p : Nat) (x : Port) : (s.setPort p x).threads = s.threads := rfl
@[simp] theorem State.setPort_teams (s : State) (p : Nat) (x : Port) : (s.setPort p x).teams = s.teams := rfl
@[simp] theorem State.setPort_launches (s : State) (p : Nat) (x : Port) : (s.setPort p x).launches = s.launches := rfl
@[simp] theorem State.setPort_ctxs (s : State) (p : Nat) (x : Port) : (s.setPort p x).ctxs = s.ctxs := rfl
@[simp] theorem State.setPort_scripts (s : State) (p : Nat) (x : Port) : (s.setPort p x).scripts = s.scripts := rfl
@[simp] theorem State.setPort_graphs (s : State) (p : Nat) (x : Port) : (s.setPort p x).graphs = s.graphs := rfl
@[simp] theorem State.setPort_rots (s : State) (p : Nat) (x : Port) : (s.setPort p x).rots = s.rots := rfl
@[simp] theorem State.setPort_dtlb (s : State) (p : Nat) (x : Port) : (s.setPort p x).dtlb = s.dtlb := rfl
@[simp] theorem State.setPort_pinned (s : State) (p : Nat) (x : Port) : (s.setPort p x).pinned = s.pinned := rfl
@[simp] theorem State.setPort_walks (s : State) (p : Nat) (x : Port) : (s.setPort p x).walks = s.walks := rfl
@[simp] theorem State.setPort_faults (s : State) (p : Nat) (x : Port) : (s.setPort p x).faults = s.faults := rfl
@[simp] theorem State.setPort_l2 (s : State) (p : Nat) (x : Port) : (s.setPort p x).l2 = s.l2 := rfl
@[simp] theorem State.setPort_dirty (s : State) (p : Nat) (x : Port) : (s.setPort p x).dirty = s.dirty := rfl
@[simp] theorem State.setPort_snoops (s : State) (p : Nat) (x : Port) : (s.setPort p x).snoops = s.snoops := rfl
@[simp] theorem State.setPort_coherent (s : State) (p : Nat) (x : Port) : (s.setPort p x).coherent = s.coherent := rfl
@[simp] theorem State.setPort_flips (s : State) (p : Nat) (x : Port) : (s.setPort p x).flips = s.flips := rfl
@[simp] theorem State.setPort_lanes (s : State) (p : Nat) (x : Port) : (s.setPort p x).lanes = s.lanes := rfl
@[simp] theorem State.setPort_served (s : State) (p : Nat) (x : Port) : (s.setPort p x).served = s.served := rfl
@[simp] theorem State.setPort_chips (s : State) (p : Nat) (x : Port) : (s.setPort p x).chips = s.chips := rfl
@[simp] theorem State.setPort_staged (s : State) (p : Nat) (x : Port) : (s.setPort p x).staged = s.staged := rfl
@[simp] theorem State.setPort_commitq (s : State) (p : Nat) (x : Port) : (s.setPort p x).commitq = s.commitq := rfl
@[simp] theorem State.setPort_commits (s : State) (p : Nat) (x : Port) : (s.setPort p x).commits = s.commits := rfl
@[simp] theorem State.setPort_cwords (s : State) (p : Nat) (x : Port) : (s.setPort p x).cwords = s.cwords := rfl
@[simp] theorem State.setPort_farLocks (s : State) (p : Nat) (x : Port) : (s.setPort p x).farLocks = s.farLocks := rfl
@[simp] theorem State.setPort_hostq (s : State) (p : Nat) (x : Port) : (s.setPort p x).hostq = s.hostq := rfl
@[simp] theorem State.setPort_hubq (s : State) (p : Nat) (x : Port) : (s.setPort p x).hubq = s.hubq := rfl
@[simp] theorem State.setPort_noted (s : State) (p : Nat) (x : Port) : (s.setPort p x).noted = s.noted := rfl
@[simp] theorem State.setPort_gang (s : State) (p : Nat) (x : Port) : (s.setPort p x).gang = s.gang := rfl
@[simp] theorem State.setPort_jtag (s : State) (p : Nat) (x : Port) : (s.setPort p x).jtag = s.jtag := rfl
@[simp] theorem State.setPort_flash (s : State) (p : Nat) (x : Port) : (s.setPort p x).flash = s.flash := rfl
@[simp] theorem State.setPort_sent (s : State) (p : Nat) (x : Port) : (s.setPort p x).sent = s.sent := rfl
@[simp] theorem State.setPort_agenda (s : State) (p : Nat) (x : Port) : (s.setPort p x).agenda = s.agenda := rfl
@[simp] theorem State.setPort_cur (s : State) (p : Nat) (x : Port) : (s.setPort p x).cur = s.cur := rfl
@[simp] theorem State.setPort_draws (s : State) (p : Nat) (x : Port) : (s.setPort p x).draws = s.draws := rfl
@[simp] theorem State.setPort_nextUid (s : State) (p : Nat) (x : Port) : (s.setPort p x).nextUid = s.nextUid := rfl

/-! ### setGraph changes the field graphs alone -/

@[simp] theorem State.setGraph_mem (s : State) (g : Nat) (x : Graph) : (s.setGraph g x).mem = s.mem := rfl
@[simp] theorem State.setGraph_poison (s : State) (g : Nat) (x : Graph) : (s.setGraph g x).poison = s.poison := rfl
@[simp] theorem State.setGraph_bias (s : State) (g : Nat) (x : Graph) : (s.setGraph g x).bias = s.bias := rfl
@[simp] theorem State.setGraph_cycle (s : State) (g : Nat) (x : Graph) : (s.setGraph g x).cycle = s.cycle := rfl
@[simp] theorem State.setGraph_htime (s : State) (g : Nat) (x : Graph) : (s.setGraph g x).htime = s.htime := rfl
@[simp] theorem State.setGraph_frozen (s : State) (g : Nat) (x : Graph) : (s.setGraph g x).frozen = s.frozen := rfl
@[simp] theorem State.setGraph_hub (s : State) (g : Nat) (x : Graph) : (s.setGraph g x).hub = s.hub := rfl
@[simp] theorem State.setGraph_cores (s : State) (g : Nat) (x : Graph) : (s.setGraph g x).cores = s.cores := rfl
@[simp] theorem State.setGraph_threads (s : State) (g : Nat) (x : Graph) : (s.setGraph g x).threads = s.threads := rfl
@[simp] theorem State.setGraph_teams (s : State) (g : Nat) (x : Graph) : (s.setGraph g x).teams = s.teams := rfl
@[simp] theorem State.setGraph_launches (s : State) (g : Nat) (x : Graph) : (s.setGraph g x).launches = s.launches := rfl
@[simp] theorem State.setGraph_ctxs (s : State) (g : Nat) (x : Graph) : (s.setGraph g x).ctxs = s.ctxs := rfl
@[simp] theorem State.setGraph_scripts (s : State) (g : Nat) (x : Graph) : (s.setGraph g x).scripts = s.scripts := rfl
@[simp] theorem State.setGraph_rots (s : State) (g : Nat) (x : Graph) : (s.setGraph g x).rots = s.rots := rfl
@[simp] theorem State.setGraph_ports (s : State) (g : Nat) (x : Graph) : (s.setGraph g x).ports = s.ports := rfl
@[simp] theorem State.setGraph_dtlb (s : State) (g : Nat) (x : Graph) : (s.setGraph g x).dtlb = s.dtlb := rfl
@[simp] theorem State.setGraph_pinned (s : State) (g : Nat) (x : Graph) : (s.setGraph g x).pinned = s.pinned := rfl
@[simp] theorem State.setGraph_walks (s : State) (g : Nat) (x : Graph) : (s.setGraph g x).walks = s.walks := rfl
@[simp] theorem State.setGraph_faults (s : State) (g : Nat) (x : Graph) : (s.setGraph g x).faults = s.faults := rfl
@[simp] theorem State.setGraph_l2 (s : State) (g : Nat) (x : Graph) : (s.setGraph g x).l2 = s.l2 := rfl
@[simp] theorem State.setGraph_dirty (s : State) (g : Nat) (x : Graph) : (s.setGraph g x).dirty = s.dirty := rfl
@[simp] theorem State.setGraph_snoops (s : State) (g : Nat) (x : Graph) : (s.setGraph g x).snoops = s.snoops := rfl
@[simp] theorem State.setGraph_coherent (s : State) (g : Nat) (x : Graph) : (s.setGraph g x).coherent = s.coherent := rfl
@[simp] theorem State.setGraph_flips (s : State) (g : Nat) (x : Graph) : (s.setGraph g x).flips = s.flips := rfl
@[simp] theorem State.setGraph_lanes (s : State) (g : Nat) (x : Graph) : (s.setGraph g x).lanes = s.lanes := rfl
@[simp] theorem State.setGraph_served (s : State) (g : Nat) (x : Graph) : (s.setGraph g x).served = s.served := rfl
@[simp] theorem State.setGraph_chips (s : State) (g : Nat) (x : Graph) : (s.setGraph g x).chips = s.chips := rfl
@[simp] theorem State.setGraph_staged (s : State) (g : Nat) (x : Graph) : (s.setGraph g x).staged = s.staged := rfl
@[simp] theorem State.setGraph_commitq (s : State) (g : Nat) (x : Graph) : (s.setGraph g x).commitq = s.commitq := rfl
@[simp] theorem State.setGraph_commits (s : State) (g : Nat) (x : Graph) : (s.setGraph g x).commits = s.commits := rfl
@[simp] theorem State.setGraph_cwords (s : State) (g : Nat) (x : Graph) : (s.setGraph g x).cwords = s.cwords := rfl
@[simp] theorem State.setGraph_farLocks (s : State) (g : Nat) (x : Graph) : (s.setGraph g x).farLocks = s.farLocks := rfl
@[simp] theorem State.setGraph_hostq (s : State) (g : Nat) (x : Graph) : (s.setGraph g x).hostq = s.hostq := rfl
@[simp] theorem State.setGraph_hubq (s : State) (g : Nat) (x : Graph) : (s.setGraph g x).hubq = s.hubq := rfl
@[simp] theorem State.setGraph_noted (s : State) (g : Nat) (x : Graph) : (s.setGraph g x).noted = s.noted := rfl
@[simp] theorem State.setGraph_gang (s : State) (g : Nat) (x : Graph) : (s.setGraph g x).gang = s.gang := rfl
@[simp] theorem State.setGraph_jtag (s : State) (g : Nat) (x : Graph) : (s.setGraph g x).jtag = s.jtag := rfl
@[simp] theorem State.setGraph_flash (s : State) (g : Nat) (x : Graph) : (s.setGraph g x).flash = s.flash := rfl
@[simp] theorem State.setGraph_sent (s : State) (g : Nat) (x : Graph) : (s.setGraph g x).sent = s.sent := rfl
@[simp] theorem State.setGraph_agenda (s : State) (g : Nat) (x : Graph) : (s.setGraph g x).agenda = s.agenda := rfl
@[simp] theorem State.setGraph_cur (s : State) (g : Nat) (x : Graph) : (s.setGraph g x).cur = s.cur := rfl
@[simp] theorem State.setGraph_draws (s : State) (g : Nat) (x : Graph) : (s.setGraph g x).draws = s.draws := rfl
@[simp] theorem State.setGraph_nextUid (s : State) (g : Nat) (x : Graph) : (s.setGraph g x).nextUid = s.nextUid := rfl

/-! ### setRot changes the field rots alone -/

@[simp] theorem State.setRot_mem (s : State) (k : Nat) (x : Rotation) : (s.setRot k x).mem = s.mem := rfl
@[simp] theorem State.setRot_poison (s : State) (k : Nat) (x : Rotation) : (s.setRot k x).poison = s.poison := rfl
@[simp] theorem State.setRot_bias (s : State) (k : Nat) (x : Rotation) : (s.setRot k x).bias = s.bias := rfl
@[simp] theorem State.setRot_cycle (s : State) (k : Nat) (x : Rotation) : (s.setRot k x).cycle = s.cycle := rfl
@[simp] theorem State.setRot_htime (s : State) (k : Nat) (x : Rotation) : (s.setRot k x).htime = s.htime := rfl
@[simp] theorem State.setRot_frozen (s : State) (k : Nat) (x : Rotation) : (s.setRot k x).frozen = s.frozen := rfl
@[simp] theorem State.setRot_hub (s : State) (k : Nat) (x : Rotation) : (s.setRot k x).hub = s.hub := rfl
@[simp] theorem State.setRot_cores (s : State) (k : Nat) (x : Rotation) : (s.setRot k x).cores = s.cores := rfl
@[simp] theorem State.setRot_threads (s : State) (k : Nat) (x : Rotation) : (s.setRot k x).threads = s.threads := rfl
@[simp] theorem State.setRot_teams (s : State) (k : Nat) (x : Rotation) : (s.setRot k x).teams = s.teams := rfl
@[simp] theorem State.setRot_launches (s : State) (k : Nat) (x : Rotation) : (s.setRot k x).launches = s.launches := rfl
@[simp] theorem State.setRot_ctxs (s : State) (k : Nat) (x : Rotation) : (s.setRot k x).ctxs = s.ctxs := rfl
@[simp] theorem State.setRot_scripts (s : State) (k : Nat) (x : Rotation) : (s.setRot k x).scripts = s.scripts := rfl
@[simp] theorem State.setRot_graphs (s : State) (k : Nat) (x : Rotation) : (s.setRot k x).graphs = s.graphs := rfl
@[simp] theorem State.setRot_ports (s : State) (k : Nat) (x : Rotation) : (s.setRot k x).ports = s.ports := rfl
@[simp] theorem State.setRot_dtlb (s : State) (k : Nat) (x : Rotation) : (s.setRot k x).dtlb = s.dtlb := rfl
@[simp] theorem State.setRot_pinned (s : State) (k : Nat) (x : Rotation) : (s.setRot k x).pinned = s.pinned := rfl
@[simp] theorem State.setRot_walks (s : State) (k : Nat) (x : Rotation) : (s.setRot k x).walks = s.walks := rfl
@[simp] theorem State.setRot_faults (s : State) (k : Nat) (x : Rotation) : (s.setRot k x).faults = s.faults := rfl
@[simp] theorem State.setRot_l2 (s : State) (k : Nat) (x : Rotation) : (s.setRot k x).l2 = s.l2 := rfl
@[simp] theorem State.setRot_dirty (s : State) (k : Nat) (x : Rotation) : (s.setRot k x).dirty = s.dirty := rfl
@[simp] theorem State.setRot_snoops (s : State) (k : Nat) (x : Rotation) : (s.setRot k x).snoops = s.snoops := rfl
@[simp] theorem State.setRot_coherent (s : State) (k : Nat) (x : Rotation) : (s.setRot k x).coherent = s.coherent := rfl
@[simp] theorem State.setRot_flips (s : State) (k : Nat) (x : Rotation) : (s.setRot k x).flips = s.flips := rfl
@[simp] theorem State.setRot_lanes (s : State) (k : Nat) (x : Rotation) : (s.setRot k x).lanes = s.lanes := rfl
@[simp] theorem State.setRot_served (s : State) (k : Nat) (x : Rotation) : (s.setRot k x).served = s.served := rfl
@[simp] theorem State.setRot_chips (s : State) (k : Nat) (x : Rotation) : (s.setRot k x).chips = s.chips := rfl
@[simp] theorem State.setRot_staged (s : State) (k : Nat) (x : Rotation) : (s.setRot k x).staged = s.staged := rfl
@[simp] theorem State.setRot_commitq (s : State) (k : Nat) (x : Rotation) : (s.setRot k x).commitq = s.commitq := rfl
@[simp] theorem State.setRot_commits (s : State) (k : Nat) (x : Rotation) : (s.setRot k x).commits = s.commits := rfl
@[simp] theorem State.setRot_cwords (s : State) (k : Nat) (x : Rotation) : (s.setRot k x).cwords = s.cwords := rfl
@[simp] theorem State.setRot_farLocks (s : State) (k : Nat) (x : Rotation) : (s.setRot k x).farLocks = s.farLocks := rfl
@[simp] theorem State.setRot_hostq (s : State) (k : Nat) (x : Rotation) : (s.setRot k x).hostq = s.hostq := rfl
@[simp] theorem State.setRot_hubq (s : State) (k : Nat) (x : Rotation) : (s.setRot k x).hubq = s.hubq := rfl
@[simp] theorem State.setRot_noted (s : State) (k : Nat) (x : Rotation) : (s.setRot k x).noted = s.noted := rfl
@[simp] theorem State.setRot_gang (s : State) (k : Nat) (x : Rotation) : (s.setRot k x).gang = s.gang := rfl
@[simp] theorem State.setRot_jtag (s : State) (k : Nat) (x : Rotation) : (s.setRot k x).jtag = s.jtag := rfl
@[simp] theorem State.setRot_flash (s : State) (k : Nat) (x : Rotation) : (s.setRot k x).flash = s.flash := rfl
@[simp] theorem State.setRot_sent (s : State) (k : Nat) (x : Rotation) : (s.setRot k x).sent = s.sent := rfl
@[simp] theorem State.setRot_agenda (s : State) (k : Nat) (x : Rotation) : (s.setRot k x).agenda = s.agenda := rfl
@[simp] theorem State.setRot_cur (s : State) (k : Nat) (x : Rotation) : (s.setRot k x).cur = s.cur := rfl
@[simp] theorem State.setRot_draws (s : State) (k : Nat) (x : Rotation) : (s.setRot k x).draws = s.draws := rfl
@[simp] theorem State.setRot_nextUid (s : State) (k : Nat) (x : Rotation) : (s.setRot k x).nextUid = s.nextUid := rfl

/-! ### setThread changes the field threads alone -/

@[simp] theorem State.setThread_mem (s : State) (t : Thread) : (s.setThread t).mem = s.mem := rfl
@[simp] theorem State.setThread_poison (s : State) (t : Thread) : (s.setThread t).poison = s.poison := rfl
@[simp] theorem State.setThread_bias (s : State) (t : Thread) : (s.setThread t).bias = s.bias := rfl
@[simp] theorem State.setThread_cycle (s : State) (t : Thread) : (s.setThread t).cycle = s.cycle := rfl
@[simp] theorem State.setThread_htime (s : State) (t : Thread) : (s.setThread t).htime = s.htime := rfl
@[simp] theorem State.setThread_frozen (s : State) (t : Thread) : (s.setThread t).frozen = s.frozen := rfl
@[simp] theorem State.setThread_hub (s : State) (t : Thread) : (s.setThread t).hub = s.hub := rfl
@[simp] theorem State.setThread_cores (s : State) (t : Thread) : (s.setThread t).cores = s.cores := rfl
@[simp] theorem State.setThread_teams (s : State) (t : Thread) : (s.setThread t).teams = s.teams := rfl
@[simp] theorem State.setThread_launches (s : State) (t : Thread) : (s.setThread t).launches = s.launches := rfl
@[simp] theorem State.setThread_ctxs (s : State) (t : Thread) : (s.setThread t).ctxs = s.ctxs := rfl
@[simp] theorem State.setThread_scripts (s : State) (t : Thread) : (s.setThread t).scripts = s.scripts := rfl
@[simp] theorem State.setThread_graphs (s : State) (t : Thread) : (s.setThread t).graphs = s.graphs := rfl
@[simp] theorem State.setThread_rots (s : State) (t : Thread) : (s.setThread t).rots = s.rots := rfl
@[simp] theorem State.setThread_ports (s : State) (t : Thread) : (s.setThread t).ports = s.ports := rfl
@[simp] theorem State.setThread_dtlb (s : State) (t : Thread) : (s.setThread t).dtlb = s.dtlb := rfl
@[simp] theorem State.setThread_pinned (s : State) (t : Thread) : (s.setThread t).pinned = s.pinned := rfl
@[simp] theorem State.setThread_walks (s : State) (t : Thread) : (s.setThread t).walks = s.walks := rfl
@[simp] theorem State.setThread_faults (s : State) (t : Thread) : (s.setThread t).faults = s.faults := rfl
@[simp] theorem State.setThread_l2 (s : State) (t : Thread) : (s.setThread t).l2 = s.l2 := rfl
@[simp] theorem State.setThread_dirty (s : State) (t : Thread) : (s.setThread t).dirty = s.dirty := rfl
@[simp] theorem State.setThread_snoops (s : State) (t : Thread) : (s.setThread t).snoops = s.snoops := rfl
@[simp] theorem State.setThread_coherent (s : State) (t : Thread) : (s.setThread t).coherent = s.coherent := rfl
@[simp] theorem State.setThread_flips (s : State) (t : Thread) : (s.setThread t).flips = s.flips := rfl
@[simp] theorem State.setThread_lanes (s : State) (t : Thread) : (s.setThread t).lanes = s.lanes := rfl
@[simp] theorem State.setThread_served (s : State) (t : Thread) : (s.setThread t).served = s.served := rfl
@[simp] theorem State.setThread_chips (s : State) (t : Thread) : (s.setThread t).chips = s.chips := rfl
@[simp] theorem State.setThread_staged (s : State) (t : Thread) : (s.setThread t).staged = s.staged := rfl
@[simp] theorem State.setThread_commitq (s : State) (t : Thread) : (s.setThread t).commitq = s.commitq := rfl
@[simp] theorem State.setThread_commits (s : State) (t : Thread) : (s.setThread t).commits = s.commits := rfl
@[simp] theorem State.setThread_cwords (s : State) (t : Thread) : (s.setThread t).cwords = s.cwords := rfl
@[simp] theorem State.setThread_farLocks (s : State) (t : Thread) : (s.setThread t).farLocks = s.farLocks := rfl
@[simp] theorem State.setThread_hostq (s : State) (t : Thread) : (s.setThread t).hostq = s.hostq := rfl
@[simp] theorem State.setThread_hubq (s : State) (t : Thread) : (s.setThread t).hubq = s.hubq := rfl
@[simp] theorem State.setThread_noted (s : State) (t : Thread) : (s.setThread t).noted = s.noted := rfl
@[simp] theorem State.setThread_gang (s : State) (t : Thread) : (s.setThread t).gang = s.gang := rfl
@[simp] theorem State.setThread_jtag (s : State) (t : Thread) : (s.setThread t).jtag = s.jtag := rfl
@[simp] theorem State.setThread_flash (s : State) (t : Thread) : (s.setThread t).flash = s.flash := rfl
@[simp] theorem State.setThread_sent (s : State) (t : Thread) : (s.setThread t).sent = s.sent := rfl
@[simp] theorem State.setThread_agenda (s : State) (t : Thread) : (s.setThread t).agenda = s.agenda := rfl
@[simp] theorem State.setThread_cur (s : State) (t : Thread) : (s.setThread t).cur = s.cur := rfl
@[simp] theorem State.setThread_draws (s : State) (t : Thread) : (s.setThread t).draws = s.draws := rfl
@[simp] theorem State.setThread_nextUid (s : State) (t : Thread) : (s.setThread t).nextUid = s.nextUid := rfl

/-! ### setTeam changes the field teams alone -/

@[simp] theorem State.setTeam_mem (s : State) (t : Team) : (s.setTeam t).mem = s.mem := rfl
@[simp] theorem State.setTeam_poison (s : State) (t : Team) : (s.setTeam t).poison = s.poison := rfl
@[simp] theorem State.setTeam_bias (s : State) (t : Team) : (s.setTeam t).bias = s.bias := rfl
@[simp] theorem State.setTeam_cycle (s : State) (t : Team) : (s.setTeam t).cycle = s.cycle := rfl
@[simp] theorem State.setTeam_htime (s : State) (t : Team) : (s.setTeam t).htime = s.htime := rfl
@[simp] theorem State.setTeam_frozen (s : State) (t : Team) : (s.setTeam t).frozen = s.frozen := rfl
@[simp] theorem State.setTeam_hub (s : State) (t : Team) : (s.setTeam t).hub = s.hub := rfl
@[simp] theorem State.setTeam_cores (s : State) (t : Team) : (s.setTeam t).cores = s.cores := rfl
@[simp] theorem State.setTeam_threads (s : State) (t : Team) : (s.setTeam t).threads = s.threads := rfl
@[simp] theorem State.setTeam_launches (s : State) (t : Team) : (s.setTeam t).launches = s.launches := rfl
@[simp] theorem State.setTeam_ctxs (s : State) (t : Team) : (s.setTeam t).ctxs = s.ctxs := rfl
@[simp] theorem State.setTeam_scripts (s : State) (t : Team) : (s.setTeam t).scripts = s.scripts := rfl
@[simp] theorem State.setTeam_graphs (s : State) (t : Team) : (s.setTeam t).graphs = s.graphs := rfl
@[simp] theorem State.setTeam_rots (s : State) (t : Team) : (s.setTeam t).rots = s.rots := rfl
@[simp] theorem State.setTeam_ports (s : State) (t : Team) : (s.setTeam t).ports = s.ports := rfl
@[simp] theorem State.setTeam_dtlb (s : State) (t : Team) : (s.setTeam t).dtlb = s.dtlb := rfl
@[simp] theorem State.setTeam_pinned (s : State) (t : Team) : (s.setTeam t).pinned = s.pinned := rfl
@[simp] theorem State.setTeam_walks (s : State) (t : Team) : (s.setTeam t).walks = s.walks := rfl
@[simp] theorem State.setTeam_faults (s : State) (t : Team) : (s.setTeam t).faults = s.faults := rfl
@[simp] theorem State.setTeam_l2 (s : State) (t : Team) : (s.setTeam t).l2 = s.l2 := rfl
@[simp] theorem State.setTeam_dirty (s : State) (t : Team) : (s.setTeam t).dirty = s.dirty := rfl
@[simp] theorem State.setTeam_snoops (s : State) (t : Team) : (s.setTeam t).snoops = s.snoops := rfl
@[simp] theorem State.setTeam_coherent (s : State) (t : Team) : (s.setTeam t).coherent = s.coherent := rfl
@[simp] theorem State.setTeam_flips (s : State) (t : Team) : (s.setTeam t).flips = s.flips := rfl
@[simp] theorem State.setTeam_lanes (s : State) (t : Team) : (s.setTeam t).lanes = s.lanes := rfl
@[simp] theorem State.setTeam_served (s : State) (t : Team) : (s.setTeam t).served = s.served := rfl
@[simp] theorem State.setTeam_chips (s : State) (t : Team) : (s.setTeam t).chips = s.chips := rfl
@[simp] theorem State.setTeam_staged (s : State) (t : Team) : (s.setTeam t).staged = s.staged := rfl
@[simp] theorem State.setTeam_commitq (s : State) (t : Team) : (s.setTeam t).commitq = s.commitq := rfl
@[simp] theorem State.setTeam_commits (s : State) (t : Team) : (s.setTeam t).commits = s.commits := rfl
@[simp] theorem State.setTeam_cwords (s : State) (t : Team) : (s.setTeam t).cwords = s.cwords := rfl
@[simp] theorem State.setTeam_farLocks (s : State) (t : Team) : (s.setTeam t).farLocks = s.farLocks := rfl
@[simp] theorem State.setTeam_hostq (s : State) (t : Team) : (s.setTeam t).hostq = s.hostq := rfl
@[simp] theorem State.setTeam_hubq (s : State) (t : Team) : (s.setTeam t).hubq = s.hubq := rfl
@[simp] theorem State.setTeam_noted (s : State) (t : Team) : (s.setTeam t).noted = s.noted := rfl
@[simp] theorem State.setTeam_gang (s : State) (t : Team) : (s.setTeam t).gang = s.gang := rfl
@[simp] theorem State.setTeam_jtag (s : State) (t : Team) : (s.setTeam t).jtag = s.jtag := rfl
@[simp] theorem State.setTeam_flash (s : State) (t : Team) : (s.setTeam t).flash = s.flash := rfl
@[simp] theorem State.setTeam_sent (s : State) (t : Team) : (s.setTeam t).sent = s.sent := rfl
@[simp] theorem State.setTeam_agenda (s : State) (t : Team) : (s.setTeam t).agenda = s.agenda := rfl
@[simp] theorem State.setTeam_cur (s : State) (t : Team) : (s.setTeam t).cur = s.cur := rfl
@[simp] theorem State.setTeam_draws (s : State) (t : Team) : (s.setTeam t).draws = s.draws := rfl
@[simp] theorem State.setTeam_nextUid (s : State) (t : Team) : (s.setTeam t).nextUid = s.nextUid := rfl

/-! ### setLaunch changes the field launches alone -/

@[simp] theorem State.setLaunch_mem (s : State) (l : Launch) : (s.setLaunch l).mem = s.mem := rfl
@[simp] theorem State.setLaunch_poison (s : State) (l : Launch) : (s.setLaunch l).poison = s.poison := rfl
@[simp] theorem State.setLaunch_bias (s : State) (l : Launch) : (s.setLaunch l).bias = s.bias := rfl
@[simp] theorem State.setLaunch_cycle (s : State) (l : Launch) : (s.setLaunch l).cycle = s.cycle := rfl
@[simp] theorem State.setLaunch_htime (s : State) (l : Launch) : (s.setLaunch l).htime = s.htime := rfl
@[simp] theorem State.setLaunch_frozen (s : State) (l : Launch) : (s.setLaunch l).frozen = s.frozen := rfl
@[simp] theorem State.setLaunch_hub (s : State) (l : Launch) : (s.setLaunch l).hub = s.hub := rfl
@[simp] theorem State.setLaunch_cores (s : State) (l : Launch) : (s.setLaunch l).cores = s.cores := rfl
@[simp] theorem State.setLaunch_threads (s : State) (l : Launch) : (s.setLaunch l).threads = s.threads := rfl
@[simp] theorem State.setLaunch_teams (s : State) (l : Launch) : (s.setLaunch l).teams = s.teams := rfl
@[simp] theorem State.setLaunch_ctxs (s : State) (l : Launch) : (s.setLaunch l).ctxs = s.ctxs := rfl
@[simp] theorem State.setLaunch_scripts (s : State) (l : Launch) : (s.setLaunch l).scripts = s.scripts := rfl
@[simp] theorem State.setLaunch_graphs (s : State) (l : Launch) : (s.setLaunch l).graphs = s.graphs := rfl
@[simp] theorem State.setLaunch_rots (s : State) (l : Launch) : (s.setLaunch l).rots = s.rots := rfl
@[simp] theorem State.setLaunch_ports (s : State) (l : Launch) : (s.setLaunch l).ports = s.ports := rfl
@[simp] theorem State.setLaunch_dtlb (s : State) (l : Launch) : (s.setLaunch l).dtlb = s.dtlb := rfl
@[simp] theorem State.setLaunch_pinned (s : State) (l : Launch) : (s.setLaunch l).pinned = s.pinned := rfl
@[simp] theorem State.setLaunch_walks (s : State) (l : Launch) : (s.setLaunch l).walks = s.walks := rfl
@[simp] theorem State.setLaunch_faults (s : State) (l : Launch) : (s.setLaunch l).faults = s.faults := rfl
@[simp] theorem State.setLaunch_l2 (s : State) (l : Launch) : (s.setLaunch l).l2 = s.l2 := rfl
@[simp] theorem State.setLaunch_dirty (s : State) (l : Launch) : (s.setLaunch l).dirty = s.dirty := rfl
@[simp] theorem State.setLaunch_snoops (s : State) (l : Launch) : (s.setLaunch l).snoops = s.snoops := rfl
@[simp] theorem State.setLaunch_coherent (s : State) (l : Launch) : (s.setLaunch l).coherent = s.coherent := rfl
@[simp] theorem State.setLaunch_flips (s : State) (l : Launch) : (s.setLaunch l).flips = s.flips := rfl
@[simp] theorem State.setLaunch_lanes (s : State) (l : Launch) : (s.setLaunch l).lanes = s.lanes := rfl
@[simp] theorem State.setLaunch_served (s : State) (l : Launch) : (s.setLaunch l).served = s.served := rfl
@[simp] theorem State.setLaunch_chips (s : State) (l : Launch) : (s.setLaunch l).chips = s.chips := rfl
@[simp] theorem State.setLaunch_staged (s : State) (l : Launch) : (s.setLaunch l).staged = s.staged := rfl
@[simp] theorem State.setLaunch_commitq (s : State) (l : Launch) : (s.setLaunch l).commitq = s.commitq := rfl
@[simp] theorem State.setLaunch_commits (s : State) (l : Launch) : (s.setLaunch l).commits = s.commits := rfl
@[simp] theorem State.setLaunch_cwords (s : State) (l : Launch) : (s.setLaunch l).cwords = s.cwords := rfl
@[simp] theorem State.setLaunch_farLocks (s : State) (l : Launch) : (s.setLaunch l).farLocks = s.farLocks := rfl
@[simp] theorem State.setLaunch_hostq (s : State) (l : Launch) : (s.setLaunch l).hostq = s.hostq := rfl
@[simp] theorem State.setLaunch_hubq (s : State) (l : Launch) : (s.setLaunch l).hubq = s.hubq := rfl
@[simp] theorem State.setLaunch_noted (s : State) (l : Launch) : (s.setLaunch l).noted = s.noted := rfl
@[simp] theorem State.setLaunch_gang (s : State) (l : Launch) : (s.setLaunch l).gang = s.gang := rfl
@[simp] theorem State.setLaunch_jtag (s : State) (l : Launch) : (s.setLaunch l).jtag = s.jtag := rfl
@[simp] theorem State.setLaunch_flash (s : State) (l : Launch) : (s.setLaunch l).flash = s.flash := rfl
@[simp] theorem State.setLaunch_sent (s : State) (l : Launch) : (s.setLaunch l).sent = s.sent := rfl
@[simp] theorem State.setLaunch_agenda (s : State) (l : Launch) : (s.setLaunch l).agenda = s.agenda := rfl
@[simp] theorem State.setLaunch_cur (s : State) (l : Launch) : (s.setLaunch l).cur = s.cur := rfl
@[simp] theorem State.setLaunch_draws (s : State) (l : Launch) : (s.setLaunch l).draws = s.draws := rfl
@[simp] theorem State.setLaunch_nextUid (s : State) (l : Launch) : (s.setLaunch l).nextUid = s.nextUid := rfl

/-! ### send changes the field sent alone -/

@[simp] theorem State.send_mem (s : State) (x : Sent) : (s.send x).mem = s.mem := rfl
@[simp] theorem State.send_poison (s : State) (x : Sent) : (s.send x).poison = s.poison := rfl
@[simp] theorem State.send_bias (s : State) (x : Sent) : (s.send x).bias = s.bias := rfl
@[simp] theorem State.send_cycle (s : State) (x : Sent) : (s.send x).cycle = s.cycle := rfl
@[simp] theorem State.send_htime (s : State) (x : Sent) : (s.send x).htime = s.htime := rfl
@[simp] theorem State.send_frozen (s : State) (x : Sent) : (s.send x).frozen = s.frozen := rfl
@[simp] theorem State.send_hub (s : State) (x : Sent) : (s.send x).hub = s.hub := rfl
@[simp] theorem State.send_cores (s : State) (x : Sent) : (s.send x).cores = s.cores := rfl
@[simp] theorem State.send_threads (s : State) (x : Sent) : (s.send x).threads = s.threads := rfl
@[simp] theorem State.send_teams (s : State) (x : Sent) : (s.send x).teams = s.teams := rfl
@[simp] theorem State.send_launches (s : State) (x : Sent) : (s.send x).launches = s.launches := rfl
@[simp] theorem State.send_ctxs (s : State) (x : Sent) : (s.send x).ctxs = s.ctxs := rfl
@[simp] theorem State.send_scripts (s : State) (x : Sent) : (s.send x).scripts = s.scripts := rfl
@[simp] theorem State.send_graphs (s : State) (x : Sent) : (s.send x).graphs = s.graphs := rfl
@[simp] theorem State.send_rots (s : State) (x : Sent) : (s.send x).rots = s.rots := rfl
@[simp] theorem State.send_ports (s : State) (x : Sent) : (s.send x).ports = s.ports := rfl
@[simp] theorem State.send_dtlb (s : State) (x : Sent) : (s.send x).dtlb = s.dtlb := rfl
@[simp] theorem State.send_pinned (s : State) (x : Sent) : (s.send x).pinned = s.pinned := rfl
@[simp] theorem State.send_walks (s : State) (x : Sent) : (s.send x).walks = s.walks := rfl
@[simp] theorem State.send_faults (s : State) (x : Sent) : (s.send x).faults = s.faults := rfl
@[simp] theorem State.send_l2 (s : State) (x : Sent) : (s.send x).l2 = s.l2 := rfl
@[simp] theorem State.send_dirty (s : State) (x : Sent) : (s.send x).dirty = s.dirty := rfl
@[simp] theorem State.send_snoops (s : State) (x : Sent) : (s.send x).snoops = s.snoops := rfl
@[simp] theorem State.send_coherent (s : State) (x : Sent) : (s.send x).coherent = s.coherent := rfl
@[simp] theorem State.send_flips (s : State) (x : Sent) : (s.send x).flips = s.flips := rfl
@[simp] theorem State.send_lanes (s : State) (x : Sent) : (s.send x).lanes = s.lanes := rfl
@[simp] theorem State.send_served (s : State) (x : Sent) : (s.send x).served = s.served := rfl
@[simp] theorem State.send_chips (s : State) (x : Sent) : (s.send x).chips = s.chips := rfl
@[simp] theorem State.send_staged (s : State) (x : Sent) : (s.send x).staged = s.staged := rfl
@[simp] theorem State.send_commitq (s : State) (x : Sent) : (s.send x).commitq = s.commitq := rfl
@[simp] theorem State.send_commits (s : State) (x : Sent) : (s.send x).commits = s.commits := rfl
@[simp] theorem State.send_cwords (s : State) (x : Sent) : (s.send x).cwords = s.cwords := rfl
@[simp] theorem State.send_farLocks (s : State) (x : Sent) : (s.send x).farLocks = s.farLocks := rfl
@[simp] theorem State.send_hostq (s : State) (x : Sent) : (s.send x).hostq = s.hostq := rfl
@[simp] theorem State.send_hubq (s : State) (x : Sent) : (s.send x).hubq = s.hubq := rfl
@[simp] theorem State.send_noted (s : State) (x : Sent) : (s.send x).noted = s.noted := rfl
@[simp] theorem State.send_gang (s : State) (x : Sent) : (s.send x).gang = s.gang := rfl
@[simp] theorem State.send_jtag (s : State) (x : Sent) : (s.send x).jtag = s.jtag := rfl
@[simp] theorem State.send_flash (s : State) (x : Sent) : (s.send x).flash = s.flash := rfl
@[simp] theorem State.send_agenda (s : State) (x : Sent) : (s.send x).agenda = s.agenda := rfl
@[simp] theorem State.send_cur (s : State) (x : Sent) : (s.send x).cur = s.cur := rfl
@[simp] theorem State.send_draws (s : State) (x : Sent) : (s.send x).draws = s.draws := rfl
@[simp] theorem State.send_nextUid (s : State) (x : Sent) : (s.send x).nextUid = s.nextUid := rfl

/-! ### setStream changes the field ctxs alone -/

@[simp] theorem State.setStream_mem (s : State) (c n : Nat) (x : Stream) : (s.setStream c n x).mem = s.mem := rfl
@[simp] theorem State.setStream_poison (s : State) (c n : Nat) (x : Stream) : (s.setStream c n x).poison = s.poison := rfl
@[simp] theorem State.setStream_bias (s : State) (c n : Nat) (x : Stream) : (s.setStream c n x).bias = s.bias := rfl
@[simp] theorem State.setStream_cycle (s : State) (c n : Nat) (x : Stream) : (s.setStream c n x).cycle = s.cycle := rfl
@[simp] theorem State.setStream_htime (s : State) (c n : Nat) (x : Stream) : (s.setStream c n x).htime = s.htime := rfl
@[simp] theorem State.setStream_frozen (s : State) (c n : Nat) (x : Stream) : (s.setStream c n x).frozen = s.frozen := rfl
@[simp] theorem State.setStream_hub (s : State) (c n : Nat) (x : Stream) : (s.setStream c n x).hub = s.hub := rfl
@[simp] theorem State.setStream_cores (s : State) (c n : Nat) (x : Stream) : (s.setStream c n x).cores = s.cores := rfl
@[simp] theorem State.setStream_threads (s : State) (c n : Nat) (x : Stream) : (s.setStream c n x).threads = s.threads := rfl
@[simp] theorem State.setStream_teams (s : State) (c n : Nat) (x : Stream) : (s.setStream c n x).teams = s.teams := rfl
@[simp] theorem State.setStream_launches (s : State) (c n : Nat) (x : Stream) : (s.setStream c n x).launches = s.launches := rfl
@[simp] theorem State.setStream_scripts (s : State) (c n : Nat) (x : Stream) : (s.setStream c n x).scripts = s.scripts := rfl
@[simp] theorem State.setStream_graphs (s : State) (c n : Nat) (x : Stream) : (s.setStream c n x).graphs = s.graphs := rfl
@[simp] theorem State.setStream_rots (s : State) (c n : Nat) (x : Stream) : (s.setStream c n x).rots = s.rots := rfl
@[simp] theorem State.setStream_ports (s : State) (c n : Nat) (x : Stream) : (s.setStream c n x).ports = s.ports := rfl
@[simp] theorem State.setStream_dtlb (s : State) (c n : Nat) (x : Stream) : (s.setStream c n x).dtlb = s.dtlb := rfl
@[simp] theorem State.setStream_pinned (s : State) (c n : Nat) (x : Stream) : (s.setStream c n x).pinned = s.pinned := rfl
@[simp] theorem State.setStream_walks (s : State) (c n : Nat) (x : Stream) : (s.setStream c n x).walks = s.walks := rfl
@[simp] theorem State.setStream_faults (s : State) (c n : Nat) (x : Stream) : (s.setStream c n x).faults = s.faults := rfl
@[simp] theorem State.setStream_l2 (s : State) (c n : Nat) (x : Stream) : (s.setStream c n x).l2 = s.l2 := rfl
@[simp] theorem State.setStream_dirty (s : State) (c n : Nat) (x : Stream) : (s.setStream c n x).dirty = s.dirty := rfl
@[simp] theorem State.setStream_snoops (s : State) (c n : Nat) (x : Stream) : (s.setStream c n x).snoops = s.snoops := rfl
@[simp] theorem State.setStream_coherent (s : State) (c n : Nat) (x : Stream) : (s.setStream c n x).coherent = s.coherent := rfl
@[simp] theorem State.setStream_flips (s : State) (c n : Nat) (x : Stream) : (s.setStream c n x).flips = s.flips := rfl
@[simp] theorem State.setStream_lanes (s : State) (c n : Nat) (x : Stream) : (s.setStream c n x).lanes = s.lanes := rfl
@[simp] theorem State.setStream_served (s : State) (c n : Nat) (x : Stream) : (s.setStream c n x).served = s.served := rfl
@[simp] theorem State.setStream_chips (s : State) (c n : Nat) (x : Stream) : (s.setStream c n x).chips = s.chips := rfl
@[simp] theorem State.setStream_staged (s : State) (c n : Nat) (x : Stream) : (s.setStream c n x).staged = s.staged := rfl
@[simp] theorem State.setStream_commitq (s : State) (c n : Nat) (x : Stream) : (s.setStream c n x).commitq = s.commitq := rfl
@[simp] theorem State.setStream_commits (s : State) (c n : Nat) (x : Stream) : (s.setStream c n x).commits = s.commits := rfl
@[simp] theorem State.setStream_cwords (s : State) (c n : Nat) (x : Stream) : (s.setStream c n x).cwords = s.cwords := rfl
@[simp] theorem State.setStream_farLocks (s : State) (c n : Nat) (x : Stream) : (s.setStream c n x).farLocks = s.farLocks := rfl
@[simp] theorem State.setStream_hostq (s : State) (c n : Nat) (x : Stream) : (s.setStream c n x).hostq = s.hostq := rfl
@[simp] theorem State.setStream_hubq (s : State) (c n : Nat) (x : Stream) : (s.setStream c n x).hubq = s.hubq := rfl
@[simp] theorem State.setStream_noted (s : State) (c n : Nat) (x : Stream) : (s.setStream c n x).noted = s.noted := rfl
@[simp] theorem State.setStream_gang (s : State) (c n : Nat) (x : Stream) : (s.setStream c n x).gang = s.gang := rfl
@[simp] theorem State.setStream_jtag (s : State) (c n : Nat) (x : Stream) : (s.setStream c n x).jtag = s.jtag := rfl
@[simp] theorem State.setStream_flash (s : State) (c n : Nat) (x : Stream) : (s.setStream c n x).flash = s.flash := rfl
@[simp] theorem State.setStream_sent (s : State) (c n : Nat) (x : Stream) : (s.setStream c n x).sent = s.sent := rfl
@[simp] theorem State.setStream_agenda (s : State) (c n : Nat) (x : Stream) : (s.setStream c n x).agenda = s.agenda := rfl
@[simp] theorem State.setStream_cur (s : State) (c n : Nat) (x : Stream) : (s.setStream c n x).cur = s.cur := rfl
@[simp] theorem State.setStream_draws (s : State) (c n : Nat) (x : Stream) : (s.setStream c n x).draws = s.draws := rfl
@[simp] theorem State.setStream_nextUid (s : State) (c n : Nat) (x : Stream) : (s.setStream c n x).nextUid = s.nextUid := rfl

/-! ### setSem changes the field ctxs alone -/

@[simp] theorem State.setSem_mem (s : State) (c n : Nat) (v : DWord) : (s.setSem c n v).mem = s.mem := rfl
@[simp] theorem State.setSem_poison (s : State) (c n : Nat) (v : DWord) : (s.setSem c n v).poison = s.poison := rfl
@[simp] theorem State.setSem_bias (s : State) (c n : Nat) (v : DWord) : (s.setSem c n v).bias = s.bias := rfl
@[simp] theorem State.setSem_cycle (s : State) (c n : Nat) (v : DWord) : (s.setSem c n v).cycle = s.cycle := rfl
@[simp] theorem State.setSem_htime (s : State) (c n : Nat) (v : DWord) : (s.setSem c n v).htime = s.htime := rfl
@[simp] theorem State.setSem_frozen (s : State) (c n : Nat) (v : DWord) : (s.setSem c n v).frozen = s.frozen := rfl
@[simp] theorem State.setSem_hub (s : State) (c n : Nat) (v : DWord) : (s.setSem c n v).hub = s.hub := rfl
@[simp] theorem State.setSem_cores (s : State) (c n : Nat) (v : DWord) : (s.setSem c n v).cores = s.cores := rfl
@[simp] theorem State.setSem_threads (s : State) (c n : Nat) (v : DWord) : (s.setSem c n v).threads = s.threads := rfl
@[simp] theorem State.setSem_teams (s : State) (c n : Nat) (v : DWord) : (s.setSem c n v).teams = s.teams := rfl
@[simp] theorem State.setSem_launches (s : State) (c n : Nat) (v : DWord) : (s.setSem c n v).launches = s.launches := rfl
@[simp] theorem State.setSem_scripts (s : State) (c n : Nat) (v : DWord) : (s.setSem c n v).scripts = s.scripts := rfl
@[simp] theorem State.setSem_graphs (s : State) (c n : Nat) (v : DWord) : (s.setSem c n v).graphs = s.graphs := rfl
@[simp] theorem State.setSem_rots (s : State) (c n : Nat) (v : DWord) : (s.setSem c n v).rots = s.rots := rfl
@[simp] theorem State.setSem_ports (s : State) (c n : Nat) (v : DWord) : (s.setSem c n v).ports = s.ports := rfl
@[simp] theorem State.setSem_dtlb (s : State) (c n : Nat) (v : DWord) : (s.setSem c n v).dtlb = s.dtlb := rfl
@[simp] theorem State.setSem_pinned (s : State) (c n : Nat) (v : DWord) : (s.setSem c n v).pinned = s.pinned := rfl
@[simp] theorem State.setSem_walks (s : State) (c n : Nat) (v : DWord) : (s.setSem c n v).walks = s.walks := rfl
@[simp] theorem State.setSem_faults (s : State) (c n : Nat) (v : DWord) : (s.setSem c n v).faults = s.faults := rfl
@[simp] theorem State.setSem_l2 (s : State) (c n : Nat) (v : DWord) : (s.setSem c n v).l2 = s.l2 := rfl
@[simp] theorem State.setSem_dirty (s : State) (c n : Nat) (v : DWord) : (s.setSem c n v).dirty = s.dirty := rfl
@[simp] theorem State.setSem_snoops (s : State) (c n : Nat) (v : DWord) : (s.setSem c n v).snoops = s.snoops := rfl
@[simp] theorem State.setSem_coherent (s : State) (c n : Nat) (v : DWord) : (s.setSem c n v).coherent = s.coherent := rfl
@[simp] theorem State.setSem_flips (s : State) (c n : Nat) (v : DWord) : (s.setSem c n v).flips = s.flips := rfl
@[simp] theorem State.setSem_lanes (s : State) (c n : Nat) (v : DWord) : (s.setSem c n v).lanes = s.lanes := rfl
@[simp] theorem State.setSem_served (s : State) (c n : Nat) (v : DWord) : (s.setSem c n v).served = s.served := rfl
@[simp] theorem State.setSem_chips (s : State) (c n : Nat) (v : DWord) : (s.setSem c n v).chips = s.chips := rfl
@[simp] theorem State.setSem_staged (s : State) (c n : Nat) (v : DWord) : (s.setSem c n v).staged = s.staged := rfl
@[simp] theorem State.setSem_commitq (s : State) (c n : Nat) (v : DWord) : (s.setSem c n v).commitq = s.commitq := rfl
@[simp] theorem State.setSem_commits (s : State) (c n : Nat) (v : DWord) : (s.setSem c n v).commits = s.commits := rfl
@[simp] theorem State.setSem_cwords (s : State) (c n : Nat) (v : DWord) : (s.setSem c n v).cwords = s.cwords := rfl
@[simp] theorem State.setSem_farLocks (s : State) (c n : Nat) (v : DWord) : (s.setSem c n v).farLocks = s.farLocks := rfl
@[simp] theorem State.setSem_hostq (s : State) (c n : Nat) (v : DWord) : (s.setSem c n v).hostq = s.hostq := rfl
@[simp] theorem State.setSem_hubq (s : State) (c n : Nat) (v : DWord) : (s.setSem c n v).hubq = s.hubq := rfl
@[simp] theorem State.setSem_noted (s : State) (c n : Nat) (v : DWord) : (s.setSem c n v).noted = s.noted := rfl
@[simp] theorem State.setSem_gang (s : State) (c n : Nat) (v : DWord) : (s.setSem c n v).gang = s.gang := rfl
@[simp] theorem State.setSem_jtag (s : State) (c n : Nat) (v : DWord) : (s.setSem c n v).jtag = s.jtag := rfl
@[simp] theorem State.setSem_flash (s : State) (c n : Nat) (v : DWord) : (s.setSem c n v).flash = s.flash := rfl
@[simp] theorem State.setSem_sent (s : State) (c n : Nat) (v : DWord) : (s.setSem c n v).sent = s.sent := rfl
@[simp] theorem State.setSem_agenda (s : State) (c n : Nat) (v : DWord) : (s.setSem c n v).agenda = s.agenda := rfl
@[simp] theorem State.setSem_cur (s : State) (c n : Nat) (v : DWord) : (s.setSem c n v).cur = s.cur := rfl
@[simp] theorem State.setSem_draws (s : State) (c n : Nat) (v : DWord) : (s.setSem c n v).draws = s.draws := rfl
@[simp] theorem State.setSem_nextUid (s : State) (c n : Nat) (v : DWord) : (s.setSem c n v).nextUid = s.nextUid := rfl

/-! ### Reading back what was set -/

@[simp] theorem State.core_setCore (s : State) (c n : Nat) (x : Core) : (s.setCore c x).core n = if n = c then x else s.core n :=
  tget_tset _ _ _ _ _
@[simp] theorem State.ctx_setCtx (s : State) (c n : Nat) (x : Ctx) : (s.setCtx c x).ctx n = if n = c then x else s.ctx n :=
  tget_tset _ _ _ _ _
@[simp] theorem State.script_setScript (s : State) (c n : Nat) (x : Script) :
    (s.setScript c x).script n = if n = c then x else s.script n := tget_tset _ _ _ _ _
@[simp] theorem State.port_setPort (s : State) (c n : Nat) (x : Port) : (s.setPort c x).port n = if n = c then x else s.port n :=
  tget_tset _ _ _ _ _
@[simp] theorem State.graph_setGraph (s : State) (c n : Nat) (x : Graph) :
    (s.setGraph c x).graph n = if n = c then x else s.graph n := tget_tset _ _ _ _ _
@[simp] theorem State.rot_setRot (s : State) (c n : Nat) (x : Rotation) : (s.setRot c x).rot n = if n = c then x else s.rot n :=
  tget_tset _ _ _ _ _
@[simp] theorem Ctx.stream_setStream (c : Ctx) (k n : Nat) (x : Stream) :
    (c.setStream k x).stream n = if n = k then x else c.stream n := tget_tset _ _ _ _ _
@[simp] theorem State.stream_setStream (s : State) (c k n : Nat) (x : Stream) :
    (s.setStream c k x).stream c n = if n = k then x else s.stream c n := by
  simp [State.stream, State.setStream]
@[simp] theorem State.sem_setSem (s : State) (c n m : Nat) (v : DWord) :
    (s.setSem c n v).sem c m = if m = n then v else s.sem c m := by
  simp [State.sem, State.setSem, tget_tset]

/-! ### The readers of parts that an update leaves alone -/

@[simp] theorem State.setCore_ctx_at (s : State) (c : Nat) (x : Core) (i : Nat) : (s.setCore c x).ctx i = s.ctx i := rfl
@[simp] theorem State.setCore_script_at (s : State) (c : Nat) (x : Core) (i : Nat) : (s.setCore c x).script i = s.script i := rfl
@[simp] theorem State.setCore_port_at (s : State) (c : Nat) (x : Core) (i : Nat) : (s.setCore c x).port i = s.port i := rfl
@[simp] theorem State.setCore_graph_at (s : State) (c : Nat) (x : Core) (i : Nat) : (s.setCore c x).graph i = s.graph i := rfl
@[simp] theorem State.setCore_rot_at (s : State) (c : Nat) (x : Core) (i : Nat) : (s.setCore c x).rot i = s.rot i := rfl
@[simp] theorem State.setCore_thread_at (s : State) (c : Nat) (x : Core) (i : Nat) : (s.setCore c x).thread i = s.thread i := rfl
@[simp] theorem State.setCore_hasThread_at (s : State) (c : Nat) (x : Core) (i : Nat) : (s.setCore c x).hasThread i = s.hasThread i := rfl
@[simp] theorem State.setCore_team_at (s : State) (c : Nat) (x : Core) (i : Nat) : (s.setCore c x).team i = s.team i := rfl
@[simp] theorem State.setCore_hasTeam_at (s : State) (c : Nat) (x : Core) (i : Nat) : (s.setCore c x).hasTeam i = s.hasTeam i := rfl
@[simp] theorem State.setCore_launchOf_at (s : State) (c : Nat) (x : Core) (i : Nat) : (s.setCore c x).launchOf i = s.launchOf i := rfl
@[simp] theorem State.setCore_byte_at (s : State) (c : Nat) (x : Core) (i : Nat) : (s.setCore c x).byte i = s.byte i := rfl
@[simp] theorem State.setCtx_core_at (s : State) (c : Nat) (x : Ctx) (i : Nat) : (s.setCtx c x).core i = s.core i := rfl
@[simp] theorem State.setCtx_script_at (s : State) (c : Nat) (x : Ctx) (i : Nat) : (s.setCtx c x).script i = s.script i := rfl
@[simp] theorem State.setCtx_port_at (s : State) (c : Nat) (x : Ctx) (i : Nat) : (s.setCtx c x).port i = s.port i := rfl
@[simp] theorem State.setCtx_graph_at (s : State) (c : Nat) (x : Ctx) (i : Nat) : (s.setCtx c x).graph i = s.graph i := rfl
@[simp] theorem State.setCtx_rot_at (s : State) (c : Nat) (x : Ctx) (i : Nat) : (s.setCtx c x).rot i = s.rot i := rfl
@[simp] theorem State.setCtx_thread_at (s : State) (c : Nat) (x : Ctx) (i : Nat) : (s.setCtx c x).thread i = s.thread i := rfl
@[simp] theorem State.setCtx_hasThread_at (s : State) (c : Nat) (x : Ctx) (i : Nat) : (s.setCtx c x).hasThread i = s.hasThread i := rfl
@[simp] theorem State.setCtx_team_at (s : State) (c : Nat) (x : Ctx) (i : Nat) : (s.setCtx c x).team i = s.team i := rfl
@[simp] theorem State.setCtx_hasTeam_at (s : State) (c : Nat) (x : Ctx) (i : Nat) : (s.setCtx c x).hasTeam i = s.hasTeam i := rfl
@[simp] theorem State.setCtx_launchOf_at (s : State) (c : Nat) (x : Ctx) (i : Nat) : (s.setCtx c x).launchOf i = s.launchOf i := rfl
@[simp] theorem State.setCtx_byte_at (s : State) (c : Nat) (x : Ctx) (i : Nat) : (s.setCtx c x).byte i = s.byte i := rfl
@[simp] theorem State.setScript_core_at (s : State) (k : Nat) (x : Script) (i : Nat) : (s.setScript k x).core i = s.core i := rfl
@[simp] theorem State.setScript_ctx_at (s : State) (k : Nat) (x : Script) (i : Nat) : (s.setScript k x).ctx i = s.ctx i := rfl
@[simp] theorem State.setScript_port_at (s : State) (k : Nat) (x : Script) (i : Nat) : (s.setScript k x).port i = s.port i := rfl
@[simp] theorem State.setScript_graph_at (s : State) (k : Nat) (x : Script) (i : Nat) : (s.setScript k x).graph i = s.graph i := rfl
@[simp] theorem State.setScript_rot_at (s : State) (k : Nat) (x : Script) (i : Nat) : (s.setScript k x).rot i = s.rot i := rfl
@[simp] theorem State.setScript_thread_at (s : State) (k : Nat) (x : Script) (i : Nat) : (s.setScript k x).thread i = s.thread i := rfl
@[simp] theorem State.setScript_hasThread_at (s : State) (k : Nat) (x : Script) (i : Nat) : (s.setScript k x).hasThread i = s.hasThread i := rfl
@[simp] theorem State.setScript_team_at (s : State) (k : Nat) (x : Script) (i : Nat) : (s.setScript k x).team i = s.team i := rfl
@[simp] theorem State.setScript_hasTeam_at (s : State) (k : Nat) (x : Script) (i : Nat) : (s.setScript k x).hasTeam i = s.hasTeam i := rfl
@[simp] theorem State.setScript_launchOf_at (s : State) (k : Nat) (x : Script) (i : Nat) : (s.setScript k x).launchOf i = s.launchOf i := rfl
@[simp] theorem State.setScript_byte_at (s : State) (k : Nat) (x : Script) (i : Nat) : (s.setScript k x).byte i = s.byte i := rfl
@[simp] theorem State.setPort_core_at (s : State) (p : Nat) (x : Port) (i : Nat) : (s.setPort p x).core i = s.core i := rfl
@[simp] theorem State.setPort_ctx_at (s : State) (p : Nat) (x : Port) (i : Nat) : (s.setPort p x).ctx i = s.ctx i := rfl
@[simp] theorem State.setPort_script_at (s : State) (p : Nat) (x : Port) (i : Nat) : (s.setPort p x).script i = s.script i := rfl
@[simp] theorem State.setPort_graph_at (s : State) (p : Nat) (x : Port) (i : Nat) : (s.setPort p x).graph i = s.graph i := rfl
@[simp] theorem State.setPort_rot_at (s : State) (p : Nat) (x : Port) (i : Nat) : (s.setPort p x).rot i = s.rot i := rfl
@[simp] theorem State.setPort_thread_at (s : State) (p : Nat) (x : Port) (i : Nat) : (s.setPort p x).thread i = s.thread i := rfl
@[simp] theorem State.setPort_hasThread_at (s : State) (p : Nat) (x : Port) (i : Nat) : (s.setPort p x).hasThread i = s.hasThread i := rfl
@[simp] theorem State.setPort_team_at (s : State) (p : Nat) (x : Port) (i : Nat) : (s.setPort p x).team i = s.team i := rfl
@[simp] theorem State.setPort_hasTeam_at (s : State) (p : Nat) (x : Port) (i : Nat) : (s.setPort p x).hasTeam i = s.hasTeam i := rfl
@[simp] theorem State.setPort_launchOf_at (s : State) (p : Nat) (x : Port) (i : Nat) : (s.setPort p x).launchOf i = s.launchOf i := rfl
@[simp] theorem State.setPort_byte_at (s : State) (p : Nat) (x : Port) (i : Nat) : (s.setPort p x).byte i = s.byte i := rfl
@[simp] theorem State.setGraph_core_at (s : State) (g : Nat) (x : Graph) (i : Nat) : (s.setGraph g x).core i = s.core i := rfl
@[simp] theorem State.setGraph_ctx_at (s : State) (g : Nat) (x : Graph) (i : Nat) : (s.setGraph g x).ctx i = s.ctx i := rfl
@[simp] theorem State.setGraph_script_at (s : State) (g : Nat) (x : Graph) (i : Nat) : (s.setGraph g x).script i = s.script i := rfl
@[simp] theorem State.setGraph_port_at (s : State) (g : Nat) (x : Graph) (i : Nat) : (s.setGraph g x).port i = s.port i := rfl
@[simp] theorem State.setGraph_rot_at (s : State) (g : Nat) (x : Graph) (i : Nat) : (s.setGraph g x).rot i = s.rot i := rfl
@[simp] theorem State.setGraph_thread_at (s : State) (g : Nat) (x : Graph) (i : Nat) : (s.setGraph g x).thread i = s.thread i := rfl
@[simp] theorem State.setGraph_hasThread_at (s : State) (g : Nat) (x : Graph) (i : Nat) : (s.setGraph g x).hasThread i = s.hasThread i := rfl
@[simp] theorem State.setGraph_team_at (s : State) (g : Nat) (x : Graph) (i : Nat) : (s.setGraph g x).team i = s.team i := rfl
@[simp] theorem State.setGraph_hasTeam_at (s : State) (g : Nat) (x : Graph) (i : Nat) : (s.setGraph g x).hasTeam i = s.hasTeam i := rfl
@[simp] theorem State.setGraph_launchOf_at (s : State) (g : Nat) (x : Graph) (i : Nat) : (s.setGraph g x).launchOf i = s.launchOf i := rfl
@[simp] theorem State.setGraph_byte_at (s : State) (g : Nat) (x : Graph) (i : Nat) : (s.setGraph g x).byte i = s.byte i := rfl
@[simp] theorem State.setRot_core_at (s : State) (k : Nat) (x : Rotation) (i : Nat) : (s.setRot k x).core i = s.core i := rfl
@[simp] theorem State.setRot_ctx_at (s : State) (k : Nat) (x : Rotation) (i : Nat) : (s.setRot k x).ctx i = s.ctx i := rfl
@[simp] theorem State.setRot_script_at (s : State) (k : Nat) (x : Rotation) (i : Nat) : (s.setRot k x).script i = s.script i := rfl
@[simp] theorem State.setRot_port_at (s : State) (k : Nat) (x : Rotation) (i : Nat) : (s.setRot k x).port i = s.port i := rfl
@[simp] theorem State.setRot_graph_at (s : State) (k : Nat) (x : Rotation) (i : Nat) : (s.setRot k x).graph i = s.graph i := rfl
@[simp] theorem State.setRot_thread_at (s : State) (k : Nat) (x : Rotation) (i : Nat) : (s.setRot k x).thread i = s.thread i := rfl
@[simp] theorem State.setRot_hasThread_at (s : State) (k : Nat) (x : Rotation) (i : Nat) : (s.setRot k x).hasThread i = s.hasThread i := rfl
@[simp] theorem State.setRot_team_at (s : State) (k : Nat) (x : Rotation) (i : Nat) : (s.setRot k x).team i = s.team i := rfl
@[simp] theorem State.setRot_hasTeam_at (s : State) (k : Nat) (x : Rotation) (i : Nat) : (s.setRot k x).hasTeam i = s.hasTeam i := rfl
@[simp] theorem State.setRot_launchOf_at (s : State) (k : Nat) (x : Rotation) (i : Nat) : (s.setRot k x).launchOf i = s.launchOf i := rfl
@[simp] theorem State.setRot_byte_at (s : State) (k : Nat) (x : Rotation) (i : Nat) : (s.setRot k x).byte i = s.byte i := rfl
@[simp] theorem State.setThread_core_at (s : State) (t : Thread) (i : Nat) : (s.setThread t).core i = s.core i := rfl
@[simp] theorem State.setThread_ctx_at (s : State) (t : Thread) (i : Nat) : (s.setThread t).ctx i = s.ctx i := rfl
@[simp] theorem State.setThread_script_at (s : State) (t : Thread) (i : Nat) : (s.setThread t).script i = s.script i := rfl
@[simp] theorem State.setThread_port_at (s : State) (t : Thread) (i : Nat) : (s.setThread t).port i = s.port i := rfl
@[simp] theorem State.setThread_graph_at (s : State) (t : Thread) (i : Nat) : (s.setThread t).graph i = s.graph i := rfl
@[simp] theorem State.setThread_rot_at (s : State) (t : Thread) (i : Nat) : (s.setThread t).rot i = s.rot i := rfl
@[simp] theorem State.setThread_team_at (s : State) (t : Thread) (i : Nat) : (s.setThread t).team i = s.team i := rfl
@[simp] theorem State.setThread_hasTeam_at (s : State) (t : Thread) (i : Nat) : (s.setThread t).hasTeam i = s.hasTeam i := rfl
@[simp] theorem State.setThread_launchOf_at (s : State) (t : Thread) (i : Nat) : (s.setThread t).launchOf i = s.launchOf i := rfl
@[simp] theorem State.setThread_byte_at (s : State) (t : Thread) (i : Nat) : (s.setThread t).byte i = s.byte i := rfl
@[simp] theorem State.setTeam_core_at (s : State) (t : Team) (i : Nat) : (s.setTeam t).core i = s.core i := rfl
@[simp] theorem State.setTeam_ctx_at (s : State) (t : Team) (i : Nat) : (s.setTeam t).ctx i = s.ctx i := rfl
@[simp] theorem State.setTeam_script_at (s : State) (t : Team) (i : Nat) : (s.setTeam t).script i = s.script i := rfl
@[simp] theorem State.setTeam_port_at (s : State) (t : Team) (i : Nat) : (s.setTeam t).port i = s.port i := rfl
@[simp] theorem State.setTeam_graph_at (s : State) (t : Team) (i : Nat) : (s.setTeam t).graph i = s.graph i := rfl
@[simp] theorem State.setTeam_rot_at (s : State) (t : Team) (i : Nat) : (s.setTeam t).rot i = s.rot i := rfl
@[simp] theorem State.setTeam_thread_at (s : State) (t : Team) (i : Nat) : (s.setTeam t).thread i = s.thread i := rfl
@[simp] theorem State.setTeam_hasThread_at (s : State) (t : Team) (i : Nat) : (s.setTeam t).hasThread i = s.hasThread i := rfl
@[simp] theorem State.setTeam_launchOf_at (s : State) (t : Team) (i : Nat) : (s.setTeam t).launchOf i = s.launchOf i := rfl
@[simp] theorem State.setTeam_byte_at (s : State) (t : Team) (i : Nat) : (s.setTeam t).byte i = s.byte i := rfl
@[simp] theorem State.setLaunch_core_at (s : State) (l : Launch) (i : Nat) : (s.setLaunch l).core i = s.core i := rfl
@[simp] theorem State.setLaunch_ctx_at (s : State) (l : Launch) (i : Nat) : (s.setLaunch l).ctx i = s.ctx i := rfl
@[simp] theorem State.setLaunch_script_at (s : State) (l : Launch) (i : Nat) : (s.setLaunch l).script i = s.script i := rfl
@[simp] theorem State.setLaunch_port_at (s : State) (l : Launch) (i : Nat) : (s.setLaunch l).port i = s.port i := rfl
@[simp] theorem State.setLaunch_graph_at (s : State) (l : Launch) (i : Nat) : (s.setLaunch l).graph i = s.graph i := rfl
@[simp] theorem State.setLaunch_rot_at (s : State) (l : Launch) (i : Nat) : (s.setLaunch l).rot i = s.rot i := rfl
@[simp] theorem State.setLaunch_thread_at (s : State) (l : Launch) (i : Nat) : (s.setLaunch l).thread i = s.thread i := rfl
@[simp] theorem State.setLaunch_hasThread_at (s : State) (l : Launch) (i : Nat) : (s.setLaunch l).hasThread i = s.hasThread i := rfl
@[simp] theorem State.setLaunch_team_at (s : State) (l : Launch) (i : Nat) : (s.setLaunch l).team i = s.team i := rfl
@[simp] theorem State.setLaunch_hasTeam_at (s : State) (l : Launch) (i : Nat) : (s.setLaunch l).hasTeam i = s.hasTeam i := rfl
@[simp] theorem State.setLaunch_byte_at (s : State) (l : Launch) (i : Nat) : (s.setLaunch l).byte i = s.byte i := rfl
@[simp] theorem State.send_core_at (s : State) (x : Sent) (i : Nat) : (s.send x).core i = s.core i := rfl
@[simp] theorem State.send_ctx_at (s : State) (x : Sent) (i : Nat) : (s.send x).ctx i = s.ctx i := rfl
@[simp] theorem State.send_script_at (s : State) (x : Sent) (i : Nat) : (s.send x).script i = s.script i := rfl
@[simp] theorem State.send_port_at (s : State) (x : Sent) (i : Nat) : (s.send x).port i = s.port i := rfl
@[simp] theorem State.send_graph_at (s : State) (x : Sent) (i : Nat) : (s.send x).graph i = s.graph i := rfl
@[simp] theorem State.send_rot_at (s : State) (x : Sent) (i : Nat) : (s.send x).rot i = s.rot i := rfl
@[simp] theorem State.send_thread_at (s : State) (x : Sent) (i : Nat) : (s.send x).thread i = s.thread i := rfl
@[simp] theorem State.send_hasThread_at (s : State) (x : Sent) (i : Nat) : (s.send x).hasThread i = s.hasThread i := rfl
@[simp] theorem State.send_team_at (s : State) (x : Sent) (i : Nat) : (s.send x).team i = s.team i := rfl
@[simp] theorem State.send_hasTeam_at (s : State) (x : Sent) (i : Nat) : (s.send x).hasTeam i = s.hasTeam i := rfl
@[simp] theorem State.send_launchOf_at (s : State) (x : Sent) (i : Nat) : (s.send x).launchOf i = s.launchOf i := rfl
@[simp] theorem State.send_byte_at (s : State) (x : Sent) (i : Nat) : (s.send x).byte i = s.byte i := rfl
@[simp] theorem State.setStream_core_at (s : State) (c n : Nat) (x : Stream) (i : Nat) : (s.setStream c n x).core i = s.core i := rfl
@[simp] theorem State.setStream_script_at (s : State) (c n : Nat) (x : Stream) (i : Nat) : (s.setStream c n x).script i = s.script i := rfl
@[simp] theorem State.setStream_port_at (s : State) (c n : Nat) (x : Stream) (i : Nat) : (s.setStream c n x).port i = s.port i := rfl
@[simp] theorem State.setStream_graph_at (s : State) (c n : Nat) (x : Stream) (i : Nat) : (s.setStream c n x).graph i = s.graph i := rfl
@[simp] theorem State.setStream_rot_at (s : State) (c n : Nat) (x : Stream) (i : Nat) : (s.setStream c n x).rot i = s.rot i := rfl
@[simp] theorem State.setStream_thread_at (s : State) (c n : Nat) (x : Stream) (i : Nat) : (s.setStream c n x).thread i = s.thread i := rfl
@[simp] theorem State.setStream_hasThread_at (s : State) (c n : Nat) (x : Stream) (i : Nat) : (s.setStream c n x).hasThread i = s.hasThread i := rfl
@[simp] theorem State.setStream_team_at (s : State) (c n : Nat) (x : Stream) (i : Nat) : (s.setStream c n x).team i = s.team i := rfl
@[simp] theorem State.setStream_hasTeam_at (s : State) (c n : Nat) (x : Stream) (i : Nat) : (s.setStream c n x).hasTeam i = s.hasTeam i := rfl
@[simp] theorem State.setStream_launchOf_at (s : State) (c n : Nat) (x : Stream) (i : Nat) : (s.setStream c n x).launchOf i = s.launchOf i := rfl
@[simp] theorem State.setStream_byte_at (s : State) (c n : Nat) (x : Stream) (i : Nat) : (s.setStream c n x).byte i = s.byte i := rfl
@[simp] theorem State.setSem_core_at (s : State) (c n : Nat) (v : DWord) (i : Nat) : (s.setSem c n v).core i = s.core i := rfl
@[simp] theorem State.setSem_script_at (s : State) (c n : Nat) (v : DWord) (i : Nat) : (s.setSem c n v).script i = s.script i := rfl
@[simp] theorem State.setSem_port_at (s : State) (c n : Nat) (v : DWord) (i : Nat) : (s.setSem c n v).port i = s.port i := rfl
@[simp] theorem State.setSem_graph_at (s : State) (c n : Nat) (v : DWord) (i : Nat) : (s.setSem c n v).graph i = s.graph i := rfl
@[simp] theorem State.setSem_rot_at (s : State) (c n : Nat) (v : DWord) (i : Nat) : (s.setSem c n v).rot i = s.rot i := rfl
@[simp] theorem State.setSem_thread_at (s : State) (c n : Nat) (v : DWord) (i : Nat) : (s.setSem c n v).thread i = s.thread i := rfl
@[simp] theorem State.setSem_hasThread_at (s : State) (c n : Nat) (v : DWord) (i : Nat) : (s.setSem c n v).hasThread i = s.hasThread i := rfl
@[simp] theorem State.setSem_team_at (s : State) (c n : Nat) (v : DWord) (i : Nat) : (s.setSem c n v).team i = s.team i := rfl
@[simp] theorem State.setSem_hasTeam_at (s : State) (c n : Nat) (v : DWord) (i : Nat) : (s.setSem c n v).hasTeam i = s.hasTeam i := rfl
@[simp] theorem State.setSem_launchOf_at (s : State) (c n : Nat) (v : DWord) (i : Nat) : (s.setSem c n v).launchOf i = s.launchOf i := rfl
@[simp] theorem State.setSem_byte_at (s : State) (c n : Nat) (v : DWord) (i : Nat) : (s.setSem c n v).byte i = s.byte i := rfl

/-! ### Changes of a thread -/

@[simp] theorem Thread.put_uid (t : Thread) (r : Nat) (v : Word) (p : Bool) : (t.put r v p).uid = t.uid := rfl
@[simp] theorem Thread.put_team (t : Thread) (r : Nat) (v : Word) (p : Bool) : (t.put r v p).team = t.team := rfl
@[simp] theorem Thread.put_tid (t : Thread) (r : Nat) (v : Word) (p : Bool) : (t.put r v p).tid = t.tid := rfl
@[simp] theorem Thread.put_core (t : Thread) (r : Nat) (v : Word) (p : Bool) : (t.put r v p).core = t.core := rfl
@[simp] theorem Thread.put_slot (t : Thread) (r : Nat) (v : Word) (p : Bool) : (t.put r v p).slot = t.slot := rfl
@[simp] theorem Thread.put_pc (t : Thread) (r : Nat) (v : Word) (p : Bool) : (t.put r v p).pc = t.pc := rfl
@[simp] theorem Thread.put_mid (t : Thread) (r : Nat) (v : Word) (p : Bool) : (t.put r v p).mid = t.mid := rfl
@[simp] theorem Thread.put_status (t : Thread) (r : Nat) (v : Word) (p : Bool) : (t.put r v p).status = t.status := rfl
@[simp] theorem Thread.put_hold (t : Thread) (r : Nat) (v : Word) (p : Bool) : (t.put r v p).hold = t.hold := rfl
@[simp] theorem Thread.put_stamp (t : Thread) (r : Nat) (v : Word) (p : Bool) : (t.put r v p).stamp = t.stamp := rfl
@[simp] theorem Thread.put_hnd (t : Thread) (r : Nat) (v : Word) (p : Bool) : (t.put r v p).hnd = t.hnd := rfl
@[simp] theorem Thread.put_trapAt (t : Thread) (r : Nat) (v : Word) (p : Bool) : (t.put r v p).trapAt = t.trapAt := rfl
@[simp] theorem Thread.put_defer (t : Thread) (r : Nat) (v : Word) (p : Bool) : (t.put r v p).defer = t.defer := rfl
@[simp] theorem Thread.put_sb (t : Thread) (r : Nat) (v : Word) (p : Bool) : (t.put r v p).sb = t.sb := rfl
@[simp] theorem Thread.put_fstat (t : Thread) (r : Nat) (v : Word) (p : Bool) : (t.put r v p).fstat = t.fstat := rfl
@[simp] theorem Thread.put_scoutEn (t : Thread) (r : Nat) (v : Word) (p : Bool) : (t.put r v p).scoutEn = t.scoutEn := rfl
@[simp] theorem Thread.put_scoutBud (t : Thread) (r : Nat) (v : Word) (p : Bool) : (t.put r v p).scoutBud = t.scoutBud := rfl
@[simp] theorem Thread.put_scoutEpi (t : Thread) (r : Nat) (v : Word) (p : Bool) : (t.put r v p).scoutEpi = t.scoutEpi := rfl
@[simp] theorem Thread.put_epc (t : Thread) (r : Nat) (v : Word) (p : Bool) : (t.put r v p).epc = t.epc := rfl
@[simp] theorem Thread.put_ecode (t : Thread) (r : Nat) (v : Word) (p : Bool) : (t.put r v p).ecode = t.ecode := rfl
@[simp] theorem Thread.put_eaddr (t : Thread) (r : Nat) (v : Word) (p : Bool) : (t.put r v p).eaddr = t.eaddr := rfl
@[simp] theorem Thread.put_einfo (t : Thread) (r : Nat) (v : Word) (p : Bool) : (t.put r v p).einfo = t.einfo := rfl
@[simp] theorem Thread.put_policy (t : Thread) (r : Nat) (v : Word) (p : Bool) : (t.put r v p).policy = t.policy := rfl
@[simp] theorem Thread.put_remerr (t : Thread) (r : Nat) (v : Word) (p : Bool) : (t.put r v p).remerr = t.remerr := rfl
@[simp] theorem Thread.put_window (t : Thread) (r : Nat) (v : Word) (p : Bool) : (t.put r v p).window = t.window := rfl
@[simp] theorem Thread.put_part (t : Thread) (r : Nat) (v : Word) (p : Bool) : (t.put r v p).part = t.part := rfl
@[simp] theorem Thread.put_reply (t : Thread) (r : Nat) (v : Word) (p : Bool) : (t.put r v p).reply = t.reply := rfl
@[simp] theorem Thread.put_brought (t : Thread) (r : Nat) (v : Word) (p : Bool) : (t.put r v p).brought = t.brought := rfl
@[simp] theorem Thread.put_scout (t : Thread) (r : Nat) (v : Word) (p : Bool) : (t.put r v p).scout = t.scout := rfl
@[simp] theorem Thread.put_rerun (t : Thread) (r : Nat) (v : Word) (p : Bool) : (t.put r v p).rerun = t.rerun := rfl
@[simp] theorem Thread.put_plain (t : Thread) (r : Nat) (v : Word) (p : Bool) : (t.put r v p).plain = t.plain := rfl
@[simp] theorem Thread.put_paths (t : Thread) (r : Nat) (v : Word) (p : Bool) : (t.put r v p).paths = t.paths := rfl
@[simp] theorem Thread.put_hostOut (t : Thread) (r : Nat) (v : Word) (p : Bool) : (t.put r v p).hostOut = t.hostOut := rfl
@[simp] theorem Thread.put_brk (t : Thread) (r : Nat) (v : Word) (p : Bool) : (t.put r v p).brk = t.brk := rfl
@[simp] theorem Thread.put_kept (t : Thread) (r : Nat) (v : Word) (p : Bool) : (t.put r v p).kept = t.kept := rfl
@[simp] theorem Thread.put_keptPc (t : Thread) (r : Nat) (v : Word) (p : Bool) : (t.put r v p).keptPc = t.keptPc := rfl
@[simp] theorem Thread.put_keptSb (t : Thread) (r : Nat) (v : Word) (p : Bool) : (t.put r v p).keptSb = t.keptSb := rfl
@[simp] theorem Thread.put_up (t : Thread) (r : Nat) (v : Word) (p : Bool) : (t.put r v p).up = t.up := rfl
@[simp] theorem Thread.put_exe (t : Thread) (r : Nat) (v : Word) (p : Bool) : (t.put r v p).exe = t.exe := rfl
@[simp] theorem Thread.put_ipos (t : Thread) (r : Nat) (v : Word) (p : Bool) : (t.put r v p).ipos = t.ipos := rfl
@[simp] theorem Thread.put_polls (t : Thread) (r : Nat) (v : Word) (p : Bool) : (t.put r v p).polls = t.polls := rfl
@[simp] theorem Thread.put_cpyTag (t : Thread) (r : Nat) (v : Word) (p : Bool) : (t.put r v p).cpyTag = t.cpyTag := rfl
@[simp] theorem Thread.put_recOld (t : Thread) (r : Nat) (v : Word) (p : Bool) : (t.put r v p).recOld = t.recOld := rfl
@[simp] theorem Thread.put_spilled (t : Thread) (r : Nat) (v : Word) (p : Bool) : (t.put r v p).spilled = t.spilled := rfl
@[simp] theorem Thread.sbDown_uid (t : Thread) (k : Nat) : (t.sbDown k).uid = t.uid := by unfold Thread.sbDown; split <;> rfl
@[simp] theorem Thread.sbDown_team (t : Thread) (k : Nat) : (t.sbDown k).team = t.team := by unfold Thread.sbDown; split <;> rfl
@[simp] theorem Thread.sbDown_tid (t : Thread) (k : Nat) : (t.sbDown k).tid = t.tid := by unfold Thread.sbDown; split <;> rfl
@[simp] theorem Thread.sbDown_core (t : Thread) (k : Nat) : (t.sbDown k).core = t.core := by unfold Thread.sbDown; split <;> rfl
@[simp] theorem Thread.sbDown_slot (t : Thread) (k : Nat) : (t.sbDown k).slot = t.slot := by unfold Thread.sbDown; split <;> rfl
@[simp] theorem Thread.sbDown_regs (t : Thread) (k : Nat) : (t.sbDown k).regs = t.regs := by unfold Thread.sbDown; split <;> rfl
@[simp] theorem Thread.sbDown_pois (t : Thread) (k : Nat) : (t.sbDown k).pois = t.pois := by unfold Thread.sbDown; split <;> rfl
@[simp] theorem Thread.sbDown_pc (t : Thread) (k : Nat) : (t.sbDown k).pc = t.pc := by unfold Thread.sbDown; split <;> rfl
@[simp] theorem Thread.sbDown_mid (t : Thread) (k : Nat) : (t.sbDown k).mid = t.mid := by unfold Thread.sbDown; split <;> rfl
@[simp] theorem Thread.sbDown_status (t : Thread) (k : Nat) : (t.sbDown k).status = t.status := by unfold Thread.sbDown; split <;> rfl
@[simp] theorem Thread.sbDown_hold (t : Thread) (k : Nat) : (t.sbDown k).hold = t.hold := by unfold Thread.sbDown; split <;> rfl
@[simp] theorem Thread.sbDown_stamp (t : Thread) (k : Nat) : (t.sbDown k).stamp = t.stamp := by unfold Thread.sbDown; split <;> rfl
@[simp] theorem Thread.sbDown_hnd (t : Thread) (k : Nat) : (t.sbDown k).hnd = t.hnd := by unfold Thread.sbDown; split <;> rfl
@[simp] theorem Thread.sbDown_trapAt (t : Thread) (k : Nat) : (t.sbDown k).trapAt = t.trapAt := by unfold Thread.sbDown; split <;> rfl
@[simp] theorem Thread.sbDown_defer (t : Thread) (k : Nat) : (t.sbDown k).defer = t.defer := by unfold Thread.sbDown; split <;> rfl
@[simp] theorem Thread.sbDown_fstat (t : Thread) (k : Nat) : (t.sbDown k).fstat = t.fstat := by unfold Thread.sbDown; split <;> rfl
@[simp] theorem Thread.sbDown_scoutEn (t : Thread) (k : Nat) : (t.sbDown k).scoutEn = t.scoutEn := by unfold Thread.sbDown; split <;> rfl
@[simp] theorem Thread.sbDown_scoutBud (t : Thread) (k : Nat) : (t.sbDown k).scoutBud = t.scoutBud := by unfold Thread.sbDown; split <;> rfl
@[simp] theorem Thread.sbDown_scoutEpi (t : Thread) (k : Nat) : (t.sbDown k).scoutEpi = t.scoutEpi := by unfold Thread.sbDown; split <;> rfl
@[simp] theorem Thread.sbDown_epc (t : Thread) (k : Nat) : (t.sbDown k).epc = t.epc := by unfold Thread.sbDown; split <;> rfl
@[simp] theorem Thread.sbDown_ecode (t : Thread) (k : Nat) : (t.sbDown k).ecode = t.ecode := by unfold Thread.sbDown; split <;> rfl
@[simp] theorem Thread.sbDown_eaddr (t : Thread) (k : Nat) : (t.sbDown k).eaddr = t.eaddr := by unfold Thread.sbDown; split <;> rfl
@[simp] theorem Thread.sbDown_einfo (t : Thread) (k : Nat) : (t.sbDown k).einfo = t.einfo := by unfold Thread.sbDown; split <;> rfl
@[simp] theorem Thread.sbDown_policy (t : Thread) (k : Nat) : (t.sbDown k).policy = t.policy := by unfold Thread.sbDown; split <;> rfl
@[simp] theorem Thread.sbDown_remerr (t : Thread) (k : Nat) : (t.sbDown k).remerr = t.remerr := by unfold Thread.sbDown; split <;> rfl
@[simp] theorem Thread.sbDown_window (t : Thread) (k : Nat) : (t.sbDown k).window = t.window := by unfold Thread.sbDown; split <;> rfl
@[simp] theorem Thread.sbDown_part (t : Thread) (k : Nat) : (t.sbDown k).part = t.part := by unfold Thread.sbDown; split <;> rfl
@[simp] theorem Thread.sbDown_reply (t : Thread) (k : Nat) : (t.sbDown k).reply = t.reply := by unfold Thread.sbDown; split <;> rfl
@[simp] theorem Thread.sbDown_brought (t : Thread) (k : Nat) : (t.sbDown k).brought = t.brought := by unfold Thread.sbDown; split <;> rfl
@[simp] theorem Thread.sbDown_scout (t : Thread) (k : Nat) : (t.sbDown k).scout = t.scout := by unfold Thread.sbDown; split <;> rfl
@[simp] theorem Thread.sbDown_rerun (t : Thread) (k : Nat) : (t.sbDown k).rerun = t.rerun := by unfold Thread.sbDown; split <;> rfl
@[simp] theorem Thread.sbDown_plain (t : Thread) (k : Nat) : (t.sbDown k).plain = t.plain := by unfold Thread.sbDown; split <;> rfl
@[simp] theorem Thread.sbDown_paths (t : Thread) (k : Nat) : (t.sbDown k).paths = t.paths := by unfold Thread.sbDown; split <;> rfl
@[simp] theorem Thread.sbDown_hostOut (t : Thread) (k : Nat) : (t.sbDown k).hostOut = t.hostOut := by unfold Thread.sbDown; split <;> rfl
@[simp] theorem Thread.sbDown_brk (t : Thread) (k : Nat) : (t.sbDown k).brk = t.brk := by unfold Thread.sbDown; split <;> rfl
@[simp] theorem Thread.sbDown_kept (t : Thread) (k : Nat) : (t.sbDown k).kept = t.kept := by unfold Thread.sbDown; split <;> rfl
@[simp] theorem Thread.sbDown_keptPc (t : Thread) (k : Nat) : (t.sbDown k).keptPc = t.keptPc := by unfold Thread.sbDown; split <;> rfl
@[simp] theorem Thread.sbDown_keptSb (t : Thread) (k : Nat) : (t.sbDown k).keptSb = t.keptSb := by unfold Thread.sbDown; split <;> rfl
@[simp] theorem Thread.sbDown_up (t : Thread) (k : Nat) : (t.sbDown k).up = t.up := by unfold Thread.sbDown; split <;> rfl
@[simp] theorem Thread.sbDown_exe (t : Thread) (k : Nat) : (t.sbDown k).exe = t.exe := by unfold Thread.sbDown; split <;> rfl
@[simp] theorem Thread.sbDown_ipos (t : Thread) (k : Nat) : (t.sbDown k).ipos = t.ipos := by unfold Thread.sbDown; split <;> rfl
@[simp] theorem Thread.sbDown_polls (t : Thread) (k : Nat) : (t.sbDown k).polls = t.polls := by unfold Thread.sbDown; split <;> rfl
@[simp] theorem Thread.sbDown_cpyTag (t : Thread) (k : Nat) : (t.sbDown k).cpyTag = t.cpyTag := by unfold Thread.sbDown; split <;> rfl
@[simp] theorem Thread.sbDown_recOld (t : Thread) (k : Nat) : (t.sbDown k).recOld = t.recOld := by unfold Thread.sbDown; split <;> rfl
@[simp] theorem Thread.sbDown_spilled (t : Thread) (k : Nat) : (t.sbDown k).spilled = t.spilled := by unfold Thread.sbDown; split <;> rfl
@[simp] theorem Thread.sbUp_uid (t : Thread) (k : Nat) : (t.sbUp k).uid = t.uid := by unfold Thread.sbUp; split <;> rfl
@[simp] theorem Thread.sbUp_team (t : Thread) (k : Nat) : (t.sbUp k).team = t.team := by unfold Thread.sbUp; split <;> rfl
@[simp] theorem Thread.sbUp_tid (t : Thread) (k : Nat) : (t.sbUp k).tid = t.tid := by unfold Thread.sbUp; split <;> rfl
@[simp] theorem Thread.sbUp_core (t : Thread) (k : Nat) : (t.sbUp k).core = t.core := by unfold Thread.sbUp; split <;> rfl
@[simp] theorem Thread.sbUp_slot (t : Thread) (k : Nat) : (t.sbUp k).slot = t.slot := by unfold Thread.sbUp; split <;> rfl
@[simp] theorem Thread.sbUp_regs (t : Thread) (k : Nat) : (t.sbUp k).regs = t.regs := by unfold Thread.sbUp; split <;> rfl
@[simp] theorem Thread.sbUp_pois (t : Thread) (k : Nat) : (t.sbUp k).pois = t.pois := by unfold Thread.sbUp; split <;> rfl
@[simp] theorem Thread.sbUp_pc (t : Thread) (k : Nat) : (t.sbUp k).pc = t.pc := by unfold Thread.sbUp; split <;> rfl
@[simp] theorem Thread.sbUp_mid (t : Thread) (k : Nat) : (t.sbUp k).mid = t.mid := by unfold Thread.sbUp; split <;> rfl
@[simp] theorem Thread.sbUp_status (t : Thread) (k : Nat) : (t.sbUp k).status = t.status := by unfold Thread.sbUp; split <;> rfl
@[simp] theorem Thread.sbUp_hold (t : Thread) (k : Nat) : (t.sbUp k).hold = t.hold := by unfold Thread.sbUp; split <;> rfl
@[simp] theorem Thread.sbUp_stamp (t : Thread) (k : Nat) : (t.sbUp k).stamp = t.stamp := by unfold Thread.sbUp; split <;> rfl
@[simp] theorem Thread.sbUp_hnd (t : Thread) (k : Nat) : (t.sbUp k).hnd = t.hnd := by unfold Thread.sbUp; split <;> rfl
@[simp] theorem Thread.sbUp_trapAt (t : Thread) (k : Nat) : (t.sbUp k).trapAt = t.trapAt := by unfold Thread.sbUp; split <;> rfl
@[simp] theorem Thread.sbUp_defer (t : Thread) (k : Nat) : (t.sbUp k).defer = t.defer := by unfold Thread.sbUp; split <;> rfl
@[simp] theorem Thread.sbUp_fstat (t : Thread) (k : Nat) : (t.sbUp k).fstat = t.fstat := by unfold Thread.sbUp; split <;> rfl
@[simp] theorem Thread.sbUp_scoutEn (t : Thread) (k : Nat) : (t.sbUp k).scoutEn = t.scoutEn := by unfold Thread.sbUp; split <;> rfl
@[simp] theorem Thread.sbUp_scoutBud (t : Thread) (k : Nat) : (t.sbUp k).scoutBud = t.scoutBud := by unfold Thread.sbUp; split <;> rfl
@[simp] theorem Thread.sbUp_scoutEpi (t : Thread) (k : Nat) : (t.sbUp k).scoutEpi = t.scoutEpi := by unfold Thread.sbUp; split <;> rfl
@[simp] theorem Thread.sbUp_epc (t : Thread) (k : Nat) : (t.sbUp k).epc = t.epc := by unfold Thread.sbUp; split <;> rfl
@[simp] theorem Thread.sbUp_ecode (t : Thread) (k : Nat) : (t.sbUp k).ecode = t.ecode := by unfold Thread.sbUp; split <;> rfl
@[simp] theorem Thread.sbUp_eaddr (t : Thread) (k : Nat) : (t.sbUp k).eaddr = t.eaddr := by unfold Thread.sbUp; split <;> rfl
@[simp] theorem Thread.sbUp_einfo (t : Thread) (k : Nat) : (t.sbUp k).einfo = t.einfo := by unfold Thread.sbUp; split <;> rfl
@[simp] theorem Thread.sbUp_policy (t : Thread) (k : Nat) : (t.sbUp k).policy = t.policy := by unfold Thread.sbUp; split <;> rfl
@[simp] theorem Thread.sbUp_remerr (t : Thread) (k : Nat) : (t.sbUp k).remerr = t.remerr := by unfold Thread.sbUp; split <;> rfl
@[simp] theorem Thread.sbUp_window (t : Thread) (k : Nat) : (t.sbUp k).window = t.window := by unfold Thread.sbUp; split <;> rfl
@[simp] theorem Thread.sbUp_part (t : Thread) (k : Nat) : (t.sbUp k).part = t.part := by unfold Thread.sbUp; split <;> rfl
@[simp] theorem Thread.sbUp_reply (t : Thread) (k : Nat) : (t.sbUp k).reply = t.reply := by unfold Thread.sbUp; split <;> rfl
@[simp] theorem Thread.sbUp_brought (t : Thread) (k : Nat) : (t.sbUp k).brought = t.brought := by unfold Thread.sbUp; split <;> rfl
@[simp] theorem Thread.sbUp_scout (t : Thread) (k : Nat) : (t.sbUp k).scout = t.scout := by unfold Thread.sbUp; split <;> rfl
@[simp] theorem Thread.sbUp_rerun (t : Thread) (k : Nat) : (t.sbUp k).rerun = t.rerun := by unfold Thread.sbUp; split <;> rfl
@[simp] theorem Thread.sbUp_plain (t : Thread) (k : Nat) : (t.sbUp k).plain = t.plain := by unfold Thread.sbUp; split <;> rfl
@[simp] theorem Thread.sbUp_paths (t : Thread) (k : Nat) : (t.sbUp k).paths = t.paths := by unfold Thread.sbUp; split <;> rfl
@[simp] theorem Thread.sbUp_hostOut (t : Thread) (k : Nat) : (t.sbUp k).hostOut = t.hostOut := by unfold Thread.sbUp; split <;> rfl
@[simp] theorem Thread.sbUp_brk (t : Thread) (k : Nat) : (t.sbUp k).brk = t.brk := by unfold Thread.sbUp; split <;> rfl
@[simp] theorem Thread.sbUp_kept (t : Thread) (k : Nat) : (t.sbUp k).kept = t.kept := by unfold Thread.sbUp; split <;> rfl
@[simp] theorem Thread.sbUp_keptPc (t : Thread) (k : Nat) : (t.sbUp k).keptPc = t.keptPc := by unfold Thread.sbUp; split <;> rfl
@[simp] theorem Thread.sbUp_keptSb (t : Thread) (k : Nat) : (t.sbUp k).keptSb = t.keptSb := by unfold Thread.sbUp; split <;> rfl
@[simp] theorem Thread.sbUp_up (t : Thread) (k : Nat) : (t.sbUp k).up = t.up := by unfold Thread.sbUp; split <;> rfl
@[simp] theorem Thread.sbUp_exe (t : Thread) (k : Nat) : (t.sbUp k).exe = t.exe := by unfold Thread.sbUp; split <;> rfl
@[simp] theorem Thread.sbUp_ipos (t : Thread) (k : Nat) : (t.sbUp k).ipos = t.ipos := by unfold Thread.sbUp; split <;> rfl
@[simp] theorem Thread.sbUp_polls (t : Thread) (k : Nat) : (t.sbUp k).polls = t.polls := by unfold Thread.sbUp; split <;> rfl
@[simp] theorem Thread.sbUp_cpyTag (t : Thread) (k : Nat) : (t.sbUp k).cpyTag = t.cpyTag := by unfold Thread.sbUp; split <;> rfl
@[simp] theorem Thread.sbUp_recOld (t : Thread) (k : Nat) : (t.sbUp k).recOld = t.recOld := by unfold Thread.sbUp; split <;> rfl
@[simp] theorem Thread.sbUp_spilled (t : Thread) (k : Nat) : (t.sbUp k).spilled = t.spilled := by unfold Thread.sbUp; split <;> rfl
@[simp] theorem Thread.lower_uid (t : Thread)  : t.lower.uid = t.uid := by unfold Thread.lower; split; exacts [Thread.sbDown_uid _ _, rfl]
@[simp] theorem Thread.lower_team (t : Thread)  : t.lower.team = t.team := by unfold Thread.lower; split; exacts [Thread.sbDown_team _ _, rfl]
@[simp] theorem Thread.lower_tid (t : Thread)  : t.lower.tid = t.tid := by unfold Thread.lower; split; exacts [Thread.sbDown_tid _ _, rfl]
@[simp] theorem Thread.lower_core (t : Thread)  : t.lower.core = t.core := by unfold Thread.lower; split; exacts [Thread.sbDown_core _ _, rfl]
@[simp] theorem Thread.lower_slot (t : Thread)  : t.lower.slot = t.slot := by unfold Thread.lower; split; exacts [Thread.sbDown_slot _ _, rfl]
@[simp] theorem Thread.lower_regs (t : Thread)  : t.lower.regs = t.regs := by unfold Thread.lower; split; exacts [Thread.sbDown_regs _ _, rfl]
@[simp] theorem Thread.lower_pois (t : Thread)  : t.lower.pois = t.pois := by unfold Thread.lower; split; exacts [Thread.sbDown_pois _ _, rfl]
@[simp] theorem Thread.lower_pc (t : Thread)  : t.lower.pc = t.pc := by unfold Thread.lower; split; exacts [Thread.sbDown_pc _ _, rfl]
@[simp] theorem Thread.lower_mid (t : Thread)  : t.lower.mid = t.mid := by unfold Thread.lower; split; exacts [Thread.sbDown_mid _ _, rfl]
@[simp] theorem Thread.lower_status (t : Thread)  : t.lower.status = t.status := by unfold Thread.lower; split; exacts [Thread.sbDown_status _ _, rfl]
@[simp] theorem Thread.lower_hold (t : Thread)  : t.lower.hold = t.hold := by unfold Thread.lower; split; exacts [Thread.sbDown_hold _ _, rfl]
@[simp] theorem Thread.lower_stamp (t : Thread)  : t.lower.stamp = t.stamp := by unfold Thread.lower; split; exacts [Thread.sbDown_stamp _ _, rfl]
@[simp] theorem Thread.lower_hnd (t : Thread)  : t.lower.hnd = t.hnd := by unfold Thread.lower; split; exacts [Thread.sbDown_hnd _ _, rfl]
@[simp] theorem Thread.lower_trapAt (t : Thread)  : t.lower.trapAt = t.trapAt := by unfold Thread.lower; split; exacts [Thread.sbDown_trapAt _ _, rfl]
@[simp] theorem Thread.lower_defer (t : Thread)  : t.lower.defer = t.defer := by unfold Thread.lower; split; exacts [Thread.sbDown_defer _ _, rfl]
@[simp] theorem Thread.lower_fstat (t : Thread)  : t.lower.fstat = t.fstat := by unfold Thread.lower; split; exacts [Thread.sbDown_fstat _ _, rfl]
@[simp] theorem Thread.lower_scoutEn (t : Thread)  : t.lower.scoutEn = t.scoutEn := by unfold Thread.lower; split; exacts [Thread.sbDown_scoutEn _ _, rfl]
@[simp] theorem Thread.lower_scoutBud (t : Thread)  : t.lower.scoutBud = t.scoutBud := by unfold Thread.lower; split; exacts [Thread.sbDown_scoutBud _ _, rfl]
@[simp] theorem Thread.lower_scoutEpi (t : Thread)  : t.lower.scoutEpi = t.scoutEpi := by unfold Thread.lower; split; exacts [Thread.sbDown_scoutEpi _ _, rfl]
@[simp] theorem Thread.lower_epc (t : Thread)  : t.lower.epc = t.epc := by unfold Thread.lower; split; exacts [Thread.sbDown_epc _ _, rfl]
@[simp] theorem Thread.lower_ecode (t : Thread)  : t.lower.ecode = t.ecode := by unfold Thread.lower; split; exacts [Thread.sbDown_ecode _ _, rfl]
@[simp] theorem Thread.lower_eaddr (t : Thread)  : t.lower.eaddr = t.eaddr := by unfold Thread.lower; split; exacts [Thread.sbDown_eaddr _ _, rfl]
@[simp] theorem Thread.lower_einfo (t : Thread)  : t.lower.einfo = t.einfo := by unfold Thread.lower; split; exacts [Thread.sbDown_einfo _ _, rfl]
@[simp] theorem Thread.lower_policy (t : Thread)  : t.lower.policy = t.policy := by unfold Thread.lower; split; exacts [Thread.sbDown_policy _ _, rfl]
@[simp] theorem Thread.lower_remerr (t : Thread)  : t.lower.remerr = t.remerr := by unfold Thread.lower; split; exacts [Thread.sbDown_remerr _ _, rfl]
@[simp] theorem Thread.lower_window (t : Thread)  : t.lower.window = t.window := by unfold Thread.lower; split; exacts [Thread.sbDown_window _ _, rfl]
@[simp] theorem Thread.lower_part (t : Thread)  : t.lower.part = t.part := by unfold Thread.lower; split; exacts [Thread.sbDown_part _ _, rfl]
@[simp] theorem Thread.lower_reply (t : Thread)  : t.lower.reply = t.reply := by unfold Thread.lower; split; exacts [Thread.sbDown_reply _ _, rfl]
@[simp] theorem Thread.lower_brought (t : Thread)  : t.lower.brought = t.brought := by unfold Thread.lower; split; exacts [Thread.sbDown_brought _ _, rfl]
@[simp] theorem Thread.lower_scout (t : Thread)  : t.lower.scout = t.scout := by unfold Thread.lower; split; exacts [Thread.sbDown_scout _ _, rfl]
@[simp] theorem Thread.lower_rerun (t : Thread)  : t.lower.rerun = t.rerun := by unfold Thread.lower; split; exacts [Thread.sbDown_rerun _ _, rfl]
@[simp] theorem Thread.lower_plain (t : Thread)  : t.lower.plain = t.plain := by unfold Thread.lower; split; exacts [Thread.sbDown_plain _ _, rfl]
@[simp] theorem Thread.lower_paths (t : Thread)  : t.lower.paths = t.paths := by unfold Thread.lower; split; exacts [Thread.sbDown_paths _ _, rfl]
@[simp] theorem Thread.lower_hostOut (t : Thread)  : t.lower.hostOut = t.hostOut := by unfold Thread.lower; split; exacts [Thread.sbDown_hostOut _ _, rfl]
@[simp] theorem Thread.lower_brk (t : Thread)  : t.lower.brk = t.brk := by unfold Thread.lower; split; exacts [Thread.sbDown_brk _ _, rfl]
@[simp] theorem Thread.lower_kept (t : Thread)  : t.lower.kept = t.kept := by unfold Thread.lower; split; exacts [Thread.sbDown_kept _ _, rfl]
@[simp] theorem Thread.lower_keptPc (t : Thread)  : t.lower.keptPc = t.keptPc := by unfold Thread.lower; split; exacts [Thread.sbDown_keptPc _ _, rfl]
@[simp] theorem Thread.lower_keptSb (t : Thread)  : t.lower.keptSb = t.keptSb := by unfold Thread.lower; split; exacts [Thread.sbDown_keptSb _ _, rfl]
@[simp] theorem Thread.lower_exe (t : Thread)  : t.lower.exe = t.exe := by unfold Thread.lower; split; exacts [Thread.sbDown_exe _ _, rfl]
@[simp] theorem Thread.lower_ipos (t : Thread)  : t.lower.ipos = t.ipos := by unfold Thread.lower; split; exacts [Thread.sbDown_ipos _ _, rfl]
@[simp] theorem Thread.lower_polls (t : Thread)  : t.lower.polls = t.polls := by unfold Thread.lower; split; exacts [Thread.sbDown_polls _ _, rfl]
@[simp] theorem Thread.lower_cpyTag (t : Thread)  : t.lower.cpyTag = t.cpyTag := by unfold Thread.lower; split; exacts [Thread.sbDown_cpyTag _ _, rfl]
@[simp] theorem Thread.lower_recOld (t : Thread)  : t.lower.recOld = t.recOld := by unfold Thread.lower; split; exacts [Thread.sbDown_recOld _ _, rfl]
@[simp] theorem Thread.lower_spilled (t : Thread)  : t.lower.spilled = t.spilled := by unfold Thread.lower; split; exacts [Thread.sbDown_spilled _ _, rfl]
@[simp] theorem Thread.charge_uid (t : Thread) (k : Nat) : (t.charge k).uid = t.uid := by unfold Thread.charge; split; exacts [rfl, Thread.sbUp_uid _ _]
@[simp] theorem Thread.charge_team (t : Thread) (k : Nat) : (t.charge k).team = t.team := by unfold Thread.charge; split; exacts [rfl, Thread.sbUp_team _ _]
@[simp] theorem Thread.charge_tid (t : Thread) (k : Nat) : (t.charge k).tid = t.tid := by unfold Thread.charge; split; exacts [rfl, Thread.sbUp_tid _ _]
@[simp] theorem Thread.charge_core (t : Thread) (k : Nat) : (t.charge k).core = t.core := by unfold Thread.charge; split; exacts [rfl, Thread.sbUp_core _ _]
@[simp] theorem Thread.charge_slot (t : Thread) (k : Nat) : (t.charge k).slot = t.slot := by unfold Thread.charge; split; exacts [rfl, Thread.sbUp_slot _ _]
@[simp] theorem Thread.charge_regs (t : Thread) (k : Nat) : (t.charge k).regs = t.regs := by unfold Thread.charge; split; exacts [rfl, Thread.sbUp_regs _ _]
@[simp] theorem Thread.charge_pois (t : Thread) (k : Nat) : (t.charge k).pois = t.pois := by unfold Thread.charge; split; exacts [rfl, Thread.sbUp_pois _ _]
@[simp] theorem Thread.charge_pc (t : Thread) (k : Nat) : (t.charge k).pc = t.pc := by unfold Thread.charge; split; exacts [rfl, Thread.sbUp_pc _ _]
@[simp] theorem Thread.charge_mid (t : Thread) (k : Nat) : (t.charge k).mid = t.mid := by unfold Thread.charge; split; exacts [rfl, Thread.sbUp_mid _ _]
@[simp] theorem Thread.charge_status (t : Thread) (k : Nat) : (t.charge k).status = t.status := by unfold Thread.charge; split; exacts [rfl, Thread.sbUp_status _ _]
@[simp] theorem Thread.charge_hold (t : Thread) (k : Nat) : (t.charge k).hold = t.hold := by unfold Thread.charge; split; exacts [rfl, Thread.sbUp_hold _ _]
@[simp] theorem Thread.charge_stamp (t : Thread) (k : Nat) : (t.charge k).stamp = t.stamp := by unfold Thread.charge; split; exacts [rfl, Thread.sbUp_stamp _ _]
@[simp] theorem Thread.charge_hnd (t : Thread) (k : Nat) : (t.charge k).hnd = t.hnd := by unfold Thread.charge; split; exacts [rfl, Thread.sbUp_hnd _ _]
@[simp] theorem Thread.charge_trapAt (t : Thread) (k : Nat) : (t.charge k).trapAt = t.trapAt := by unfold Thread.charge; split; exacts [rfl, Thread.sbUp_trapAt _ _]
@[simp] theorem Thread.charge_defer (t : Thread) (k : Nat) : (t.charge k).defer = t.defer := by unfold Thread.charge; split; exacts [rfl, Thread.sbUp_defer _ _]
@[simp] theorem Thread.charge_fstat (t : Thread) (k : Nat) : (t.charge k).fstat = t.fstat := by unfold Thread.charge; split; exacts [rfl, Thread.sbUp_fstat _ _]
@[simp] theorem Thread.charge_scoutEn (t : Thread) (k : Nat) : (t.charge k).scoutEn = t.scoutEn := by unfold Thread.charge; split; exacts [rfl, Thread.sbUp_scoutEn _ _]
@[simp] theorem Thread.charge_scoutBud (t : Thread) (k : Nat) : (t.charge k).scoutBud = t.scoutBud := by unfold Thread.charge; split; exacts [rfl, Thread.sbUp_scoutBud _ _]
@[simp] theorem Thread.charge_scoutEpi (t : Thread) (k : Nat) : (t.charge k).scoutEpi = t.scoutEpi := by unfold Thread.charge; split; exacts [rfl, Thread.sbUp_scoutEpi _ _]
@[simp] theorem Thread.charge_epc (t : Thread) (k : Nat) : (t.charge k).epc = t.epc := by unfold Thread.charge; split; exacts [rfl, Thread.sbUp_epc _ _]
@[simp] theorem Thread.charge_ecode (t : Thread) (k : Nat) : (t.charge k).ecode = t.ecode := by unfold Thread.charge; split; exacts [rfl, Thread.sbUp_ecode _ _]
@[simp] theorem Thread.charge_eaddr (t : Thread) (k : Nat) : (t.charge k).eaddr = t.eaddr := by unfold Thread.charge; split; exacts [rfl, Thread.sbUp_eaddr _ _]
@[simp] theorem Thread.charge_einfo (t : Thread) (k : Nat) : (t.charge k).einfo = t.einfo := by unfold Thread.charge; split; exacts [rfl, Thread.sbUp_einfo _ _]
@[simp] theorem Thread.charge_policy (t : Thread) (k : Nat) : (t.charge k).policy = t.policy := by unfold Thread.charge; split; exacts [rfl, Thread.sbUp_policy _ _]
@[simp] theorem Thread.charge_remerr (t : Thread) (k : Nat) : (t.charge k).remerr = t.remerr := by unfold Thread.charge; split; exacts [rfl, Thread.sbUp_remerr _ _]
@[simp] theorem Thread.charge_window (t : Thread) (k : Nat) : (t.charge k).window = t.window := by unfold Thread.charge; split; exacts [rfl, Thread.sbUp_window _ _]
@[simp] theorem Thread.charge_part (t : Thread) (k : Nat) : (t.charge k).part = t.part := by unfold Thread.charge; split; exacts [rfl, Thread.sbUp_part _ _]
@[simp] theorem Thread.charge_reply (t : Thread) (k : Nat) : (t.charge k).reply = t.reply := by unfold Thread.charge; split; exacts [rfl, Thread.sbUp_reply _ _]
@[simp] theorem Thread.charge_brought (t : Thread) (k : Nat) : (t.charge k).brought = t.brought := by unfold Thread.charge; split; exacts [rfl, Thread.sbUp_brought _ _]
@[simp] theorem Thread.charge_scout (t : Thread) (k : Nat) : (t.charge k).scout = t.scout := by unfold Thread.charge; split; exacts [rfl, Thread.sbUp_scout _ _]
@[simp] theorem Thread.charge_rerun (t : Thread) (k : Nat) : (t.charge k).rerun = t.rerun := by unfold Thread.charge; split; exacts [rfl, Thread.sbUp_rerun _ _]
@[simp] theorem Thread.charge_plain (t : Thread) (k : Nat) : (t.charge k).plain = t.plain := by unfold Thread.charge; split; exacts [rfl, Thread.sbUp_plain _ _]
@[simp] theorem Thread.charge_paths (t : Thread) (k : Nat) : (t.charge k).paths = t.paths := by unfold Thread.charge; split; exacts [rfl, Thread.sbUp_paths _ _]
@[simp] theorem Thread.charge_hostOut (t : Thread) (k : Nat) : (t.charge k).hostOut = t.hostOut := by unfold Thread.charge; split; exacts [rfl, Thread.sbUp_hostOut _ _]
@[simp] theorem Thread.charge_brk (t : Thread) (k : Nat) : (t.charge k).brk = t.brk := by unfold Thread.charge; split; exacts [rfl, Thread.sbUp_brk _ _]
@[simp] theorem Thread.charge_kept (t : Thread) (k : Nat) : (t.charge k).kept = t.kept := by unfold Thread.charge; split; exacts [rfl, Thread.sbUp_kept _ _]
@[simp] theorem Thread.charge_keptPc (t : Thread) (k : Nat) : (t.charge k).keptPc = t.keptPc := by unfold Thread.charge; split; exacts [rfl, Thread.sbUp_keptPc _ _]
@[simp] theorem Thread.charge_keptSb (t : Thread) (k : Nat) : (t.charge k).keptSb = t.keptSb := by unfold Thread.charge; split; exacts [rfl, Thread.sbUp_keptSb _ _]
@[simp] theorem Thread.charge_exe (t : Thread) (k : Nat) : (t.charge k).exe = t.exe := by unfold Thread.charge; split; exacts [rfl, Thread.sbUp_exe _ _]
@[simp] theorem Thread.charge_ipos (t : Thread) (k : Nat) : (t.charge k).ipos = t.ipos := by unfold Thread.charge; split; exacts [rfl, Thread.sbUp_ipos _ _]
@[simp] theorem Thread.charge_polls (t : Thread) (k : Nat) : (t.charge k).polls = t.polls := by unfold Thread.charge; split; exacts [rfl, Thread.sbUp_polls _ _]
@[simp] theorem Thread.charge_cpyTag (t : Thread) (k : Nat) : (t.charge k).cpyTag = t.cpyTag := by unfold Thread.charge; split; exacts [rfl, Thread.sbUp_cpyTag _ _]
@[simp] theorem Thread.charge_recOld (t : Thread) (k : Nat) : (t.charge k).recOld = t.recOld := by unfold Thread.charge; split; exacts [rfl, Thread.sbUp_recOld _ _]
@[simp] theorem Thread.charge_spilled (t : Thread) (k : Nat) : (t.charge k).spilled = t.spilled := by unfold Thread.charge; split; exacts [rfl, Thread.sbUp_spilled _ _]
@[simp] theorem Thread.readyAt_uid (t : Thread) (pc : DWord) (now : Nat) : (t.readyAt pc now).uid = t.uid := Thread.lower_uid t
@[simp] theorem Thread.readyAt_team (t : Thread) (pc : DWord) (now : Nat) : (t.readyAt pc now).team = t.team := Thread.lower_team t
@[simp] theorem Thread.readyAt_tid (t : Thread) (pc : DWord) (now : Nat) : (t.readyAt pc now).tid = t.tid := Thread.lower_tid t
@[simp] theorem Thread.readyAt_core (t : Thread) (pc : DWord) (now : Nat) : (t.readyAt pc now).core = t.core := Thread.lower_core t
@[simp] theorem Thread.readyAt_slot (t : Thread) (pc : DWord) (now : Nat) : (t.readyAt pc now).slot = t.slot := Thread.lower_slot t
@[simp] theorem Thread.readyAt_regs (t : Thread) (pc : DWord) (now : Nat) : (t.readyAt pc now).regs = t.regs := Thread.lower_regs t
@[simp] theorem Thread.readyAt_pois (t : Thread) (pc : DWord) (now : Nat) : (t.readyAt pc now).pois = t.pois := Thread.lower_pois t
@[simp] theorem Thread.readyAt_hnd (t : Thread) (pc : DWord) (now : Nat) : (t.readyAt pc now).hnd = t.hnd := Thread.lower_hnd t
@[simp] theorem Thread.readyAt_trapAt (t : Thread) (pc : DWord) (now : Nat) : (t.readyAt pc now).trapAt = t.trapAt := Thread.lower_trapAt t
@[simp] theorem Thread.readyAt_defer (t : Thread) (pc : DWord) (now : Nat) : (t.readyAt pc now).defer = t.defer := Thread.lower_defer t
@[simp] theorem Thread.readyAt_fstat (t : Thread) (pc : DWord) (now : Nat) : (t.readyAt pc now).fstat = t.fstat := Thread.lower_fstat t
@[simp] theorem Thread.readyAt_scoutEn (t : Thread) (pc : DWord) (now : Nat) : (t.readyAt pc now).scoutEn = t.scoutEn := Thread.lower_scoutEn t
@[simp] theorem Thread.readyAt_scoutBud (t : Thread) (pc : DWord) (now : Nat) : (t.readyAt pc now).scoutBud = t.scoutBud := Thread.lower_scoutBud t
@[simp] theorem Thread.readyAt_scoutEpi (t : Thread) (pc : DWord) (now : Nat) : (t.readyAt pc now).scoutEpi = t.scoutEpi := Thread.lower_scoutEpi t
@[simp] theorem Thread.readyAt_epc (t : Thread) (pc : DWord) (now : Nat) : (t.readyAt pc now).epc = t.epc := Thread.lower_epc t
@[simp] theorem Thread.readyAt_ecode (t : Thread) (pc : DWord) (now : Nat) : (t.readyAt pc now).ecode = t.ecode := Thread.lower_ecode t
@[simp] theorem Thread.readyAt_eaddr (t : Thread) (pc : DWord) (now : Nat) : (t.readyAt pc now).eaddr = t.eaddr := Thread.lower_eaddr t
@[simp] theorem Thread.readyAt_einfo (t : Thread) (pc : DWord) (now : Nat) : (t.readyAt pc now).einfo = t.einfo := Thread.lower_einfo t
@[simp] theorem Thread.readyAt_policy (t : Thread) (pc : DWord) (now : Nat) : (t.readyAt pc now).policy = t.policy := Thread.lower_policy t
@[simp] theorem Thread.readyAt_remerr (t : Thread) (pc : DWord) (now : Nat) : (t.readyAt pc now).remerr = t.remerr := Thread.lower_remerr t
@[simp] theorem Thread.readyAt_window (t : Thread) (pc : DWord) (now : Nat) : (t.readyAt pc now).window = t.window := Thread.lower_window t
@[simp] theorem Thread.readyAt_reply (t : Thread) (pc : DWord) (now : Nat) : (t.readyAt pc now).reply = t.reply := Thread.lower_reply t
@[simp] theorem Thread.readyAt_brought (t : Thread) (pc : DWord) (now : Nat) : (t.readyAt pc now).brought = t.brought := Thread.lower_brought t
@[simp] theorem Thread.readyAt_scout (t : Thread) (pc : DWord) (now : Nat) : (t.readyAt pc now).scout = t.scout := Thread.lower_scout t
@[simp] theorem Thread.readyAt_rerun (t : Thread) (pc : DWord) (now : Nat) : (t.readyAt pc now).rerun = t.rerun := Thread.lower_rerun t
@[simp] theorem Thread.readyAt_plain (t : Thread) (pc : DWord) (now : Nat) : (t.readyAt pc now).plain = t.plain := Thread.lower_plain t
@[simp] theorem Thread.readyAt_paths (t : Thread) (pc : DWord) (now : Nat) : (t.readyAt pc now).paths = t.paths := Thread.lower_paths t
@[simp] theorem Thread.readyAt_hostOut (t : Thread) (pc : DWord) (now : Nat) : (t.readyAt pc now).hostOut = t.hostOut := Thread.lower_hostOut t
@[simp] theorem Thread.readyAt_brk (t : Thread) (pc : DWord) (now : Nat) : (t.readyAt pc now).brk = t.brk := Thread.lower_brk t
@[simp] theorem Thread.readyAt_kept (t : Thread) (pc : DWord) (now : Nat) : (t.readyAt pc now).kept = t.kept := Thread.lower_kept t
@[simp] theorem Thread.readyAt_keptPc (t : Thread) (pc : DWord) (now : Nat) : (t.readyAt pc now).keptPc = t.keptPc := Thread.lower_keptPc t
@[simp] theorem Thread.readyAt_keptSb (t : Thread) (pc : DWord) (now : Nat) : (t.readyAt pc now).keptSb = t.keptSb := Thread.lower_keptSb t
@[simp] theorem Thread.readyAt_exe (t : Thread) (pc : DWord) (now : Nat) : (t.readyAt pc now).exe = t.exe := Thread.lower_exe t
@[simp] theorem Thread.readyAt_ipos (t : Thread) (pc : DWord) (now : Nat) : (t.readyAt pc now).ipos = t.ipos := Thread.lower_ipos t
@[simp] theorem Thread.readyAt_polls (t : Thread) (pc : DWord) (now : Nat) : (t.readyAt pc now).polls = t.polls := Thread.lower_polls t
@[simp] theorem Thread.readyAt_cpyTag (t : Thread) (pc : DWord) (now : Nat) : (t.readyAt pc now).cpyTag = t.cpyTag := Thread.lower_cpyTag t
@[simp] theorem Thread.readyAt_recOld (t : Thread) (pc : DWord) (now : Nat) : (t.readyAt pc now).recOld = t.recOld := Thread.lower_recOld t
@[simp] theorem Thread.readyAt_spilled (t : Thread) (pc : DWord) (now : Nat) : (t.readyAt pc now).spilled = t.spilled := Thread.lower_spilled t

end Sys2Proof.Machine
end

