-- ==== Sys2Proof/Laws/Threads.lean ====
section
/-! SUPPORT. What the shared operations on threads do: setting one, leaving a clause, going on to the next instruction,
and a register instruction as a whole. -/
namespace Sys2Proof.Machine
open Sys2Proof

/-! ### Finding and setting a thread -/

theorem State.thread_uid {s : State} {u : Nat} (h : s.hasThread u = true) : (s.thread u).uid = u := by
  unfold State.hasThread at h
  unfold State.thread
  obtain ⟨x, hx, hu⟩ := List.any_eq_true.mp h
  cases hf : s.threads.find? (·.uid == u) with
  | none => exact absurd hu (by simpa using List.find?_eq_none.mp hf x hx)
  | some y => simpa using List.find?_some hf

theorem find_modWhere (l : List Thread) (t : Thread) (u : Nat) :
    (modWhere (fun x => x.uid == t.uid) (fun _ => t) l).find? (·.uid == u) =
      if u = t.uid then (if l.any (·.uid == u) then some t else none) else l.find? (·.uid == u) := by
  induction l with
  | nil => simp [modWhere]
  | cons x l ih =>
    simp only [modWhere, List.map_cons, List.find?_cons, List.any_cons] at ih ⊢
    by_cases hx : x.uid = t.uid
    · simp only [hx, beq_self_eq_true, ↓reduceIte]
      by_cases hu : u = t.uid
      · simp [hu]
      · have hu' : (t.uid == u) = false := by simpa using fun e : t.uid = u => hu e.symm
        simp only [hu', ih, if_neg hu]
    · have hx' : (x.uid == t.uid) = false := by simpa using hx
      simp only [hx', Bool.false_eq_true, ↓reduceIte]
      by_cases hxu : x.uid = u
      · have : ¬ u = t.uid := fun e => hx (hxu.trans e)
        simp [hxu, this]
      · have hxu' : (x.uid == u) = false := by simpa using hxu
        simp only [hxu', Bool.false_or, ih]

theorem State.thread_setThread (s : State) (t : Thread) (u : Nat) :
    (s.setThread t).thread u = if u = t.uid ∧ s.hasThread u = true then t else s.thread u := by
  simp only [State.thread, State.setThread, State.hasThread, find_modWhere]
  by_cases hu : u = t.uid
  · by_cases h : s.threads.any (·.uid == u) = true
    · simp [hu, hu ▸ h]
    · have hf : s.threads.find? (·.uid == u) = none := by
        apply List.find?_eq_none.mpr
        intro x hx hxu
        exact h (List.any_eq_true.mpr ⟨x, hx, hxu⟩)
      have h' : s.threads.any (·.uid == u) = false := by simpa using h
      simp only [hu, true_and, ↓reduceIte] at hf h' ⊢
      simp [hf, h']
  · simp [hu]

theorem State.thread_setThread_same {s : State} {t : Thread} {u : Nat} (hu : t.uid = u) (h : s.hasThread u = true) :
    (s.setThread t).thread u = t := by
  rw [State.thread_setThread, if_pos ⟨hu.symm, h⟩]

theorem State.thread_setThread_other {s : State} {t : Thread} {u : Nat} (h : u ≠ t.uid) :
    (s.setThread t).thread u = s.thread u := by
  rw [State.thread_setThread, if_neg fun e => h e.1]

@[simp] theorem State.hasThread_setThread (s : State) (t : Thread) (u : Nat) : (s.setThread t).hasThread u = s.hasThread u := by
  simp only [State.hasThread, State.setThread]
  induction s.threads with
  | nil => simp [modWhere]
  | cons x l ih =>
    simp only [modWhere, List.map_cons, List.any_cons] at ih ⊢
    rw [ih]
    congr 1
    by_cases hx : x.uid = t.uid <;> simp [hx]

/-- Setting a thread twice. -/
theorem State.setThread_setThread (s : State) (a b : Thread) (h : a.uid = b.uid) : (s.setThread a).setThread b = s.setThread b := by
  simp only [State.setThread, modWhere, List.map_map]
  congr 1
  apply List.map_congr_left
  intro x _
  simp only [Function.comp]
  by_cases hx : x.uid = b.uid
  · simp [hx, h]
  · have : ¬ x.uid = a.uid := by rw [h]; exact hx
    simp [hx, this]

/-! ### Leaving a clause -/

/-- New ready stamps change nothing but stamps. -/
theorem stampEnd_eq (s : State) (b : Bundle) : stampEnd s b = { s with threads := (stampEnd s b).threads } := by
  unfold stampEnd; split <;> rfl

/-- A change of threads that keeps identities and all but stamps. -/
theorem find_map (l : List Thread) (f : Thread → Thread) (hf : ∀ x, (f x).uid = x.uid ∧ (f x).unstamped = x.unstamped) (v : Nat) :
    (((l.map f).find? (·.uid == v)).getD {}).unstamped = ((l.find? (·.uid == v)).getD {}).unstamped ∧
    (l.map f).any (·.uid == v) = l.any (·.uid == v) := by
  induction l with
  | nil => exact ⟨rfl, rfl⟩
  | cons x l ih =>
    simp only [List.map_cons, List.find?_cons, List.any_cons, (hf x).1]
    cases hx : x.uid == v with
    | true => exact ⟨(hf x).2, rfl⟩
    | false => exact ⟨ih.1, by simpa using ih.2⟩

theorem stampEnd_thread (s : State) (b : Bundle) (v : Nat) :
    ((stampEnd s b).thread v).unstamped = (s.thread v).unstamped ∧ (stampEnd s b).hasThread v = s.hasThread v := by
  unfold stampEnd
  split
  · refine find_map s.threads _ ?_ v
    intro x
    split <;> exact ⟨rfl, rfl⟩
  · exact ⟨rfl, rfl⟩

theorem stampEnds (bs : List Bundle) (s : State) :
    bs.foldl stampEnd s = { s with threads := (bs.foldl stampEnd s).threads } ∧
    (∀ v, ((bs.foldl stampEnd s).thread v).unstamped = (s.thread v).unstamped) ∧
    ∀ v, (bs.foldl stampEnd s).hasThread v = s.hasThread v := by
  induction bs generalizing s with
  | nil => exact ⟨rfl, fun _ => rfl, fun _ => rfl⟩
  | cons b bs ih =>
    obtain ⟨h1, h2, h3⟩ := ih (stampEnd s b)
    simp only [List.foldl_cons]
    refine ⟨?_, fun v => (h2 v).trans (stampEnd_thread s b v).1, fun v => (h3 v).trans (stampEnd_thread s b v).2⟩
    rw [h1, stampEnd_eq s b]

theorem leaveClause_eq (s : State) (t : Thread) :
    leaveClause s t = { s with threads := (leaveClause s t).threads, cores := (leaveClause s t).cores } := by
  have := (stampEnds (((s.core t.core).bundles.filter fun b => b.todo.contains t.uid).map fun b => b.drop t.uid)
    (s.setCore t.core ((s.core t.core).mapBundles fun b => b.drop t.uid))).1
  unfold leaveClause
  simp only
  rw [this]
  rfl

theorem leaveClause_thread (s : State) (t : Thread) (v : Nat) :
    ((leaveClause s t).thread v).unstamped = (s.thread v).unstamped :=
  (stampEnds _ _).2.1 v

@[simp] theorem leaveClause_hasThread (s : State) (t : Thread) (v : Nat) : (leaveClause s t).hasThread v = s.hasThread v :=
  (stampEnds _ _).2.2 v

/-- Leaving a clause takes the thread out of its core's bundles and touches no other core. -/
theorem leaveClause_core (s : State) (t : Thread) (n : Nat) :
    (leaveClause s t).core n = if n = t.core then (s.core n).mapBundles (fun b => b.drop t.uid) else s.core n := by
  have h := (stampEnds (((s.core t.core).bundles.filter fun b => b.todo.contains t.uid).map fun b => b.drop t.uid)
    (s.setCore t.core ((s.core t.core).mapBundles fun b => b.drop t.uid))).1
  have : (leaveClause s t).core n = (s.setCore t.core ((s.core t.core).mapBundles fun b => b.drop t.uid)).core n := by
    unfold leaveClause
    simp only
    rw [h]
    rfl
  rw [this, State.core_setCore]
  by_cases hn : n = t.core
  · simp [hn]
  · simp [hn]

theorem leaveClause_byte (s : State) (t : Thread) (a : Nat) : (leaveClause s t).byte a = s.byte a := by
  rw [leaveClause_eq]; rfl

/-! ### Going on to the next instruction -/

/-- A thread after retirement at a pc. -/
def Thread.goneTo (t : Thread) (c : Cur) (pc : DWord) (tr : Bool) : Thread :=
  { t.lower with pc := pc, mid := if c.last || tr then none else some c.hdr, hold := none, part := none, reply := none, brought := []
                 rerun := false, plain := false, ipos := if c.last || tr then 0 else c.pos + 1, polls := false }
/-- With no counter up nothing falls. -/
theorem Thread.lower_none {t : Thread} (h : t.up = none) : t.lower = t := by simp [Thread.lower, h]

/-- The thread of an executing state after retirement outside scout. -/
theorem retireAt_spec {s : State} {t : Thread} {u : Nat} {c : Cur} {pc : DWord} {tr : Bool}
    (hu : t.uid = u) (hs : s.hasThread u = true) (hsc : t.scout = none) :
    ((retireAt s t c pc tr).thread u).unstamped = (t.goneTo c pc tr).unstamped ∧ OnlyThread s (retireAt s t c pc tr) u := by
  have hin : t.inEpisode = false := by simp [Thread.inEpisode, hsc]
  have e : retireAt s t c pc tr = leaveClause (s.setThread (t.goneTo c pc tr)) (t.goneTo c pc tr) := by
    have h2 : (t.goneTo c pc tr).scout = none := (Thread.lower_scout t).trans hsc
    show (if t.inEpisode then _ else _) = _
    rw [hin]
    show leaveClause (s.setThread (match (t.goneTo c pc tr).scout with | some sc => _ | none => _)) (match (t.goneTo c pc tr).scout with | some sc => _ | none => _) = _
    rw [h2]
    rfl
  have huid : (t.goneTo c pc tr).uid = u := (Thread.lower_uid t).trans hu
  rw [e]
  generalize t.goneTo c pc tr = t' at *
  refine ⟨?_, ?_, ?_, ?_, ?_⟩
  · rw [leaveClause_thread, State.thread_setThread_same huid hs]
  · rw [leaveClause_eq]; rfl
  · intro a; rw [leaveClause_byte]; rfl
  · intro v hv
    rw [leaveClause_thread, State.thread_setThread_other (by simpa [huid] using hv)]
  · intro n
    rw [leaveClause_core]
    split <;> rfl

/-- A frame is not disturbed by landing the thread's results first. -/
theorem OnlyThread.of_set {s t : State} {th : Thread} {u : Nat} (hu : th.uid = u) (h : OnlyThread (s.setThread th) t u) :
    OnlyThread s t u := by
  refine ⟨h.rest.trans rfl, h.memory, ?_, h.cores⟩
  intro v hv
  rw [h.others v hv, State.thread_setThread_other (by simpa [hu] using hv)]

theorem retire_advanced {s : State} {th t : Thread} {u : Nat} {c : Cur} (hu : t.uid = u) (hth : th.uid = u)
    (hs : s.hasThread u = true) (hsc : t.scout = none) : Advanced s (retire (s.setThread th) t c) u c t := by
  have h := retireAt_spec (s := s.setThread th) (t := t) (u := u) (c := c) (pc := c.next) (tr := false) hu (by simpa using hs) hsc
  refine ⟨?_, OnlyThread.of_set hth h.2⟩
  have e : t.goneTo c c.next false = t.goneOn c := by simp [Thread.goneTo, Thread.goneOn]
  exact e ▸ h.1

/-! ### Landing results keeps everything but registers, marks and counters -/

/-- What landing never changes. -/
def Thread.still (t : Thread) : Thread := { t with regs := [], pois := [], window := [], sb := [], scout := none, fstat := 0 }

theorem Thread.put_still (t : Thread) (r : Nat) (v : Word) (p : Bool) : (t.put r v p).still = t.still := rfl
theorem Thread.sbDown_still (t : Thread) (k : Nat) : (t.sbDown k).still = t.still := by
  unfold Thread.sbDown; split <;> rfl
theorem Thread.sbUp_still (t : Thread) (k : Nat) : (t.sbUp k).still = t.still := by
  unfold Thread.sbUp; split <;> rfl

theorem Thread.flag_still (t : Thread) (fl : BitVec 5) : (t.flag fl).still = t.still := by
  unfold Thread.flag; split <;> rfl

theorem landOne_still (t : Thread) (p : Pending) : (landOne t p).still = t.still := by
  unfold landOne
  simp only [Thread.sbDown_still]
  have flags : ∀ a : Thread, (if p.prov then a.flag p.fl else { a with fstat := a.fstat ||| p.fl }).still = a.still := by
    intro a; split
    · exact a.flag_still p.fl
    · rfl
  rw [flags]
  generalize p.regs = l
  induction l generalizing t with
  | nil => rfl
  | cons x l ih =>
    simp only [List.foldl_cons]
    rw [ih]
    split
    · rfl
    · split
      · rfl
      · split <;> rfl

theorem landWhere_still (t : Thread) (pick : Pending → Bool) : (landWhere t pick).still = t.still := by
  unfold landWhere
  generalize t.window = w
  generalize hold : ([] : List Pending) = older
  clear hold
  induction w generalizing t older with
  | nil => rfl
  | cons p w ih =>
    simp only [landWhere.go]
    split
    · rw [ih, landOne_still]
    · rw [ih]

theorem prepare_still {t th : Thread} {c : Cur} (h : prepare t c = some th) : th.still = t.still := by
  unfold prepare at h
  simp only at h
  split at h
  · exact absurd h (by simp)
  · rw [← Option.some.inj h, landWhere_still]

theorem prepare_uid {t th : Thread} {c : Cur} (h : prepare t c = some th) : th.uid = t.uid := by
  have := congrArg Thread.uid (prepare_still h); exact this

theorem Runs.uid {s : State} {u : Nat} {c : Cur} {th : Thread} (h : Runs s u c th) : th.uid = u :=
  (prepare_uid h.land).trans (State.thread_uid h.has)

/-! ### A register instruction -/

theorem Thread.invalid_none {t : Thread} (h : t.scout = none) (r : Nat) : t.invalid r = false := by simp [Thread.invalid, h]

/-- The checks pass when the named registers exist and the sources are unpoisoned (R256). -/
theorem regChecks_none {t : Thread} {c : Cur} {uses hot : List Nat} (he : Exist t uses) (hr : ∀ r ∈ hot, (t.reg r).2 = false) :
    regChecks t c false uses hot = none := by
  have h1 : uses.find? (fun r => t.regs.length ≤ r) = none := by
    apply List.find?_eq_none.mpr
    intro r hr'
    have := he r hr'
    simpa using this
  have h2 : hot.find? (fun r => (t.reg r).2 && !(t.invalid r)) = none := by
    apply List.find?_eq_none.mpr
    intro r hr'
    simp [hr r hr']
  simp [regChecks, h1, h2]

/-- Outside scout, writing at once is writing. -/
theorem writeNow_eq {t : Thread} (h : t.scout = none) (rs : List (Nat × Word)) :
    writeNow t (rs.map fun x => (x.1, x.2, false)) false = Thread.writes t rs := by
  have key : ∀ (rs : List (Nat × Word)) (a : Thread), a.scout = none →
      (rs.map fun x => (x.1, x.2, false)).foldl
        (fun (t : Thread) (x : Nat × Word × Bool) =>
          let t := if false then t else t.put x.1 x.2.1 x.2.2
          match t.scout with
          | some sc => { t with scout := some { sc with invalid := nput sc.invalid x.1 false, wrote := nins sc.wrote x.1 } }
          | none => t) a =
        { a with regs := rs.foldl (fun l x => l.set x.1 x.2) a.regs, pois := rs.foldl (fun l x => l.set x.1 false) a.pois } := by
    intro rs
    induction rs with
    | nil => intro a _; rfl
    | cons x rs ih =>
      intro a ha
      simp only [List.map_cons, List.foldl_cons]
      have e : (a.put x.1 x.2 false).scout = none := ha
      simp only [Bool.false_eq_true, ↓reduceIte, e]
      exact ih (a.put x.1 x.2 false) e
  have d : t.discard (rs.map (·.1)) t.window = discardFor t.window (rs.map (·.1)) := by simp [Thread.discard, h]
  unfold writeNow Thread.writes
  have e : (rs.map fun x => (x.1, x.2, false)).map (·.1) = rs.map (·.1) := by simp
  rw [e, d]
  exact key rs _ h

theorem zip_clean (d : List Nat) (l : List Word) : d.zip (clean l) = (d.zip l).map fun x => (x.1, x.2, false) := by
  induction d generalizing l with
  | nil => rfl
  | cons x d ih =>
    cases l with
    | nil => rfl
    | cons y l => simp only [clean, List.map_cons, List.zip_cons_cons] at ih ⊢; rw [ih]

/-- Without an X word no counter rises. -/
@[simp] theorem Thread.raised_none (t : Thread) : t.raised none = t := by simp [Thread.raised, sbIndex]
/-- As an instruction issues, nothing changes but a counter and the note that it is up (R315). -/
theorem Thread.raised_eq (t : Thread) (is : Option Issue) :
    t.raised is = { t with sb := (t.raised is).sb, up := (t.raised is).up } := by
  unfold Thread.raised Thread.sbUp; split
  · split <;> rfl
  · rfl
@[simp] theorem Thread.raised_uid (t : Thread) (is : Option Issue) : (t.raised is).uid = t.uid := by rw [Thread.raised_eq]
@[simp] theorem Thread.raised_regs (t : Thread) (is : Option Issue) : (t.raised is).regs = t.regs := by rw [Thread.raised_eq]
@[simp] theorem Thread.raised_pois (t : Thread) (is : Option Issue) : (t.raised is).pois = t.pois := by rw [Thread.raised_eq]
@[simp] theorem Thread.raised_window (t : Thread) (is : Option Issue) : (t.raised is).window = t.window := by rw [Thread.raised_eq]
@[simp] theorem Thread.raised_scout (t : Thread) (is : Option Issue) : (t.raised is).scout = t.scout := by rw [Thread.raised_eq]
@[simp] theorem Thread.raised_reg (t : Thread) (is : Option Issue) (r : Nat) : (t.raised is).reg r = t.reg r := by simp [Thread.reg]
/-- The counter rises where it can, else nothing does. -/
theorem Thread.raised_up {t : Thread} {is : Option Issue} (h : sbIndex is < 6) (hu : t.up = none) :
    t.raised is = { t with sb := t.sb.set (sbIndex is) (t.sb.getD (sbIndex is) 0 + 1), up := some (sbIndex is) } := by
  simp [Thread.raised, h, hu, Thread.sbUp, lset]
theorem Thread.raised_off {t : Thread} {is : Option Issue} (h : ¬ (sbIndex is < 6 ∧ t.up = none)) : t.raised is = t := by
  have : ¬ ((decide (sbIndex is < 6) && t.up.isNone) = true) := by simpa using h
  simp only [Thread.raised, this]
  rfl
/-- Raising a counter and lowering it again. -/
theorem set_back (l : List Nat) (k : Nat) :
    (l.set k (l.getD k 0 + 1)).set k ((l.set k (l.getD k 0 + 1)).getD k 0 - 1) = l := by
  rw [List.set_set]
  by_cases hk : k < l.length
  · simp [List.getD_eq_getElem?_getD, hk]
  · exact List.set_eq_of_length_le (by omega)
/-- The counter that rises as an instruction issues falls when it has completed: both together change nothing (R315, R316). -/
theorem Thread.raised_lower (t : Thread) (is : Option Issue) : (t.raised is).lower = t.lower := by
  by_cases h : sbIndex is < 6 ∧ t.up = none
  · rw [Thread.raised_up h.1 h.2, Thread.lower_none h.2]
    obtain ⟨h1, h2⟩ := h
    cases t
    simp only at h2
    simp only [Thread.lower, Thread.sbDown, h1, h2, ↓reduceIte, lset, set_back]
  · rw [Thread.raised_off h]
/-- The counter that has risen counts on for what the instruction issues (R315). -/
theorem Thread.raised_charge (t : Thread) (is : Issue) : (t.raised (some is)).charge is.sb.toNat = t.counted is := by
  by_cases h : is.sb.toNat < 6 ∧ t.up = none
  · rw [Thread.raised_up (is := some is) h.1 h.2]
    simp only [Thread.charge, Thread.counted, h, and_self, ↓reduceIte, sbIndex]
  · rw [Thread.raised_off (is := some is) h]
    unfold Thread.counted Thread.charge
    simp only [h, ↓reduceIte]
    cases hu : t.up with
    | some _ => rfl
    | none =>
      have : ¬ is.sb.toNat < 6 := fun h6 => h ⟨h6, hu⟩
      cases t
      simp only at hu
      simp [Thread.sbUp, this, hu]

/-- The counters of a thread and the note of one that is up, put in. -/
def Thread.withUp (t : Thread) (x : List Nat) (y : Option Nat) : Thread := { t with sb := x, up := y }
/-- A list of counters after one falls. -/
def downOf (x : List Nat) (k : Nat) : List Nat := if k < 6 then lset x k (x.getD k 0 - 1) else x

/-- A counter that falls, with other counters put in. -/
theorem sbDown_withUp (t : Thread) (x : List Nat) (y : Option Nat) (k : Nat) :
    (Thread.withUp t x y).sbDown k = Thread.withUp (t.sbDown k) (downOf x k) y := by
  unfold Thread.sbDown downOf Thread.withUp; split <;> rfl

/-- Flags do not depend on the counters. -/
theorem flag_withUp (t : Thread) (x : List Nat) (y : Option Nat) (f : BitVec 5) :
    (Thread.withUp t x y).flag f = Thread.withUp (t.flag f) x y := by
  unfold Thread.flag
  cases h : t.scout <;> simp [Thread.withUp, h]

/-- Landing a result does not depend on the counters but for the one that falls (R316). -/
theorem landOne_withUp (t : Thread) (x : List Nat) (y : Option Nat) (p : Pending) :
    landOne (Thread.withUp t x y) p = Thread.withUp (landOne t p) (downOf x p.sb) y := by
  unfold landOne
  have fold : ∀ (l : List (Nat × Word × Bool × Bool)) (t : Thread) (f : Thread → (Nat × Word × Bool × Bool) → Thread),
      (∀ t z, f (Thread.withUp t x y) z = Thread.withUp (f t z) x y) →
      l.foldl f (Thread.withUp t x y) = Thread.withUp (l.foldl f t) x y := by
    intro l
    induction l with
    | nil => intros; rfl
    | cons z l ih => intro t f hf; rw [List.foldl_cons, List.foldl_cons, hf, ih _ _ hf]
  rw [fold]
  · generalize List.foldl _ t p.regs = g
    simp only
    split
    · rw [flag_withUp, sbDown_withUp]
    · exact sbDown_withUp { g with fstat := g.fstat ||| p.fl } x y p.sb
  · intro t z
    cases h : t.scout with
    | none => simp [Thread.withUp, h, Thread.put]
    | some sc =>
      simp only [Thread.withUp, h]
      split
      · rfl
      · split <;> rfl

/-- A list of counters with counter k one lower. -/
theorem downOf_set (a : List Nat) (k j : Nat) :
    downOf (a.set k (a.getD k 0 - 1)) j = (downOf a j).set k ((downOf a j).getD k 0 - 1) := by
  unfold downOf lset
  split
  · by_cases e : j = k
    · subst e
      by_cases hk : j < a.length
      · simp [hk, List.getD_eq_getElem?_getD]
      · simp [List.set_eq_of_length_le (Nat.le_of_not_lt hk)]
    · have e' : k ≠ j := fun x => e x.symm
      simp only [List.getD_eq_getElem?_getD, List.getElem?_set_ne e, List.getElem?_set_ne e', List.set_comm _ _ e]
  · rfl

/-- Landing results with one counter risen gives the same thread with that counter risen still (R315, R316). -/
theorem landWhere_withUp (t : Thread) (x : List Nat) (y : Option Nat) (k : Nat) (pick : Pending → Bool) (hx : t.sb = x.set k (x.getD k 0 - 1)) :
    ∃ z, landWhere (Thread.withUp t x y) pick = Thread.withUp (landWhere t pick) z y ∧ (landWhere t pick).sb = z.set k (z.getD k 0 - 1) := by
  unfold landWhere
  show ∃ z, landWhere.go pick (Thread.withUp t x y) [] t.window = _ ∧ _
  generalize t.window = w
  generalize ([] : List Pending) = older
  induction w generalizing t x older with
  | nil => exact ⟨x, rfl, hx⟩
  | cons p w ih =>
    simp only [landWhere.go]
    split
    · rw [landOne_withUp]
      have hd : (landOne t p).sb = downOf t.sb p.sb := by
        have := congrArg Thread.sb (landOne_withUp t t.sb t.up p)
        exact this
      exact ih (landOne t p) (downOf x p.sb) (by rw [hd, hx, downOf_set]) _
    · exact ih t x hx _

/-- The counter of an instruction that traps falls again, whatever lands before (R257, R315). -/
theorem landAll_raised (t : Thread) (is : Option Issue) : (landAll (t.raised is)).lower = (landAll t).lower := by
  by_cases h : sbIndex is < 6 ∧ t.up = none
  · obtain ⟨z, hz, hsb⟩ := landWhere_withUp t (t.raised is).sb (some (sbIndex is)) (sbIndex is) (fun _ => true) (by
      rw [Thread.raised_up h.1 h.2]; exact (set_back t.sb _).symm)
    have hr : t.raised is = Thread.withUp t (t.raised is).sb (some (sbIndex is)) := by
      rw [Thread.raised_up h.1 h.2]; rfl
    have hup : (landWhere t fun _ => true).up = none := (congrArg Thread.up (landWhere_still t fun _ => true)).trans h.2
    rw [hr]
    unfold landAll
    rw [hz]
    generalize landWhere t (fun _ => true) = g at hsb hup ⊢
    rw [Thread.lower_none hup]
    simp only [Thread.lower, Thread.withUp, Thread.sbDown, h.1, ↓reduceIte, lset, ← hsb]
    cases g
    simp only at hup
    rw [hup]
  · rw [Thread.raised_off h]

/-- A trap leaves the counter of its instruction unchanged, so it is the same whether the counter has risen or not (R315). -/
theorem takeTrap_raised {s : State} {u code : Nat} {th : Thread} (hu : th.uid = u) (hs : s.hasThread u = true) (is : Option Issue)
    (addr : DWord) (info : Word) (epc : DWord) :
    takeTrap (s.setThread (th.raised is)) u code addr info epc = takeTrap (s.setThread th) u code addr info epc := by
  subst hu
  have e1 := State.thread_setThread_same (t := th.raised is) (s := s) (Thread.raised_uid th is) hs
  have e2 := State.thread_setThread_same (t := th) (s := s) rfl hs
  have hl : (landAll th).lower.uid = th.uid :=
    (landAll th).lower_uid.trans (show (landAll th).still.uid = th.still.uid from congrArg Thread.uid (landWhere_still th fun _ => true))
  have hset : ∀ y : Thread, y.uid = th.uid → (s.setThread (th.raised is)).setThread y = (s.setThread th).setThread y := fun y hy => by
    rw [State.setThread_setThread _ _ _ ((Thread.raised_uid th is).trans hy.symm), State.setThread_setThread _ _ _ hy.symm]
  unfold takeTrap
  simp only [e1, e2, landAll_raised, State.hasThread_setThread, hs]
  rw [hset _ hl]
  have hset2 := hset { (landAll th).lower with epc := epc, ecode := BitVec.ofNat 8 code, eaddr := addr, einfo := info, hnd := true, trapAt := some (epc, (landAll th).lower.mid), pc := ((s.setThread th).launchOfThread (landAll th).lower).rcd.handler, mid := none, status := .ready, hold := none, part := none, reply := none, brought := [], rerun := false, plain := false, exe := 0, polls := false, stamp := s.cycle } hl
  exact congrArg _ (congrArg _ (congrArg (leaveClause · _) hset2))

/-- A thread with its prerequisites reaches its instruction's own work, the counter its X word names risen (R315). -/
theorem onThread_eq {s : State} {u : Nat} {c : Cur} {th : Thread} (h : Runs s u c th) (is : Option Issue)
    (hsb : ∀ i, is = some i → CounterFree th i) (k : State → Thread → State) :
    onThread s u c is k = k (s.setThread (th.raised is)) (th.raised is) := by
  have hf : ¬ ((decide (sbIndex is < 6) && th.up.isNone && th.sb.getD (sbIndex is) 0 == 63) = true) := by
    cases is with
    | none => simp [sbIndex]
    | some i =>
      intro e
      simp only [Bool.and_eq_true, decide_eq_true_eq, Option.isNone_iff_eq_none, beq_iff_eq] at e
      rcases hsb i rfl with h | h
      · exact h.2 e.1.1 e.2
      · exact absurd (e.1.2.symm.trans h) (by simp)
  unfold onThread
  simp only [h.land, h.scout, hf]
  rfl

/-- Outside scout, flags are raised at once. -/
theorem Thread.flag_eq {t : Thread} (h : t.scout = none) (fl : Flags) : t.flag fl = t.raising fl := by
  cases t; simp only at h; subst h; rfl

/-- The work of a register instruction outside scout, its checks passed. -/
theorem regThread_eq {s : State} {c : Cur} {th : Thread} {o : RegOp} {l : List Word} {fl : Flags} (hsc : th.scout = none)
    (hill : o.ill = false) (he : Exist th o.uses) (hr : ∀ r ∈ o.hot, (th.reg r).2 = false)
    (hrun : o.run (o.srcs.map th.reg) = (clean l, fl)) :
    regThread s th c o = retire s (writeFlags th c o.is ((o.dst.zip l).map fun x => (x.1, x.2, false)) false fl) c := by
  have hinv : o.srcs.any th.invalid = false := by
    apply List.any_eq_false.mpr
    intro r _
    simp [Thread.invalid_none hsc]
  have h1 : scoutSave th o.dst = some th := by simp [scoutSave, hsc]
  have h2 : regChecks th c o.ill o.uses o.hot = none := by rw [hill]; exact regChecks_none he hr
  unfold regThread
  rw [h2]
  simp only [h1, hrun, hinv, zip_clean]

/-- A register instruction without an X word. -/
theorem regOp_now {s : State} {u : Nat} {c : Cur} {th : Thread} {o : RegOp} {l : List Word} {fl : Flags} (h : Runs s u c th)
    (hill : o.ill = false) (his : o.is = none) (he : Exist th o.uses) (hr : ∀ r ∈ o.hot, (th.reg r).2 = false)
    (hrun : o.run (o.srcs.map th.reg) = (clean l, fl)) :
    ∃ t, regOp s o = .next t ∧ Advanced s t u c ((Thread.writes th (o.dst.zip l)).raising fl) := by
  refine ⟨_, by simp only [regOp, withCur, h.cur, h.who]; rfl, ?_⟩
  rw [onThread_eq h _ (by simp [his]), his, Thread.raised_none, regThread_eq h.scout hill he hr hrun, his]
  have e : writeFlags th c none ((o.dst.zip l).map fun x => (x.1, x.2, false)) false fl = (Thread.writes th (o.dst.zip l)).raising fl := by
    have h3 : (Thread.writes th (o.dst.zip l)).scout = none := h.scout
    simp only [writeFlags, writeNow_eq h.scout, Thread.flag_eq h3]
  rw [e]
  exact retire_advanced (u := u) h.uid h.uid h.has h.scout

/-- A register instruction with an X word: its results wait under the window (R311, R312). -/
theorem regOp_late {s : State} {u : Nat} {c : Cur} {th : Thread} {o : RegOp} {is : Issue} {l : List Word} {fl : Flags} (h : Runs s u c th)
    (hill : o.ill = false) (his : o.is = some is) (hsb : CounterFree th is) (he : Exist th o.uses) (hr : ∀ r ∈ o.hot, (th.reg r).2 = false)
    (hrun : o.run (o.srcs.map th.reg) = (clean l, fl)) :
    ∃ t, regOp s o = .next t ∧ Advanced s t u c (Thread.issues th c is (o.dst.zip l) fl) := by
  refine ⟨_, by simp only [regOp, withCur, h.cur, h.who]; rfl, ?_⟩
  rw [onThread_eq h _ (by intro i hi; rw [his] at hi; exact Option.some.inj hi ▸ hsb)]
  generalize hth' : th.raised o.is = th'
  have huid : th'.uid = u := by rw [← hth', Thread.raised_uid]; exact h.uid
  have hsc : th'.scout = none := by rw [← hth', Thread.raised_scout]; exact h.scout
  rw [regThread_eq hsc hill (by rw [← hth']; intro r hr'; rw [Thread.raised_regs]; exact he r hr')
    (by rw [← hth']; intro r hr'; rw [Thread.raised_reg]; exact hr r hr')
    (by rw [← hth', show o.srcs.map (th.raised o.is).reg = o.srcs.map th.reg from List.map_congr_left fun r _ => Thread.raised_reg th o.is r]; exact hrun), his]
  have e : writeFlags th' c (some is) ((o.dst.zip l).map fun x => (x.1, x.2, false)) false fl = Thread.issues th c is (o.dst.zip l) fl := by
    have h1 : th'.inEpisode = false := by simp [Thread.inEpisode, hsc]
    have h3 : th'.scout.isSome = false := by rw [hsc]; rfl
    have h4 : th'.charge is.sb.toNat = th.counted is := by rw [← hth', his]; exact Thread.raised_charge th is
    simp only [writeFlags, Thread.issued, Thread.issues, h1, h3, h4, List.map_map, Function.comp_def, Bool.false_eq_true, ↓reduceIte]
    rfl
  rw [e]
  exact retire_advanced (u := u) (by show (th.counted is).uid = u; exact h.uid) huid h.has (by show (th.counted is).scout = none; exact h.scout)

/-! ### Results read back -/

/-- A register just written reads as written, the others as before. -/
theorem reg_writes_one {th : Thread} {d : Nat} (v : Word) (hd : d < th.regs.length) (r : Nat) :
    (Thread.writes th [(d, v)]).reg r = if r = d then (v, false) else th.reg r := by
  simp only [Thread.writes, List.foldl_cons, List.foldl_nil, Thread.reg]
  by_cases h : r = d
  · subst h
    simp only [↓reduceIte]
    congr 1
    · simp [List.getD_eq_getElem?_getD, hd]
    · rw [List.getD_eq_getElem?_getD, List.getElem?_set]
      by_cases hp : r < th.pois.length <;> simp [hp]
  · have h' : d ≠ r := fun e => h e.symm
    simp [List.getD_eq_getElem?_getD, h, h']

/-! ### A register instruction of a script -/

theorem regOp_script {s : State} {k : Nat} {c : Cur} {o : RegOp} {l : List Word} {fl : Flags} (hc : s.cur = some c) (hw : c.who = .script k)
    (hill : o.ill = false) (hs : o.script = true) (hu : ∀ r ∈ o.uses, r < 32)
    (hrun : o.run (o.srcs.map fun r => ((s.script k).regs.getD r 0, false)) = (clean l, fl)) :
    regOp s o = .next (scriptNext (s.setScript k
      { s.script k with regs := (o.dst.zip l).foldl (fun l x => l.set x.1 x.2) (s.script k).regs }) k) := by
  have h1 : o.uses.any (32 ≤ ·) = false := by
    apply List.any_eq_false.mpr
    intro r hr
    have := hu r hr
    simpa using this
  simp only [regOp, withCur, hc, hw, regScript, scriptChecks, hill, hs, h1, hrun, zip_clean]
  simp [List.foldl_map, lset]

end Sys2Proof.Machine
end

