-- ==== Sys2Proof/Laws/Registers.lean ====
section
/-! SUPPORT. What the shared forms of register instructions do as a whole: one result, a pair, flags, a window. -/
namespace Sys2Proof.Machine
open Sys2Proof

theorem Thread.reg_fst (t : Thread) (r : Reg) : (t.reg r.toNat).1 = t.val r := rfl

/-- An integer instruction of one result does its work for threads and scripts. -/
theorem computesInt_of_intOp {i : Instr} {d : Reg} {srcs : List Nat} {g : List (Word × Bool) → Word}
    {f : (Reg → Word) → (Reg → DWord) → List Word} (h : ∀ s, exec i s = intOp s false d srcs g)
    (hf : ∀ t : Thread, f t.val t.pair = [g (srcs.map t.reg)])
    (hs : ∀ k : Script, f k.val k.pair = [g (srcs.map fun r => (k.regs.getD r 0, false))]) :
    ComputesInt i srcs [d.toNat] f := by
  constructor
  · intro s u c th hr hread hex
    rw [h]
    have := regOp_now (s := s) (u := u) (c := c) (th := th)
      (o := { ill := false, uses := d.toNat :: srcs, hot := srcs, srcs := srcs, dst := [d.toNat], is := none, script := true
              run := fun l => (clean [g l], 0) }) (l := f th.val th.pair) (fl := 0) hr rfl rfl
      (by intro r hr'
          rcases List.mem_cons.mp hr' with rfl | hr'
          · exact hex _ List.mem_cons_self
          · exact (hread r hr').1)
      (fun r hr' => (hread r hr').2) (by rw [hf])
    exact this
  · intro s k c hc hw hlt
    rw [h]
    exact regOp_script (o := { ill := false, uses := d.toNat :: srcs, hot := srcs, srcs := srcs, dst := [d.toNat], is := none, script := true
                               run := fun l => (clean [g l], 0) }) (l := f (s.script k).val (s.script k).pair) (fl := 0) hc hw rfl rfl
      (by intro r hr'
          rcases List.mem_cons.mp hr' with rfl | hr'
          · exact hlt _ (by simp)
          · exact hlt _ (by simp [hr']))
      (by rw [hs])

/-- An integer instruction with a pair result does its work for threads and scripts. -/
theorem computesInt_of_pairOp {i : Instr} {d : Reg} {srcs : List Nat} {g : List (Word × Bool) → DWord}
    {f : (Reg → Word) → (Reg → DWord) → List Word} (h : ∀ s, exec i s = pairOp s false d srcs g)
    (hf : ∀ t : Thread, f t.val t.pair = [loWord (g (srcs.map t.reg)), hiWord (g (srcs.map t.reg))])
    (hs : ∀ k : Script, f k.val k.pair =
      [loWord (g (srcs.map fun r => (k.regs.getD r 0, false))), hiWord (g (srcs.map fun r => (k.regs.getD r 0, false)))]) :
    ComputesInt i srcs (pairRegs d) f := by
  constructor
  · intro s u c th hr hread hex
    rw [h]
    exact regOp_now (s := s) (u := u) (c := c) (th := th)
      (o := { ill := false, uses := pairRegs d ++ srcs, hot := srcs, srcs := srcs, dst := pairRegs d, is := none, script := true
              run := fun l => (clean [loWord (g l), hiWord (g l)], 0) }) (l := f th.val th.pair) (fl := 0) hr rfl rfl
      (by intro r hr'
          rcases List.mem_append.mp hr' with hr' | hr'
          · exact hex _ hr'
          · exact (hread r hr').1)
      (fun r hr' => (hread r hr').2) (by rw [hf])
  · intro s k c hc hw hlt
    rw [h]
    exact regOp_script (o := { ill := false, uses := pairRegs d ++ srcs, hot := srcs, srcs := srcs, dst := pairRegs d, is := none, script := true
                               run := fun l => (clean [loWord (g l), hiWord (g l)], 0) }) (l := f (s.script k).val (s.script k).pair) (fl := 0)
      hc hw rfl rfl
      (by intro r hr'
          rcases List.mem_append.mp hr' with hr' | hr'
          · exact hlt _ (by simp [hr'])
          · exact hlt _ (by simp [hr']))
      (by rw [hs])

/-- An instruction with flags and no X word does its work. -/
theorem computes_of_fpOp {i : Instr} {d : Reg} {srcs : List Nat} {g : List (Word × Bool) → Word × Flags}
    (h : ∀ s, exec i s = fpOp s false d srcs none g) :
    Computes i srcs [d.toNat] (fun t => [(g (srcs.map t.reg)).1]) (fun t => (g (srcs.map t.reg)).2) := by
  intro s u c th hr hread hex
  rw [h]
  exact regOp_now (s := s) (u := u) (c := c) (th := th)
    (o := { ill := false, uses := d.toNat :: srcs, hot := srcs, srcs := srcs, dst := [d.toNat], is := none, script := false
            run := fun l => (clean [(g l).1], (g l).2) }) hr rfl rfl
    (by intro r hr'
        rcases List.mem_cons.mp hr' with rfl | hr'
        · exact hex _ List.mem_cons_self
        · exact (hread r hr').1)
    (fun r hr' => (hread r hr').2) rfl

/-- An instruction with flags and an X word does its work. -/
theorem computesLate_of_fpOp {i : Instr} {d : Reg} {srcs : List Nat} {is : Issue} {g : List (Word × Bool) → Word × Flags}
    (h : ∀ s, exec i s = fpOp s false d srcs (some is) g) :
    ComputesLate i is srcs [d.toNat] (fun t => [(g (srcs.map t.reg)).1]) (fun t => (g (srcs.map t.reg)).2) := by
  intro s u c th hr hsb hread hex
  rw [h]
  exact regOp_late (s := s) (u := u) (c := c) (th := th)
    (o := { ill := false, uses := d.toNat :: srcs, hot := srcs, srcs := srcs, dst := [d.toNat], is := some is, script := false
            run := fun l => (clean [(g l).1], (g l).2) }) hr rfl rfl hsb
    (by intro r hr'
        rcases List.mem_cons.mp hr' with rfl | hr'
        · exact hex _ List.mem_cons_self
        · exact (hread r hr').1)
    (fun r hr' => (hread r hr').2) rfl

end Sys2Proof.Machine
end

