-- ==== Sys2Proof/Tests/Slice0.lean ====
section
/-! SUPPORT. Tests of this package's own: terms the well-formedness check refuses, words written from the encoding tables
with the instructions they decode to, and single steps on a small state with results taken from the manual's examples. -/
namespace Sys2Proof.Tests
open Sys2Proof Sys2Proof.Machine
set_option maxRecDepth 20000

/-! ### Well-formedness -/

/-- No issue control. -/
abbrev no : Issue := ⟨0, 7⟩
/-- A memory word with a reserved scoreboard. -/
abbrev bad : Issue := ⟨0, 6⟩
/-- Memory class fields with an immediate offset of 0. -/
abbrev memF (space : BitVec 2) (size : BitVec 3) (sx : Bool := false) (opn : BitVec 4 := 0) : Mem := ⟨space, size, sx, false, 0, opn, .imm 0, no⟩

/-- The check refuses all of them. -/
def allIll (l : List Instr) : Bool := l.all fun i => !i.wf

/-- Odd pairs of the 64-bit integer forms (R47), reserved conditions (R384, R365) and reserved PACK and UNPK fields. -/
theorem test_wf_registers : allIll [.imulw true 3 1 2, .imulwLiteral false 5 1 0, .icmp 10 0 1 2, .icmpLiteral 15 0 1 2, .iadd64 3 2 4, .iadd64 2 3 4, .iadd64 2 4 5,
  .lea false 0 3 2 1, .leaLiteral false 0 2 3 1, .shl64 3 2 1, .shl64Literal 2 3 1, .shr64 2 5 1, .shr64Literal 5 2 1, .fcmp 8 0 1 2, .fcmpLiteral 9 0 1 2,
  .pack 0 false true 3 1 2, .packLiteral 1 false true 3 1 2, .unpk 0 true 2 1, .unpk 2 false 3 1] = true := by decide

/-- Scoreboard 6 (R308), CVT's pairs, SAT to an integer and SSEL beyond its source, CVTSR's formats (R353, R355). -/
theorem test_wf_conversion : allIll [.exp2 1 2 bad, .log2 1 2 bad, .rcp 1 2 bad, .rsq 1 2 bad, .sqrt 0 1 2 bad, .tanh 1 2 bad, .cvt 0 0 0 false 0 1 2 bad, .cvt 7 8 0 false 0 1 2 no,
  .cvt 9 0 0 false 0 1 2 no, .cvt 6 1 0 false 0 1 2 no, .cvt 7 0 0 true 0 1 2 no, .cvt 0 3 0 false 4 1 2 no, .cvtsr 0 false 1 2 3 no, .cvtsr 6 false 1 2 3 no, .cvtsr 1 false 1 2 3 bad] = true := by decide

/-- Odd mask pairs, the fourth VOTE kind and the reduction codes (R331, R436, R471). -/
theorem test_wf_cross_lane : allIll [.shfl 0 1 2 3 5 no, .ballot 3 2 4 no, .ballot 2 2 5 no, .vote 3 1 2 4 no, .vote 0 1 2 5 no, .redl 6 0 1 2 4 no, .redl 0 3 1 2 4 no, .redl 3 2 1 2 4 no,
  .redl 0 0 1 2 5 no, .scanl 5 true 2 1 2 4 no, .scanl 0 false 0 1 2 3 no, .elect 1 2 3 no, .elect 1 2 4 bad] = true := by decide

/-- Odd targets and links, codes and immediates out of range (R340, R343, R455, R467, R332, R366). -/
theorem test_wf_control : allIll [.brx 3, .ret 5, .call 7 0, .callx 3 2, .callx 2 3, .sleep 1024, .trap 0x1F, .bar true 0 1, .fence 3 0, .fence 1 2] = true := by decide

/-- SPACE, SIZE, SX, PV with SPACE, OPN and data registers of the memory class (R310, R327, R330, R396, R397, R408, R429,
R434, R458). -/
theorem test_wf_memory : allIll [.ld (memF 2 2) 1 2, .ld (memF 0 5) 1 2, .ld (memF 0 2 true) 1 2, .ld (memF 0 2 false 1) 1 2, .ld (memF 0 3) 1 2, .ld (memF 0 4) 2 2, .ld (memF 0 2) 1 3,
  .ld ⟨0, 2, false, false, 4, 0, .imm 0, no⟩ 1 2, .ld ⟨1, 2, false, true, 4, 0, .imm 0, no⟩ 1 2, .ld ⟨0, 2, false, false, 0, 0, .imm 0, bad⟩ 1 2, .st (memF 0 0 true) 2 1, .st (memF 0 3) 2 1,
  .st (memF 0 4) 2 6, .st (memF 0 2) 3 1, .monw (memF 0 1) 2 2 4, .monw (memF 0 3) 3 2 4, .monw (memF 0 3) 2 2 5, .monw (memF 0 2) 1 3 4, .ldt 3 0 4 1 0 2 no, .ldt 0 5 4 1 0 2 no,
  .ldt 0 0 4 1 0 2 bad] = true := by decide
theorem test_wf_atomics : allIll [.atom (memF 0 1) 1 2 3, .atom (memF 0 2 true) 1 2 3, .atom (memF 0 2 false 8) 1 2 3, .atom (memF 0 3) 1 2 4, .atom (memF 0 3) 2 2 5, .atom (memF 0 2 false 7) 1 2 3,
  .atom (memF 0 3 false 7) 2 2 6, .atom (memF 0 2) 1 3 4, .atomf (memF 0 3) 1 2 3, .atomf (memF 0 2 false 3) 1 2 3, .atomf (memF 0 1 false 7) 1 2 3, .atomf (memF 0 2) 1 3 4, .red (memF 0 2 false 6) 2 3,
  .red (memF 0 3 false 8) 2 4, .red (memF 0 1) 2 3, .red (memF 0 3) 2 3, .red (memF 0 2) 3 3, .pref (memF 1 0) 2, .pref (memF 0 2) 2, .pref (memF 0 0) 3] = true := by decide

/-- Format pairs, odd descriptors and scales, element counts, tags and special registers (R134, R405 to R416, R348, R457). -/
theorem test_wf_matrix : allIll [.mcfg 0 1 bad, .mma 0 1 false 0 1 2 4 5 no, .mma 2 4 false 0 1 2 4 5 no, .mma 0 0 false 0 1 2 5 5 no, .mma 0 0 true 0 1 3 4 5 no, .mmas 0 0 false 0 1 2 4 5 6 no,
  .mmas 5 5 false 0 1 2 4 5 7 no, .mmas 5 5 false 0 1 2 3 5 6 no, .mzero 1 2 bad, .mrd 5 1 2 3 no, .mwr 6 1 2 3 no, .mst 7 false 0 1 2 (.imm 0) 3 no, .mst 0 true 0 1 2 (.imm 0) 3 no,
  .mst 1 false 5 1 2 (.imm 0) 3 no, .mwait 0 bad, .mchk 1 2 3 no] = true := by decide
theorem test_wf_copies : allIll [.cpy 0 1 2 4 no, .cpy 0 2 3 4 no, .cpy 0 2 4 5 no, .cpy 0 2 4 6 ⟨0, 0⟩, .tagw true 3 no, .tagf 1 3 no, .tagc 5 no, .tagc 4 bad, .racq 1 2 3 no, .racq 2 3 4 no, .rrel 1 2 no,
  .srd 2 0x18, .srd 3 0x0C, .swr 3 0x11, .swr 2 0xFF] = true := by decide

/-- Odd pairs of the Bellows forms, and conditions and values of the Hearth's packets (R213, R220, R227, R244). -/
theorem test_wf_scripts_and_streams : allIll [.creq 1 3 4, .creq 1 2 5, .cawt 1 3 2, .gload 1 2 3, .grun 1 3 4, .grun 1 2 5, .rotb 1 2 3, .sems 1 2 3, .semw 1 3 4, .semw 1 2 3, .predw 6 0 0 0,
  .mwri false 0 0x100000000] = true := by decide

/-! ### Decoding -/

/-- The decoder reads the instruction from the words, and the encoder gives those words. -/
def reads (ex : Exec) (x : List Word × Instr) : Bool :=
  match x.1 with
  | w :: ks => (match decode ex w ks with | .ok j => j == x.2 | .error _ => false) && encode x.2 == x.1 && x.2.wf
  | [] => false

/-- RRR words of the integer opcodes 0x01 to 0x1F, and their literals (R306, R308, R309, R319). -/
theorem test_decode_integer_1 : ([
    ([0b0000001_0000101_0000110_0000111_0000#32], .iadd 5 6 7),
    ([0b0000001_0000101_0000110_0000000_0000#32, 0x80000001#32], .iaddLiteral 5 6 0x80000001),
    ([0b0000010_0000101_0000110_0000111_0000#32], .isub 5 6 7),
    ([0b0000010_0000101_0000110_0000000_0000#32, 0x80000001#32], .isubLiteral 5 6 0x80000001),
    ([0b0000011_0000101_0000110_0000111_0000#32], .imul 5 6 7),
    ([0b0000011_0000101_0000110_0000000_0000#32, 0x80000001#32], .imulLiteral 5 6 0x80000001),
    ([0b0000100_0000101_0000110_0000111_0001#32], .imulh true 5 6 7),
    ([0b0000100_0000101_0000110_0000000_0000#32, 0x80000001#32], .imulhLiteral false 5 6 0x80000001),
    ([0b0000101_0000100_0000110_0000111_0001#32], .imulw true 4 6 7),
    ([0b0000101_1111110_0000110_0000000_0000#32, 0x80000001#32], .imulwLiteral false 126 6 0x80000001),
    ([0b0000110_0000101_0000110_0000111_0000#32, 0b0000111_0001000_000000000000000000#32], .imad 5 6 (.reg 7) 8),
    ([0b0000110_0000101_0000110_0000000_0000#32, 0b0000111_0001000_000000000000000000#32, 0x3#32], .imad 5 6 (.lit 3) 8),
    ([0b0000111_0000101_0000110_0000111_0001#32], .imin true 5 6 7),
    ([0b0000111_0000101_0000110_0000000_0000#32, 0x80000001#32], .iminLiteral false 5 6 0x80000001)] : List (List Word × Instr)).all (reads .core) = true := by decide

/-- RRR words of the integer opcodes 0x01 to 0x1F, and their literals (R306, R308, R309, R319). -/
theorem test_decode_integer_2 : ([
    ([0b0001000_0000101_0000110_0000111_0000#32], .imax false 5 6 7),
    ([0b0001000_0000101_0000110_0000000_0001#32, 0x80000001#32], .imaxLiteral true 5 6 0x80000001),
    ([0b0001001_0000101_0000110_0000000_0000#32], .iabs 5 6),
    ([0b0001010_0000101_0000110_0000000_0000#32], .ineg 5 6),
    ([0b0001011_0000101_0000110_0000111_1001#32], .icmp 9 5 6 7),
    ([0b0001011_0000101_0000110_0000000_0010#32, 0x80000001#32], .icmpLiteral 2 5 6 0x80000001),
    ([0b0001100_0000100_0000110_0001000_0000#32], .iadd64 4 6 8),
    ([0b0001101_0000100_0000110_0000111_1011#32], .lea true 3 4 6 7),
    ([0b0001101_0000100_0000110_0000000_0111#32, 0x9#32], .leaLiteral false 7 4 6 9),
    ([0b0001110_0000101_0000110_0000111_0000#32, 0b0000111_0001000_000000000000000000#32], .sel 5 6 (.reg 7) 8),
    ([0b0001110_0000101_0000110_0000000_0000#32, 0b0000111_1111111_000000000000000000#32, 0x9#32], .sel 5 6 (.lit 9) 127),
    ([0b0001111_0000101_0000110_0000000_0000#32], .mov 5 6),
    ([0b0010000_0000101_0000000_11111111101#32], .movi 5 0x7FD),
    ([0b0010000_0000101_0000000_00000000000#32, 0x40000000#32], .moviLiteral 5 0x40000000)] : List (List Word × Instr)).all (reads .core) = true := by decide

/-- RRR words of the bitwise, shift and bit-field opcodes (R306, R308, R309, R319). -/
theorem test_decode_bitwise_1 : ([
    ([0b0010001_0000011_0000001_0000010_0000#32], .and 3 1 2),
    ([0b0010001_0000101_0000110_0000000_0000#32, 0x80000001#32], .andLiteral 5 6 0x80000001),
    ([0b0010010_0000011_0000001_0000010_0000#32], .or 3 1 2),
    ([0b0010010_0000101_0000110_0000000_0000#32, 0x80000001#32], .orLiteral 5 6 0x80000001),
    ([0b0010011_0000011_0000001_0000010_0000#32], .xor 3 1 2),
    ([0b0010011_0000101_0000110_0000000_0000#32, 0x80000001#32], .xorLiteral 5 6 0x80000001),
    ([0b0010100_0000101_0000110_0000000_0000#32], .not 5 6),
    ([0b0010101_0000101_0000110_0000111_0000#32], .shl 5 6 7),
    ([0b0010101_0000101_0000110_0000000_0000#32, 0x4#32], .shlLiteral 5 6 0x4),
    ([0b0010110_0000101_0000110_0000111_0000#32], .shr 5 6 7),
    ([0b0010110_0000101_0000110_0000000_0000#32, 0x4#32], .shrLiteral 5 6 0x4),
    ([0b0010111_0000101_0000110_0000111_0000#32], .sar 5 6 7),
    ([0b0010111_0000101_0000110_0000000_0000#32, 0x4#32], .sarLiteral 5 6 0x4),
    ([0b0011000_0000100_0000110_0000111_0000#32], .shl64 4 6 7)] : List (List Word × Instr)).all (reads .core) = true := by decide

/-- RRR words of the bitwise, shift and bit-field opcodes (R306, R308, R309, R319). -/
theorem test_decode_bitwise_2 : ([
    ([0b0011000_0000100_0000110_0000000_0000#32, 0x28#32], .shl64Literal 4 6 0x28),
    ([0b0011001_0000100_0000110_0000111_0000#32], .shr64 4 6 7),
    ([0b0011001_0000100_0000110_0000000_0000#32, 0x28#32], .shr64Literal 4 6 0x28),
    ([0b0011010_0000101_0000110_0000111_0001#32], .bfe true 5 6 7),
    ([0b0011010_0000101_0000110_0000000_0000#32, 0x808#32], .bfeLiteral false 5 6 0x808),
    ([0b0011011_0000101_0000110_0000111_0000#32, 0b0000111_0001000_000000000000000000#32], .bfi 5 6 (.reg 7) 8),
    ([0b0011011_0000101_0000110_0000000_0000#32, 0b0000111_0001000_000000000000000000#32, 0x404#32], .bfi 5 6 (.lit 0x404) 8),
    ([0b0011100_0000101_0000110_0000000_0000#32], .brev 5 6),
    ([0b0011101_0000100_0001001_0000000_0000#32], .popc 4 9),
    ([0b0011110_0000101_0000110_0000000_0000#32], .clz 5 6),
    ([0b0011111_0000101_0000110_0000111_0000#32], .bsrd 5 6 7)] : List (List Word × Instr)).all (reads .core) = true := by decide

/-- The FP32 and special-function opcodes, with mode, condition and X word (R308, R311, R319). -/
theorem test_decode_float_1 : ([
    ([0b0100000_0000101_0000110_0000111_0011#32], .fadd 3 5 6 7),
    ([0b0100000_0000101_0000110_0000000_0001#32, 0x3F800000#32], .faddLiteral 1 5 6 0x3F800000),
    ([0b0100001_0000101_0000110_0000111_0011#32], .fsub 3 5 6 7),
    ([0b0100001_0000101_0000110_0000000_0001#32, 0x3F800000#32], .fsubLiteral 1 5 6 0x3F800000),
    ([0b0100010_0000101_0000110_0000111_0011#32], .fmul 3 5 6 7),
    ([0b0100010_0000101_0000110_0000000_0001#32, 0x3F800000#32], .fmulLiteral 1 5 6 0x3F800000),
    ([0b0100011_0001000_0000001_0000010_0001#32, 0b0000111_0000011_000000000000000000#32], .ffma 1 8 1 (.reg 2) 3),
    ([0b0100011_0001000_0000001_0000000_0000#32, 0b0000111_0000011_000000000000000000#32, 0x5#32], .ffma 0 8 1 (.lit 5) 3),
    ([0b0100100_0000101_0000110_0000111_0000#32], .fmin 5 6 7),
    ([0b0100100_0000101_0000110_0000000_0000#32, 0x80000001#32], .fminLiteral 5 6 0x80000001),
    ([0b0100101_0000101_0000110_0000111_0000#32], .fmax 5 6 7),
    ([0b0100101_0000101_0000110_0000000_0000#32, 0x80000001#32], .fmaxLiteral 5 6 0x80000001),
    ([0b0100110_0000101_0000110_0000111_0111#32], .fcmp 7 5 6 7),
    ([0b0100110_0000101_0000110_0000000_0010#32, 0x80000001#32], .fcmpLiteral 2 5 6 0x80000001)] : List (List Word × Instr)).all (reads .core) = true := by decide

/-- The FP32 and special-function opcodes, with mode, condition and X word (R308, R311, R319). -/
theorem test_decode_float_2 : ([
    ([0b0100111_0000101_0000110_0000000_0000#32], .fclass 5 6),
    ([0b0101000_0000101_0000110_0000000_0010#32], .frnd 2 5 6),
    ([0b0101001_0000101_0000100_0000000_0000#32, 0b0001_111_0000000_000000000000000000#32], .exp2 5 4 ⟨1, 7⟩),
    ([0b0101010_0000101_0000100_0000000_0000#32, 0b0001_111_0000000_000000000000000000#32], .log2 5 4 ⟨1, 7⟩),
    ([0b0101011_0000101_0000100_0000000_0000#32, 0b0001_111_0000000_000000000000000000#32], .rcp 5 4 ⟨1, 7⟩),
    ([0b0101100_0000101_0000100_0000000_0000#32, 0b0001_111_0000000_000000000000000000#32], .rsq 5 4 ⟨1, 7⟩),
    ([0b0101110_0000101_0000100_0000000_0000#32, 0b0001_111_0000000_000000000000000000#32], .tanh 5 4 ⟨1, 7⟩),
    ([0b0101101_0000101_0000100_0000000_0010#32, 0b1111_101_0000000_000000000000000000#32], .sqrt 2 5 4 ⟨15, 5⟩)] : List (List Word × Instr)).all (reads .core) = true := by decide

/-- The packed and conversion opcodes: type, saturation, mode, formats (R353, R419 to R427, R470). -/
theorem test_decode_packed_1 : ([
    ([0b0110000_0000101_0000110_0000111_1010#32], .padd 2 true false 5 6 7),
    ([0b0110000_0000101_0000110_0000000_0101#32, 0x80000001#32], .paddLiteral 1 false true 5 6 0x80000001),
    ([0b0110001_0000101_0000110_0000111_1010#32], .pmul 2 true false 5 6 7),
    ([0b0110001_0000101_0000110_0000000_0101#32, 0x80000001#32], .pmulLiteral 1 false true 5 6 0x80000001),
    ([0b0110010_0001000_0000001_0000010_0000#32, 0b0000111_0000011_000000000000000000#32], .pfma 0 false false 8 1 (.reg 2) 3),
    ([0b0110010_0001000_0000001_0000000_1111#32, 0b0000111_0000011_000000000000000000#32, 0x7#32], .pfma 3 true true 8 1 (.lit 7) 3),
    ([0b0110011_0000101_0000110_0000111_0100#32], .pmin 1 5 6 7),
    ([0b0110011_0000101_0000110_0000000_1100#32, 0x80000001#32], .pminLiteral 3 5 6 0x80000001),
    ([0b0110100_0000101_0000110_0000111_0100#32], .pmax 1 5 6 7),
    ([0b0110100_0000101_0000110_0000000_1100#32, 0x80000001#32], .pmaxLiteral 3 5 6 0x80000001),
    ([0b0110101_0000101_0000100_0000000_0000#32, 0b0000_111_0000000_001100000010000000#32], .cvt 3 0 0 true 0 5 4 ⟨0, 7⟩),
    ([0b0110101_0000101_0000100_0000000_0000#32, 0b0010_011_0000000_000001011001110000#32], .cvt 0 5 2 false 7 5 4 ⟨2, 3⟩),
    ([0b0110110_0000110_0000100_0000000_0000#32, 0b0000_111_0001001_010100000000000000#32], .cvtsr 5 false 6 4 9 ⟨0, 7⟩),
    ([0b0110110_0000110_0000100_0000000_0000#32, 0b0000_111_0001001_001000000010000000#32], .cvtsr 2 true 6 4 9 ⟨0, 7⟩)] : List (List Word × Instr)).all (reads .core) = true := by decide

/-- The packed and conversion opcodes: type, saturation, mode, formats (R353, R419 to R427, R470). -/
theorem test_decode_packed_2 : ([
    ([0b0110111_0000101_0000110_0000111_1011#32], .pack 2 true true 5 6 7),
    ([0b0110111_0000101_0000110_0000000_0000#32, 0x80000001#32], .packLiteral 0 false false 5 6 0x80000001),
    ([0b0111000_0000110_0000101_0000000_1010#32], .unpk 2 true 6 5)] : List (List Word × Instr)).all (reads .core) = true := by decide

/-- The cross-lane opcodes, their member-mask pair in e (R311, R331, R357, R436, R446, R450, R471). -/
theorem test_decode_cross : ([
    ([0b1000000_0000101_0000110_0000111_0011#32, 0b0000_111_0001010_000000000000000000#32], .shfl 3 5 6 7 10 ⟨0, 7⟩),
    ([0b1000001_0000100_0000110_0000000_0000#32, 0b0001_000_0001010_000000000000000000#32], .ballot 4 6 10 ⟨1, 0⟩),
    ([0b1000010_0000111_0000100_0000000_0010#32, 0b0000_111_0001010_000000000000000000#32], .vote 2 7 4 10 ⟨0, 7⟩),
    ([0b1000011_0000111_0000100_0000000_0010#32, 0b0000_111_0001010_000000000000000001#32], .redl 2 1 7 4 10 ⟨0, 7⟩),
    ([0b1000100_0001000_0000100_0000000_1000#32, 0b0000_111_0001010_000000000000000010#32], .scanl 0 true 2 8 4 10 ⟨0, 7⟩),
    ([0b1000101_0000111_0000011_0000000_0000#32, 0b0001_111_0001010_000000000000000000#32], .elect 7 3 10 ⟨1, 7⟩)] : List (List Word × Instr)).all (reads .core) = true := by decide

/-- The control opcodes (R303, R319, R332, R366, R455, R467). -/
theorem test_decode_control_1 : ([
    ([0b1001000_0000000_111111111111111111#32], .bra 0x3FFFF),
    ([0b1001001_0001001_000000000000000100#32], .brc 9 4),
    ([0b1001010_0000000_0000010_0000000_0000#32], .brx 2),
    ([0b1001011_1111110_100000000000000000#32], .call 126 0x20000),
    ([0b1001100_0000100_0000010_0000000_0000#32], .callx 4 2),
    ([0b1001101_0000000_0000010_0000000_0000#32], .ret 2),
    ([0b1001110_0000000_0000000_0000000_0000#32], .exit),
    ([0b1001111_0000000_0000000_0000000_0000#32], .nop),
    ([0b1010000_0000000_0000000_0000000_0000#32], .yield),
    ([0b1010001_0000000_0000000_01111111111#32], .sleep 1023),
    ([0b1010001_0000000_0000000_00000000000#32, 0x1388#32], .sleepLiteral 5000),
    ([0b1010010_0000000_0000000_00001000000#32], .trap 0x40),
    ([0b1010011_0000000_0000000_0000000_0000#32], .svc),
    ([0b1010100_0000000_0000000_0000000_0000#32], .eret)] : List (List Word × Instr)).all (reads .core) = true := by decide

/-- The control opcodes (R303, R319, R332, R366, R455, R467). -/
theorem test_decode_control_2 : ([
    ([0b1010101_0000000_0000000_0000000_0000#32], .bkpt),
    ([0b1010110_0000000_0000000_00000010000#32], .bar true 0 0),
    ([0b1010110_0000000_0000101_00000000010#32], .bar false 2 5),
    ([0b1010111_0001010_0000010_00000000000#32, 0b0000_111_0001100_00_011_0_0_0000000_0000#32], .monw ⟨0, 3, false, false, 0, 0, .imm 0, ⟨0, 7⟩⟩ 10 2 12),
    ([0b1011000_0001001_0000000_0000000_0000#32], .fence 0 9),
    ([0b1011000_0000000_0000000_0000000_0010#32], .fence 2 0)] : List (List Word × Instr)).all (reads .core) = true := by decide

/-- The memory class: RI word, X word with SPACE, SIZE, SX, PV, POL and OPN, and the literal offset (R310, R396). -/
theorem test_decode_memory : ([
    ([0b1100000_0001000_0011000_00000000000#32, 0b0000_111_0000000_00_100_0_0_0000000_0000#32], .ld ⟨0, 4, false, false, 0, 0, .imm 0, ⟨0, 7⟩⟩ 8 24),
    ([0b1100000_0000111_0000101_11111111111#32, 0b1111_101_0000000_01_000_1_0_0000000_0000#32], .ld ⟨1, 0, true, false, 0, 0, .imm 0x7FF, ⟨15, 5⟩⟩ 7 5),
    ([0b1100000_0000111_0000100_00000000000#32, 0b0000_111_0000000_00_010_0_1_0001001_0000#32, 0x10000#32], .ld ⟨0, 2, false, true, 9, 0, .lit 0x10000, ⟨0, 7⟩⟩ 7 4),
    ([0b1100001_0000000_0001110_00000000000#32, 0b0000_111_0000100_00_011_0_0_0000000_0000#32], .st ⟨0, 3, false, false, 0, 0, .imm 0, ⟨0, 7⟩⟩ 14 4),
    ([0b1100010_0101000_0011110_00000010000#32, 0b0001_111_0000101_000010100000000000#32], .ldt 2 4 40 30 0x10 5 ⟨1, 7⟩),
    ([0b1100011_0110101_0110100_00000000000#32, 0b0000_111_0101000_01_010_0_0_0000000_0111#32], .atom ⟨1, 2, false, false, 0, 7, .imm 0, ⟨0, 7⟩⟩ 53 52 40),
    ([0b1100100_0001000_0000010_00000000100#32, 0b0000_111_0001001_00_001_0_1_0000110_0101#32], .atomf ⟨0, 1, false, true, 6, 5, .imm 4, ⟨0, 7⟩⟩ 8 2 9),
    ([0b1100101_0000000_0110100_00000000000#32, 0b0000_111_0101111_01_010_0_0_0000000_1000#32], .red ⟨1, 2, false, false, 0, 8, .imm 0, ⟨0, 7⟩⟩ 52 47),
    ([0b1100110_0000000_0000010_00010000000#32, 0b0000_111_0000000_00_000_0_0_0000000_0000#32], .pref ⟨0, 0, false, false, 0, 0, .imm 128, ⟨0, 7⟩⟩ 2)] : List (List Word × Instr)).all (reads .core) = true := by decide

/-- The matrix, copy, tag, rotation and special-register opcodes (R348, R404 to R416, R431, R442, R457 to R465). -/
theorem test_decode_matrix_1 : ([
    ([0b1101000_0000000_0001001_0000000_0000#32, 0b0000_111_0000000_000000000000000010#32], .mcfg 2 9 ⟨0, 7⟩),
    ([0b1101001_0100001_0011100_0011110_0000#32, 0b0000_111_0100010_000000100000000001#32], .mma 0 0 true 1 33 28 30 34 ⟨0, 7⟩),
    ([0b1101001_0010100_0100000_0011000_0000#32, 0b0000_000_0010101_010011000000000111#32], .mma 2 3 false 7 20 32 24 21 ⟨0, 0⟩),
    ([0b1101010_0000100_0000110_0001000_0000#32, 0b0000_111_0001010_101101100011000001#32], .mmas 5 5 true 1 4 6 8 10 12 ⟨0, 7⟩),
    ([0b1101011_0000000_0000010_0000011_0000#32, 0b0000_111_0000000_000000000000000000#32], .mzero 2 3 ⟨0, 7⟩),
    ([0b1101100_0101000_0000010_0000101_0010#32, 0b0000_111_0000000_000000000000000000#32], .mrd 2 40 2 5 ⟨0, 7⟩),
    ([0b1101101_0000000_0000010_0000101_0001#32, 0b0000_111_0010000_000000000000000000#32], .mwr 1 2 5 16 ⟨0, 7⟩),
    ([0b1101110_0000010_0011110_00001000000#32, 0b0000_111_0000101_001000100000000000#32], .mst 1 false 1 2 30 (.imm 64) 5 ⟨0, 7⟩),
    ([0b1101110_0000010_0011110_00000000000#32, 0b0000_111_0000101_100110000000000000#32, 0x8000#32], .mst 4 true 4 2 30 (.lit 0x8000) 5 ⟨0, 7⟩),
    ([0b1101111_0000000_0000000_0000000_0000#32, 0b0000_111_0000000_000000000000000011#32], .mwait 3 ⟨0, 7⟩),
    ([0b1110000_0001000_0000010_0000011_0000#32, 0b0000_111_0000000_000000000000000000#32], .mchk 8 2 3 ⟨0, 7⟩),
    ([0b1110001_0011000_0010100_0010110_0000#32, 0b0000_111_0000000_000000000000000101#32], .cpy 5 24 20 22 ⟨0, 7⟩),
    ([0b1110010_0000000_0001010_0000000_0001#32, 0b0000_111_0000000_000000000000000000#32], .tagw true 10 ⟨0, 7⟩),
    ([0b1110011_0000111_0001010_0000000_0000#32, 0b0000_111_0000000_000000000000000000#32], .tagf 7 10 ⟨0, 7⟩)] : List (List Word × Instr)).all (reads .core) = true := by decide

/-- The matrix, copy, tag, rotation and special-register opcodes (R348, R404 to R416, R431, R442, R457 to R465). -/
theorem test_decode_matrix_2 : ([
    ([0b1110100_0000000_0110010_0000000_0000#32, 0b0000_111_0000000_000000000000000000#32], .tagc 50 ⟨0, 7⟩),
    ([0b1110101_0100100_0001100_0001110_0000#32, 0b0000_111_0000000_000000000000000000#32], .racq 36 12 14 ⟨0, 7⟩),
    ([0b1110110_0000000_0001100_0001110_0000#32, 0b0000_111_0000000_000000000000000000#32], .rrel 12 14 ⟨0, 7⟩),
    ([0b1110111_0000100_0000000_00000001111#32], .srd 4 0x0F),
    ([0b1111000_0000000_0000011_00000001110#32], .swr 3 0x0E)] : List (List Word × Instr)).all (reads .core) = true := by decide

/-- The Bellows opcodes, and integer, branch and LD words in their space (R320). -/
theorem test_decode_bellows_1 : ([
    ([0b1011001_0000011_0000100_0000110_0000#32], .creq 3 4 6),
    ([0b1011101_0000011_0000100_0000110_0000#32], .gload 3 4 6),
    ([0b1011110_0000011_0000100_0000110_0000#32], .grun 3 4 6),
    ([0b1111001_0000011_0000100_0000110_0000#32], .rotb 3 4 6),
    ([0b1111011_0000011_0000100_0000110_0000#32], .sems 3 4 6),
    ([0b1111100_0000011_0000100_0000110_0000#32], .semw 3 4 6),
    ([0b1011010_0000011_0000100_0000111_0000#32], .cawt 3 4 7),
    ([0b1011011_0000011_0000101_0000000_0000#32], .crel 3 5),
    ([0b1011100_0000011_0000101_0000000_0000#32], .csta 3 5),
    ([0b1011111_0000011_0001000_0001001_0000#32], .gwait 3 8 9),
    ([0b1111010_0000011_0000100_0001000_0000#32], .rote 3 4 8),
    ([0b0000001_0000100_0000100_0000000_0000#32, 0x1#32], .iaddLiteral 4 4 1),
    ([0b1001000_0000000_000000000000000100#32], .bra 4),
    ([0b1010010_0000000_0000000_00000100000#32], .trap 0x20)] : List (List Word × Instr)).all (reads .bellows) = true := by decide

/-- The Bellows opcodes, and integer, branch and LD words in their space (R320). -/
theorem test_decode_bellows_2 : ([
    ([0b1100000_0000110_0000010_00000000100#32, 0b0011_101_0000000_00_010_0_0_0000000_0000#32], .ld ⟨0, 2, false, false, 0, 0, .imm 4, ⟨3, 5⟩⟩ 6 2),
    ([0b1110111_0000100_0000000_00000001010#32], .srd 4 0x0A)] : List (List Word × Instr)).all (reads .bellows) = true := by decide

/-- The packets of the Hearth with their literal words (R244). -/
theorem test_decode_hearth_1 : ([
    ([0b0000001_0000000000000000000000000#32, 0x1000#32, 0x40#32], .launch 0x4000001000),
    ([0b0000010_0000000000000000000000000#32, 0x1000#32, 0x40#32], .ib 0x4000001000),
    ([0b0000011_0000000000000000000000000#32], .ibret),
    ([0b0000100_0010000000000000000001001#32, 0x30000#32, 0x50#32, 0x0#32], .predw 1 9 0x5000030000 0),
    ([0b0000101_0000000000000000000001001#32], .jmark 9),
    ([0b0000110_0000000000000000000000000#32, 0x4#32], .loop 4),
    ([0b0000111_0000000000000000000000000#32], .endl),
    ([0b0001000_0000000000000000000000000#32, 0x30000#32, 0x50#32, 0x1#32], .mwri false 0x5000030000 1),
    ([0b0001000_0100000000000000000000000#32, 0x8#32, 0x0#32, 0x1#32, 0x2#32], .mwri true 8 0x200000001),
    ([0b0001001_0000000000000000000000000#32, 0x10000#32, 0x0#32, 0x20000#32, 0x0#32], .pin 0x10000 0x20000),
    ([0b0001010_0000000000000000000000000#32, 0x10000#32, 0x0#32, 0x20000#32, 0x0#32], .unpin 0x10000 0x20000),
    ([0b0001011_0000000000000000000000000#32, 0x10000#32, 0x0#32, 0x20000#32, 0x0#32], .biasDev 0x10000 0x20000),
    ([0b0001011_0000000000000000000000001#32, 0x10000#32, 0x0#32, 0x20000#32, 0x0#32], .biasHost 0x10000 0x20000),
    ([0b0001100_0000000000000000000000000#32], .ffence)] : List (List Word × Instr)).all (reads .hearth) = true := by decide

/-- The packets of the Hearth with their literal words (R244). -/
theorem test_decode_hearth_2 : ([
    ([0b0001101_0000000000000000000000000#32, 0x40#32, 0x0#32], .tsw 0x40),
    ([0b0001110_0000000000000000000000010#32, 0x0#32, 0x60#32, 0x10000#32, 0x60#32], .bstrt 2 0x6000000000 0x6000010000),
    ([0b0001111_0000000000000000000000011#32, 0x1#32, 0x0#32], .hearthSems 3 1),
    ([0b0010000_0000000000000000100000011#32, 0x2#32, 0x0#32], .hearthSemw true 3 2)] : List (List Word × Instr)).all (reads .hearth) = true := by decide

/-- The decoder refuses the words with this reason. -/
def rejects (ex : Exec) (ws : List Word) : Bool :=
  match ws with
  | w :: ks => (match decode ex w ks with | .ok _ => false | .error _ => true)
  | [] => false

/-- Unassigned opcodes of the three spaces (R318, R320, R321), set reserved bits (R307), and words left over or missing. -/
theorem test_decode_rejects : ([[0#32], [0x5E000000#32], [0xCE000000#32], [0xFA000000#32], [0xB2000000#32], [0x220C0821#32], [0x9C000001#32], [0xA4000140#32], [0x9E000000#32, 0#32],
  [0x0C141870#32], [0x0C141870#32, 0x00000000#32], [0x40000004#32, 0#32, 0#32]] : List (List Word)).all (rejects .core) = true ∧
  ([[0x40000000#32], [0xEE10000B#32], [0x9E000000#32, 1#32]] : List (List Word)).all (rejects .bellows) = true ∧
  ([[0#32], [0x22000000#32], [0x02000000#32, 0#32], [0x06000001#32], [0x0C000000#32]] : List (List Word)).all (rejects .hearth) = true := by decide

/-- The codes of the test port (R277). -/
theorem test_decode_test_port : [0xFF, 0x01, 0x02, 0x00, 0x20, 0x21, 0x77].map decodeJtag = [.bypass, .idcode, .samplePreload, .extest, .qsel, .qscan, .bypass] := by decide

/-- The opcode table's words: a core row, a Bellows row, a Hearth row and a test port code. -/
theorem test_decode_table_words : (decodeTableWord 32 0x220C0820 = some (.and 3 1 2)) ∧ (decodeTableWord 32 0xBA0C2060 = some (.gload 3 4 6)) ∧
  (decodeTableWord 32 0x0E000000 = some .endl) ∧ (decodeTableWord 8 0x20 = some .qsel) := by decide

/-! ### Single steps -/

/-- A launch of one team of 16 threads of 32 registers, with 256 bytes of scratch, a handler, barriers and matrix registers. -/
def tLaunch : Launch :=
  { uid := 0, next := 1, rcd := { entry := 0x1000, handler := 0x2000, x := 1, y := 1, z := 1, groups := 1, nreg := 32, nbar := 2, nconv := 2, scratch := 256, pb1 := 1, pb2 := 1, pb3 := 2 } }
def tTeam : Team := { uid := 1, launch := 0 }
/-- Thread 2 with these registers, inside the clause at 0x100. -/
def tThread (rs : List Word) : Thread :=
  { uid := 2, team := 1, regs := rs ++ List.replicate (32 - rs.length) 0, pois := List.replicate 32 false, pc := 0x104, mid := some 0x100 }
def tCur : Cur := { who := .thread 2, addr := 0x104, word := 0, next := 0x108, hdr := 0x100, last := false, pos := 0, exe := 1 }
def tCore : Core := { pb := (1, 1, 2) }
/-- The thread stands at an instruction. -/
def tState (rs : List Word) : State :=
  { launches := [tLaunch], teams := [tTeam], threads := [tThread rs], cores := [(0, tCore)], nextUid := 3, cur := some tCur }
/-- The step is a next state with this property. -/
def after (i : Instr) (s : State) (p : State → Bool) : Bool := match exec i s with | .next t => p t | _ => false
/-- From registers rs the instruction leaves these values in these registers, and these flags. -/
def gives (i : Instr) (rs : List Word) (want : List (Nat × Word)) (fl : BitVec 5 := 0) : Bool :=
  after i (tState rs) fun t => want.all (fun x => (t.thread 2).reg x.1 == (x.2, false)) && (t.thread 2).fstat == fl && (t.thread 2).pc == 0x108
/-- The same of a result that waits under its window with the flags it will raise. -/
def issues (i : Instr) (rs : List Word) (want : List (Nat × Word)) (fl : BitVec 5 := 0) : Bool :=
  after i (tState rs) fun t => (t.thread 2).window.map (fun w => (w.regs, w.fl)) == [(want.map fun x => (x.1, x.2, false, false), fl)] && (t.thread 2).fstat == 0

/-- Examples of R380, R381, R386, R389, R390 and R400. -/
theorem test_iadd_wraps : gives (.iaddLiteral 4 4 1) [0, 0, 0, 0, 0xFFFFFFFF] [(4, 0)] = true := by decide
theorem test_isub_borrows : gives (.isub 3 1 2) [0, 1, 2] [(3, 0xFFFFFFFF)] = true := by decide
theorem test_iadd64_carries : gives (.iadd64 10 2 4) [0, 0, 0xFFFFFFFF, 1, 1, 0] [(10, 0), (11, 2)] = true := by decide
theorem test_multiplications : gives (.imul 6 2 3) [0, 0, 0xFFFFFFFF, 2] [(6, 0xFFFFFFFE)] = true ∧ gives (.imulh true 6 2 3) [0, 0, 0xFFFFFFFF, 2] [(6, 1)] = true ∧
  gives (.imulh false 6 2 3) [0, 0, 0xFFFFFFFF, 2] [(6, 0xFFFFFFFF)] = true ∧ gives (.imulw true 6 2 3) [0, 0, 0xFFFFFFFF, 2] [(6, 0xFFFFFFFE), (7, 1)] = true := by decide
theorem test_imad_source_is_destination : gives (.imad 1 1 (.reg 1) 1) [0, 7] [(1, 56)] = true := by decide
theorem test_imax : gives (.imaxLiteral false 3 1 1) [0, 0xFFFFFFFF] [(3, 1)] = true ∧ gives (.imaxLiteral true 3 1 1) [0, 0xFFFFFFFF] [(3, 0xFFFFFFFF)] = true := by decide
theorem test_iabs_of_the_least : gives (.iabs 3 1) [0, 0x80000000] [(3, 0x80000000)] = true := by decide
theorem test_icmp : gives (.icmpLiteral 6 5 6 100) [0, 0, 0, 0, 0, 9, 0xFFFFFFFF] [(5, 0)] = true ∧ gives (.icmpLiteral 2 5 6 100) [0, 0, 0, 0, 0, 9, 0xFFFFFFFF] [(5, 1)] = true := by decide
theorem test_lea : gives (.lea false 2 10 2 7) [0, 0, 0x1000, 0x40, 0, 0, 0, 0xFFFFFFFF] [(10, 0x0FFC), (11, 0x40)] = true ∧
  gives (.lea true 2 10 2 7) [0, 0, 0x1000, 0x40, 0, 0, 0, 0xFFFFFFFF] [(10, 0x0FFC), (11, 0x44)] = true := by decide
theorem test_movi : gives (.movi 5 0x7FD) [] [(5, 0xFFFFFFFD)] = true := by decide

/-- Examples of R333, R341, R428, R444, R445, R452 and R453. -/
theorem test_bfe : gives (.bfeLiteral false 3 1 0x0C08) [0, 0xDEADBEEF] [(3, 0xDBE)] = true ∧ gives (.bfeLiteral true 3 1 0x0C08) [0, 0xDEADBEEF] [(3, 0xFFFFFDBE)] = true := by decide
theorem test_bfi : gives (.bfi 5 1 (.reg 2) 3) [0, 0xFF, 0x11111111, 0x0408] [(5, 0x11111F11)] = true := by decide
theorem test_bsrd : gives (.bsrd 3 1 2) [0, 0x11223344, 0x0123] [(3, 0x44332211)] = true ∧ gives (.bsrd 3 1 2) [0, 0x90, 0x8880] [(3, 0xFFFFFF90)] = true := by decide
theorem test_counts : gives (.popc 4 9) [0, 0, 0, 0, 0, 0, 0, 0, 0, 0xF00F0001] [(4, 9)] = true ∧ gives (.clz 4 1) [0, 0] [(4, 32)] = true ∧ gives (.brev 4 1) [0, 1] [(4, 0x80000000)] = true := by decide
theorem test_shifts : gives (.sarLiteral 4 5 4) [0, 0, 0, 0, 0, 0x800000FF] [(4, 0xF800000F)] = true ∧ gives (.shrLiteral 4 5 4) [0, 0, 0, 0, 0, 0x800000FF] [(4, 0x0800000F)] = true ∧
  gives (.sarLiteral 4 5 40) [0, 0, 0, 0, 0, 0x800000FF] [(4, 0xFFFFFFFF)] = true ∧ gives (.shl 4 5 6) [0, 0, 0, 0, 0, 1, 32] [(4, 0)] = true := by decide
theorem test_shl64 : gives (.shl64Literal 10 2 4) [0, 0, 0x80000001, 1] [(10, 0x10), (11, 0x18)] = true := by decide

/-- Examples of R363, R365, R369, R370, R371 and R373; the rows of the table of R433. -/
theorem test_fadd_of_opposites : gives (.fadd 3 7 4 6) [0, 0, 0, 0, 0x3F800000, 0, 0xBF800000] [(7, 0x80000000)] = true ∧ gives (.fadd 0 7 4 6) [0, 0, 0, 0, 0x3F800000, 0, 0xBF800000] [(7, 0)] = true := by decide
theorem test_fadd_of_infinities : gives (.fadd 0 7 4 6) [0, 0, 0, 0, 0x7F800000, 0, 0xFF800000] [(7, 0x7FC00000)] fNV = true := by decide
theorem test_ffma_rounds_once : gives (.ffma 1 8 1 (.reg 2) 3) [0, 0x3F800800, 0x3F800800, 0xBF800000] [(8, 0x3A000400)] = true := by decide
theorem test_fcmp_of_a_nan : gives (.fcmp 2 9 1 2) [0, 0x7FC00000, 0x3F800000] [(9, 0)] = true ∧ gives (.fcmp 1 9 1 2) [0, 0x7FC00000, 0x3F800000] [(9, 1)] = true := by decide
theorem test_fmin : gives (.fmin 3 1 2) [0, 0, 0x80000000] [(3, 0x80000000)] = true ∧ gives (.fmin 3 1 2) [0, 0x7FC00000, 0x40400000] [(3, 0x40400000)] = true := by decide
theorem test_rcp : issues (.rcp 5 4 no) [0, 0, 0, 0, 0x40800000] [(5, 0x3E800000)] = true ∧ issues (.rcp 5 4 no) [0, 0, 0, 0, 0x80000000] [(5, 0xFF800000)] fDZ = true := by decide
theorem test_sqrt : issues (.sqrt 0 5 4 no) [0, 0, 0, 0, 0x40000000] [(5, 0x3FB504F3)] fNX = true ∧ issues (.sqrt 2 5 4 no) [0, 0, 0, 0, 0x40000000] [(5, 0x3FB504F4)] fNX = true := by decide
theorem test_rsq_of_a_negative : issues (.rsq 5 4 no) [0, 0, 0, 0, 0xC0800000] [(5, 0x7FC00000)] fNV = true := by decide
theorem test_exp2_of_one : issues (.exp2 5 4 no) [0, 0, 0, 0, 0x3F800000] [(5, 0x40000000)] = true := by decide
theorem test_tanh_of_infinity : issues (.tanh 5 4 no) [0, 0, 0, 0, 0xFF800000] [(5, 0xBF800000)] = true := by decide

/-- Examples of R353, R355, R420, R422, R426 and R470. -/
theorem test_padd : gives (.padd 2 false false 5 3 4) [0, 0, 0, 0xC0387F7E, 0xA8303868] [(5, 0xC13C7F7F)] (fOF ||| fNX) = true ∧
  after (.padd 2 true false 5 3 4) (tState [0, 0, 0, 0xC0387F7E, 0xA8303868]) (fun t => (t.thread 2).val 5 == 0xC13C7F7E) = true := by decide
theorem test_pmin : gives (.pmin 1 5 3 4) [0, 0, 0, 0x7E008000, 0x3C000000] [(5, 0x3C008000)] = true := by decide
theorem test_pack : gives (.pack 0 false false 5 1 2) [0, 0x3F800000, 0x40490FDB] [(5, 0x40493F80)] fNX = true ∧
  gives (.pack 2 true true 5 1 2) [0, 0x43FA0000, 0xBF400000, 0, 0, 0x3C38] [(5, 0xB47E3C38)] (fOF ||| fNX) = true := by decide
theorem test_unpk : gives (.unpk 2 true 6 5) [0, 0, 0, 0, 0, 0xC13C7F7F] [(6, 0x3FC00000), (7, 0xC0100000)] = true := by decide
theorem test_cvt : issues (.cvt 3 0 0 true 0 5 4 no) [0, 0, 0, 0, 0x43FA0000] [(5, 0x7E)] (fOF ||| fNX) = true ∧ issues (.cvt 3 0 0 false 0 5 4 no) [0, 0, 0, 0, 0x43FA0000] [(5, 0x7F)] (fOF ||| fNX) = true := by decide
theorem test_cvtsr : issues (.cvtsr 5 false 6 4 9 no) [0, 0, 0, 0, 0x3E99999A, 0, 0, 0, 0, 0x80000000] [(6, 1)] (fUF ||| fNX) = true := by decide

/-- The examples of R437 and R446: a mask of eight lanes of 16, here the lanes' operands given to the functions. -/
def tLanes (l : List (Nat × Word)) : List Arrived := l.map fun x => (x.1, x.2, false, 0)
theorem test_redl_is_exact : reduce 0 2 [0x4B800000, 0x3F800000, 0xCB800000, 0, 0, 0, 0, 0] = 0x3F800000 := by decide
theorem test_scanl_prefixes : (List.range 3).map (scanRes 0 2 false (tLanes [(0, 0x4B800000), (1, 0x3F800000), (2, 0xCB800000), (3, 0)])) = [0x4B800000, 0x4B800000, 0x3F800000] ∧
  (List.range 3).map (scanRes 0 2 true (tLanes [(0, 0x4B800000), (1, 0x3F800000), (2, 0xCB800000), (3, 0)])) = [0, 0x4B800000, 0x4B800000] := by decide
theorem test_vote : voteRes 0 (tLanes [(0, 0), (1, 0), (2, 5), (3, 0), (4, 0), (5, 1), (6, 0), (7, 0)]) = 0x00020502 := by decide
/-- A mask of the thread's own lane completes at once (R27). -/
theorem test_ballot_alone : after (.ballot 4 1 2 no) (tState [0, 7, 1]) (fun t => (t.thread 2).val 4 == 1 && (t.thread 2).pc == 0x108) = true := by decide

/-- A branch to its own clause's header, a call and its link, a trap to the handler and the return from it. -/
theorem test_bra : after (.bra 0x3FFFF) (tState []) (fun t => (t.thread 2).pc == 0x100 && (t.thread 2).mid == none) = true := by decide
theorem test_call_links : after (.call 4 3) (tState []) (fun t => (t.thread 2).pc == 0x110 && (t.thread 2).val 4 == 0x108) = true := by decide
theorem test_trap : after (.trap 0x41) (tState []) (fun t => (t.thread 2).pc == 0x2000 && (t.thread 2).epc == 0x104 && (t.thread 2).ecode == 0x41 && (t.thread 2).hnd) = true := by decide
theorem test_eret_outside_the_handler : after .eret (tState []) (fun t => (t.thread 2).ecode == 1) = true := by decide
theorem test_register_bound : after (.iadd 32 1 2) (tState []) (fun t => (t.thread 2).ecode == 0x0C && (t.thread 2).einfo == 32) = true := by decide
theorem test_bar_of_the_team_waits : after (.bar true 1 0) (tState []) (fun t => (t.thread 2).status == .waiting (.bar 1)) = true := by decide
theorem test_exit : after .exit (tState []) (fun t => (t.thread 2).status == .exited) = true := by decide

/-- The examples of R396 and R398 in scratch, a store, and an atomic at the edge of the scratch bound. -/
theorem test_ld_sign_extends : after (.ld (memF 1 1 true) 9 12) { tState (List.replicate 12 0 ++ [6]) with teams := [{ tTeam with scratch := [(6, 0x01), (7, 0x80)] }] }
  (fun t => (t.thread 2).window.map (fun w => w.regs) == [[(9, 0xFFFF8001, false, false)]]) = true := by decide
theorem test_st_stores : after (.st (memF 1 2) 1 2) (tState [0, 0xFC, 0x11223344]) (fun t => (t.team 1).scratch == [(0xFC, 0x44), (0xFD, 0x33), (0xFE, 0x22), (0xFF, 0x11)]) = true := by decide
theorem test_st_beyond_the_bound : after (.st (memF 1 0) 1 2) (tState [0, 0x100]) (fun t => (t.thread 2).ecode == 0x0B) = true := by decide
theorem test_atom_cas : after (.atom (memF 1 2 false 7) 8 1 2) { tState [0, 4, 5, 9] with teams := [{ tTeam with scratch := [(4, 5)] }] }
  (fun t => (t.team 1).scratch == [(4, 9)] && (t.thread 2).window.map (fun w => w.regs) == [[(8, 5, false, false)]]) = true := by decide
theorem test_red_floating_point : after (.red (memF 1 2 false 8) 1 2) { tState [0, 4, 0x3F800000] with teams := [{ tTeam with scratch := [(6, 0x80), (7, 0x3F)] }] }
  (fun t => (t.team 1).scratch == [(7, 0x40)]) = true := by decide

/-- The read of a special register, the clearing of sticky flags, and %scout's budget limit (R56 to R58). -/
theorem test_srd_cycle : after (.srd 4 0x0F) { tState [] with cycle := 0x100000002 } (fun t => (t.thread 2).pair 4 == 0x100000002) = true := by decide
theorem test_swr_clears_flags : after (.swr 3 0x0E) { tState [0, 0, 0, 5] with threads := [{ tThread [0, 0, 0, 5] with fstat := 0x1F }] } (fun t => (t.thread 2).fstat == 0x1A) = true := by decide
theorem test_swr_scout_budget : after (.swr 3 0x10) (tState [0, 0, 0, 0x81FF0000]) (fun t => (t.thread 2).scoutEn && (t.thread 2).scoutBud == 256) = true := by decide

/-- The value %fstat's flags take in R409's neighbours: MOV passes poison without a trap; a sum of a poisoned source traps 0x07. -/
theorem test_poison : after (.mov 3 1) { tState [0, 6] with threads := [{ tThread [0, 6] with pois := [false, true] ++ List.replicate 30 false }] } (fun t => (t.thread 2).reg 3 == (6, true)) = true ∧
  after (.iadd 3 1 2) { tState [0, 6] with threads := [{ tThread [0, 6] with pois := [false, true] ++ List.replicate 30 false }] } (fun t => (t.thread 2).ecode == 7 && (t.thread 2).einfo == 1) = true := by decide

/-- Machine events: a frozen machine ignores all but reset and the test port (R278); IDCODE is shifted out (R277). -/
theorem test_frozen_stays : (match step { State.reset with frozen := true, agenda := [⟨1, 1, .event .mgmtCommandComplete⟩] } with | .next t => t.frozen && t.cycle == 0 | _ => false) = true := by decide
theorem test_idcode : after (.dataRegisterScan (List.replicate 32 false)) { State.reset with jtag := { State.reset.jtag with ir := 1 } } (fun t => t.jtag.tdo == (List.range 32).map (0x19480A6F).testBit) = true := by decide
theorem test_fetch_place : (match step (State.reset.withFetchWord 32 0x9E000000) with | .next _ => true | _ => false) = true := by decide

/-- An uncorrectable error marks its register and no other, and both granules of 32 bytes of DRAM; one in a unit's state stops
the clocks (R268, R274). -/
theorem test_storageError_marks : let s := tState [7, 8]; let t := (storageError s (.register 2 1)).thread 2
    (t.pois.getD 0 true = false ∧ t.pois.getD 1 false = true ∧ t.pois.getD 2 true = false ∧ t.regs = (s.thread 2).regs) ∧
    (storageError s (.dram 9)).poison = [8, 9] ∧ (storageError s (.state 4 0)).frozen = true := by decide
end Sys2Proof.Tests
end

