-- ==== Sys2Proof/Tests/Witnesses.lean ====
section
/-! SUPPORT. Witnesses: for each statement with hypotheses, a concrete state and operands that meet them, clause by clause. -/
namespace Sys2Proof.Tests
open Sys2Proof Sys2Proof.Machine
set_option maxRecDepth 20000

/-- A thread's machine with a change to it. -/
abbrev tUp (rs : List Word) (f : Thread → Thread) : State := { tState rs with threads := [f (tThread rs)] }
/-- Script 1 runs, at an instruction of its clause at 0x100. -/
def sScript : Script := { running := true, ctx := 2, regs := List.replicate 32 0, pc := 0x104, header := some 0x100, words := [0x14000000, 0x9E000000], pos := 1 }
def sCur : Cur := { who := .script 1, addr := 0x104, word := 0x9E000000, next := 0x108, hdr := 0x100, last := true, pos := 0, exe := 0 }
def sState : State := { scripts := [(1, sScript)], cur := some sCur }
/-- The thread runs, by computation. -/
theorem tRuns : Runs (tState [0, 1, 2, 3, 4]) 2 tCur (tThread [0, 1, 2, 3, 4]) := ⟨rfl, rfl, rfl, by decide, rfl⟩

theorem witness_IntegerArithmeticAndComparisons :
    (∃ s u c th, Runs s u c th ∧ Readable th [1, 2, 3] ∧ Exist th [31]) ∧ (sState.cur = some sCur ∧ sCur.who = .script 1 ∧ ∀ r ∈ [0, 31] ++ [31], r < 32) ∧
    ((9, fun y z => decide (y.toNat ≥ z.toNat)) ∈ ([(0, fun y z => decide (y = z)), (1, fun y z => decide (y ≠ z)),
        (2, fun y z => decide (y.toInt < z.toInt)), (3, fun y z => decide (y.toInt ≤ z.toInt)),
        (4, fun y z => decide (y.toInt > z.toInt)), (5, fun y z => decide (y.toInt ≥ z.toInt)),
        (6, fun y z => decide (y.toNat < z.toNat)), (7, fun y z => decide (y.toNat ≤ z.toNat)),
        (8, fun y z => decide (y.toNat > z.toNat)), (9, fun y z => decide (y.toNat ≥ z.toNat))] : List (BitVec 4 × (Word → Word → Bool)))) :=
  ⟨⟨_, _, _, _, tRuns, by unfold Readable; decide, by unfold Exist; decide⟩, ⟨rfl, rfl, by decide⟩, by simp⟩

theorem witness_BitwiseOperationsAndMove :
    (Runs (tState [0, 1, 2, 3, 4]) 2 tCur (tThread [0, 1, 2, 3, 4]) ∧ Readable (tThread [0, 1, 2, 3, 4]) [1, 2] ∧ Exist (tThread [0, 1, 2, 3, 4]) [31] ∧
      (tThread [0, 1, 2, 3, 4]).pois.length = (tThread [0, 1, 2, 3, 4]).regs.length) ∧ (sState.cur = some sCur ∧ sCur.who = .script 1 ∧ ∀ r ∈ [0, 31] ++ [31], r < 32) :=
  ⟨⟨tRuns, by unfold Readable; decide, by unfold Exist; decide, rfl⟩, rfl, rfl, by decide⟩

theorem witness_IntegerShiftsAndBitFields :
    (Runs (tState [0, 1, 2, 3, 4]) 2 tCur (tThread [0, 1, 2, 3, 4]) ∧ Readable (tThread [0, 1, 2, 3, 4]) [1, 2, 3] ∧ Exist (tThread [0, 1, 2, 3, 4]) [31]) ∧
    (0 < min ((0x0C08 : Word).toNat / 256 % 64) (32 - (0x0C08 : Word).toNat % 32)) ∧ min ((0x4008 : Word).toNat / 256 % 64) (32 - (0x4008 : Word).toNat % 32) = 0 ∧ (clzW 1).toNat < 32 ∧ 32 - (clzW 1).toNat ≤ 31 :=
  ⟨⟨tRuns, by unfold Readable; decide, by unfold Exist; decide⟩, by decide, by decide, by decide, by decide⟩

theorem witness_IntegerPairsMovesAndSelection :
    evenReg 30 = true ∧ evenReg 2 = true ∧ evenReg 0 = true ∧ Runs (tState [0, 1, 2, 3, 4]) 2 tCur (tThread [0, 1, 2, 3, 4]) ∧
    Readable (tThread [0, 1, 2, 3, 4]) (pairRegs 2 ++ pairRegs 0) ∧ Exist (tThread [0, 1, 2, 3, 4]) (pairRegs 30) ∧
    (tThread [0, 1, 2, 3, 4]).pois.length = (tThread [0, 1, 2, 3, 4]).regs.length ∧ ((tThread [0, 1, 2, 3, 4]).reg (31 : Reg).toNat).2 = false :=
  ⟨by decide, by decide, by decide, tRuns, by unfold Readable; decide, by unfold Exist; decide, rfl, by decide⟩

theorem witness_FloatArithmeticResults : Runs (tState [0, 1, 2, 3, 4]) 2 tCur (tThread [0, 1, 2, 3, 4]) ∧ Readable (tThread [0, 1, 2, 3, 4]) [1, 2, 3] ∧ Exist (tThread [0, 1, 2, 3, 4]) [31] :=
  ⟨tRuns, by unfold Readable; decide, by unfold Exist; decide⟩

theorem witness_FloatSpecialCases : valOf fp32 0x7F800001 = .nan ∧ valOf fp32 0x3F800000 ≠ .nan ∧ valOf fp32 0x7F800000 = .inf false ∧ valOf fp32 0xFF800000 = .inf (!false) ∧
    valOf fp32 0x80000000 = .zero true ∧ ∃ m e, valOf fp32 1 = .fin false m e :=
  ⟨by decide, by decide, by decide, by decide, by decide, _, _, rfl⟩

theorem witness_RoundIsExactOrBracketed : (e2m1 ∈ [fp32, fp16, bf16, e4m3, e5m2, e2m1] ∧ 0xF < 2 ^ e2m1.width ∧ valOf e2m1 0xF ≠ .nan ∧ ∀ n, valOf e2m1 0xF ≠ .inf n) ∧
    ((1 : Nat) ≠ 0 ∧ (roundMag fp32 .ru false 1 (-30)).1 ≤ 0x7F7FFFFF) :=
  ⟨⟨by decide, by decide, by decide, by decide⟩, by decide, by decide⟩

theorem witness_FloatComparesAndClasses : (7 : BitVec 4).toNat ≤ 7 ∧ Runs (tState [0, 1, 2, 3, 4]) 2 tCur (tThread [0, 1, 2, 3, 4]) ∧ Readable (tThread [0, 1, 2, 3, 4]) [1, 2] ∧
    Exist (tThread [0, 1, 2, 3, 4]) [31] ∧ valOf fp32 (0x7FC00000 : Word).toNat = .nan ∧ ¬ (valOf fp32 (0 : Word).toNat = .nan ∨ valOf fp32 (0x7F800000 : Word).toNat = .nan) :=
  ⟨by decide, tRuns, by unfold Readable; decide, by unfold Exist; decide, by decide, by decide⟩

theorem witness_SpecialFunctionResults : no.ok = true ∧ Runs (tState [0, 1, 2, 3, 4]) 2 tCur (tThread [0, 1, 2, 3, 4]) ∧ CounterFree (tThread [0, 1, 2, 3, 4]) ⟨15, 5⟩ ∧
    Readable (tThread [0, 1, 2, 3, 4]) [1] ∧ Exist (tThread [0, 1, 2, 3, 4]) [31] ∧ valOf fp32 (0xFFFFFFFF : Word).toNat = .nan :=
  ⟨by decide, tRuns, by unfold CounterFree; decide, by unfold Readable; decide, by unfold Exist; decide, by decide⟩

theorem witness_PackedArithmeticResults : Runs (tState [0, 1, 2, 3, 4]) 2 tCur (tThread [0, 1, 2, 3, 4]) ∧ Readable (tThread [0, 1, 2, 3, 4]) [1, 2, 3] ∧ Exist (tThread [0, 1, 2, 3, 4]) [31] ∧
    3 < 32 / (packFmt 2).2 ∧ (∀ p q, ((fun (_ : Fmt) (_ _ : Nat) => (0, (0 : Flags))) (packFmt 2).1 p q).1 < 2 ^ (packFmt 2).2) ∧
    ∀ p q r, ((fun (_ : Fmt) (_ _ _ : Nat) => (0, (0 : Flags))) (packFmt 2).1 p q r).1 < 2 ^ (packFmt 2).2 :=
  ⟨tRuns, by unfold Readable; decide, by unfold Exist; decide, by decide, fun _ _ => Nat.two_pow_pos _, fun _ _ _ => Nat.two_pow_pos _⟩

/-- Finite and other values, integers beyond both ends, an inexact truncation and an exact one. -/
theorem witness_ConversionResults_values : (∃ n m e, valOf fp32 0x7149F2CA = .fin n m e) ∧ (∀ n m e, valOf fp32 0x7F800000 ≠ .fin n m e) ∧ (6 : BitVec 4) ≠ 5 ∧ (5 : BitVec 4).toNat ≤ 5 ∧
    (∃ j, RoundsTo .rz false 1 40 j ∧ 0x7FFFFFFF < (j : Int)) ∧ (∃ j, RoundsTo .rz true 1 40 j ∧ -(j : Int) < -0x80000000) ∧ (∃ j, RoundsTo .rz false 1 0 j ∧ (0 : Int) ≤ j ∧ (j : Int) ≤ 0x7FFFFFFF) ∧
    (roundMag fp16 .rz false 1 0).2 = false ∧ (roundMag fp16 .rz false 0x1001 0).2 = true ∧ (roundMag fp16 .rz false 0x1001 0).1 + 1 ≤ fp16.max := by
  have inf : valOf fp32 0x7F800000 = .inf false := by decide
  refine ⟨⟨_, _, _, rfl⟩, fun n m e h => (nomatch inf ▸ h), by decide, by decide, ⟨2 ^ 40, ⟨fun _ => rfl, fun h => absurd h (by decide)⟩, by decide⟩, ⟨2 ^ 40, ⟨fun _ => rfl, fun h => absurd h (by decide)⟩, by decide⟩,
    ⟨1, ⟨fun _ => rfl, fun h => absurd h (by decide)⟩, by decide, by decide⟩, by decide, by decide, by decide⟩
theorem witness_ConversionResults : no.ok = true ∧ cvtOk 3 0 true 0 = true ∧ cvtOk 0 5 false 7 = true ∧ 1 ≤ (5 : BitVec 4).toNat ∧ (5 : BitVec 4).toNat ≤ 5 ∧
    Runs (tState [0, 1, 2, 3, 4]) 2 tCur (tThread [0, 1, 2, 3, 4]) ∧ CounterFree (tThread [0, 1, 2, 3, 4]) no ∧ Readable (tThread [0, 1, 2, 3, 4]) [31, 1, 2] ∧
    Exist (tThread [0, 1, 2, 3, 4]) (pairRegs 30) ∧ (1 : BitVec 2).toNat < 2 ∧ 2 ≤ (2 : BitVec 2).toNat ∧ evenReg 30 = true ∧ ∃ v : Val, v = .nan :=
  ⟨by decide, by decide, by decide, by decide, by decide, tRuns, by unfold CounterFree; decide, by unfold Readable; decide, by unfold Exist; decide, by decide, by decide, by decide, _, rfl⟩

/-- Pairs v4:v5 misaligned, v6:v7 not canonical, v8:v9 a good target; v10 zero and v11 not. -/
def tTargets : List Word := [0, 0, 0, 0, 0x1002, 0, 0x1000, 0x80000000, 0x1000, 0, 0, 1]
theorem witness_ControlTransfersOfThreads : let th := tThread tTargets
    Runs (tState tTargets) 2 tCur th ∧ canonical (tCur.addr + BitVec.ofInt 64 (4 * (0x3FFFF : BitVec 18).toInt)) = true ∧ (Readable th [11] ∧ th.val 11 ≠ 0) ∧ (Readable th [10] ∧ th.val 10 = 0) ∧
    (evenReg 30 = true ∧ Exist th (pairRegs 30)) ∧ (evenReg 8 = true ∧ Readable th (pairRegs 8) ∧ (th.pair 8).toNat % 4 = 0 ∧ canonical (th.pair 8) = true) ∧
    (Readable th (pairRegs 4) ∧ (th.pair 4).toNat % 4 ≠ 0) ∧ (Readable th (pairRegs 6) ∧ (th.pair 6).toNat % 4 = 0 ∧ canonical (th.pair 6) = false) :=
  ⟨⟨rfl, rfl, rfl, by decide, rfl⟩, by decide, ⟨by unfold Readable; decide, by decide⟩, ⟨by unfold Readable; decide, by decide⟩, ⟨by decide, by unfold Exist; decide⟩,
    ⟨by decide, by unfold Readable; decide, by decide, by decide⟩, ⟨by unfold Readable; decide, by decide⟩, by unfold Readable; decide, by decide, by decide⟩
/-- A branch out of the canonical addresses, from the last word below 2^56. -/
theorem witness_ControlTransfersOfThreads_not_canonical : let c : Cur := { tCur with addr := 0x00FFFFFFFFFFFFFC, next := 0x0100000000000000, hdr := 0x00FFFFFFFFFFFFF8 }
    Runs { tState [0, 1] with cur := some c } 2 c (tThread [0, 1]) ∧ canonical (c.addr + BitVec.ofInt 64 (4 * (1 : BitVec 18).toInt)) = false ∧ Readable (tThread [0, 1]) [(1 : Reg).toNat] ∧ (tThread [0, 1]).val 1 ≠ 0 :=
  ⟨⟨rfl, rfl, rfl, by decide, rfl⟩, by decide, by unfold Readable; decide, by decide⟩
theorem witness_ControlTransfersOfScripts : sState.cur = some sCur ∧ sCur.who = .script 1 ∧ canonical (sCur.addr + BitVec.ofInt 64 (4 * (4 : BitVec 18).toInt)) = true ∧
    (31 : Reg).toNat < 32 ∧ (evenReg 30 = true ∧ (30 : Reg).toNat < 32 ∧ ((sState.script 1).pair 30).toNat % 4 = 0 ∧ canonical ((sState.script 1).pair 30) = true) ∧
    0x20 ≤ (0x20 : Byte).toNat ∧ (Instr.wf (.imulw false 3 1 2) = false ∧ Instr.wf (.iadd 32 1 2) = true ∧ ∃ r ∈ [(32 : Reg).toNat, 1, 2], 32 ≤ r) ∧ ((memF 0 2).space = 0 ∧ (memF 1 2).space = 1) ∧ (0x17 : Byte) ≠ 0x0A ∧ (0x17 : Byte) ≠ 0x0F :=
  ⟨rfl, rfl, by decide, by decide, ⟨by decide, by decide, by decide, by decide⟩, by decide, ⟨by decide, by decide, 32, by decide, by decide⟩, by decide, by decide, by decide⟩

theorem witness_NopYieldSleepAndExit : let s := tState [0, 1, 2, 3, 4]; let th := tThread [0, 1, 2, 3, 4]
    Runs s 2 tCur th ∧ 1024 ≤ (1024 : BitVec 11).toNat ∧ ((s.teamOf th).rdvs = [] ∧ (s.teamOf th).convs = [] ∧ ∀ x ∈ s.threads, ∀ e, x.status ≠ .parked e) ∧
    (1024 < 2 ^ 32 ∧ Instr.sleepLiteral (BitVec.ofNat 32 1024) ∈ (if 1024 < 1024 then [Instr.sleep (BitVec.ofNat 11 1024)] else []) ++ [Instr.sleepLiteral (BitVec.ofNat 32 1024)]) ∧
    Instr.sleep (BitVec.ofNat 11 1023) ∈ (if 1023 < 1024 then [Instr.sleep (BitVec.ofNat 11 1023)] else []) ++ [Instr.sleepLiteral (BitVec.ofNat 32 1023)] :=
  ⟨tRuns, by decide, ⟨rfl, rfl, by intro x hx e; simp [tState] at hx; subst hx; simp [tThread]⟩, by decide, by decide⟩
theorem witness_NopYieldSleepAndExit_sleeping : let s := tUp [] fun t => { t with status := .waiting (.sleep 5 0x108) }
    s.hasThread 2 = true ∧ (s.thread 2).status = .waiting (.sleep 5 0x108) ∧ s.cycle < 5 ∧ 5 ≤ ({ s with cycle := 5 } : State).cycle :=
  by decide
theorem witness_NopYieldSleepAndExit_script : let s : State := { sState with scripts := [(1, { sScript with wait := some (.sleep 5) })] }
    1 < 4 ∧ s.hasThread (scriptAsker 1) = false ∧ (s.script 1).running = true ∧ (s.script 1).wait = some (.sleep 5) ∧ s.htime < 5 ∧ 5 ≤ ({ s with htime := 5 } : State).htime := by decide

theorem witness_SpecialRegisterReadsAndWrites : let s := tState [0, 1, 2, 3, 4]; let th := tThread [0, 1, 2, 3, 4]
    Runs s 2 tCur th ∧ Exist th [31] ∧ Exist th (pairRegs 30) ∧ evenReg 30 = true ∧ Readable th [1] ∧ Readable th (pairRegs 2) ∧ 0x18 ≤ (0x18 : Byte).toNat ∧
    (let l := s.launchOfThread (s.thread 2); let r := l.rcd; let tm := s.teamOf (s.thread 2)
     ((0x17 : Byte).toNat, rsvWord r) ∈ ([(0, BitVec.ofNat 32 th.tid), (1, BitVec.ofNat 32 (th.tid % r.width)), (2, BitVec.ofNat 32 (th.tid / r.width)), (3, BitVec.ofNat 32 r.width),
        (4, BitVec.ofNat 32 (tm.n % r.x)), (5, BitVec.ofNat 32 (tm.n / r.x % r.y)), (6, BitVec.ofNat 32 (tm.n / (r.x * r.y))), (7, l.id),
        (8, BitVec.ofNat 32 th.core), (9, BitVec.ofNat 32 (th.core / 2)), (10, BitVec.ofNat 32 s.hub.chip), (11, BitVec.ofNat 32 r.nthr),
        (14, th.fstat.setWidth 32), (16, scoutWord th), (18, th.ecode.setWidth 32), (20, th.einfo), (21, pbWord (s.core th.core)),
        (22, th.policy), (23, rsvWord r)] : List (Nat × Word)) ∧
     ((0x0F : Byte).toNat, BitVec.ofNat 64 s.cycle) ∈ ([(12, tagMask s tm (·.done)), (13, tagMask s tm fun x => x.done && x.err), (15, BitVec.ofNat 64 s.cycle), (17, th.epc), (19, th.eaddr)] :
        List (Nat × DWord))) :=
  ⟨tRuns, by unfold Exist; decide, by unfold Exist; decide, by decide, by unfold Readable; decide, by unfold Readable; decide, by decide, by decide⟩

theorem witness_TrapsAreTakenAsR258Says : let s := tState []; let s' := tUp [] fun t => { t with hnd := true }
    (Runs s 2 tCur (tThread []) ∧ 0x20 ≤ (0x20 : Byte).toNat ∧ (s.thread 2).hnd = false ∧ (s.launchOfThread (s.thread 2)).rcd.handler ≠ 0) ∧
    (Runs s' 2 tCur { tThread [] with hnd := true } ∧ (s'.thread 2).hnd = true) :=
  ⟨⟨⟨rfl, rfl, rfl, by decide, rfl⟩, by decide, by decide, by decide⟩, ⟨rfl, rfl, rfl, by decide, rfl⟩, by decide⟩

theorem witness_EretReturnsFromTheHandler : let up := fun e : DWord => tUp [] fun t => { t with hnd := true, epc := e, trapAt := some (e, some 0x100) }
    (Runs (up 0x104) 2 tCur ((up 0x104).thread 2) ∧ ((up 0x104).thread 2).hnd = true ∧ ((up 0x104).thread 2).epc.toNat % 4 = 0 ∧ canonical ((up 0x104).thread 2).epc = true) ∧
    (Runs (up 0x102) 2 tCur ((up 0x102).thread 2) ∧ ((up 0x102).thread 2).epc.toNat % 4 ≠ 0) ∧
    (Runs (up (1 <<< 57)) 2 tCur ((up (1 <<< 57)).thread 2) ∧ ((up (1 <<< 57)).thread 2).hnd = true ∧ ((up (1 <<< 57)).thread 2).epc.toNat % 4 = 0 ∧ canonical ((up (1 <<< 57)).thread 2).epc = false) :=
  ⟨⟨⟨rfl, rfl, rfl, by decide, rfl⟩, by decide, by decide, by decide⟩, ⟨⟨rfl, rfl, rfl, by decide, rfl⟩, by decide⟩, ⟨rfl, rfl, rfl, by decide, rfl⟩, by decide, by decide, by decide⟩

theorem witness_BadOperandsTrapInOrder : let s := tUp [0, 1, 2] fun t => { t with pois := [false, true] ++ List.replicate 30 false }; let th := s.thread 2
    Runs s 2 tCur th ∧ Instr.fmax 3 1 2 ∈ [Instr.iadd 3 1 2, .fmax 3 1 2] ∧ [32, 1, 2].find? (fun r : Reg => th.regs.length ≤ r.toNat) = some 32 ∧
    Exist th [3, 1, 2] ∧ [1, 2].find? (fun r : Reg => (th.reg r.toNat).2) = some 1 ∧ evenReg 3 = false ∧ 10 ≤ (10 : BitVec 4).toNat :=
  ⟨⟨rfl, rfl, rfl, by decide, rfl⟩, by decide, by decide, by unfold Exist; decide, by decide, by decide, by decide⟩

/-! ### Lanes, barriers, memory -/

/-- Threads 2 and 3 in lanes 0 and 1; thread 3 waits in the instance of mask 3 at 0x104, thread 2 arrives. -/
def tLane1 : Thread := { tThread [0, 7, 3] with uid := 3, tid := 1, status := .waiting .rendezvous }
def tPairUp (lanes : List (Nat × Nat × Word × Bool × Word)) : State :=
  { tState [0, 5, 3] with threads := [tThread [0, 5, 3], tLane1], teams := [{ tTeam with rdvs := if lanes.isEmpty then [] else [⟨0, 0x104, 3, lanes⟩] }] }
theorem witness_CrossLaneInstructions : let s := tPairUp [(1, 3, 7, false, 0)]; let th := tThread [0, 5, 3]; let r := (s.launchOfThread th).rcd; let mask := readMask th r.width 2
    let waiting := ((s.teamOf th).rdvs.find? fun v : Rdv => v.group == groupOf th r && v.addr == tCur.addr && v.mask == mask).getD ⟨groupOf th r, tCur.addr, mask, []⟩
    let all := { waiting with lanes := waiting.lanes ++ [(laneOf th r, 2, th.val 1, (th.reg 1).2, 0)] }
    Runs s 2 tCur th ∧ CounterFree th no ∧ no.ok = true ∧ evenReg 2 = true ∧ Readable th [1, 2] ∧ Exist th [1, 3] ∧ ¬ 32 < r.width ∧ maskOk mask r.width (laneOf th r) = true ∧
    (∀ v ∈ (s.teamOf th).rdvs, conflictRow v (groupOf th r) tCur.addr mask (laneOf th r) = none) ∧
    (∀ k ∈ maskLanes mask, ∃ x, laneThread (s.setThread th) th r (groupOf th r) k = some x ∧ x.status ≠ .exited) ∧
    Exist th [4] ∧ (th.reg 1).2 = false ∧ all.lanes.length = (maskLanes mask).length ∧ (all.lanes.map (·.2.1)).Nodup ∧ ∀ x ∈ waiting.lanes, s.hasThread x.2.1 = true := by
  refine ⟨⟨rfl, rfl, rfl, by decide, rfl⟩, by unfold CounterFree; decide, by decide, by decide, by unfold Readable; decide, by unfold Exist; decide, by decide, by decide, by decide, ?_,
    by unfold Exist; decide, by decide, by decide, by decide, by decide⟩
  have h : maskLanes (readMask (tThread [0, 5, 3]) ((tPairUp [(1, 3, 7, false, 0)]).launchOfThread (tThread [0, 5, 3])).rcd.width 2) = [0, 1] := by decide
  intro k hk
  have hk' : k ∈ [0, 1] := h ▸ hk
  simp only [List.mem_cons, List.not_mem_nil, or_false] at hk'
  rcases hk' with rfl | rfl
  · exact ⟨tThread [0, 5, 3], by decide, by decide⟩
  · exact ⟨tLane1, by decide, by decide⟩
theorem witness_CrossLaneInstructions_first : let s := { tPairUp [] with threads := [tThread [0, 5, 3], { tLane1 with status := .ready }] }; let th := tThread [0, 5, 3]
    Runs s 2 tCur th ∧ s.hasTeam th.team = true ∧ ((s.teamOf th).rdvs.find? fun _ => true) = none ∧ [(0, 2, th.val 1, false, (0 : Word))].length < (maskLanes (readMask th (s.launchOfThread th).rcd.width 2)).length :=
  ⟨⟨rfl, rfl, rfl, by decide, rfl⟩, by decide, by decide, by decide⟩
theorem witness_CrossLaneInstructions_results : let l := tLanes [(0, 3), (63, 3)]
    (l.map (·.1)).Pairwise (· < ·) ∧ (∀ x ∈ l, x.1 < 64) ∧ l ≠ [] ∧ [3, 3].Perm (l.map (·.2.1)) := by
  refine ⟨by decide, by decide, by decide, ?_⟩; exact List.Perm.refl _

/-- Lanes with a lower member and the lowest one, lists of numbers with NaN, with infinities of both signs, of one, of none, and of NaN alone. -/
theorem witness_CrossLaneInstructions_reductions : (∃ y ∈ tLanes [(2, 3), (63, 3)], y.1 < 63) ∧ (∀ y ∈ tLanes [(2, 3), (63, 3)], 2 ≤ y.1) ∧ (64 ∈ [8, 16, 32, 64]) ∧
    (∃ y ∈ [(0x3F800000 : Word)], (2 : Nat) = 2 → valOf fp32 y.toNat ≠ .nan) ∧ (∀ y ∈ [(0x7FC00000 : Word)], valOf fp32 y.toNat = .nan) ∧ (∃ y ∈ [(0x7FC00000 : Word), 1], valOf fp32 y.toNat = .nan) ∧
    ((0x7F800000 : Word) ∈ [(0x7F800000 : Word), 0xFF800000] ∧ (0xFF800000 : Word) ∈ [(0x7F800000 : Word), 0xFF800000]) ∧
    (∀ p ∈ [[(0x7F800000 : Word), 1], [0xFF800000, 1], [1, 0x80000001], [0x80000000]], p ≠ [] ∧ ∀ y ∈ p, valOf fp32 y.toNat ≠ .nan) ∧
    (0xFF800000 : Word) ∉ [(0x7F800000 : Word), 1] ∧ (0x7F800000 : Word) ∉ [(0xFF800000 : Word), 1] ∧ (0x7F800000 : Word) ∉ [(1 : Word), 0x80000001] := by
  have a : valOf fp32 (0x7FC00000 : Word).toNat = .nan := by decide
  refine ⟨by decide, by decide, by decide, ⟨_, List.mem_singleton.mpr rfl, fun _ => by decide⟩, fun y hy => List.mem_singleton.mp hy ▸ a, ⟨_, List.mem_cons_self .., a⟩, by decide, ?_, by decide, by decide, by decide⟩
  intro p hp
  simp only [List.mem_cons, List.not_mem_nil, or_false] at hp
  rcases hp with rfl | rfl | rfl | rfl <;> refine ⟨by simp, fun y hy => ?_⟩ <;> simp only [List.mem_cons, List.not_mem_nil, or_false] at hy <;>
    rcases hy with rfl | rfl <;> decide

theorem witness_BarrierArrivals : let s := tState [0, 0, 17, 16, 1]; let th := tThread [0, 0, 17, 16, 1]; let r := (s.launchOfThread th).rcd
    Runs s 2 tCur th ∧ s.hasTeam th.team = true ∧ Readable th [(1 : Reg).toNat] ∧ (1 : BitVec 4).toNat < r.nbar ∧ r.nbar ≤ (15 : BitVec 4).toNat ∧ (th.val 1).toNat = 0 ∧ r.nthr < (th.val 2).toNat ∧
    (1 ≤ r.nthr ∧ r.nthr ≤ r.nthr ∧ (tget {} (s.teamOf th).bars 1).active = false ∧ (tget {} (s.teamOf th).bars 1).arrivals + 1 ≠ r.nthr) ∧ (th.val 3).toNat = r.nthr ∧
    (1 ≤ (th.val 4).toNat ∧ (tget {} (s.teamOf th).bars 1).arrivals + 1 = (th.val 4).toNat) :=
  ⟨⟨rfl, rfl, rfl, by decide, rfl⟩, by decide, by unfold Readable; decide, by decide, by decide, by decide, by decide, by decide, by decide, by decide⟩
theorem witness_BarrierArrivals_active : let s := { tState [0, 2] with teams := [{ tTeam with bars := [(1, ⟨true, 3, 1⟩)] }] }; let th := tThread [0, 2]
    Runs s 2 tCur th ∧ (1 ≤ (th.val 1).toNat ∧ (th.val 1).toNat ≤ (s.launchOfThread th).rcd.nthr) ∧ (tget {} (s.teamOf th).bars 1).active = true ∧ (tget {} (s.teamOf th).bars 1).target ≠ (th.val 1).toNat :=
  ⟨⟨rfl, rfl, rfl, by decide, rfl⟩, by decide, by decide, by decide⟩

/-- A machine whose core has the translation of the page at 0x40_0000_0000 to offset 0x10000. -/
def tMapped (rs : List Word) : State := { tState rs with cores := [(0, { tCore with tlb := [⟨0, 0x4000000000, 0, 0x10000, true, 0⟩] })] }
/-- A pair v2:v3 that points at the page's offset 8, v4 at scratch offset 0xFC. -/
def tPtr : List Word := [0, 9, 8, 0x40, 0xFC]
theorem tHits (w : Bool) (va off : Nat) (h : va = 0x4000000008 ∧ off = 0x10008 ∨ va = 0x400000000C ∧ off = 0x1000C) : Hits (tMapped tPtr) (tThread tPtr) w va off := by
  rcases h with ⟨rfl, rfl⟩ | ⟨rfl, rfl⟩ <;>
    exact ⟨by decide, ⟨⟨0, 0x4000000000, 0, 0x10000, true, 0⟩, by decide, fun _ => rfl, by decide⟩, by decide, by decide, by decide, by decide, rfl, fun _ _ => by simp [tThread], by decide⟩
theorem witness_LoadsComplete : let s := tMapped tPtr; let th := tThread tPtr; let g := memF 0 2; let m := memF 1 2
    Runs s 2 tCur th ∧ CounterFree th no ∧
    (Instr.wf (.ld m 9 4) = true ∧ Readable th (memAddrRegs m 4) ∧ Exist th (dataRegs 9 (memBytes m)) ∧ (pieces (memAddr m th 4) (memBytes m)).drop th.progress.done = [(0xFC, 4)] ∧
      memScr m = true ∧ memAddr m th 4 + memBytes m ≤ scratchLimit (s.launchOfThread th).rcd ∧ lockHolders s = []) ∧
    (Instr.wf (.ld g 9 2) = true ∧ Readable th (memAddrRegs g 2) ∧ (pieces (memAddr g th 2) (memBytes g)).drop th.progress.done = [(0x4000000008, 4)] ∧ memScr g = false ∧
      AllHit s th false (fun _ => 0x10008) (0x4000000008, 4) [] ∧ (∀ y ∈ pieces (memAddr g th 2) (memBytes g), canonical (BitVec.ofNat 64 y.1) = true) ∧
      wouldCheckpoint s th (BitVec.ofNat 64 (memAddr g th 2)) = false) ∧
    (Instr.wf (.ldt 0 0 9 0 0 0 no) = true ∧ (∀ e < 4, (th.val 0 + (0 : BitVec 11).signExtend 32 + BitVec.ofNat 32 e * th.val 0).toNat + 1 ≤ scratchLimit (s.launchOfThread th).rcd ∧ (th.val 0 + (0 : BitVec 11).signExtend 32 + BitVec.ofNat 32 e * th.val 0).toNat + 1 ≤ 2 ^ 32) ∧ Readable th [0, 0] ∧ Exist th (regsFrom 9 (4 * 1 / 4)) ∧
      ((List.range 4).flatMap fun e => pieces (th.val 0 + (0 : BitVec 11).signExtend 32 + BitVec.ofNat 32 e * th.val 0).toNat 1).drop th.progress.done = [(0, 1), (0, 1), (0, 1), (0, 1)]) :=
  ⟨⟨rfl, rfl, rfl, by decide, rfl⟩, by unfold CounterFree; decide, ⟨by decide, by unfold Readable; decide, by unfold Exist; decide, by decide, by decide, by decide, by decide⟩,
    ⟨by decide, by unfold Readable; decide, by decide, by decide, ⟨fun y hy => by simp only [List.mem_singleton] at hy; subst hy; exact tHits false _ _ (.inl ⟨rfl, rfl⟩), fun h => absurd rfl h⟩, by decide, by decide⟩,
    by decide, by decide, by unfold Readable; decide, by unfold Exist; decide, by decide⟩
/-- A doubleword at 4 modulo 8 has two pieces, each in the core's own cache (R114). -/
theorem witness_LoadsComplete_pieces : let rs : List Word := [0, 9, 8, 0x40, 0xFC]; let s := tMapped rs; let th := tThread rs; let g : Mem := { memF 0 4 with off := .imm 0 }
    (pieces (memAddr g th 2) (memBytes g)).length = 2 ∧ ∀ y ∈ pieces (memAddr g th 2) (memBytes g), (inCore s th.core (s.launchOfThread th).ctx (vaKey (BitVec.ofNat 64 y.1))).isSome = true := by decide
theorem witness_StoresComplete : let s := tMapped tPtr; let th := tThread tPtr; let g := memF 0 2; let m := memF 1 2
    Runs s 2 tCur th ∧ CounterFree th no ∧ (Instr.wf (.st m 4 1) = true ∧ Readable th (memAddrRegs m 4) ∧ Exist th (dataRegs 1 (memBytes m)) ∧
      (pieces (memAddr m th 4) (memBytes m)).drop th.progress.done = [(0xFC, 4)] ∧ memScr m = true ∧ s.hasTeam th.team = true ∧ memAddr m th 4 + memBytes m ≤ scratchLimit (s.launchOfThread th).rcd ∧
      lockHolders s = [] ∧ waitingSnapshots s = []) ∧
    (Instr.wf (.st g 2 1) = true ∧ Readable th (memAddrRegs g 2) ∧ (pieces (memAddr g th 2) (memBytes g)).drop th.progress.done = [(0x4000000008, 4)] ∧ memScr g = false ∧
      AllHit s th true (fun _ => 0x10008) (0x4000000008, 4) [] ∧ ∀ y ∈ pieces (memAddr g th 2) (memBytes g), canonical (BitVec.ofNat 64 y.1) = true) :=
  ⟨⟨rfl, rfl, rfl, by decide, rfl⟩, by unfold CounterFree; decide, ⟨by decide, by unfold Readable; decide, by unfold Exist; decide, by decide, by decide, by decide, by decide, by decide⟩,
    by decide, by unfold Readable; decide, by decide, by decide, ⟨fun y hy => by simp only [List.mem_singleton] at hy; subst hy; exact tHits true _ _ (.inl ⟨rfl, rfl⟩), fun h => absurd rfl h⟩, by decide⟩
theorem witness_AtomicsComplete : let s := tMapped tPtr; let th := tThread tPtr; let g := memF 0 2 false 7; let m := memF 1 2
    Runs s 2 tCur th ∧ CounterFree th no ∧ th.part = none ∧
    (memAddr m th 4 % memBytes m = 0 ∧ pieces (memAddr m th 4) (memBytes m) = [(memAddr m th 4, memBytes m)] ∧ Readable th (memAddrRegs m 4) ∧ Instr.wf (.atomf m 9 4 1) = true ∧
      Readable th (operandRegs (8 + m.opn.toNat) 4 1) ∧ Exist th (dataRegs 9 4) ∧ memScr m = true ∧ s.hasTeam th.team = true ∧ memAddr m th 4 + 4 ≤ scratchLimit (s.launchOfThread th).rcd ∧
      lockHolders s = [] ∧ waitingSnapshots s = [] ∧ (s.team th.team).anyPoison (memAddr m th 4) 4 = false) ∧
    (memAddr g th 2 % memBytes g = 0 ∧ pieces (memAddr g th 2) (memBytes g) = [(memAddr g th 2, memBytes g)] ∧ Instr.wf (.atom g 9 2 6) = true ∧ Readable th (operandRegs 7 4 6) ∧ memScr g = false ∧
      Hits s th true (memAddr g th 2) 0x10008 ∧ s.anyPoison 0x10008 4 = false) :=
  ⟨⟨rfl, rfl, rfl, by decide, rfl⟩, by unfold CounterFree; decide, by decide, ⟨by decide, by decide, by unfold Readable; decide, by decide, by unfold Readable; decide, by unfold Exist; decide, by decide, by decide,
    by decide, by decide, by decide⟩, by decide, by decide, by decide, by unfold Readable; decide, by decide, tHits true _ _ (.inl ⟨by decide, rfl⟩), by decide⟩

/-- RED on poison, in memory and in scratch (R435). -/
theorem witness_AtomicsComplete_red : let s := { tMapped tPtr with poison := [0x1000], teams := [{ tTeam with spois := [31] }] }; let th := tThread tPtr; let g := memF 0 2; let m := memF 1 2
    Instr.wf (.red g 2 1) = true ∧ Instr.wf (.red m 4 1) = true ∧ s.anyPoison 0x10008 4 = true ∧ (s.team th.team).anyPoison (memAddr m th 4) 4 = true ∧ s.hub.cxldn = [] := by decide

theorem witness_MemoryAccessTraps : let s := tMapped [0, 0x101, 2, 0x40, 0xFC, 0, 0, 0x80000000]; let th := tThread [0, 0x101, 2, 0x40, 0xFC, 0, 0, 0x80000000]; let g := memF 0 2; let m := memF 1 2
    Runs s 2 tCur th ∧ CounterFree th no ∧ th.part = none ∧ th.hold = none ∧ th.scoutEn = false ∧ Instr.wf (.red m 1 9) = true ∧ Readable th (memAddrRegs m 1 ++ dataRegs 9 4) ∧
    (List.range 4).find? (fun k => scratchLimit (s.launchOfThread th).rcd ≤ (memAddr m th 1 + k) % 2 ^ 32) = some 0 ∧
    (Instr.wf (.atom g 9 2 9) = true ∧ Readable th (memAddrRegs g 2 ++ operandRegs 0 4 9) ∧ Exist th (dataRegs 9 4) ∧ memScr g = false ∧ memAddr g th 2 % 4 ≠ 0) ∧
    (Instr.wf (.ld g 9 6) = true ∧ Readable th (memAddrRegs g 6) ∧ canonical (BitVec.ofNat 64 (memAddr g th 6)) = false) :=
  ⟨⟨rfl, rfl, rfl, by decide, rfl⟩, by unfold CounterFree; decide, by decide, by decide, by decide, by decide, by unfold Readable; decide, by decide,
    ⟨by decide, by unfold Readable; decide, by unfold Exist; decide, by decide, by decide⟩, by decide, by unfold Readable; decide, by decide⟩
theorem witness_MemoryAccessTraps_strict : let s := { tState tPtr with launches := [{ tLaunch with rcd := { tLaunch.rcd with strict := true } }] }; let th := tThread tPtr; let g := memF 0 2
    Runs s 2 tCur th ∧ Instr.wf (.ld g 9 2) = true ∧ Readable th (memAddrRegs g 2) ∧ memScr g = false ∧ pieces (memAddr g th 2) 4 = [(memAddr g th 2, 4)] ∧ canonical (BitVec.ofNat 64 (memAddr g th 2)) = true ∧
    (s.launchOfThread th).rcd.strict = true ∧ (∀ x ∈ s.teams, x.log = []) ∧ findXlate s th.core (s.launchOfThread th).ctx (vaKey (BitVec.ofNat 64 (memAddr g th 2))) = none :=
  ⟨⟨rfl, rfl, rfl, by decide, rfl⟩, by decide, by unfold Readable; decide, by decide, by decide, by decide, by decide, by decide, by decide⟩
/-- A running copy from scratch to scratch of 32 words at 0 to 0x80, its locks held (R117). -/
def tCopy : Copy := { team := 1, shape := { ctrl := 0x064000AA, cnt := [32, 1, 1, 1, 1, 1], sstr := [4, 0, 0, 0, 0, 0], dstr := [4, 0, 0, 0, 0, 0] }, src := 0, dst := 0x80, phase := .running }
theorem witness_MemoryAccessTraps_scratch : let s := { tState [0, 0x80] with cores := [(0, { tCore with tags := [(5, { team := 1, copy := some tCopy })] })], teams := [{ tTeam with spois := [16] }] }
    let s' := { tState [0, 0x80] with teams := [{ tTeam with spois := [16] }] }; let th := tThread [0, 0x80]; let m := memF 1 2
    Runs s 2 tCur th ∧ Instr.wf (.ld m 9 1) = true ∧ memScr m = true ∧ pieces (memAddr m th 1) 4 = [(memAddr m th 1, 4)] ∧
    (∃ kind, locksHit s ((List.range 4).map fun k => .scr (s.team 1).uid (memAddr m th 1 + k)) false = some (0, .conflict 0 5 kind)) ∧
    Runs s' 2 tCur th ∧ locksHit s' ((List.range 4).map fun k => .scr (s'.team 1).uid (memAddr m th 1 + k)) true = none ∧ (s'.team 1).anyPoison (memAddr m th 1) 4 = true ∧ Instr.atom m 9 1 9 ≠ .red m 1 9 :=
  ⟨⟨rfl, rfl, rfl, by decide, rfl⟩, by decide, by decide, by decide, ⟨_, rfl⟩, ⟨rfl, rfl, rfl, by decide, rfl⟩, by decide, by decide, by decide⟩

theorem witness_MonitorPrefetchAndFence : let s := tMapped tPtr; let th := tThread tPtr; let g := memF 0 2; let m := memF 1 2; let p := memF 0 0
    Runs s 2 tCur th ∧ CounterFree th no ∧ Readable th (memAddrRegs m 4) ∧ (Instr.wf (.monw m 9 4 1) = true ∧ th.part = none ∧ memAddr m th 4 % 4 = 0 ∧ pieces (memAddr m th 4) 4 = [(memAddr m th 4, 4)] ∧
      Readable th (dataRegs 1 4) ∧ Exist th (dataRegs 9 4) ∧ memScr m = true ∧ memAddr m th 4 + 4 ≤ scratchLimit (s.launchOfThread th).rcd ∧ lockHolders s = [] ∧ (s.team th.team).anyPoison (memAddr m th 4) 4 = false) ∧
    (Instr.wf (.monw g 9 2 1) = true ∧ memScr g = false ∧ Hits s th false (memAddr g th 2) 0x10008 ∧ s.anyPoison 0x10008 4 = false) ∧ (Instr.wf (.pref p 2) = true ∧ canonical (BitVec.ofNat 64 (memAddr p th 2)) = true) ∧
    Exist th [9] ∧ threadReqs s 2 (fun _ _ => true) = [] ∧ ownLogged s th = false ∧ hostPending s th = false ∧ s.walks = [] ∧ s.flips = [] ∧ (findXlate s th.core (s.launchOfThread th).ctx (vaKey (BitVec.ofNat 64 (memAddr p th 2)))).isSome = true :=
  ⟨⟨rfl, rfl, rfl, by decide, rfl⟩, by unfold CounterFree; decide, by unfold Readable; decide, ⟨by decide, by decide, by decide, by decide, by unfold Readable; decide, by unfold Exist; decide, by decide, by decide, by decide, by decide⟩,
    ⟨by decide, by decide, tHits false _ _ (.inl ⟨by decide, rfl⟩), by decide⟩, ⟨by decide, by decide⟩, by unfold Exist; decide, by decide, by decide⟩
/-- 256 walks run on the die, none of this page; a thread's own store is logged. -/
theorem witness_MonitorPrefetchAndFence_full : let s := { tState tPtr with walks := List.replicate 256 ⟨0, 1, 5, []⟩ }; let th := tThread tPtr; let va := BitVec.ofNat 64 (memAddr (memF 0 0) th 2)
    Runs s 2 tCur th ∧ canonical va = true ∧ (∀ x ∈ s.teams, x.log = []) ∧ (s.launchOfThread th).rcd.strict = false ∧ findXlate s th.core (s.launchOfThread th).ctx (vaKey va) = none ∧ 256 ≤ (running s (dieOf th.core)).length ∧
    (∀ w ∈ running s (dieOf th.core), w.is (dieOf th.core) (s.launchOfThread th).ctx (faultPage va) = false) ∧ (running (tState tPtr) (dieOf th.core)).length < 256 := by
  have h : running { tState tPtr with walks := List.replicate 256 ⟨0, 1, 5, []⟩ } (dieOf (tThread tPtr).core) = List.replicate 256 ⟨0, 1, 5, []⟩ := by rfl
  refine ⟨⟨rfl, rfl, rfl, by decide, rfl⟩, by decide, by decide, by decide, by decide, ?_, ?_, by decide⟩
  · show 256 ≤ (running _ _).length
    rw [h, List.length_replicate]
  · intro w hw
    have hw' : w ∈ running { tState tPtr with walks := List.replicate 256 ⟨0, 1, 5, []⟩ } (dieOf (tThread tPtr).core) := hw
    rw [h] at hw'
    rw [List.eq_of_mem_replicate hw']
    decide
/-- A store to chip 9 that waits for its acknowledgement, host stores that wait, an address that is not canonical, a MONW that waits. -/
def tPacket : Packet := ⟨2, 16, 31, 0, 0, 0, 9, 4, 0, 0x10000, 0, [1, 2, 3, 4]⟩
theorem witness_MonitorPrefetchAndFence_waits : let f := fun t : Thread => { t with hostOut := 1 }; let rs : List Word := [0, 0, 0, 0x80000000]
    let s := { tUp rs f with lanes := [⟨9, 0, 5, [⟨tPacket, 0, 0, false, false, 0, 2⟩]⟩] }; let th := f (tThread rs); let w := tUp rs fun t => { t with status := .waiting .monw }
    Runs s 2 tCur th ∧ threadReqs s 2 (fun _ _ => true) ≠ [] ∧ hostPending s th = true ∧ canonical (BitVec.ofNat 64 (memAddr (memF 0 0) th 2)) = false ∧ w.hasThread 2 = true ∧ (w.thread 2).status = .waiting .monw ∧ (w.teamOf (w.thread 2)).place = .resident ∧
    ownLogged { s with teams := [{ tTeam with log := [⟨0, 0, 0x4000000008, [1], false, 2, .store⟩] }] } th = true :=
  ⟨⟨rfl, rfl, rfl, by decide, rfl⟩, by decide, by decide, by decide, by decide, by decide, by decide, by decide⟩

/-! ### Matrix operations and copies -/

/-- A launch of 128 threads on one core with two accumulator units, its core, and thread 2 in row 0. -/
def mLaunch : Launch := { tLaunch with rcd := { tLaunch.rcd with groups := 8, scratch := 32768, pb2 := 9, pb3 := 13 } }
def mCore : Core := { pb := (1, 9, 13) }
def mState (rs : List Word) (v : Conv) : State := { tState rs with launches := [mLaunch], teams := [{ tTeam with convs := [(1, v)] }], cores := [(0, mCore)] }
/-- v1 a valid configuration, v2 one beyond the rows, v3 N = 16, v4:v5 and v6:v7 descriptors. -/
def mRegs : List Word := [0, 0, 1, 16, 0, 0x00100000, 0, 0, 3]
theorem witness_MatrixRegistersAndWaits : let s := mState mRegs {}; let th := tThread mRegs; let r := (s.launchOfThread th).rcd; let v := tget {} (s.team th.team).convs 1
    Runs s 2 tCur th ∧ CounterFree th no ∧ no.ok = true ∧ s.hasTeam th.team = true ∧ r.nconv ≤ (2 : BitVec 3).toNat ∧ (1 : BitVec 3).toNat < r.nconv ∧ Readable th [1] ∧ Readable th [2] ∧
    (bits (th.val 1).toNat 31 1 ≠ 1 ∧ (bits (th.val 1).toNat 0 11 + 128 ≤ r.nthr ∧ (r.pair = true → r.nthr / 2 ≤ bits (th.val 1).toNat 0 11 ∨ bits (th.val 1).toNat 0 11 + 128 ≤ r.nthr / 2)) ∧ v.signs = []) ∧
    ¬ bits (th.val 2).toNat 0 11 + 128 ≤ r.nthr ∧ signedOn s th 1 = false :=
  ⟨⟨rfl, rfl, rfl, by decide, rfl⟩, by unfold CounterFree; decide, by decide, by decide, by decide, by decide, by unfold Readable; decide, by unfold Readable; decide, ⟨by decide, by decide, by decide⟩, by decide, by decide⟩
def mSign (row thread : Nat) : Sign := ⟨row, thread, 0x104, [], (0, false), 7⟩
theorem witness_MatrixRegistersAndWaits_gathering : let s := mState mRegs { configured := true, pair := true, signs := [mSign 3 2] }; let th := tThread mRegs; let v := tget {} (s.team th.team).convs 1
    Runs s 2 tCur th ∧ ¬ (v.configured = true ∧ v.pair = false ∧ v.base = 0) ∧ v.signs ≠ [] ∧ signedOn s th 1 = true :=
  ⟨⟨rfl, rfl, rfl, by decide, rfl⟩, by decide, by decide, by decide⟩

/-- The form of an INT8 operation of N = 16 at unit 0, B at scratch offset 0 with pitch 16 bytes. -/
def mForm : MatForm := { af := 4, bf := 4, n := 16, db := 0x0000000000100000 }
def mOp : Instr := .mma 4 4 false 1 0 16 6 3 no
theorem witness_MatrixSignatures (signs : List Sign) (form : Option MatForm) (ok : signs = [] ∧ form = none ∨ signs = (List.range 127).map (fun k => mSign (k + 1) (k + 3)) ∧ form = some { mForm with db := 0 }) :
    let s := mState mRegs { configured := true, form := form, signs := signs }; let th := tThread mRegs; let v := tget {} (s.team th.team).convs 1
    let f : MatForm := { scaled := false, af := 4, bf := 4, as := false, n := matN (th.val 3), unit := unitIn (th.val 0), da := 0, db := descKey (th.pair 6), bscale := 0 }
    Runs s 2 tCur th ∧ CounterFree th no ∧ s.hasTeam th.team = true ∧ Instr.wf mOp = true ∧ (1 : BitVec 3).toNat < (s.launchOfThread th).rcd.nconv ∧ Readable th ([0, 3] ++ [] ++ pairRegs 6 ++ []) ∧
    Exist th ([] ++ aRegs false 4 16) ∧ matNOk (matN (th.val 3)) = true ∧ bits (hiWord (th.pair 6)).toNat 28 3 ≠ 7 ∧ v.configured = true ∧ v.base ≤ th.tid ∧ th.tid < v.base + 128 ∧
    (∀ y, v.form = some y → y = f) ∧ (∀ y ∈ v.signs, y.row ≠ th.tid - v.base) ∧ (∀ o ∈ operandOffs f 128, o < scratchLimit (s.launchOfThread th).rcd) ∧ f.unit + unitsOf f.n ≤ accUnits (s.core th.core) ∧
    (v.signs.length + 1 < 128 ∨ 128 ≤ v.signs.length + 1) := by
  rcases ok with ⟨rfl, rfl⟩ | ⟨rfl, rfl⟩ <;>
    exact ⟨⟨rfl, rfl, rfl, by decide, rfl⟩, by unfold CounterFree; decide, by decide, by decide, by decide, by unfold Readable; decide, by unfold Exist; decide, by decide, by decide, by decide, by decide, by decide,
      by intro y h; first | (have := h.symm; cases this; decide) | (cases h), by decide, by decide, by decide, by decide⟩
theorem witness_MatrixSignatures_traps : let s := mState mRegs {}; let s3 := mState mRegs { configured := true, base := 1 }; let s1 := mState mRegs { configured := true, form := some mForm }
    let s2 := mState mRegs { configured := true, signs := [mSign 0 2] }; let th := tThread mRegs; let v := fun s : State => tget {} (s.team th.team).convs 1
    (v s).configured = false ∧ ((v s3).configured = true ∧ th.tid < (v s3).base) ∧ ((v s1).configured = true ∧ ∃ y, (v s1).form = some y ∧ y ≠ { mForm with db := 0 }) ∧
    ((v s2).configured = true ∧ (∀ y, (v s2).form = some y → y = { mForm with db := 0 }) ∧ ∃ y ∈ (v s2).signs, y.row = th.tid - (v s2).base) :=
  ⟨by decide, ⟨by decide, by decide⟩, ⟨by decide, mForm, by decide, by decide⟩, by decide, (fun y h => by cases h), mSign 0 2, by decide, by decide⟩

theorem witness_AccumulatorAccesses : let s := mState mRegs {}; let th := tThread mRegs
    Runs s 2 tCur th ∧ CounterFree th no ∧ s.hasTeam th.team = true ∧ Readable th [0, 1] ∧ (bits (th.val 1).toNat 16 16 % nOf 2 = 0 ∧ unitIn (th.val 0) + bits (th.val 1).toNat 16 16 / 128 < accUnits (s.core th.core)) ∧
    Instr.wf (.mrd 2 9 0 1 no) = true ∧ (∀ w ∈ th.window, w.tok = s.nextUid + 2 → w.ready = true) ∧ Exist th (regsFrom 9 (nOf 2)) ∧ (s.core th.core).anvil = [] ∧
    Instr.wf (.mwr 2 0 1 9 no) = true ∧ (Instr.wf (.mst 1 false 2 0 8 (.imm 0) 1 no) = true ∧ Readable th [8] ∧ lockHolders s = [] ∧ waitingSnapshots s = [] ∧ (th.val 8 + (offValue (.imm 0)).setWidth 32).toNat + nOf 2 * mstBytes 1 ≤ 2 ^ 32 ∧ (th.val 8 + (offValue (.imm 0)).setWidth 32).toNat + nOf 2 * mstBytes 1 ≤ scratchLimit (s.launchOfThread th).rcd) ∧
    (matNOk (matN (th.val 3)) = true ∧ unitIn (th.val 0) + unitsOf (matN (th.val 3)) ≤ accUnits (s.core th.core) ∧ Instr.wf (.mzero 0 3 no) = true ∧ (s.launchOfThread th).rcd.dup = false) :=
  ⟨⟨rfl, rfl, rfl, by decide, rfl⟩, by unfold CounterFree; decide, by decide, by unfold Readable; decide, ⟨by decide, by decide⟩, by decide, by decide, by unfold Exist; decide, by decide, by decide,
    ⟨by decide, by unfold Readable; decide, by decide, by decide⟩, by decide, by decide, by decide, by decide⟩
/-- v9 names column 1, v10 the first column beyond the region, and an operation on the unit stands in the queue. -/
theorem witness_AccumulatorAccesses_queue_and_traps : let rs := mRegs ++ [0x10000, 0x1000000]; let o : MatOp := { team := 1, form := mForm }
    let s := { mState rs {} with cores := [(0, { mCore with anvil := [.op o] })] }; let th := tThread rs
    Runs s 2 tCur th ∧ ((s.core th.core).anvil = [.op o] ∧ overlap (o.form.unit, unitsOf o.form.n) (unitIn (th.val 0) + 0, 1) = true) ∧ bits (th.val 9).toNat 16 16 % nOf 2 ≠ 0 ∧
    (bits (th.val 10).toNat 16 16 % nOf 2 = 0 ∧ accUnits (s.core th.core) ≤ unitIn (th.val 0) + bits (th.val 10).toNat 16 16 / 128) :=
  ⟨⟨rfl, rfl, rfl, by decide, rfl⟩, ⟨by decide, by decide⟩, by decide, by decide, by decide⟩
/-- Leading zeros do not change the checksum of R149. -/
theorem crc_zeros (l r : List Byte) (h : ∀ b ∈ l, b = 0) : crc64 (l ++ r) = crc64 r := by
  induction l with
  | nil => rfl
  | cons b t ih =>
    have hb : b = 0 := h b (by simp)
    subst hb
    rw [← ih fun b hb => h b (by simp [hb])]
    rfl
theorem crc_marks (tm : Team) (half : Nat) (h : tm.acc = []) : tileCrc tm half 0 16 = crc64 ((List.range 16).map (fun b =>
    BitVec.ofNat 8 ((List.range 8).foldl (fun r i => if nmem tm.rmark (markKey half 0 (8 * b + i)) then r + 2 ^ i else r) 0)) ++ (List.range 16).map fun b =>
    BitVec.ofNat 8 ((List.range 8).foldl (fun r i => if nmem tm.cmark (markKey half 0 (8 * b + i)) then r + 2 ^ i else r) 0)) := by
  unfold tileCrc
  simp only []
  rw [crc_zeros]
  · rfl
  · intro b hb
    simp only [Team.accAt, h, tget, List.mem_flatMap, List.mem_range] at hb
    obtain ⟨i, -, j, -, hb⟩ := hb
    have : bytesOf (0 : Word).toNat 4 = [0, 0, 0, 0] := by decide
    rw [this] at hb
    simpa using hb
theorem witness_AccumulatorAccesses_duplicates : let d := fun marks : List Nat => { mState mRegs {} with launches := [{ mLaunch with rcd := { mLaunch.rcd with dup := true, pair := true } }], teams := [{ tTeam with cmark := marks }] }
    ((d []).launchOfThread (tThread mRegs)).rcd.dup = true ∧ tileCrc ((d []).team 1) 0 0 16 = tileCrc ((d []).team 1) 1 0 16 ∧ tileCrc ((d [127]).team 1) 0 0 16 ≠ tileCrc ((d [127]).team 1) 1 0 16 := by
  refine ⟨by decide, ?_, ?_⟩
  · rw [crc_marks _ _ rfl, crc_marks _ _ rfl]; decide
  · rw [crc_marks _ _ rfl, crc_marks _ _ rfl]; decide

theorem witness_MatrixOperationsRun : let at_ := fun p : MatPhase => ({ team := 1, conv := 1, form := mForm, signs := [mSign 0 2, mSign 1 3], phase := p } : MatOp)
    let s := fun p => { mState mRegs {} with cores := [(0, { mCore with anvil := [.op (at_ p)] })], threads := [tThread mRegs, { tThread mRegs with uid := 3, tid := 1, status := .waiting (.matrix 1) }] }
    let two := { s .issued with cores := [(0, { mCore with anvil := [.op (at_ .compute), .op { at_ .issued with conv := 0 }] })] }
    (firstOp (s .issued) 0 = some (at_ .issued) ∧ (s .issued).hasTeam (at_ .issued).team = true ∧ (at_ .issued).form.unit < 64 ∧ (∀ k ∈ opCores (s .issued) ((s .issued).team 1) false 0, firstOp (s .issued) k = some (at_ .issued) ∧ ∀ x ∈ ((s .issued).core k).anvil, x = .op (at_ .issued)) ∧
      lockHolders (s .issued) = [] ∧ (at_ .issued).read = false) ∧ (let done := { at_ .operands with steps := 4 }; let r := { s .issued with cores := [(0, { mCore with anvil := [.op done] })] }
      firstOp r 0 = some done ∧ done.phase ≠ .compute ∧ done.read = true ∧ ∀ x ∈ (r.core 0).anvil, x = .op done) ∧
    (coreOps two 0 = at_ .compute :: { at_ .issued with conv := 0 } :: [] ∧ ({ at_ .issued with conv := 0 } : MatOp).read = false ∧ lockHolders two = [] ∧
      ∀ k ∈ opCores two (two.team 1) false 0, { at_ .issued with conv := 0 } ∈ (coreOps two k).take 2 ∧ ∀ x ∈ (two.core k).anvil, x = .op (at_ .compute) ∨ x = .op { at_ .issued with conv := 0 }) ∧
    (firstOp (s .compute) 0 = some (at_ .compute) ∧ matNOk (at_ .compute).form.n = true ∧
      (∀ k ∈ ((s .compute).team 1).core :: (((s .compute).team 1).core + 1) :: opCores (s .compute) ((s .compute).team 1) false 0, ((s .compute).core k).anvil = if k ∈ opCores (s .compute) ((s .compute).team 1) false 0 then [.op (at_ .compute)] else []) ∧
      ((at_ .compute).signs.map (·.thread)).Nodup ∧ (∀ g ∈ (at_ .compute).signs, (s .compute).hasThread g.thread = true) ∧ ((s .compute).thread 2).status = .ready ∧ (tget {} ((s .compute).team 1).convs (at_ .compute).conv).signs = [] ∧
      ((s .compute).thread 3).team = (at_ .compute).team ∧ ((s .compute).thread 3).status = .waiting (.matrix (at_ .compute).conv)) := by
  refine ⟨⟨?_, ?_, ?_, ?_, ?_, ?_⟩, ⟨?_, ?_, ?_, ?_⟩, ⟨?_, ?_, ?_, ?_⟩, ?_, ?_, ?_, ?_, ?_, ?_, ?_, ?_, ?_⟩ <;> decide
theorem witness_MatrixOperationsRun_trap : let s := tUp [] fun t => { t with defer := [(0x104, 3)], status := .waiting (.matrix 1), mid := none }
    let r := tUp [] fun t => { t with defer := [(0x104, 3)], mid := none }
    (s.hasThread 2 = true ∧ (s.thread 2).defer = [(0x104, 3)] ∧ (s.teamOf (s.thread 2)).place = .resident ∧ (s.thread 2).status = .waiting (.matrix 1) ∧ (s.thread 2).hnd = false ∧ (s.thread 2).scout = none) ∧
    ((r.thread 2).defer = [(0x104, 3)] ∧ (r.teamOf (r.thread 2)).place = .resident ∧ (r.thread 2).status = .ready ∧ (r.thread 2).mid = none ∧ (r.thread 2).hnd = false ∧ (r.thread 2).scout = none) := by decide
theorem witness_AnvilElements : mForm.af = 4 ∧ [Val.zero true, Val.inf true].Perm [Val.inf true, Val.zero true] ∧ Val.nan ∈ [valOf fp32 (0x7FC00000 : Word).toNat] ∧
    (let vs := [valOf fp32 (0 : Word).toNat, Val.inf false]; Val.nan ∉ vs ∧ Val.inf true ∉ vs ∧ Val.inf false ∈ vs) ∧ (let vs := [valOf fp32 (0 : Word).toNat, Val.inf true]; Val.nan ∉ vs ∧ Val.inf false ∉ vs ∧ Val.inf true ∈ vs) ∧
    (∀ p ∈ [Val.zero true], ∃ n, p = Val.zero n) ∧ (∀ n, valOf fp32 (1 : Word).toNat ≠ .inf n) ∧ valOf fp32 (1 : Word).toNat ≠ .nan :=
  ⟨rfl, List.Perm.swap .., by decide, by decide, by decide, by simp, by decide, by decide⟩

/-- v2:v3 a mask of tag 63, v4:v5 one of tag 0, v6:v7 an empty one. -/
def gRegs : List Word := [0, 0, 0, 0x80000000, 1]
def gState (l : List (Nat × Tag)) (cgrp : Nat) : State := { tState gRegs with launches := [{ tLaunch with rcd := { tLaunch.rcd with cgrp := cgrp } }], cores := [(0, { tCore with tags := l })] }
theorem witness_TagInstructions : let s := gState [(63, { team := 1, done := true }), (0, { team := 1 })] 0; let th := tThread gRegs; let r := (s.launchOfThread th).rcd; let tm := s.team th.team
    Runs s 2 tCur th ∧ CounterFree th no ∧ no.ok = true ∧ evenReg 2 = true ∧ Readable th (pairRegs 2) ∧ Readable th (pairRegs 4) ∧ Exist th [9] ∧
    (lowestTag (th.pair 2) fun k => !(ownedBy s (copyCore tm r) k th.team)) = none ∧ (true = true ∧ th.pair 2 &&& tagMask s tm (·.done) ≠ 0) ∧
    ¬ (th.pair 4 = 0 ∨ (true = true ∧ th.pair 4 &&& tagMask s tm (·.done) ≠ 0) ∨ (true = false ∧ th.pair 4 &&& tagMask s tm (·.done) = th.pair 4)) ∧
    groupOf th r = r.cgrp ∧ (lowestTag (th.pair 2) fun k => ownedBy s th.core k th.team && !(s.tag th.core k).done) = none ∧
    (lowestTag (th.pair 4) fun k => ownedBy s th.core k th.team && !(s.tag th.core k).done) = some 0 ∧
    (let s1 := gState [] 1; Runs s1 2 tCur th ∧ (lowestTag (th.pair 2) fun k => !(ownedBy s1 (copyCore tm r) k th.team)) = some 63 ∧ groupOf th (s1.launchOfThread th).rcd ≠ (s1.launchOfThread th).rcd.cgrp) :=
  ⟨⟨rfl, rfl, rfl, by decide, rfl⟩, by unfold CounterFree; decide, by decide, by decide, by unfold Readable; decide, by unfold Readable; decide, by unfold Exist; decide, by decide, by decide, by decide, by decide, by decide, by decide,
    ⟨rfl, rfl, rfl, by decide, rfl⟩, by decide, by decide⟩

/-- A shape record: scratch to scratch, 4-byte integers, one counter. -/
def shapeBytes (ctrl cnt str : Nat) : List Byte :=
  bytesOf ctrl 4 ++ List.replicate 28 0 ++ (bytesOf cnt 4 ++ List.replicate 4 0 ++ bytesOf str 8 ++ bytesOf str 8) ++ (List.replicate 5 (bytesOf 1 4 ++ List.replicate 20 0)).flatten ++ List.replicate 16 0
/-- v2:v3 the record's address, v4:v5 the source, v6:v7 the destination 0x80. -/
def cRegs : List Word := [0, 0, 0x40, 0, 0, 0, 0x80]
def cState (ctrl cnt : Nat) (tags : List (Nat × Tag)) (cgrp : Nat := 0) : State :=
  { tState cRegs with launches := [{ tLaunch with rcd := { tLaunch.rcd with cgrp := cgrp } }], cores := [(0, { tCore with rcache := [(0, 0x40, shapeBytes ctrl cnt 4)], tags := tags })] }
/-- What CopyIssue asks of every copy that reaches its checks. -/
abbrev issueHyps (s : State) : Prop := let th := tThread cRegs; let l := s.launchOfThread th; let core := s.core th.core
  th.status = .ready ∧ Instr.wf (.cpy 63 6 2 4 no) = true ∧ groupOf th l.rcd = l.rcd.cgrp ∧ owned s th.core 63 = false ∧ (th.pair 2).toNat % 64 = 0 ∧
  (core.rcache.find? fun x => x.1 == l.ctx && x.2.1 == th.pair 2).isSome = true ∧ ((s.core 0).anvil = [] ∧ (s.core 1).anvil = []) ∧ s.cwords = []
abbrev issueCopy (ctrl cnt : Nat) : Copy := { team := 1, shape := parseShape (shapeBytes ctrl cnt 4), src := 0, dst := 0x80 }
theorem witness_CopyIssue : let s := cState 0x064000AA 32 []; let y := issueCopy 0x064000AA 32; let q := cState 0x064000AA 32 [(0, { team := 1, copy := some { tCopy with phase := .queued } })]
    Runs s 2 tCur (tThread cRegs) ∧ Readable (tThread cRegs) (pairRegs 2 ++ pairRegs 4 ++ pairRegs 6) ∧
    (issueHyps s ∧ issueStatus (scratchLimit (s.launchOfThread (tThread cRegs)).rcd) 0x40 y = 0 ∧ y.shape.count ≠ 0 ∧ hasRoom s 0 y = true ∧ queued s 0 = [] ∧ noConflict s 0 y = true ∧
      (farChips s 0 y).1 = [] ∧ y.shape.path = 0x40 ∧ (tThread cRegs).cpyTag = none) ∧ (issueHyps q ∧ hasRoom q 0 y = true ∧ queued q 0 ≠ []) :=
  ⟨⟨rfl, rfl, rfl, by decide, rfl⟩, by unfold Readable; decide, by decide, by decide⟩
/-- A copy already issued, its tag pending, with and without room; a snapshot; a slice that is full. -/
theorem witness_CopyIssue_room : let th : Thread := { tThread cRegs with cpyTag := some 63 }; let y := issueCopy 0x064000AA 32
    let at_ := fun (p : CopyPhase) (tags : List (Nat × Tag)) => { cState 0x064000AA 32 ((63, { team := 1, copy := some { y with phase := p } }) :: tags) with threads := [th] }
    (Runs (at_ .running []) 2 tCur th ∧ th.cpyTag = some 63 ∧ lacksRoom (at_ .running []) 0 63 = false) ∧ lacksRoom (at_ .queued []) 0 63 = false ∧
    ((issueCopy 0x064080AA 32).shape.snapshot = true ∧ ∀ x ∈ lockHolders (cState 0x064080AA 32 []), x.2.2.old = []) :=
  ⟨⟨⟨rfl, rfl, rfl, by decide, rfl⟩, by decide, by decide⟩, by decide, by decide, by decide⟩
/-- A copy whose source line's slice has all its 256 entries taken by other chips' copies. -/
theorem witness_CopyIssue_full : let y := issueCopy 0x044000AA 32; let y : Copy := { y with src := 0x4000000000 }; let f : FarLock := ⟨9, 0, 3, 1, 0x10000, 128, true⟩
    let s := { cState 0x044000AA 32 [(63, { team := 1, copy := some { y with phase := .queued } })] with pinned := [⟨0, 0x4000000000, 0, 0x10000, true, 1⟩], farLocks := List.replicate 256 f }
    y.shape.ssp = false ∧ issueStatus 256 0x40 y = 0 ∧ y.shape.count ≠ 0 ∧ hasRoom s 0 y = false ∧ lacksRoom s 0 63 = true := by decide +kernel
theorem witness_CopyIssue_others : let z := cState 0x064000AA 0 []; let e := cState 0x064000AA 0 [(0, { team := 1, copy := some tCopy })]; let b := cState 0x064001AA 32 []
    (issueHyps z ∧ issueStatus 256 0x40 (issueCopy 0x064000AA 0) = 0 ∧ (issueCopy 0x064000AA 0).shape.count = 0 ∧ (issueCopy 0x064000AA 0).shape.cwe = false) ∧ (issueHyps e ∧ (e.core 0).tags.any (fun x => x.2.copy.isSome) = true) ∧
    (issueHyps b ∧ issueStatus 256 0x40 (issueCopy 0x064001AA 32) ≠ 0 ∧ (issueCopy 0x064001AA 32).shape.cwe = false) ∧
    (groupOf (tThread cRegs) ((cState 0 0 [] 1).launchOfThread (tThread cRegs)).rcd ≠ 1) ∧ ownedBy (cState 0 0 [(63, { team := 1 })]) 0 63 1 = true ∧
    (ownedBy (cState 0 0 [(63, { team := 9 })]) 0 63 1 = false ∧ owned (cState 0 0 [(63, { team := 9 })]) 0 63 = true) := by decide

/-- Machines with tag 5 of core 0 on one copy; a thread waits for the tag. -/
def kState (y : Copy) : State :=
  { tUp [] (fun t => { t with status := .waiting (.tags true 0x20 0) }) with cores := [(0, { tCore with tags := [(5, { team := 1, copy := some y })] })], pinned := [⟨0, 0x4000000000, 0, 0x10000, true, 1⟩] }
theorem witness_CopyCompletion : let y : Copy := { tCopy with cursor := 1 }; let z : Copy := { tCopy with phase := .zero }
    (((kState tCopy).tag 0 5).copy = some tCopy ∧ tCopy.cursor < tCopy.shape.chunks) ∧ (((kState z).tag 0 5).copy = some z ∧ (((kState z).core 0).tags.any fun x => x.2.copy.any fun d => d.serial < z.serial) = false ∧ z.phase = .zero) ∧
    (((kState y).tag 0 5).copy = some y ∧ (∀ n ∈ [0, 1], ((kState y).core n).anvil = []) ∧ (kState y).cwords = [] ∧ y.flight = none ∧ y.phase = .running ∧ y.shape.chunks ≤ y.cursor ∧ y.shape.cwe = false ∧
      ((kState { y with phase := .ended 9 }).tag 0 5).copy = some { y with phase := .ended 9 } ∧ ((kState { y with phase := .failed 9 }).tag 0 5).copy = some { y with phase := .failed 9 } ∧ { y with flight := some 0 }.flight ≠ none ∧ (kState y).hasThread 2 = true ∧ ((kState y).thread 2).status = .waiting (.tags true 0x20 0) ∧ (0x20#64).getLsbD 5 = true) := by decide
theorem witness_CopyCompletion_word : let y : Copy := { tCopy with cursor := 1, shape := { tCopy.shape with ctrl := 0x074000AA, cwa := 0x4000000008 } }; let s := kState y
    y.shape.cwe = true ∧ y.shape.chunks ≤ y.cursor ∧ y.shape.cwa.toNat % 8 = 0 ∧ canonical y.shape.cwa = true ∧ (∀ x ∈ s.teams, x.log = []) ∧ s.hub.cxldn = [] ∧
    lockHolders (s.setTag 0 5 { s.tag 0 5 with done := true, copy := none }) = [] ∧ s.farLocks = [] ∧ waitingSnapshots s = [] ∧
    findXlate s 0 y.ctx (vaKey y.shape.cwa) = some ⟨0, 0x4000000000, 0, 0x10000, true, 1⟩ ∧ hostBias s 0x10008 = false ∧
    spotOf s (Xlate.phys ⟨0, 0x4000000000, 0, 0x10000, true, 1⟩ (vaKey y.shape.cwa)) = some (.mem 0x10008) ∧ flipping s 0x10008 = false := by decide

theorem witness_CopyChunksMoveElements : let s := kState tCopy; let y := tCopy; let h := y.shape
    let ns := ((List.range h.perChunk).map (y.cursor * h.perChunk + ·)).filter (· < h.count)
    (s.tag 0 5).copy = some y ∧ y.phase = .running ∧ h.ssp = true ∧ h.dsp = true ∧ y.aside = [] ∧ s.hasTeam y.team = true ∧ (s.team y.team).spois = [] ∧ yields s 0 y = false ∧ waitingSnapshots s = [] ∧ (h.path = 0x40 ∨ h.path = 0x42) ∧ ns ≠ [] ∧
    (∀ n ∈ ns, ∀ m ∈ ns, (n ≠ m → y.dstAt n % 2 ^ 32 + elemBytes h.dfmt ≤ y.dstAt m % 2 ^ 32 ∨ y.dstAt m % 2 ^ 32 + elemBytes h.dfmt ≤ y.dstAt n % 2 ^ 32) ∧
      (y.dstAt n % 2 ^ 32 + elemBytes h.dfmt ≤ y.srcAt m % 2 ^ 32 ∨ y.srcAt m % 2 ^ 32 + elemBytes h.sfmt ≤ y.dstAt n % 2 ^ 32) ∧ h.mx = false) ∧ h.red = 0 ∧ h.dfmt = h.sfmt ∧ h.sfmt = 10 ∧
    ({ h with ctrl := 0x064010AA } : Shape).red = 1 ∧ ({ h with ctrl := 0x064020AA } : Shape).red = 2 ∧ ({ h with ctrl := 0x064030AA } : Shape).red = 3 := by decide

theorem witness_CopyEvents : let q : Copy := { tCopy with phase := .queued }; let s := kState q
    let c := { s with cores := [(0, { tCore with tags := [(4, { team := 1, copy := some { tCopy with dst := 0xC0 } }), (5, { team := 1, copy := some q })] })] }
    (queued s 0 = [(5, q)] ∧ noConflict s 0 q = true ∧ hasRoom s 0 q = true ∧ (farChips s 0 q).1 = [] ∧ q.shape.path = 0x40) ∧ (queued c 0 = [(5, q)] ∧ noConflict c 0 q = false) := by decide
theorem witness_CopyEvents_resume : let y : Copy := { tCopy with phase := .suspended 0 0x400000 }; let f : PageFault := ⟨0, 0, 0x400000, 1, 0, 0, 0, 0, 0, 0x4000000000, 0, true, false⟩; let s := kState y
    ((s.tag 0 5).copy = some y ∧ faultOf s 0 0x400000 = none ∧ logged s 0 0x400000 = [] ∧ (s.team (s.tag 0 5).team).place = .resident ∧ ¬ y.shape.path < 48) ∧ (faultOf { s with faults := [f] } 0 0x400000).isSome = true := by decide
/-- A paused copy: with no port in its way, on a port with a replay open, and on one whose lease is gone. -/
theorem witness_CopyEvents_paused : let y : Copy := { tCopy with phase := .paused }; let g : Copy := { y with shape := { tCopy.shape with ctrl := 0x040000AA } }; let s := kState y; let r := { kState g with ports := [(0, { leased := true, replayed := some 0 })] }
    ((s.tag 0 5).copy = some y ∧ (s.team (s.tag 0 5).team).place = .resident ∧ (∀ p < 48, y.on (s.port p) p = true → (s.port p).replayed = none)) ∧
    ((r.tag 0 5).copy = some g ∧ g.on (r.port 0) 0 = true ∧ (r.port 0).replayed ≠ none ∧ (r.port 0).state ≠ .fault) ∧ (g.shape.path < 48 ∧ ¬ (((kState g).port 0).leased = true ∧ ((kState g).port 0).ctx = g.ctx)) := by decide
theorem witness_CopyEvents_circuit : let y : Copy := { tCopy with phase := .circuit, src := 0x4000000000, dst := 0x80, shape := { tCopy.shape with ctrl := 0x040000AA } }
    let s := { kState y with pinned := [⟨0, 0x4000000000, 0, 3 * 2 ^ 47, true, 1⟩] }; let l := { s with ports := [(0, { state := .live, leased := true, peer := 3 })] }
    ((s.tag 0 5).copy = some y ∧ (s.port y.shape.path).state ≠ .live) ∧ ((l.port y.shape.path).state = .live ∧ (l.team y.team).place = .resident ∧ ∀ x ∈ (farChips l 0 y).1, x = (l.port y.shape.path).peer) := by decide
theorem witness_CopyEvents_aside : let y : Copy := { tCopy with wanted := [0] }; ((kState y).tag 0 5).copy = some y ∧ nmem y.wanted 1 = false ∧ nmem y.wanted 0 = true ∧ y.shape.ssp = true ∧
    (let z : Copy := { y with shape := { y.shape with ctrl := 0x044000AA } }; let s := kState z; let p := { s with ctxs := [(0, { aslines := 1 })] }
      (s.tag 0 5).copy = some z ∧ z.shape.ssp = false ∧ ((List.range (s.ctx z.ctx).aslines).find? fun n => !((poolTaken s z.ctx).contains n)) = none ∧
      ((List.range (p.ctx z.ctx).aslines).find? fun n => !((poolTaken p z.ctx).contains n)) = some 0 ∧ p.hub.cxldn = [] ∧ p.flips = [] ∧ hostBias p (offOf 0) = false) := by decide

/-! ### Picking, placement, service, scout -/

/-- Thread 2 stands at the header at 0x100, whose clause of one NOP is in its core's instruction cache. -/
def pThread : Thread := { tThread [] with pc := 0x100, mid := none }
def pCore : Core := { tCore with icache := [(0, 0x100, [0x10000000, 0x9E000000, 0, 0])] }
def pState (c : Core) (th : Thread) : State := { tState [] with cur := none, threads := [th], cores := [(0, c)] }
def pBundle : Bundle := { threads := [2], addr := 0xF0, hdr := 0x10000000, words := [0x9E000000], pos := 2, todo := [] }
theorem witness_PickersFormBundles : let s := pState pCore pThread; let s0 := s.setCore 0 (pCore.setPick 0 none)
    0 < 2 ∧ atBoundary (pState { pCore with pick0 := some { pBundle with todo := [2], pos := 1 } } pThread) 0 0 = false ∧ (s.core 0).pick 0 = none ∧ returning s0 0 = none ∧ candidates s 0 = [pThread] ∧ pThread.mid = none ∧ pThread.scout = none ∧ waitsMet 0x10000000 pThread = true ∧
    ∃ s1, fetchClause s0 pThread false false 0x100 = (s1, .ok (0x10000000 :: [0x9E000000])) :=
  ⟨by decide, by decide, by decide, by decide, by decide, by decide, by decide, by decide, _, by rfl⟩
theorem witness_PickersFormBundles_chain : let s := pState { pCore with pick0 := some pBundle } { pThread with pc := 0x100 }; let s0 := s.setCore 0 ((s.core 0).setPick 0 none)
    (s.core 0).pick 0 = some pBundle ∧ pBundle.finished s = true ∧ hdrYld pBundle.hdr = false ∧ pBundle.yields = false ∧ pBundle.chain < 4 ∧
    (∀ v ∈ pBundle.threads, pickable s 0 (taken s 0) (s.thread v) = true ∧ s.hasThread v = true ∧ (s.thread v).pc = (s.thread 2).pc ∧ (s.thread v).mid = none ∧ (s.thread v).inEpisode = false ∧ waitsMet 0x10000000 (s.thread v) = true) ∧
    (∀ y ∈ candidates s 0, readyNow s y = true → s.cycle < y.stamp + 1024) ∧ ∃ s1, fetchClause s0 (s.thread 2) false false (s.thread 2).pc = (s1, .ok (0x10000000 :: [0x9E000000])) :=
  ⟨by decide, by decide, by decide, by decide, by decide, by decide, by decide, _, by rfl⟩
theorem witness_PickersFormBundles_held : let b := { pBundle with pos := 1, todo := [2] }; let s := pState { pCore with pick0 := some b } { pThread with pc := 0xF4, mid := some 0xF0, hold := some (.fault 0 1) }
    let w := pState { pCore with pick0 := some b } { pThread with pc := 0xF4, mid := some 0xF0, hold := some (.walk 0 0 1 false false) }; let e4 := { pBundle with chain := 4 }
    let r := pState { pCore with out := [b] } { pThread with pc := 0xF4, mid := some 0xF0 }
    ((s.core 0).pick 0 = some b ∧ b.finished s = false ∧ ∃ u ∈ b.todo, (s.thread u).hold = some (.fault 0 1)) ∧ ((w.core 0).pick 0 = some b ∧ ∀ u ∈ b.todo, (w.thread u).hold = some (.walk 0 0 1 false false)) ∧
    (e4.finished s = true ∧ 4 ≤ e4.chain) ∧
    let y : Thread := { pThread with uid := 3, slot := 1, tid := 1, stamp := 7 }; let e := { r with threads := r.threads ++ [y] }
    ((r.core 0).pick 0 = none ∧ (r.core 0).out = [b] ∧ (∀ u ∈ b.todo, stillHeld r (r.thread u) = false)) ∧
    ((e.core 0).out = [b] ∧ (candidates e 0).any (readyNow (e.setCore 0 ((e.core 0).setPick 0 none))) = true ∧
      ∀ x ∈ candidates e 0, readyNow (e.setCore 0 ((e.core 0).setPick 0 none)) x = true → older (b.eldest (e.setCore 0 ((e.core 0).setPick 0 none))) x = true) :=
  ⟨⟨by decide, by decide, 2, by decide, by decide⟩, by decide, by decide, by decide, by decide⟩

theorem witness_WindowsLandInOrder : let p : Pending := { pos := 0, exe := 1, la := 3, regs := [(9, 5, false, false), (10, 6, true, false)], sb := 0, ready := true, tok := 0 }
    let q : Pending := { pos := 1, exe := 1, la := 1, regs := [(9, 7, false, false)], sb := 7, ready := true, tok := 0 }
    let s := tUp [] fun t => { t with window := [q, p], sb := [1, 0, 0, 0, 0, 0] }
    s.hasThread 2 = true ∧ (s.thread 2).scout = none ∧ (s.thread 2).window = [q] ++ p :: [] ∧ p ∉ [q] ∧ p ∉ ([] : List Pending) ∧ p.ready = true ∧ (p.regs.map (·.1)).Nodup ∧
    (∀ x ∈ p.regs, x.1 < (s.thread 2).regs.length ∧ x.1 < (s.thread 2).pois.length) ∧ ((s.teamOf (s.thread 2)).place = .resident ∧ p.exe ≠ ((s.setThread { s.thread 2 with exe := 7 }).thread 2).exe) ∧ p.la + p.pos < ((s.setThread { s.thread 2 with exe := 1, ipos := 4 }).thread 2).ipos ∧
    (let n := (s.setThread { s.thread 2 with exe := 1, ipos := 3, mid := some 0x100 }).thread 2; ¬ (n.mid = none ∨ p.exe ≠ n.exe ∨ p.la + p.pos < n.ipos)) := by decide

/-- A launch with a service area of 16 entries at the start of the mapped page, its counters behind them. -/
def vState (cons : List Host.Cell) : State :=
  { tState [] with launches := [{ tLaunch with rcd := { tLaunch.rcd with svbase := 0x4000000000, svlog := 4, park := 0x4000100000 } }], dtlb := [(0, [⟨0, 0x4000000000, 0, 0x10000, true, 0⟩])], mem := cons }
theorem witness_ServiceCallsAndBreakpoints : let s := vState []; let l := s.launchOfThread (tThread []); let x : Xlate := ⟨0, 0x4000000000, 0, 0x10000, true, 0⟩
    let reach := fun (va : DWord) (off n : Nat) => canonical va = true ∧ flipping s off = false ∧ flipping s (off + n - 1) = false ∧ hostBias s off = false ∧ hostBias s (off + n - 1) = false ∧ findDie s (dieOf 0) l.ctx (vaKey va) = some x ∧ x.w = true ∧ spotOf s (x.phys (vaKey va)) = some (.mem off)
    Runs s 2 tCur (tThread []) ∧ l.rcd.svlog ≠ 0 ∧ Readable (tThread []) (from_ 1 8) ∧ (tThread []).hostOut = 0 ∧ (tThread []).hold = none ∧ (∀ x ∈ s.teams, x.log = []) ∧ s.hub.cxldn = [] ∧ s.poison = [] ∧
    lockHolders s = [] ∧ s.farLocks = [] ∧ waitingSnapshots s = [] ∧ reach (serviceCounts l.rcd) 0x10800 8 ∧ reach (serviceAt l.rcd (s.num 0x10800 4)) 0x10000 128 ∧ (s.num 0x10800 4 + 2 ^ 32 - s.num 0x10804 4) % 2 ^ 32 < 2 ^ l.rcd.svlog :=
  ⟨⟨rfl, rfl, rfl, by decide, rfl⟩, by decide, by unfold Readable; decide, by decide, by decide, by decide, by decide, by decide, by decide, by decide, by decide, ⟨by decide, by decide, by decide, by decide, by decide, by decide, by decide, by decide⟩, ⟨by decide, by decide, by decide, by decide, by decide, by decide, by decide, by decide⟩, by decide⟩
theorem witness_ServiceCallsAndBreakpoints_full : 2 ^ ((vState []).launchOfThread (tThread [])).rcd.svlog ≤ ((vState [(0x10800, 16)]).num 0x10800 4 + 2 ^ 32 - (vState [(0x10800, 16)]).num 0x10804 4) % 2 ^ 32 ∧
    ((tState []).launchOfThread (tThread [])).rcd.svlog = 0 ∧ Runs (tState []) 2 tCur (tThread []) := ⟨by decide, by decide, rfl, rfl, rfl, by decide, rfl⟩

theorem witness_TeamsEndAndCoresHang : let s := tUp [] fun t => { t with status := .exited }; let two := { s with launches := [{ tLaunch with rcd := { tLaunch.rcd with x := 2 } }] }
    let idle := fun s : State => (s.team 1).place = .resident ∧ (s.launchOf (s.team 1).launch).abort = none ∧ (∀ x ∈ s.threads, x.team = 1 → x.status = .exited) ∧ teamIdle s (s.team 1) = true
    s.hasTeam 1 = true ∧ (s.launches.any fun l => l.uid == (s.team 1).launch) = true ∧ idle s ∧ ¬ idle (tState []) ∧ (s.launchOf 0).rcd.total ≤ (s.launchOf 0).done + 1 ∧ (two.launchOf 0).done + 1 < (two.launchOf 0).rcd.total := by decide
theorem witness_TeamsEndAndCoresHang_hang : let s := { tUp [] (fun t => { t with mid := none }) with cycle := 2 ^ 24 }
    (s.threads.filter fun t => pickable s 0 (taken s 0) t && t.mid.isNone && readyNow s t && t.stamp + 2 ^ 24 ≤ s.cycle) ≠ [] ∧ (s.core 0).issued + 2 ^ 24 ≤ s.cycle ∧
    (tState []).cycle < ((tState []).core 0).issued + 2 ^ 24 := by decide +kernel

/-- A launch of four teams that wait, alone or as gangs of two. -/
def lState (gang : Nat) : State := { launches := [{ tLaunch with next := 0, rcd := { tLaunch.rcd with x := 4, gang := gang } }], nextUid := 3 }
theorem witness_TeamsArePlaced : let s := lState 0; let l := s.launchOf 0; let slot := fun s : State => (searchFrom l.rcd.pair (tget 0 s.hub.rr l.prio)).find? (openTo s l)
    (s.launches.any fun l => l.uid == 0) = true ∧ headWaits s l = true ∧ gangSize l.rcd = 1 ∧ slot s = some 0 ∧ l.next < l.rcd.total ∧ l.aged = none ∧ l.since + 65536 ≤ ({ s with cycle := 65536 } : State).cycle ∧
    s.cycle < l.since + 65536 ∧ headWaits { s with launches := [] } {} = false := by decide
theorem witness_TeamsArePlaced_gangs : let s := lState 2; let l := s.launchOf 0; let g := gangAt l.rcd l.next
    let second := { s with launches := [{ l with next := 1 }], teams := [{ tTeam with place := .reserved }], gang := some 0 }
    reservingGang s = some 0 ∧ l.next < l.rcd.total ∧ l.abort = none ∧ (searchFrom l.rcd.pair (tget 0 s.hub.rr l.prio)).find? (openTo s l) = some 0 ∧ gangSize l.rcd ≠ 1 ∧
    (s.teams.filter fun t => t.launch == 0 && g.1 ≤ t.n && t.n < g.1 + g.2 && t.place == .reserved).length + 1 < g.2 ∧
    reservingGang second = some 0 ∧ (second.teams.filter fun t => t.launch == 0 && g.1 ≤ t.n && t.n < g.1 + g.2 && t.place == .reserved).length + 1 = g.2 ∧ (searchFrom l.rcd.pair (tget 0 second.hub.rr l.prio)).find? (openTo second (second.launchOf 0)) = some 1 := by decide
/-- Group 0 of team 1 is spilled, one of its threads ready again, its park slot mapped. -/
def rState : State :=
  { vState [] with teams := [{ tTeam with spilled := [0] }], threads := [{ tThread [] with spilled := true }], dtlb := [(0, [⟨0, 0x4000000000, 1, 0x200000, true, 0⟩])]
                   launches := [{ tLaunch with rcd := { tLaunch.rcd with svbase := 0x4000000000, svlog := 4, park := 0x4000100000 } }] }
theorem witness_TeamsArePlaced_return : let s := rState; let tm := s.team 1; let l := s.launchOf tm.launch; let half := groupHalf l.rcd 0; let size := (l.rcd.width * (l.rcd.nreg + 8) * 4 + 4095) / 4096 * 4096
    s.hasTeam 1 = true ∧ 0 ∈ tm.spilled ∧ tm.place = .resident ∧ l.abort = none ∧ (∃ x ∈ s.threads, (x.team = 1 ∧ x.tid / l.rcd.width = 0) ∧ x.status = .ready) ∧ fitsCore s [1] l.rcd (tm.spilled.filter (· != 0)) half (tm.core + half) = true ∧
    (∃ s1, reachPages s (dieOf (tm.core + half)) l.ctx 3 0xFFFFFFFF 0 (pagesOf (parkVa l.rcd (tm.core + half) tm.pos 0) size) = (s1, true)) ∧ (s.threads.map (·.uid)).Nodup ∧ 1 ∉ tm.spilled :=
  ⟨by decide, by decide, by decide, by decide, ⟨_, List.mem_singleton.mpr rfl, by decide, by decide⟩, by decide, ⟨_, by rfl⟩, by decide, by decide⟩

/-- A team of priority 0 on core 0, the one core not excluded, and a launch of priority 1 that waits for another partition. -/
def oState : State :=
  { tState [] with cur := none, threads := [pThread], ctxs := [(0, { save := 0x10000 })], hub := { State.reset.hub with cexcl := (List.range 383).map (· + 1) }
                   launches := [tLaunch, { tLaunch with uid := 5, next := 0, prio := 1, rcd := { tLaunch.rcd with pb2 := 9, pb3 := 13 } }] }
/-- The same team saved in slot 0, whose entry is valid and whose hidden region is all zero. -/
def zState (crc : Tab DWord) (m : List Host.Cell := [(0x10000, 1), (0x10010, 1), (0x10011, 1), (0x10012, 2), (0x10107, 0x80)]) : State := { oState with mem := m,  teams := [{ tTeam with place := .saved 0 }], launches := [tLaunch], hub := State.reset.hub, cores := [(0, { saveCrc := crc })] }
theorem witness_PreemptionAndReturn : oState.hasTeam 1 = true ∧ ((oState.team 1).place = .resident ∧ isVictim oState (oState.team 1) = true ∧ (oState.launchOf (oState.team 1).launch).abort = none ∧ (oState.threads.filter (·.team == 1)).all (stopped oState) = true ∧
      quiet oState (oState.team 1) ((oState.threads.filter (·.team == 1)).map (·.uid)) = true) ∧ (oState.team 1).isSaved = false ∧ isVictim (tState []) ((tState []).team 1) = false ∧
    ((tThread []).sb.length = 6 ∧ (∀ x ∈ (tThread []).sb, x < 64) ∧ (tThread []).scoutBud ≤ 256 ∧ (tThread []).tid < 2048 ∧ (tThread []).remerr = 0 ∧ (tThread []).policy &&& 0xFF = 0) ∧ oState.flips = [] ∧ oState.bias = [] ∧
    ((oState.launchOf 0).rcd.pair = false ∧ slotMates oState (oState.team 1) 0 = [] ∧ (oState.team 1).pos < 64 ∧ oState.hub.cxldn = [] ∧
      ((halfThreads (((oState.threads.filter (·.team == 1)).map (·.uid)).foldl stopThread oState) (oState.team 1) 0)[0]?).isSome = true) := by decide +kernel
theorem witness_PreemptionAndReturn_saved : let s := zState []; let none_ := { s with hub := { s.hub with cexcl := List.range 384 } }
    s.hasTeam 1 = true ∧ (s.team 1).isSaved = true ∧ (s.launchOf (s.team 1).launch).abort = none ∧ (s.teams.map (·.uid)).Nodup ∧ entriesHold s (s.team 1) = true ∧ entriesHold (zState [] []) ((zState [] []).team 1) = false ∧ gangSize (s.launchOf (s.team 1).launch).rcd = 1 ∧ (s.team 1).anvil = [] ∧ (s.core 0).anvil = [] ∧ (s.core 1).anvil = [] ∧ s.flips = [] ∧ s.bias = [] ∧ resumeCore s (s.team 1) = some 0 ∧
    resumeCore none_ (none_.team 1) = none := by decide +kernel
theorem witness_PreemptionAndReturn_slot : brokenSlots (zState []) ((zState []).team 1) = [] ∧ brokenSlots (zState [(0, 1)]) ((zState [(0, 1)]).team 1) ≠ [] := by
  have zeros : ∀ c a n, 0x10108 ≤ a → crc64 ((zState c).bytes a n) = 0 := fun c a n ha => by
    rw [← List.append_nil ((zState c).bytes a n), crc_zeros]
    · rfl
    · intro b hb
      simp only [State.bytes, List.mem_map] at hb
      obtain ⟨i, -, rfl⟩ := hb
      show tget unlisted [(0x10000, (1 : Byte)), (0x10010, 1), (0x10011, 1), (0x10012, 2), (0x10107, 0x80)] (a + i) = 0
      have ne : ∀ k, k < 0x10108 → a + i ≠ k := fun k hk => by omega
      simp [tget, unlisted, ne]
  constructor <;> (simp (disch := omega) only [brokenSlots, zeros]; decide)

/-- A thread with scout on meets a load that misses; the checkpointed thread scouts, its load has not come, or has. -/
def scRegs : List Word := [0, 9, 8, 0x40]
def scTh : Thread := { tThread scRegs with scoutEn := true, scoutBud := 64 }
def scState : State := { tMapped scRegs with threads := [scTh] }
theorem witness_ScoutEpisodes : let m := memF 0 2
    Runs scState 2 tCur scTh ∧ CounterFree scTh no ∧ Instr.wf (.ld m 9 2) = true ∧ memScr m = false ∧ Readable scTh (memAddrRegs m 2) ∧ Exist scTh (dataRegs 9 4) ∧ scTh.part = none ∧ (∀ x ∈ scState.teams, x.log = []) ∧
    (∀ y ∈ pieces (memAddr m scTh 2) 4, canonical (BitVec.ofNat 64 y.1) = true) ∧ wouldCheckpoint scState scTh (BitVec.ofNat 64 (memAddr m scTh 2)) = true ∧ slotsUsed scState 0 < logSlots scState 0 :=
  ⟨⟨rfl, rfl, rfl, by decide, rfl⟩, by unfold CounterFree; decide, by decide, by decide, by unfold Readable; decide, by unfold Exist; decide, by decide, by decide, by decide, by decide, by decide⟩
def scSlot : Scout := { pc := 0x104, header := 0x100, budget := 64, va := 0x4000000008, size := 4, dst := [9], saves := [(9, 5, false, false)] }
def scAt (sc : Scout) : State := { tMapped scRegs with threads := [{ scTh with scout := some sc, pc := 0x108, mid := some 0x100 }], cur := none }
theorem witness_ScoutEpisodes_outcomes : let s := { scAt scSlot with cores := [(0, { tCore with tlb := [⟨0, 0x4000000000, 0, 0x10000, true, 0⟩], l1 := [(512, .normal)] })] }; let cold := { s with cores := [(0, tCore)], launches := [{ tLaunch with rcd := { tLaunch.rcd with strict := true } }] }
    s.hasThread 2 = true ∧ (s.thread 2).scout = some scSlot ∧ scSlot.long = false ∧ scSlot.stop = none ∧ scSlot.count < scSlot.budget ∧ outcome s (s.thread 2) scSlot = .performed ∧
    (∃ code addr info, outcome cold (cold.thread 2) scSlot = .trap code addr info) := ⟨rfl, rfl, rfl, rfl, by decide, by decide, _, _, _, rfl⟩
/-- The load's frame has host bias; and what the performed load's result reads. -/
theorem witness_ScoutEpisodes_plain : let p : Pending := { pos := 0, exe := 1, la := 2, regs := [(9, 0, false, false)], sb := 7, ready := false, tok := 0, prov := true }; let a := scAt scSlot
    let s := { a with cores := [(0, { tCore with tlb := [⟨0, 0x4000000000, 0, 0x10000, true, 0⟩], l1 := [(512, .normal)] })], threads := a.threads.map fun t => { t with window := [p] } }; let h := { s with bias := [1] }
    outcome h (h.thread 2) scSlot = .plain ∧ (outcome s (s.thread 2) scSlot = .performed ∧ s.hub.cxldn = [] ∧ scSlot.later = [] ∧ scSlot.acc.ps = [(0x4000000008, 4)] ∧ p ∈ (s.thread 2).window ∧ p.tok = scSlot.tok ∧ p.ready = false ∧ p.prov = true ∧
      p.regs.map (·.1) = scSlot.dst ∧ scSlot.dst.Nodup ∧ (loadWords (s.bytes 0x10008 4) scSlot.size scSlot.sx).length = scSlot.dst.length) ∧
      (lookAt s { s.thread 2 with hold := none } scSlot.acc (0x4000000008, 4)).2 = .go (.mem 0x10008) := ⟨by decide, by decide, by rfl⟩
theorem witness_ScoutEpisodes_long : let l : Scout := { scSlot with long := true }; let s := scAt l; let e : Scout := { l with count := 64 }; let w := { scAt scSlot with cores := [(0, tCore)] }
    outcome w (w.thread 2) scSlot = .long ∧ (l.long = true ∧ scoutArrived s (s.thread 2) l = true ∧ (l.saves.map (·.1)).Nodup ∧ ∀ x ∈ l.saves, x.1 < (s.thread 2).regs.length ∧ x.1 < (s.thread 2).pois.length) ∧
    (e.long = true ∧ e.stop = none ∧ e.budget ≤ e.count) ∧ (scoutArrived { s with cores := [(0, tCore)], walks := [⟨0, 0, 0x400000, [⟨1, 0, 0, 0, 0x4000000008⟩]⟩] } (s.thread 2) l = false ∨ l.long = false) := by decide

/-- A root of one table entry chain is absent: the walk ends at the empty root's fault. -/
def fReq : WalkReq := ⟨1, 2, 5, 1, 0x4000000008⟩
def fWalk : Walk := ⟨0, 3, 0x400000, [fReq]⟩
def fFault : PageFault := ⟨7, 3, 0x400000, 1, 0, 3, 0, 0, 0, 0x4000000008, 0, false, false⟩
theorem witness_FaultsAreServed : let s := { State.reset with walks := [fWalk], ctxs := [(3, { active := true, frlog := 4, frbase := 0x1000 })], faults := [fFault] }; let r := s.ctx 3
    (running s 0).find? (fun w => w.die == 0 && w.ctx == 3 && w.page == 0x400000) = some fWalk ∧ (running State.reset 0).find? (fun w => w.die == 0 && w.ctx == 3 && w.page == 0x400000) = none ∧
    (s.faults.find? fun f => f.ctx == 3 && !f.written) = some fFault ∧ ¬ 2 ^ r.frlog ≤ (r.frprod + 2 ^ 32 - s.num (r.frbase % 2 ^ 47 + 32 * 2 ^ r.frlog + 4) 4) % 2 ^ 32 ∧ s.hub.cxldn = [] ∧
    placesWait s [(r.frbase % 2 ^ 47 + 32 * (r.frprod % 2 ^ r.frlog), 32), (r.frbase % 2 ^ 47 + 32 * 2 ^ r.frlog, 4)] true = (s, false) ∧ s.pinned.find? (·.covers 3 (vaKey fFault.va)) = none ∧
    s.faults.find? (·.fid == 7) = some fFault ∧ s.faults.find? (·.fid == 8) = none ∧ (∃ kind level, walk s 3 (vaKey fFault.va) = .bad kind level none) ∧
    s.hub.invq.length < 64 ∧ s.hub.invq = [] ∧ 64 ≤ ({ s with hub := { s.hub with invq := List.replicate 64 (0, 0) } } : State).hub.invq.length :=
  ⟨by decide, by decide, by decide, by decide, by decide, by rfl, by decide, by decide, by decide, ⟨0, 3, by decide +kernel⟩, by decide, by decide, by decide⟩
/-- A root at 0x100000 whose first entry names the table at 0x101000, whose entry 256 maps 1 GiB, writable. -/
def fTable : List Host.Cell := [(0x100000, 1), (0x100001, 1), (0x100002, 1), (0x101800, 7)]
/-- Threads 2 and 3 joined the walk, a load and a store; the leaf is there, read-only, or not at all. -/
theorem witness_FaultsAreServed_walks : let t := fun (u : Nat) (h : Hold) => ({ tThread [] with uid := u, hold := some h } : Thread)
    let w := { State.reset with walks := [fWalk], threads := [t 2 (.walk 0 3 0x400000 false false), t 3 (.walk 0 3 0x400000 true true)], ctxs := [(3, { active := true, root := 0x100000 })], mem := fTable }
    let ro := { w with mem := [(0x100000, 1), (0x100001, 1), (0x100002, 1), (0x101800, 3)] }; let va := BitVec.ofNat 64 (0x400000 * 65536)
    (∃ fr, walk w 3 (vaKey va) = .leaf fr 2 true) ∧ (∃ fr, walk ro 3 (vaKey va) = .leaf fr 2 false) ∧ (∃ kind level, walk { w with mem := [] } 3 (vaKey va) = .bad kind level none) ∧ faultOf w 3 0x400000 = none ∧
    fWalk.reqs.find? (fun q => q.flags % 2 == 1) = some fReq ∧ fWalk.reqs.head? = some fReq ∧ faultPage fReq.va = 0x400000 ∧ (∀ q ∈ ({ fWalk with reqs := [] } : Walk).reqs, q.flags % 2 = 0) ∧
    (w.thread 2).hold = some (.walk 0 3 0x400000 false false) ∧ (w.thread 3).hold = some (.walk 0 3 0x400000 true true) :=
  ⟨⟨0, by decide +kernel⟩, ⟨0, by decide +kernel⟩, ⟨0, 3, by decide +kernel⟩, by decide, by decide, by decide, by decide, by decide, by decide, by decide⟩
/-- The fault's thread, a walk that finds a leaf of level 2 in a table at offset 0x100000. -/
theorem witness_FaultsAreServed_mapped : let w := { tUp [] (fun t => { t with hold := some (.fault 3 0x400000) }) with ctxs := [(3, { active := true, root := 0x100000 })], faults := [fFault], mem := fTable }
    (∃ fr, walk w 3 (vaKey fFault.va) = .leaf fr 2 true) ∧ w.flips = [] ∧ w.bias = [] ∧ lockHolders w = [] ∧ logged w 3 0x400000 = [] ∧ w.walks = [] ∧ (w.thread 2).status = .ready ∧ (w.thread 2).hold = some (.fault 3 0x400000) ∧ (w.threads.map (·.uid)).Nodup ∧ (w.thread 2).scout = none :=
  ⟨⟨0, by decide +kernel⟩, by decide, by decide, by decide, by decide, by decide, by decide, by decide, by decide, by decide⟩
theorem witness_FaultsAreServed_queue : let s := { State.reset with hub := { State.reset.hub with invq := [(0x4000000000, 0)] } }; (∃ va w rest, s.hub.invq = (va, w) :: rest) ∧ underWay s 0x4000000000 0 = false ∧
    underWay { s with threads := [{ tThread [] with hostOut := 1 }] } 0x4000000000 0 = true := ⟨⟨_, _, _, rfl⟩, by decide, by decide⟩


/-! ### Ports, packets, flits -/

/-- Port 3 in this state at this HTIME, beside a request slot. -/
def pnS (t : Port) (now : Nat := 0) : State := { ports := [(3, t)], htime := now }
def liveP : Port := { state := .live, replay := [(4, [1], 9), (5, [2], 1)] }
/-- A grant record's packet: operation, request number, lease tag. -/
def swPacket (op n tag : Byte) : Packet := ⟨0x21, 0, 31, 0, 0, 0, 0, 0, 0, 0, 0, [op, 0, 0, 0, n, 0, 0, 0, tag, 0, 0, 0, 0, 0, 0, 0]⟩
theorem witness_PortsFollowTheirStates :
    (let l : Port := { state := .locking }; let t : Port := { state := .locking, wlock := some 0 }
     (pnS l 12000).lanes = [] ∧ (∀ th ∈ (pnS l 12000).threads, th.paths = []) ∧ (pnS l 12000).port 3 = l ∧ 7 ≤ lit 0xFE#8 ∧ lit 0x3F#8 < 7 ∧ l.since + 12000 ≤ (pnS l 12000).htime ∧ l.since + 12000 < (pnS l 12001).htime ∧ t.wlock = some 0 ∧ (pnS t 6000).htime ≤ 0 + 6000 ∧
      0 + 6000 ≤ (pnS t 6000).htime ∧ (pnS t 5999).htime < 0 + 6000) ∧
    (let t : Port := { state := .trained, peer := 5, ltag := 8 }
     (pnS t 2000).port 3 = t ∧ t.since + 2000 ≤ (pnS t 2000).htime ∧ (pnS t 2000).htime ≤ t.since + 2000 ∧ t.queue = [] ∧ t.dead = 0) ∧
    (let d : Port := { state := .live, dead := 0x80 }; let r : Port := { state := .locking, retrain := true }
     d.dead ≠ 0 ∧ d.dead.getLsbD 0 = false ∧ (pnS {}).port 3 = {} ∧ ({} : Port).state = .dark ∧ r.since + 200 ≤ (pnS r 200).htime ∧ r.retrain = true) := by decide
/-- HELLO flits of chips 5 and 6, and a RETRAIN flit. -/
def hFlit (ctype self : Nat) : List Byte := flitBytes 1 0 0 (bytesOf ctype 4 ++ bytesOf self 4 ++ bytesOf 0 4 ++ bytesOf 8 4 ++ bytesOf 9 4)
theorem witness_PortsFollowTheirStates_control : let t : Port := { state := .trained, peer := 5, ltag := 8 }; let c : FlitCode := { fixed := 1 }
    let control := fun (b : List Byte) (ctype : Nat) => c.touched = false ∧ flitOk b = true ∧ bits (flitWord b 0) 28 4 = 1 ∧ flitWord b 4 = 0 ∧ flitWord b 8 = ctype
    let fits := fun b : List Byte => flitWord b 0x0C % 2 ^ 21 = t.peer ∧ flitWord b 0x10 % 2 ^ 21 = (pnS t).hub.chip ∧ BitVec.ofNat 32 (flitWord b 0x14) = t.ltag ∧ flitWord b 0x0C % 2 ^ 21 ≠ (pnS t).hub.chip
    (control (hFlit 1 5) 1 ∧ fits (hFlit 1 5)) ∧ (control (hFlit 1 6) 1 ∧ ¬ fits (hFlit 1 6)) ∧ control (hFlit 2 5) 2 ∧ flitOk [0] = false ∧ flitWord (hFlit 1 5) 0x18 % 64 = 9 := by decide +kernel
theorem witness_PortsFollowTheirStates_live : let b := flitBytes 0 0 (2 ^ 31 + 5) []; let again := fun (n : Nat) (r : Nat × List Byte × Nat) => seqLe (n % 2 ^ 24) r.1
    ((pnS liveP).port 3).state = .live ∧ (∃ r ∈ liveP.replay, 9 ≤ r.2.2) ∧ (∃ r ∈ liveP.replay, again 4 r = true ∧ 9 ≤ r.2.2) ∧ (∀ r ∈ liveP.replay, again 5 r = true → r.2.2 < 9) ∧ lockHolders (pnS liveP) = [] ∧
    liveP.queue = [] ∧ flitOk b = true ∧ bits (flitWord b 0) 28 4 = 0 ∧ flitWord b 4 = 2 ^ 31 + 5 := by decide +kernel
theorem witness_PortsFollowTheirStates_lease : let d : Port := { state := .dark, leased := true, ltag := 8, lend := 100 }; let l : Port := { state := .live, leased := true, ltag := 8, lend := 100 }; let q : Port := { request := some (2, 7, 5, 0, 1000) }
    let w := fun (p : Packet) o => BitVec.ofNat 32 (natOf ((p.data.drop o).take 4))
    (l.leased = true ∧ l.lend ≤ (pnS l 100).htime ∧ (pnS l 99).htime < l.lend ∧ l.state ≠ .fault ∧ l.state ≠ .dark) ∧ (∀ o : Byte, (swPacket o 7 8).data.length = 16) ∧
    (natOf ((swPacket 1 7 8).data.take 1) = 1 ∧ requestOf (pnS q) (w (swPacket 1 7 8) 4) = some 3 ∧ q.leased = false ∧ q.request = some (2, 7, 5, 0, 1000)) ∧
    (natOf ((swPacket 2 7 8).data.take 1) = 2 ∧ w (swPacket 2 7 8) 8 = 8 ∧ leaseOf (pnS d) 8 = some 3 ∧ d.state = .dark) ∧ (natOf ((swPacket 3 7 8).data.take 1) = 3 ∧ requestOf (pnS q) (w (swPacket 3 7 8) 4) = some 3) := by
  refine ⟨by decide, fun o => rfl, by decide, by decide, by decide⟩

/-- Chip 9 is known and routed; context 2's tables map 1 GiB, writable, at 0x40_0000_0000. -/
def xPacket (typ op off : Nat) : Packet := ⟨typ, op, 31, 0, 2, 9, 0, 4, 0, off, 0x4000000000 + off, [1, 2, 3, 4, 0, 0, 0, 0]⟩
def xState : State :=
  { State.reset with mem := fTable, ctxs := [(2, { active := true, root := 0x100000 })], chips := [(9, 1)], served := [⟨9, 0, 4, [], [], none⟩], hub := { State.reset.hub with lrt := [(9, 0x80000009)] } }
theorem witness_RequestsOfOtherChipsAreServed : let p := xPacket tSTORE 16 0x20000; let l := tgtLane xState 9 0 4; let old := { xState with served := [⟨9, 0, 5, [], [], none⟩] }
    (xState.chips.any (·.1 == 9)) = true ∧ l.held = none ∧ l.early = [] ∧ l.want = p.serial ∧ (admission xState p).2 = .go ∧ xState.hub.cxldn = [] ∧ xState.anyPoison p.off 4 = false ∧ livePort xState 2 9 = none ∧
    route xState 9 = some (0, 9) ∧ (admission { xState with ctxs := [] } p).2 = .refuse 3 ∧ (admission { xState with mem := [] } p).2 = .fault 0 3 ∧ serialLt 4 (tgtLane old 9 0 4).want = true := by decide +kernel
theorem witness_RequestsOfOtherChipsAreServed_full : ({ State.reset with chips := List.replicate 16384 (1, 1) } : State).chips.any (·.1 == 9) = false ∧ 16384 ≤ ({ State.reset with chips := List.replicate 16384 (1, 1) } : State).chips.length := by
  simp only [List.length_replicate, List.any_eq_false]
  exact ⟨fun x hx => by rw [List.eq_of_mem_replicate hx]; decide, Nat.le_refl _⟩
theorem witness_RequestsOfOtherChipsAreServed_held : let l : TgtLane := ⟨9, 0, 4, [], [], some (xPacket tSTORE 16 0, 0)⟩; let s := { xState with served := [l], htime := 50000 }
    s.served = [l] ∧ l.held = some (xPacket tSTORE 16 0, 0) ∧ l.early = [] ∧ (xPacket tSTORE 16 0).src = l.chip ∧ (xPacket tSTORE 16 0).lane = l.lane ∧ 0 + 50000 ≤ s.htime ∧
    (∀ x ∈ xState.served, ∀ h, x.held = some h → xState.htime < h.2 + 50000) ∧ (∀ x ∈ xState.served, x.chip = 9 → x.held = none ∧ x.early = []) ∧ (1 + 1000000 ≤ ({ xState with htime := 1000000 } : State).htime + 1) := by decide

/-- One request outstanding at chip 9; its thread waits for the answer when it is a load. -/
def aReq (typ resends : Nat) : Req := ⟨⟨typ, 16, 31, 0, 2, 0, 9, 4, 0, 0x10000, 0x4000000000, []⟩, resends, 0, false, false, 0x41, 2⟩
def aState (q : Req) : State := { tUp [] (fun t => { t with hold := some (.remote 9 0 4) }) with lanes := [⟨9, 0, 5, [q]⟩], hub := { State.reset.hub with lrt := [(9, 0x80000009)] }, htime := 20000 }
def aPacket (typ cause : Nat) : Packet := ⟨tREFUSE, 0, 31, 0, 2, 9, 0, 4, 0, 0x10000, 0x4000000000, bytesOf (typ * 256 + cause) 4⟩
theorem witness_AnswersReachTheirRequests : ∀ q ∈ [aReq tLOAD 0, aReq tSTORE 7, aReq tRED 8], let s := aState q; let p := aPacket q.packet.typ 2; let l := srcLane s p.src p.lane
    reqOf s p.src p.lane p.serial = some q ∧ (q.packet.typ = tLOAD ∨ q.packet.typ = tSTORE ∨ q.packet.typ = tRED) ∧ s.hasThread q.thread = true ∧ (s.thread q.thread).scout = none ∧
    (s.thread q.thread).hold = some (.remote p.src q.packet.lane q.packet.serial) ∧ s.lanes = [l] ∧ l.reqs = [q] ∧ q.packet.ctx = p.ctx ∧ q.packet.va = p.va ∧ l.lane = p.lane ∧ 1 ≤ q.packet.typ ∧ q.packet.typ ≤ 4 ∧
    p.data = bytesOf (q.packet.typ * 256 + 2) 4 ∧ q.sent + 20000 ≤ s.htime ∧ p.lane < 64 ∧ q.busy = false ∧ (q.resends < 8 ∨ 8 ≤ q.resends) ∧ hasRoute s (pathTo s q.packet.ctx p.src) p.src = true := by decide
/-- A COMMIT payload: core 1, tag 2, serial 7, chunk 3. -/
def cPacket : Packet := { aPacket 0 0 with data := [1, 0, 0, 0, 2, 0, 0, 0, 7, 0, 0, 0, 3, 0, 0, 0, 0, 0, 0, 0] }
theorem witness_AnswersReachTheirRequests_commit : let x : Staged := ⟨9, 7, 0x10000, [1, 2], 0⟩; let s := { State.reset with staged := [x] }; let w := fun o n => natOf ((cPacket.data.drop o).take n); let key := (cPacket.src, w 0 4, w 4 4, w 8 4)
    s.hub.cxldn = [] ∧ (∀ y ∈ s.commits, y.1 = key → y.2 < w 12 8) ∧ s.staged = [x] ∧ s.bias = [] ∧ (let f : FarLock := ⟨9, 1, 2, 7, 0x10000, 128, true⟩; let l := { s with farLocks := [f] }; (f.chip = cPacket.src ∧ f.core = w 0 4 ∧ f.tag = w 4 4 ∧ f.serial = w 8 4) ∧ f ∈ l.farLocks ∧ f.off ≤ x.off ∧ x.off + x.data.length ≤ f.off + f.len) ∧ s.farLocks = [] ∧
    (agentHeld { s with farLocks := [] } x.off 2 true).2 = false ∧
    (agentHeld { s with flips := [⟨0, 0, true, [1]⟩] } x.off 2 true).2 = true ∧ x.chip = cPacket.src ∧ x.serial = w 8 4 ∧ isMemory s x.off = true ∧ isMemory s (x.off + x.data.length - 1) = true ∧
    ∃ y ∈ ({ s with commits := [((9, 1, 2, 7), 3)] } : State).commits, y.1 = key ∧ w 12 8 ≤ y.2 := by decide

theorem witness_FramesAndFlitsCarryPackets : let s := pnS { state := .live } ; let b := flitBytes 2 0 0 []; let z := flitBytes 2 3 0 []; let p := aPacket 1 2
    (0 < 2 ∧ s.hub.chip < 2 ^ 21 ∧ p.typ < 64 ∧ p.op < 64 ∧ p.ttl < 256 ∧ p.data.length ≤ 256 ∧ p.lane < 64 ∧ p.ctx < 16 ∧ p.src < 2 ^ 21 ∧ p.dst < 2 ^ 21 ∧ p.serial < 2 ^ 32 ∧ p.pmask < 2 ^ 16 ∧ p.off < 2 ^ 47 ∧ p.va < 2 ^ 57 ∧ 1 ≤ p.typ ∧
      s.hub.plet.toNat % 65536 ≠ 0x8100 ∧ s.hub.plet.toNat % 65536 ≠ 0x8808) ∧ frameOk s 0 [] = false ∧ ([] : List Byte).length ≤ 244 ∧
    (flitOk b = true ∧ bits (flitWord b 0) 28 4 = 2 ∧ bits (flitWord b 0) 0 24 = (s.port 3).rxseq ∧ bits (flitWord b 4) 31 1 = 0 ∧ takePackets 276 (joinBody (s.port 3).rxpart ((b.drop 8).take 244)) = ([], [])) ∧
    (bits (flitWord z 0) 28 4 = 2 ∧ bits (flitWord z 0) 0 24 ≠ (s.port 3).rxseq) ∧ ((pnS {}).port 3).state ≠ .live := by decide +kernel

/-! ### Scripts, graphs, rotations -/

/-- Script 1 with these registers, at its instruction, beside a port, a semaphore, a graph and a mapped page. -/
def qRegs (l : List (Nat × Word)) : List Word := (List.range 32).map fun k => ((l.find? (·.1 == k)).map (·.2)).getD 0
def qScript (l : List (Nat × Word)) : Script := { sScript with regs := qRegs l }
def qState (l : List (Nat × Word)) : State := { sState with scripts := [(1, qScript l)], pinned := [⟨2, 0x4000000000, 0, 0x10000, true, 1⟩] }
theorem witness_ScriptCircuitsAndSemaphores :
    (let s := qState [(4, 3), (5, 5), (6, 1), (7, 1000)]; let i := Instr.creq 3 4 6; let w := { s with hub := { State.reset.hub with swcm := 0x020000000001 } }; let busy := { s with ports := [(3, { request := some (2, 7, 5, 0, 1) })] }
     let sc := s.script 1
     s.cur = some sCur ∧ sCur.who = .script 1 ∧ Instr.wf i = true ∧ (∀ r ∈ [3, 4, 5, 6, 7], r < 32) ∧ (sc.val 4).toNat % 64 = 3 ∧ (hiWord (sc.pair 6)).toNat ≠ 0 ∧ (s.port 3).request = none ∧ (s.port 3).leased = false ∧
     s.hub.swcm.toNat % 2 ^ 48 = 0 ∧ w.hub.swcm.toNat % 2 ^ 48 ≠ 0 ∧ (busy.port 3).request ≠ none ∧ Instr.wf (.creq 3 5 6) = false ∧ (¬ (∀ r ∈ [32], r < 32)) ∧ (((qState [(4, 63)]).script 1).val 4).toNat % 64 = 63 ∧
     ({ state := .fault, cause := 11 } : Port).state = .fault) ∧
    (let s := qState [(4, 3), (5, 4), (6, 10)]; let lost := { s with ports := [(3, { request := some (2, 7, 5, 0, 1) })] }
     Instr.wf (.cawt 3 4 6) = true ∧ (hiWord ((s.script 1).pair 4)).toNat % 8 ≤ 4 ∧ (s.port 3).state.code ≠ 4 ∧ (s.port 3).refused = false ∧ ((s.port 3).leased = false ∧ (s.port 3).request = none) ∧
     ¬ ((lost.port 3).leased = false ∧ (lost.port 3).request = none) ∧ (lost.port 3).state ≠ .fault ∧ (s.script 1).val 6 ≠ 0 ∧ (s.script 1).val 7 = 0) ∧
    (let s := qState [(4, 3)]; let held := { s with ports := [(3, { state := .live, leased := true, ctx := 2, request := none })] }; let asked := { s with ports := [(3, { request := some (2, 7, 5, 0, 1) })] }
     Instr.wf (.crel 3 4) = true ∧ Instr.wf (.csta 3 4) = true ∧ ((held.port 3).leased = true ∧ (held.port 3).ctx = (held.script 1).ctx) ∧ held.lanes = [] ∧ (asked.port 3).request = some (2, 7, 5, 0, 1) ∧
     (s.port 3).request = none) ∧
    (let s := qState [(4, 255), (6, 1)]; let n := ((s.script 1).val 4).toNat
     Instr.wf (.sems 3 4 6) = true ∧ n < 256 ∧ 256 ≤ (256#32).toNat ∧ (∀ y ∈ s.scripts, ∀ v dec e, y.2.wait ≠ some (.semaphore n v dec e)) ∧ (∀ y ∈ (s.ctx 2).streams, ∀ v dec e, y.2.wait ≠ some (.semaphore n v dec e))) ∧
    (let s := qState [(4, 256), (5, 10), (6, 1)]; let w := ((s.script 1).val 4).toNat
     Instr.wf (.semw 3 4 6) = true ∧ w < 512 ∧ s.sem 2 (w % 256) < (s.script 1).pair 6 ∧ hiWord ((s.script 1).pair 4) ≠ 0 ∧ (s.script 1).pair 8 ≤ s.sem 2 (w % 256)) := by
  refine ⟨by decide, by decide, by decide, ⟨by decide, by decide, by decide, fun y hy => ?_, fun y hy => nomatch hy⟩, by decide⟩
  cases List.mem_singleton.mp hy
  exact fun _ _ _ h => nomatch h
theorem witness_ScriptCircuitsAndSemaphores_waits : let d : Reg := 3; let at_ := fun w : Option ScriptWait => ({ scripts := [(1, { sScript with wait := w, timeout := 10, began := 0 })], htime := 10000 } : State)
    (∀ w ∈ [none, some (.semaphore 3 1 false d), some (.graph 7 d), some (.port 3 4 d)], ((at_ w).script 1).running = true ∧ ((at_ w).script 1).timeout ≠ 0xFFFFFFFF ∧ ((at_ w).script 1).began + ((at_ w).script 1).timeout.toNat * 1000 ≤ (at_ w).htime ∧ ((at_ w).script 1).wait = w) ∧
    cawtLook ((at_ none).port 3) 4 = some (BitVec.ofNat 32 2) ∧ cawtLook { request := some (2, 7, 5, 0, 1) } 4 = none ∧
    (let s := tUp [] fun t => t; s.cur = some tCur ∧ tCur.who = .thread 2 ∧ (s.thread 2).scout = none) ∧
    (let st : Stream := { wait := some (.script 1 0x1000 7) }; let s : State := { State.reset with ctxs := [(2, { streams := [(4, st)] })] }
     (s.script 1).running = false ∧ s.ctxs = [(2, ({ streams := [(4, st)] } : Ctx))] ∧ st.wait = some (.script 1 0x1000 7) ∧ streamRoom s 2 = true ∧ streamRoom { s with ctxs := [(2, { streams := [(4, st)], jprod := 1 })] } 2 = false ∧ ∀ x ∈ State.reset.ctxs, ∀ y ∈ x.2.streams, ∀ pc arg, y.2.wait ≠ some (.script 1 pc arg)) :=
  ⟨by decide, by decide, by decide, by decide, by decide, by decide, by decide, by decide, by decide, by decide⟩

/-- A graph image of one operation (kind 5, a semaphore's increment) at the start of the mapped page. -/
def gOp : GOp := { kind := 1, path := 0x42, peer := 9, len := 4, mtch := 6 }
def gGraph (o : GOp) (r : GRun) (st : Nat := 2) : Graph := { state := st, ctx := 2, run := 8, ops := [o], runs := [r], bases := [0x4000000000] }
def grState (o : GOp) (r : GRun) (st : Nat := 2) : State :=
  { qState [(4, 7), (6, 0), (7, 0x40)] with graphs := [(7, gGraph o r st)], mem := [(0x10000, 1)], hub := { State.reset.hub with lrt := [(9, 0x80000009)] } }
theorem witness_GraphsLoadRunAndEnd : let s := grState gOp {} 1; let sc := s.script 1
    (s.cur = some sCur ∧ sCur.who = .script 1 ∧ (3 : Reg).toNat < 32 ∧ (4 : Reg).toNat < 31 ∧ (6 : Reg).toNat < 31 ∧ evenReg 6 = true ∧ evenReg 4 = true) ∧ (sc.val 4).toNat = 7 ∧ 8 ≤ ((s.script 1).val 7).toNat ∧
    (s.graph 7).state = 1 ∧ (s.graph 7).ctx = sc.ctx ∧ (sc.pair 6).toNat % 64 = 0 ∧ ((grState gOp {} 2).graph 7).state = 2 ∧ (s.graph 0).state = 0 ∧ sc.val 6 = 0 ∧ sc.val 7 ≠ 0 ∧
    (∃ s1 h, scriptRead s 1 (sc.pair 6) 64 0 = .ok s1 h ∧ ∃ s2 l, scriptRead s1 1 (sc.pair 6) (64 + 64 * 1) 0 = .ok s2 l) ∧ ∃ s1 l, scriptRead s 1 (sc.pair 6) 128 0 = .ok s1 l :=
  ⟨by decide, by decide, by decide, by decide, by decide, by decide, by decide, by decide, by decide, by decide, ⟨_, _, rfl, _, _, rfl⟩, _, _, rfl⟩
theorem witness_GraphsLoadRunAndEnd_orders : (graphOf (List.replicate 4 0 ++ List.replicate 60 0) 0).2 = 0 := by decide
theorem witness_GraphsLoadRunAndEnd_operations :
    let rdy := fun (s : State) => (7 < 8 ∧ (s.graph 7).state = 2 ∧ 0 < (s.graph 7).ops.length ∧ 0 < (s.graph 7).runs.length ∧ ((s.graph 7).runs.getD 0 {}).done = false ∧ ((s.graph 7).runs.getD 0 {}).deps = 0 ∧
      ((s.graph 7).runs.getD 0 {}).fault = none ∧ s.hub.cxldn = [] : Prop)
    let sem : GOp := { kind := 5, doff := 255, soff := 1 }; let cp : GOp := { kind := 4, len := 4 }; let rx : GOp := { gOp with kind := 2 }
    (rdy (grState sem {}) ∧ ∀ y ∈ (grState sem {}).scripts, y.2.wait = none) ∧
    (rdy (grState cp {}) ∧ writesBlocked ((grState cp {}).graph 7) 0 = false) ∧ ¬ ((grState gOp {}).port 3).leased = true ∧ (let z : GOp := { gOp with len := 0 }; rdy (grState z {}) ∧ z.kind = 1 ∧ z.len = 0) ∧ (cp.len ≠ 0 ∧ onOtherPath (grState gOp { clear := true }) (graphAsker 7) 9 (pathTo (grState gOp {}) 2 9) 1 = false) ∧
    (rdy (grState gOp { clear := true }) ∧ hasRoute (grState gOp {}) (pathTo (grState gOp {}) 2 9) 9 = true ∧ writesBlocked ((grState rx {}).graph 7) 0 = false ∧ ({ clear := true } : GRun).bytes < gOp.len) ∧
    (rdy (grState gOp { clear := true, bytes := 4 }) ∧ gOp.len ≤ 4 ∧ gOp.len ≠ 0) ∧ (rdy (grState rx {}) ∧ rx.kind = 2 ∧ rx.path = 0x42) := by decide +kernel
theorem witness_GraphsLoadRunAndEnd_reaches : let s := grState { kind := 4, len := 4 } {}; hubReach 2 false s (segsOf 0x4000000000 4) = (s, .ok [(0x10000, 4)]) ∧ hubReach 2 true s (segsOf 0x4000000000 4) = (s, .ok [(0x10000, 4)]) :=
  ⟨by decide +kernel, by decide +kernel⟩
/-- A GCLEAR or GDATA of chip 9 for match number 6 and run 8. -/
def gPacket (off : Nat) (data : List Byte) : Packet := ⟨5, 1, 31, 64, 2, 9, 0, 0, 0, off, 6 * 2 ^ 32 + 8, data⟩
theorem witness_GraphsLoadRunAndEnd_packets : let rx : GOp := { gOp with kind := 2, len := 8 }; let s := grState rx { clear := true, bytes := 4 }; let p := gPacket 4 [1, 2, 3, 4]
    (pairedOp (grState gOp {}) (gPacket 0 []) true = some (7, 0) ∧ 0 < ((grState gOp {}).graph 7).runs.length ∧ ((grState gOp {} 1).graph 7).state ≠ 2) ∧ (pairedOp s p true = none ∧ pairedOp s p false = some (7, 0) ∧ hasRoute s (pathTo s (s.graph 7).ctx 9) 9 = true) ∧
    pairedOp (grState gOp {}) (gPacket 0 []) false = none ∧ (s.hub.cxldn = [] ∧ (gPacket 0 [1]).off < 4) ∧ (p.off = 4 ∧ 0 < p.data.length ∧ p.off + p.data.length = rx.len ∧ (gPacket 4 [1]).off + (gPacket 4 [1]).data.length < rx.len) ∧
    (let r : GRun := { clear := true, bytes := 4, buf := [(1, false), (2, false), (3, false), (4, false)] }; r.buf ≠ [] ∧ r.buf.length = r.bytes ∧ r.fault = none) := by decide
theorem witness_GraphsLoadRunAndEnd_lands : let rx : GOp := { gOp with kind := 2, len := 8 }; let s := grState rx { clear := true, bytes := 4 }
    hubReach 2 true s (segsOf (rx.dst (s.graph 7)) rx.len) = (s, .ok [(0x10000, 8)]) ∧ hubReach 2 false s (segsOf (gOp.src (s.graph 7)) gOp.len) = (s, .ok [(0x10000, 4)]) := ⟨rfl, rfl⟩

/-- A rotation record at the start of the mapped page: instance 5, ring 4, 2 slots, 1 consumer, block 128 × 16 bytes, base 0. -/
def rBytes : List Byte := bytesOf 5 4 ++ bytesOf 4 4 ++ bytesOf (2 * 65536 + 1) 4 ++ bytesOf 1 4 ++ bytesOf 0x4000000000 8 ++ bytesOf 9 4 ++ bytesOf 9 4 ++ bytesOf 0x42 4 ++ List.replicate 28 0
def rRot : Rotation := { state := 1, ctx := 2, inst := 5, ring := 4, slots := 2, cons := 1, blk := 1, base := 0x4000000000, nextc := 9, prevc := 9, npath := 0x42, own := 2, fnxt := 2, got := [(0, 128)] }
def roState (r : Option Rotation) (a : Word := 3) : State :=
  { qState [(4, a), (6, 0), (7, 0x40)] with rots := r.toList.map fun x => (3, x), mem := ((List.range 64).zip rBytes).filterMap (fun x => if x.2 = 0 then none else some (0x10000 + x.1, x.2)), hub := { State.reset.hub with lrt := [(9, 0x80000009)] } }
theorem witness_RotationsTurn : let s := roState none; let sc := s.script 1; let t := roState (some rRot)
    (s.cur = some sCur ∧ sCur.who = .script 1 ∧ evenReg 6 = true) ∧ (sc.val 4).toNat = 3 ∧ 4 ≤ (((roState none 4).script 1).val 4).toNat ∧ (s.rot 3).state = 0 ∧ (sc.pair 6).toNat % 64 = 0 ∧ (t.rot 3).state = 1 ∧
    (t.rot 3).ctx = sc.ctx ∧ sc.val 7 ≠ 0 ∧ sc.val 6 = 0 ∧ (3 : Reg).toNat < sc.regs.length ∧ (∀ y ∈ s.scripts, y.2.wait = none) ∧ ({ rRot with state := 3 } : Rotation).state ≠ 1 ∧
    (∃ q, parseRot rBytes = some q ∧ hasRoute s (pathTo s 2 q.prevc) q.prevc = true) ∧ parseRot [] = none := by
  refine ⟨by decide, by decide, by decide, by decide, by decide, by decide, by decide, by decide, by decide, by decide, by decide, by decide, ⟨_, rfl, by decide⟩, by decide⟩
theorem witness_RotationsTurn_read : let s := roState none; (match scriptRead s 1 ((s.script 1).pair 6) 64 0 with | .ok x l => decide (x = s ∧ l = rBytes) | _ => false) = true ∧
    ¬ (∃ j < 4, (s.rot j).state ≠ 0 ∧ (s.rot j).ctx = (s.script 1).ctx ∧ (s.rot j).inst = BitVec.ofNat 32 (natOf (rBytes.take 4))) := ⟨by decide +kernel, by decide⟩
/-- An RDATA of chip 9 for instance 5: generation 0, block k, from its first byte. -/
def rPacket (k : Nat) : Packet := ⟨5, 3, 31, 64, 2, 9, 0, 0, 0, 0, 5 * 2 ^ 32 + k, [1, 2, 3, 4]⟩
/-- A thread of the rotation's context waits in RACQ for a block of it while a script ends it at once; its answer is there. -/
theorem witness_RotationsTurn_waiting : let t := roState (some rRot); let s := { t with launches := [{ tLaunch with ctx := 2 }], teams := [tTeam], threads := [{ tThread [] with status := .waiting (.racq 3 5 1) }] }; let th := tUp [] fun t => { t with reply := some ⟨bytesOf (5 * 256) 4 ++ bytesOf 0 4, false, 0, 0⟩ }
    s.hasThread 2 = true ∧ (s.thread 2).status = .waiting (.racq 3 (s.rot 3).inst 1) ∧ (s.launchOfThread (s.thread 2)).ctx = (s.rot 3).ctx ∧ (1#32).toNat < (s.rot 3).ring ∧ (th.thread 2).reply = some ⟨bytesOf (5 * 256) 4 ++ bytesOf 0 4, false, 0, 0⟩ ∧
    (let f := tUp [] fun t => { t with reply := some ⟨[], false, 2, 0⟩ }; ∃ v, (f.thread 2).reply = some v ∧ v.cause ≠ 0) := ⟨by decide, by decide, by decide, by decide, by decide, _, rfl, by decide⟩
theorem witness_RotationsTurn_packets : let s := roState (some rRot); let r := s.rot 3; let p := rPacket 1; let k := vaLo p % 65536
    rotIndex s p = some 3 ∧ rotIndex (roState none) p = none ∧ r.gen = vaLo p / 65536 ∧ r.gen ≠ vaLo (rPacket 65537) / 65536 ∧ r.state = 1 ∧ 0 < k ∧ k < r.ring ∧ k < r.own ∧ p.off = tget 0 r.got k ∧ 0 < p.data.length ∧
    p.off + p.data.length ≤ r.bytes ∧ r.fault = none ∧ s.hub.cxldn = [] ∧ (∃ i < 4, (s.rot i).state ≠ 0) ∧ hasRoute s (pathTo s 2 9) 9 = true := by decide
theorem witness_RotationsTurn_lands : let s := roState (some rRot); ∃ q, hubReach 2 true s (segsOf ((s.rot 3).slotVa 1 + BitVec.ofNat 64 0) 4) = (s, .ok [(q, 4)]) := ⟨_, rfl⟩
/-- Block 0 stands whole in its slot and the next chip has room for block 1. -/
def fRot (sent : Nat) : Rotation := { rRot with got := [(0, rRot.bytes)], fsent := sent }
theorem witness_RotationsTurn_forward : let s := roState (some (fRot 0)); let r := s.rot 3; let l := r.bytes - 4
    (3 < 4 ∧ r.state = 1 ∧ r.fwd + 1 < r.ring ∧ r.arrived r.fwd = true ∧ r.fwd + 1 < r.fnxt) ∧ r.pend = [] ∧ r.fault = none ∧ (∀ y ∈ s.scripts, y.2.wait = none) ∧ onOtherPath s (rotAsker s 3) r.nextc (pathTo s r.ctx r.nextc) 3 = false ∧ ({ r with npath := 3 } : Rotation).npath < 48 ∧ ¬ (s.port 3).leased = true ∧ r.npath = 0x42 ∧
    hasRoute s (pathTo s 2 9) 9 = true ∧ 0 + min 256 (r.bytes - 0) < r.bytes ∧ r.bytes ≤ l + min 256 (r.bytes - l) ∧ ¬ (({ r with fnxt := 0 } : Rotation).fwd + 1 < 0) := by decide
theorem witness_RotationsTurn_forward_reads : let s := roState (some (fRot 0)); ∃ q, hubReach 2 false s (segsOf ((s.rot 3).slotVa 0 + BitVec.ofNat 64 0) 256) = (s, .ok [(q, 256)]) := ⟨_, rfl⟩
/-- A thread of context 0 that names index 3, instance 5 and block k. -/
def raState (r : Option Rotation) (k : Word) : State := { tState [0, 0, 3, 5, k] with rots := r.toList.map fun x => (3, x) }
theorem witness_RotationsTurn_threads : let m := { rRot with ctx := 0, got := [(0, rRot.bytes)] }; let s := raState (some m) 0; let th := tThread [0, 0, 3, 5, 0]; let r := s.rot 3
    Runs s 2 tCur th ∧ CounterFree th no ∧ no.ok = true ∧ evenReg 2 = true ∧ evenReg 10 = true ∧ Readable th (pairRegs 2 ++ [4]) ∧ Exist th (pairRegs 10) ∧ th.reply = none ∧ (∀ y ∈ s.scripts, ∀ j e, y.2.wait ≠ some (.rotation j e)) ∧ (th.val 2).toNat % 4 = 3 ∧ r.ctx = (s.launchOfThread th).ctx ∧
    r.inst = hiWord (th.pair 2) ∧ (th.val 4).toNat < r.ring ∧ r.ring ≤ ((tThread [0, 0, 3, 5, 4]).val 4).toNat ∧ r.state = 1 ∧ r.freed 0 = false ∧ r.arrived 0 = true ∧ r.arrived 1 = false ∧ tget 0 r.rels 0 < r.cons ∧
    ({ r with rels := [(0, 1)], fwd := 1 } : Rotation).freed 0 = true ∧ (({ r with rels := [(0, 1)] } : Rotation).cons ≤ 1) ∧ ((raState none 0).rot 3).state = 0 ∧ ((raState (some rRot) 0).rot 3).ctx ≠ (s.launchOfThread th).ctx ∧ unplaced s th = false ∧ unplaced s { th with hostOut := 1 } = true :=
  ⟨⟨rfl, rfl, rfl, by decide, rfl⟩, by unfold CounterFree; decide, by decide, by decide, by decide, by unfold Readable; decide, by unfold Exist; decide, by decide, (fun y hy => nomatch hy), by decide, by decide, by decide, by decide, by decide, by decide, by decide,
    by decide, by decide, by decide, by decide, by decide, by decide, by decide, by decide, by decide⟩

/-! ### Streams, contexts, the host, management, the step -/

/-- Stream 4 of context 2 at a packet, with a mapped writable page at 0x40_0000_0000 and tables that map it too. -/
def hCur : Cur := { who := .stream 2 4, addr := 0x104, word := 0, next := 0x108, hdr := 0x100, last := false, pos := 0, exe := 0 }
def hStream : Stream := { en := true, fresh := false, lsize := 10, tail := 64, bufs := [{ word := 1, hdr := some 0x18000000 }], pkt := some (0x104, 0x108, 1) }
def hState (st : Stream) (mem : List Host.Cell := fTable) : State :=
  { State.reset with cur := some hCur, ctxs := [(2, { en := true, active := true, root := 0x100000, jlog := 8, streams := [(4, st)] })], pinned := [⟨2, 0x4000000000, 0, 0x10000, true, 1⟩], mem := mem }
def hLoop (n : Nat) : Stream := { hStream with bufs := [{ word := 1, hdr := some 0x18000000, loops := List.replicate n ⟨0x100, 3, 1⟩ }] }
theorem witness_HearthPacketsComplete : let s := hState hStream
    let hits := fun (va : DWord) (size : Nat) (write : Bool) (off : Nat) => ∃ phys, translateNow s 0 2 va write = (s, .ok phys) ∧ spotOf s phys = some (.mem off) ∧
      agentWaits s off size write = (s, false) ∧ s.hub.cxldn = []
    (s.stream 2 4).pkt = some (0x104, 0x108, 1) ∧ s.hub.cxldn = [] ∧ s.cur = some hCur ∧ hCur.who = .stream 2 4 ∧ Instr.wf (.predw 6 0 0 0) = false ∧ (tCur.who = .thread 2 ∧ ((tState []).thread 2).scout = none) ∧ sCur.who = .script 1 ∧
    ((0x4000000000#64).toNat % 4 = 0 ∧ canonical 0x4000000000 = true ∧ canonical 0x8000000000000000 = false ∧ (s.stream 2 4).bufs.length < 5) ∧ hits 0x4000000000 4 false 0x10000 ∧ hits 0x4000000000 8 true 0x10000 ∧ s.anyPoison 0x10000 4 = false :=
  ⟨by decide, by decide, by decide, by decide, by decide, by decide, by decide, by decide, ⟨_, rfl, by decide, by rfl, by decide⟩, ⟨_, rfl, by decide, by rfl, by decide⟩, by decide⟩
theorem witness_HearthPacketsComplete_flow : let two : Stream := { hStream with bufs := { clause := 0x4000000000 } :: hStream.bufs }; let five : Stream := { hStream with bufs := List.replicate 5 {} }
    5 ≤ ((hState five).stream 2 4).bufs.length ∧ ((hState two).stream 2 4).bufs = ({ clause := 0x4000000000 } : Buffer) :: hStream.bufs.headD {} :: [] ∧ ((hState hStream).stream 2 4).bufs.length ≤ 1 ∧
    4 ≤ (((hState (hLoop 4)).stream 2 4).bufs.map fun b => b.loops.length).sum ∧ (((hState (hLoop 3)).stream 2 4).bufs.map fun b => b.loops.length).sum < 4 ∧
    (((hState (hLoop 1)).stream 2 4).bufs.headD {}).loops = ⟨0x100, 3, 1⟩ :: [] ∧ (1 + 1 < 3) ∧ (3 ≤ 2 + 1) := by decide
theorem witness_HearthPacketsComplete_waits : let s := hState hStream; let w : Stream := { hStream with wait := some (.semaphore 255 1 true 7) }
    let p := { s with ctxs := [(2, { s.ctx 2 with streams := [(3, w), (4, hStream)] })] }; let un := hState hStream []
    (∀ y ∈ s.scripts, y.2.wait = none) ∧ (∀ y ∈ (s.ctx 2).streams, y.2.wait = none) ∧ ((p.ctx 2).streams = [(3, w), (4, hStream)] ∧ 3 < 4 ∧ 1#64 ≤ p.sem 2 255 + 1) ∧ s.sem 2 255 < 1 ∧ 0#64 ≤ s.sem 2 255 ∧
    (s.script 1).running = false ∧ ((qState []).script 1).running = true ∧ (∃ kind level, (translateNow { un with pinned := [] } 0 2 0x4000000000 false).2 = .fault kind level) :=
  ⟨by decide, by decide, by decide, by decide, by decide, by decide, by decide, 0, 3, by decide +kernel⟩
/-- The entry's place is free, or a flip runs; the journal has room, or is full. -/
theorem witness_HearthPacketsComplete_room : let s := hState hStream; quietAt s 0x10000 32 = true ∧ quietAt { s with flips := [⟨2, 3, true, [1]⟩] } 0x10000 32 = false ∧ streamRoom s 2 = true ∧
    streamRoom { s with ctxs := [(2, { jlog := 8, jprod := 256 })] } 2 = false := by decide
theorem witness_HearthPacketsComplete_sems : let s := { hState hStream with pinned := [⟨2, 0x4000000000, 0, 0x7F0000020000, true, 1⟩] }; ∃ phys, translateNow s 0 2 0x4000000008 true = (s, .ok phys) ∧ spotOf s phys = some (.block .sems 0x20008) :=
  ⟨_, rfl, by decide⟩
/-- PREDW of a port register, and of a semaphore, which it may not read. -/
theorem witness_HearthPacketsComplete_blocks : let at_ := fun o : Nat => { hState hStream with pinned := [⟨2, 0x4000000000, 0, 0x7F0000000000 + o, true, 1⟩] }
    (∃ phys, translateNow (at_ 0x140000) 0 2 0x4000000008 false = (at_ 0x140000, .ok phys) ∧ spotOf (at_ 0x140000) phys = some (.block .ports 8)) ∧
    (∃ phys, translateNow (at_ 0) 0 2 0x4000000008 false = (at_ 0, .ok phys) ∧ spotOf (at_ 0) phys = some (.block .sems 8)) := ⟨⟨_, rfl, by decide⟩, _, rfl, by decide⟩
theorem witness_HearthPacketsComplete_pin : let s := hState hStream; let x : Xlate := ⟨2, 0x4000000000, 2, 0, true, 1⟩; let full := { s with pinned := List.replicate 65536 ⟨3, 0, 0, 0, false, 1⟩ }
    let pins := fun (s : State) => match pinPages s 2 (0x4000000000 + 0x10000 - 1) 1 0x4000000000 with | .ok l => l == [x] | .error _ => false
    let bad := fun (s : State) => match pinPages s 2 (0x4000000000 + 0x10000 - 1) 1 0x4000000000 with | .error none => true | _ => false
    (0x4000000000#64).toNat % 65536 = 0 ∧ (0x10000#64).toNat % 65536 = 0 ∧ (0x10000#64) ≠ 0 ∧ pins s = true ∧ ([x].foldl pinOne s.pinned).length ≤ 65536 ∧ bad { s with mem := [] } = true ∧ pins full = true ∧
      65536 < ([x].foldl pinOne full.pinned).length := by
  refine ⟨by decide, by decide, by decide, by decide +kernel, by decide, by decide +kernel, by decide +kernel, ?_⟩
  simp only [List.foldl_cons, List.foldl_nil, pinOne, List.any_replicate]
  rw [if_neg (by decide), List.length_append, List.length_replicate, List.length_singleton]
  exact Nat.lt_succ_self _
theorem witness_HearthPacketsComplete_bias : let s := hState hStream; biasFrames 2 4 s ((List.range ((0x10000#64).toNat / 65536)).map fun k => (0x4000000000#64) + BitVec.ofNat 64 (65536 * k)) = (s, some [1]) ∧ s.flips = [] ∧
    (∀ g ∈ [1], nmem s.bias g = false ∧ ∀ f ∈ s.flips, g ∉ f.frames) ∧ (∃ g ∈ [1], nmem s.bias g ≠ true) ∧
    (let q := { s with flips := [⟨2, 3, true, [1]⟩] }; ∃ g ∈ [1], ∃ f ∈ q.flips, g ∈ f.frames) := ⟨by rfl, by decide, by decide, by decide, 1, by decide, _, List.mem_singleton.mpr rfl, by decide⟩
/-- A launch record of one team of 16 threads, 8 registers, ENTRY 0x1000, partition boundaries 1. -/
def hRecord : List Host.Cell := [(0x10001, 0x10), (0x10018, 1), (0x1001C, 1), (0x10020, 1), (0x10026, 2), (0x10027, 1), (0x1002C, 1), (0x1002D, 1), (0x1002E, 1)]
theorem witness_HearthPacketsComplete_launch : let s := hState hStream hRecord; let z := hState hStream []; let f := fun s : State => (parseLaunch (s.bytes 0x10000 256))
    let taken := { s with launches := [{ ctx := 2 }] }
    (∃ b, streamRead s 2 4 0x4000000000 256 0 = .ok s b) ∧ (0x4000000000#64).toNat % 64 = 0 ∧ launchWaits s 2 = false ∧ launchWaits taken 2 = true ∧ (launchStatus s (f s).1 (f s).2 = 0 ∧ (f s).1.x * (f s).1.y * (f s).1.z ≠ 0) ∧
    launchStatus z (f z).1 (f z).2 ≠ 0 := ⟨⟨_, rfl⟩, by decide, by decide, by decide, by decide +kernel, by decide +kernel⟩
theorem witness_HearthPacketsComplete_flip : let f : Flip := ⟨2, 4, true, [1]⟩; let s := { hState { hStream with wait := some .flip } with flips := [f] }
    s.flips = [f] ∧ flipClear s f = true ∧ (s.stream f.ctx f.stream).wait = some .flip ∧ ((hState hStream).stream 2 4).wait ≠ some .flip ∧ State.reset.flips = [] ∧
    flipClear { s with cores := [(0, { tCore with tags := [(5, { team := 1, copy := some { tCopy with ctx := 2, shape := { tCopy.shape with ctrl := 0x004000AA }, src := 0x4000000000, dst := 0x4000000080 } })] })] } f = false := by decide +kernel

/-- Stream 63 of context 3: its table entry, at 0x600000 + 32 × 63, says base 0x1000, LOG2 10, enabled, TAIL 8. -/
def zEntry (hi size tail : Byte) : List Host.Cell := [(0x6007E1, 0x10), (0x6007E8, size), (0x6007EB, hi), (0x6007F0, tail)].filter (·.2 != 0)
def zCtx (st : Stream) : Ctx := { en := true, active := true, stab := 0x600000, jlog := 8, jbase := 0x500000, streams := [(63, st)] }
def zStream (st : Stream) (hi size tail : Byte) (noted : List (Nat × Nat × Nat × Nat) := []) : State := { State.reset with ctxs := [(3, zCtx st)], mem := zEntry hi size tail, noted := noted }
theorem witness_ContextsStreamsAndJournal : let on : Stream := { en := true, fresh := false, lsize := 10 }; let e := 0x600000 % 2 ^ 47 + 32 * 63; let base := fun s : State => BitVec.ofNat 64 (s.num e 8)
    let word := fun s : State => s.num (e + 8) 4; let tail := fun s : State => s.num (e + 16) 8; let a := zStream on 0x80 10 8; let f := zStream {} 0x80 10 8
    let free := fun s : State => match placesWait s [(e, 32)] false with | (t, w) => decide (t = s) && !w; let n := fun v : Nat × Nat => zStream on 0x80 10 8 [(4, 63, 1, 9), (3, 63, v), (3, 63, 0, 0)]
    (nextNoted (n (1, 8)) 3 63 = some (1, 8) ∧ nextNoted (n (0, 1)) 3 63 = some (0, 1) ∧ nextNoted (n (0, 0)) 3 63 = some (0, 0) ∧ nextNoted a 3 63 = none ∧ free (n (0, 1)) = true) ∧
    ((a.ctx 3).active = true ∧ (a.stream 3 63).en = true ∧ (a.stream 3 63).badTail = false ∧ (a.stream 3 63).tail ≤ 8 ∧ 8 ≤ (a.stream 3 63).head + 2 ^ 10 ∧ 8 < (zStream { on with tail := 9 } 0x80 10 8).htime + 9 ∧ (a.stream 3 63).head ≤ tail a) ∧
    ((f.ctx 3).active = true ∧ (f.stream 3 63).en = false ∧ (word f).testBit 31 = true ∧ (f.stream 3 63).fresh = true ∧ (base f).toNat % 4096 = 0 ∧ 10 ≤ word f % 32 ∧ word f % 32 ≤ 24 ∧
      ¬ (word f / 2 ^ 5 % 2 ^ 19 ≠ 0 ∨ word f / 2 ^ 26 % 2 ^ 5 ≠ 0 ∨ f.num (e + 12) 2 ≠ 0) ∧ f.num (e + 24) 8 ≤ tail f) ∧
    (word (zStream {} 0x80 9 8) % 32 < 10 ∧ word (zStream {} 0x84 10 8) / 2 ^ 26 % 2 ^ 5 ≠ 0 ∧ ({ en := false, fresh := false } : Stream).fresh = false ∧ (base { f with mem := [(0x6007E0, 1)] }).toNat % 4096 ≠ 0) ∧
    ((word (zStream on 0 10 8)).testBit 31 = false ∧ ((zStream on 0 10 8).stream 3 63).en = true) := by decide +kernel
/-- Context 15's record at 0x100000: tables at 0x200000, fault log, journal, stream table and aside pool behind them. -/
def zRecord : List Host.Cell := [(0x10000A, 2), (0x100012, 4), (0x100018, 6), (0x100022, 5), (0x100028, 8), (0x100032, 6), (0x10003A, 7)]
def zEnable (rec_ : DWord) (m : List Host.Cell) : State := { State.reset with hub := { State.reset.hub with stage := 3 }, ctxs := [(15, { cxrec := rec_ })], mem := m }
theorem witness_ContextsStreamsAndJournal_enable : let s := zEnable 0x10000 zRecord; let bad := zEnable 0x10000 []; let far := zEnable 0x7FFFFFFFFFFFFFF []
    let rec_ := fun s : State => (s.ctx 15).cxrec.toNat * 16; let ok := fun s : State => (parseContext s (s.ctx 15) (s.bytes (offOf (rec_ s)) 128)).2
    15 < 16 ∧ (s.ctx 15).en = false ∧ inMemory s (rec_ s) 128 false = true ∧ s.anyPoison (offOf (rec_ s)) 128 = false ∧ s.hub.cxldn = [] ∧ rec_ s % 64 = 0 ∧ ok s = true ∧ ok bad = false ∧ inMemory far (rec_ far) 128 false = false ∧ s.hub.stage = 3 ∧ HubDue.enable 15 ∉ s.hubq ∧ decide (enableWaits s 15 = (s, false)) = true ∧ decide (enableWaits bad 15 = (bad, false)) = true ∧
    (enableWaits { s with flips := [⟨2, 3, true, [16]⟩] } 15).2 = true ∧ State.reset.hub.stage ≠ 3 ∧
    ((zStream {} 0 0 0).ctx 3).en = true := by decide +kernel
/-- LABRT names a launch whose threads stand at clause boundaries: it may end at once. -/
theorem witness_ContextsStreamsAndJournal_abort : let s := tUp [] fun t => { t with mid := none }
    launchNamed s 0 0 = some tLaunch ∧ (∀ y ∈ s.launches, y.uid = tLaunch.uid → y.abort = none) ∧ (s.threads.map (·.uid)).Nodup ∧ (∀ y ∈ s.threads, (s.team y.team).launch = tLaunch.uid → y.inClause = false) ∧ ∀ y ∈ s.cores, y.2.anvil = [] := by decide
theorem witness_ContextsStreamsAndJournal_answer : let l : Launch := { tLaunch with rcd := { tLaunch.rcd with svbase := 0x4000000000, svlog := 4, park := 0x4000100000 } }; let v : DWord := 3
    let s := { tUp [] (fun t => { t with status := .parked (some 3) }) with launches := [l], pinned := [⟨0, 0x4000000000, 0, 0x10000, true, 0⟩] }; let s0 := s.setCtx 0 { s.ctx 0 with svrpl := v }; let th := s.thread 2
    launchNamed s 0 0 = some l ∧ launchNamed s 0 1 = none ∧ hiWord v = 0 ∧ l.abort = none ∧ s.hasThread 2 = true ∧ th.status = .parked (some (v.toNat % 2 ^ 16)) ∧ th.hold = none ∧ (s.team th.team).launch = l.uid ∧ s.launchOfThread th = l ∧
    (∀ y ∈ s.threads, y.status = .parked (some 3) → (s.team y.team).launch = l.uid → y.uid = 2) ∧ (s.team th.team).place = .resident ∧ hubReach 0 false s0 (segsOf (serviceAt l.rcd 3 + 0x20) 32) = (s0, .ok [(0x101A0, 32)]) ∧
    s.anyPoison 0x101A0 32 = false ∧ s.hub.cxldn = [] := ⟨by decide, by decide, by decide, by decide, by decide, by decide, by decide, by decide, by decide, by decide, by decide, rfl, by decide, by decide⟩
theorem witness_ContextsStreamsAndJournal_records : let r : JRec := ⟨255, 0x104, 0, 63, 1, 1, 0, 0, 0, none⟩; let q : Stream := { en := true, wait := some .journal, bufs := [{}, {}] }
    let s := fun (r : JRec) => ({ State.reset with ctxs := [(3, { zCtx q with jqueue := [r] })] } : State)
    ∀ k ∈ [0, 2], let s := s { r with kind := k }; (s.ctx 3).jqueue = [{ r with kind := k }] ∧ journalRoom s 3 = true ∧ s.hub.cxldn = [] ∧ r.sem = none ∧ (match placesWait s [(0x500000 + 32 * (r.seq % 2 ^ 64 % 2 ^ 8), 32), (0x500000 + 32 * 2 ^ 8, 8)] true with | (t, w) => decide (t = s) && !w) = true ∧ (s.stream 3 63).wait = some .journal ∧ 1 < (s.stream 3 63).bufs.length ∧
      journalRoom { s with ctxs := [(3, { zCtx q with jqueue := [r], jprod := 256 })] } 3 = false := by decide +kernel

theorem witness_HostRequestsAndRegisterWrites : let s := { State.reset with hub := { State.reset.hub with hlopen := true } }; let d : List Byte := [1, 2]
    d ≠ [] ∧ State.reset.hub.hlopen = false ∧ blockOf 0x1FFFE = none ∧ (∀ i < d.length, isMemory s (0x1FFFE + i) = true) ∧ pieceSize 0x1FFFE d.length = d.length ∧ pieceSize 0x1FFFF d.length < d.length ∧ s.hostq = [] ∧ ({ s with hostq := [{ write := true, off := 8, data := d }] } : State).hostq ≠ [] ∧
    s.hub.cxldn = [] ∧ s.anyPoison 0x1FFFE 2 = false ∧ (blockOf 0x7F0000700000 = none ∧ ∃ i < d.length, isMemory s (0x7F0000700000 + i) = false) ∧ blockOf 0x7F0000140BFC = some (.ports, 0xBFC) ∧
    (blockOf 0x7F0000000000 = some (.sems, 0) ∧ mayWrite .host .sems = false) ∧ 0x7F0000140BFC < 0x7F00001B0000 := by decide
/-- A piece is held while its frame flips, whatever stands in the queue, and free without. -/
theorem witness_HostRequestsAndRegisterWrites_pieces : let s := { State.reset with hub := { State.reset.hub with hlopen := true } }; let fl := { s with flips := [⟨0, 0, true, [1]⟩] }
    (∀ q, (agentHeld { fl with hostq := q } 0x1FFFE 2 true).2 = true) ∧ (∀ q, agentHeld { s with hostq := q } 0x1FFFE 2 true = ({ s with hostq := q }, false)) ∧ (∀ q, agentHeld { s with hostq := q } 0x1FFFE 2 false = ({ s with hostq := q }, false)) ∧
    ∀ q, agentHeld { s with hostq := q } 0x1FFFF 1 true = ({ s with hostq := q }, false) := by
  have h : ∀ l : List (Loc × Nat), l.findSome? (fun _ => (none : Option (Nat × LockHit))) = none := fun l => by induction l <;> simp_all
  refine ⟨fun q => by rfl, fun q => ?_, fun q => ?_, fun q => ?_⟩ <;>
    simp [agentHeld, flipping, loggedOver, lockWait, locksHit, lockHolders, State.reset, snapshotHit, waitingSnapshots, h]
theorem witness_HostRequestsAndRegisterWrites_answers : let g := { State.reset with hub := { State.reset.hub with mgbusy := true } }; let t := tUp [] fun t => { t with hostOut := 1, hold := some .hostLink }
    let n := { State.reset with snoops := [7] };let p := hState { hStream with wait := some (.host 0 7 9) }; let k := { State.reset with scripts := [(3, { sScript with wait := some (.host 5 4 false) })] }
    g.hub.mgbusy = true ∧ (7 ∈ n.snoops ∧ 8 ∉ n.snoops) ∧ (t.hasThread 2 = true ∧ (t.thread 2).uid = 2 ∧ (t.thread 2).hostOut ≠ 0 ∧ (t.thread 2).hold = some .hostLink) ∧ State.reset.hasThread 2 = false ∧ (4 < 64 ∧ (p.stream 2 4).wait = some (.host 0 7 9)) ∧
    ((k.script 3).running = true ∧ (k.script 3).wait = some (.host 5 4 false) ∧ ([1, 2, 3, 4] : List Byte).length = 4) ∧ (5 < 6 ∧ 0 < ({ State.reset.hub with cxl := 1 } : Hub).cxl ∧ State.reset.hub.mcbase = 0) := by decide

/-- A frozen machine with one turn of the test port to come. -/
def zFrozen : State := { State.reset with frozen := true, agenda := [⟨1, 1, .jtag 0x21⟩] }
theorem witness_FrozenUntilModuleReset : zFrozen.frozen = true ∧ zFrozen.agenda = [⟨1, 1, .jtag 0x21⟩] ∧ (⟨1, 1, .jtag 0x21⟩ : Turn).act ≠ .event .moduleReset ∧ (⟨1, 1, .jtag 0x21⟩ : Turn).act ≠ .event .loadFirmwareImage := by decide
theorem witness_FrozenUntilModuleReset_free : ∃ t, step { zFrozen with agenda := [] } = .next t := by
  have free : ∀ (s : State) (a : Act), ∃ t, frozenAct s a = .next t := by
    intro s a
    unfold frozenAct
    split
    · cases h : decodeJtag _ <;> first | exact ⟨_, rfl⟩ | (simp only [decodeJtag] at h; split at h <;> simp at h)
    all_goals exact ⟨_, rfl⟩
  simp only [step, nextTurn, zFrozen, Bool.not_true, Bool.and_false, Bool.false_and, Bool.false_eq_true, if_false]
  split <;> (rw [runTurn, if_pos rfl]; exact free _ _)

/-- The boot's first two stages, and populations of the second tier: two ports of one capacity, three, two of different ones, too large ones, a port missing. -/
theorem witness_ManagementClockAndTestPort_boot : (State.reset.agenda = [] ∧ State.reset.frozen = false ∧ State.reset.hub.stage = 0) ∧
    (let s := { State.reset with hub := { State.reset.hub with stage := 1 } }; s.agenda = [] ∧ s.frozen = false ∧ s.hub.stage = 1) ∧
    (let l := [(0, 5), (1, 5)]; l.length ∈ [1, 2, 4, 8] ∧ 5 ≤ 2 ^ 41 ∧ (∀ x ∈ l, x.2 = 5) ∧ ∀ p < l.length, ∃ x ∈ l, x.1 = p) ∧ [(0, 5), (1, 5), (2, 5)].length ∉ [1, 2, 4, 8] ∧
    (∃ x ∈ [(0, 5), (1, 6)], x.2 ≠ ([(0, 5), (1, 6)].headD (0, 0)).2) ∧ 2 ^ 41 < ([(0, 2 ^ 41 + 1)].headD (0, 0)).2 ∧ (∃ p < [(1, 5)].length, ∀ x ∈ [(1, 5)], x.1 ≠ p) :=
  ⟨by decide, by decide, ⟨by decide, by decide, by decide, by decide⟩, by decide, by decide, by decide, 0, by decide, by decide⟩

/-- The values of an image are free (log entry 9): each premise about one is met or refuted by `imageParts` itself. -/
theorem witness_ManagementClockAndTestPort : let g := fun (cmd : Byte) (buf : List Byte) => ({ State.reset with hub := { State.reset.hub with mgbusy := true, mgcmd := cmd, mgnext := 0xFF, mgbuf := buf } } : State)
    let going := fun (s : State) (cmd : Byte) => s.hub.mgbusy = true ∧ s.hub.mgcmd = cmd ∧ s.hub.mgnext = 0xFF
    let j := fun n : Nat => ({ State.reset with jtag := { State.reset.jtag with ir := n } } : State)
    (∀ cmd ∈ [1, 2, 3, 4], going (g cmd (List.replicate 32 0)) cmd ∧ ¬ going State.reset cmd) ∧ ((g 1 []).hub.mgbuf = [] ∧ (g 1 [0]).hub.mgbuf ≠ [] ∧ (g 1 [0]).hub.mgbuf.length ≠ 32 ∧ (g 1 (List.replicate 32 0)).hub.mgbuf.length = 32) ∧
    (let h := { (g 3 []).hub with mgnext := 0 }; h.mgbusy = true ∧ h.mgnext ≠ 0xFF) ∧ State.reset.hub.hotSince = none ∧ (let s := { State.reset with htime := 1000000000, hub := { State.reset.hub with hotSince := some 0, mcbase := 1 } }
      s.hub.hotSince = some 0 ∧ 0 + 1000000000 ≤ s.htime ∧ s.hub.cxldn = [] ∧ s.hub.mcbase ≠ 0) ∧ (State.reset.hub.pwrlim.toNat < 3601 ∧ 725 ≤ State.reset.hub.fclk.toNat) ∧
    ((j 1).jtag.ir = 0x01 ∧ (j 0x20).jtag.ir = 0x20 ∧ (List.range 16).map (0x8001).testBit = (List.range 16).map (0x8001).testBit ∧ (j 0x21).frozen = false ∧ ({ j 0x21 with frozen := true } : State).jtag.at_ = 0 ∧
      (j 0xFF).jtag.ir ∉ [0x00, 0x01, 0x02, 0x20, 0x21]) := by decide

/-- A bundle, a script and a stream at a NOP, the words fetched, with their turn to come. -/
theorem witness_StepRunsTheDecodedInstruction : let b := { pBundle with pos := 1, todo := [2] }; let s := { pState { pCore with pick0 := some b } { pThread with pc := 0xF4, mid := some 0xF0 } with agenda := [⟨1, 1, .picker 0 0 0⟩] }
    let k := { sState with agenda := [⟨1, 1, .script 1⟩] }
    (settle { s with agenda := [], cur := none, cycle := 1, htime := 1 } = { s with agenda := [], cur := none, cycle := 1, htime := 1 }) ∧ (s.frozen = false ∧ s.agenda = [⟨1, 1, .picker 0 0 0⟩] ∧ (s.core 0).pick0 = some b ∧ b.todo = [2] ∧ decode .core (b.words.getD (b.pos - 1) 0) ((b.words.drop b.pos).take (contRun b.hdr b.pos)) = .ok .nop ∧ (b.cur { s with agenda := [], cur := none, cycle := 1, htime := 1 } 2).last = true) ∧
    (decode .core 0 [] = .error .unassigned ∧ isTransfer (fOp 0) = false ∧ mustEnd (fOp 0) = false ∧ (s.thread 2).scout = none) ∧
    (settle { k with agenda := [], cur := none, cycle := 1, htime := 1 } = { k with agenda := [], cur := none, cycle := 1, htime := 1 } ∧ scriptDue k 1 = true) ∧ (k.frozen = false ∧ (k.script 1).running = true ∧ (k.script 1).wait = none ∧ (k.script 1).header = some 0x100 ∧ hdrN ((k.script 1).words.headD 0) ≤ (k.script 1).pos + contRun ((k.script 1).words.headD 0) (k.script 1).pos ∧
      decode .bellows ((k.script 1).words.getD (k.script 1).pos 0) [] = .ok .nop ∧ decode .bellows 0xFF000000 [] = .error .unassigned) := by decide
theorem witness_StepRunsTheDecodedInstruction_stream : let st : Stream := { hStream with pkt := none, bufs := [{ word := 1, hdr := some 0x18000000, fetched := [(4, 0x0A000000)] }] }; let s := { hState st with agenda := [⟨1, 1, .stream 2 4 0⟩] }
    let s0 := { s with agenda := [], cur := none, cycle := s.cycle + 1, htime := s.htime + 1 }; let pos := (st.bufs.headD {}).word; let run := contRun 0x18000000 pos; let at_ := st.wordVa pos
    (s.frozen = false ∧ settle s0 = s0 ∧ st.headDue = false ∧ streamDue s0 2 4 = true ∧ (s.ctx 2).active = true ∧ (s.stream 2 4) = st ∧ st.en = true ∧ st.wait = none ∧ st.badTail = false ∧ st.skip = none ∧ (st.bufs.headD {}).hdr = some 0x18000000) ∧
    (let s1 := (pastStream s0 2 4).setStream 2 4 { st with pkt := some (at_, st.wordVa (pos + 1 + run), 0) }; streamWords 2 4 s1 ((from_ pos (run + 1)).map st.wordVa) = (s1, some (0x0A000000 :: [])) ∧
      streamRoom (s1.setStream 2 4 { s1.stream 2 4 with pkt := some (at_, st.wordVa (pos + 1 + run), fOp 0x0A000000), wait := none }) 2 = true) ∧
    (hearthMustEnd (fOp 0x0A000000) = false ∨ hdrN 0x18000000 ≤ pos + run) ∧ decode .hearth 0x0A000000 [] = .ok (.jmark 0) ∧ ∃ e, decode .hearth 0xFF000000 [] = .error e :=
  ⟨by decide, ⟨by rfl, by decide⟩, by decide, by decide, _, rfl⟩

/-- A quiet machine, and turns in which another chip takes and drops its lock. -/
theorem witness_StepRunsTheDecodedInstruction_quiet : let s := tState []
    (∀ l ∈ s.launches, l.abort = none) ∧ (∀ t ∈ s.threads, t.inEpisode = false) ∧ s.hubq = [] ∧ s.hostq = [] ∧ s.served = [] ∧ s.commitq = [] ∧ (∀ f ∈ s.faults, f.retry = false) ∧ (∀ t ∈ s.threads, ∀ i, t.status ≠ .parked i) ∧ (∀ t ∈ s.teams, ∀ g, spillGroup s (s.team t.uid) g = s) ∧ s.cwords = [] ∧
    (let f : FarLock := ⟨9, 0, 3, 1, 0x10000, 128, true⟩; ∀ b, ({ s with agenda := [⟨1, 1, .farLock f b⟩] } : State).agenda = [⟨1, 1, .farLock f b⟩]) :=
  ⟨by decide, by decide, rfl, rfl, rfl, rfl, by decide, by intro t ht i; simp [tState] at ht; subst ht; simp [tThread], fun t ht g => by
    simp [tState] at ht; subst ht
    simp [spillGroup, tState, tThread, List.filter_cons], rfl, fun _ => rfl⟩
theorem witness_MemoryStaysCanonical : Memory.wf [((5 : Nat), (1 : Byte))] = true ∧ ∃ t, step { zFrozen with mem := [(5, 1)] } = .next t := ⟨by decide, _, rfl⟩
theorem witness_DecodeAndEncodeAgree : (Instr.wf (.iaddLiteral 63 63 0xFFFFFFFF) = true ∧ (Instr.iaddLiteral 63 63 0xFFFFFFFF).space = some .core ∧ scriptAdmits (.iaddLiteral 31 31 0xFFFFFFFF) = true ∧
    ∃ w ks, encode (.iaddLiteral 31 31 0xFFFFFFFF) = w :: ks ∧ 1 ≤ fOp w ∧ fOp w ≤ 0x1F) ∧ (Instr.loop 0xFFFFFFFF).space = some .hearth ∧ Instr.wf (.loop 0xFFFFFFFF) = true ∧ (Instr.semw 3 4 6).space = some .bellows ∧ Instr.wf (.semw 3 4 6) = true ∧
    (∃ i, decode .core 0x220C0820 [] = .ok i) ∧ 0x21 < 256 ∧ 0xFF ∉ [0x00, 0x01, 0x02, 0x20, 0x21] := ⟨⟨by decide, by decide, by decide, _, _, rfl, by decide, by decide⟩, by decide, by decide, by decide, by decide, ⟨_, rfl⟩, by decide, by decide⟩

/-- Storage errors: a register of thread 2, an accumulator row of its team, a DRAM granule, a unit's state. -/
theorem witness_HostRequestsAndRegisterWrites_errors : let s := mState mRegs {}; let th := tThread mRegs
    s.hub.mcbase = 0 ∧ (s.hasThread 2 = true ∧ (s.teamOf (s.thread 2)).place = .resident ∧ 8 < (s.thread 2).regs.length) ∧
    (s.teams.any (·.uid == th.team) = true ∧ (s.team th.team).place = .resident ∧ 1 < accUnits (s.core ((s.team th.team).core + 0))) ∧
    isDram (16 * 0x5FFFFFFFF) = true ∧ s.hub.mcctl = 1 := by decide
end Sys2Proof.Tests
end

section
/-! PROOF. The host's requests and register writes, interrupts, answers over HueriLink, exclusion bits, CXL links, scrubbing
and errors of storage (R4, R5, R107, R110, R133, R268, R271, R275, R280-R286): what each instruction does, and the
obligation assembled from it. -/
namespace Sys2Proof.Machine

/-! ### Tables and number lists written twice or by a fold -/

theorem tins_tins {α : Type} (t : Tab α) (n : Nat) (a b : α) : tins (tins t n a) n b = tins t n b := by
  induction t with
  | nil => simp [tins]
  | cons x t ih =>
    obtain ⟨k, v⟩ := x
    rcases Nat.lt_trichotomy n k with h | h | h
    · simp [tins, h]
    · simp [tins, h]
    · simp [tins, Nat.not_lt_of_gt h, Nat.ne_of_gt h, ih]

/-- A running script is no default entry, so setting it twice is setting it once, in any table. -/
theorem State.setScript_setScript {a b : Script} (s : State) (k : Nat) (ha : a.running = true) (hb : b.running = true) :
    (s.setScript k a).setScript k b = s.setScript k b := by
  have listed : ∀ {x : Script}, x.running = true → x ≠ {} := by rintro x hx rfl; cases hx
  simp only [State.setScript, tset, if_neg (listed ha), if_neg (listed hb), tins_tins]

theorem nmem_foldl_nins (l p : List Nat) (x : Nat) : nmem (l.foldl nins p) x = (nmem p x || l.contains x) := by
  induction l generalizing p with
  | nil => simp
  | cons y l ih =>
    rw [List.foldl_cons, ih, nmem_nins, List.contains_cons]
    cases x == y <;> simp

theorem nmem_foldl_nput (l : List Nat) (a n : Nat) (on : Nat → Bool) (x : Nat) :
    nmem ((List.range n).foldl (fun l i => nput l (a + i) (on i)) l) x =
      if a ≤ x ∧ x < a + n then on (x - a) else nmem l x := by
  induction n with
  | zero => rw [if_neg (by omega)]; rfl
  | succ n ih =>
    rw [List.range_succ, List.foldl_append, List.foldl_cons, List.foldl_nil, nmem_nput, ih]
    by_cases hx : x = a + n
    · rw [if_pos hx, if_pos (by omega), hx, Nat.add_sub_cancel_left]
    · rw [if_neg hx]
      exact if_congr (by omega) rfl rfl

/-! ### Memory while every CXL link is up (R284) -/

theorem lost_eq_false {s : State} (h : s.hub.cxldn = []) (off : Nat) : lost s off = false := by
  simp [lost, h, nmem]

theorem lostLines_eq_nil {s : State} (h : s.hub.cxldn = []) (off n : Nat) : lostLines s off n = [] := by
  simp [lostLines, lost_eq_false h]

theorem State.write_eq_poke {s : State} (h : s.hub.cxldn = []) (off : Nat) (l : List Byte) (p : Bool) :
    s.write off l p = s.poke off l p := by
  simp [State.write, lostLines_eq_nil h]

theorem State.read_eq {s : State} (h : s.hub.cxldn = []) (off n : Nat) :
    s.read off n = (s, s.bytes off n, s.anyPoison off n) := by
  simp [State.read, lostLines_eq_nil h]

/-- A write that is not dropped changes memory, its marks and what the Hearth has noted, and nothing else. -/
theorem State.poke_eq {s : State} {off : Nat} (h : lost s off = false) (l : List Byte) (p : Bool) :
    ∃ poison dirty noted, s.poke off l p = { s with mem := putBytes s.mem off l, poison, dirty, noted } := by
  unfold State.poke
  rw [h]
  exact ⟨_, _, _, rfl⟩

/-! ### An agent's access that may have to wait (R101, R108, R117, R119, R124) -/

theorem wantAside_eq (s : State) (core tag line : Nat) : ∃ cores, wantAside s core tag line = { s with cores } := by
  unfold wantAside
  dsimp only
  split
  · exact ⟨_, rfl⟩
  · exact ⟨_, rfl⟩

theorem lockWait_eq (s : State) (ls : List Loc) (write : Bool) : ∃ cores, (lockWait s ls write).1 = { s with cores } := by
  unfold lockWait
  split
  · exact ⟨_, rfl⟩
  · exact wantAside_eq ..
  · exact ⟨_, rfl⟩

/-- Looking whether an access must wait changes at most a copy's wanted lines. -/
theorem agentHeld_eq (s : State) (off n : Nat) (write : Bool) : ∃ cores, (agentHeld s off n write).1 = { s with cores } := by
  unfold agentHeld
  split
  · exact ⟨_, rfl⟩
  · exact lockWait_eq ..

/-! ### Host requests (R107, R110, R280, R285) -/

/-- What the host may ask of an offset that is no block: bytes of memory, with HueriLink open. -/
theorem hostMay_memory_iff {s : State} {off : Nat} (hb : blockOf off = none) (w : Bool) (n : Nat) :
    hostMay s w off n = true ↔ s.hub.hlopen = true ∧ n ≠ 0 ∧ ∀ i < n, isMemory s (off + i) = true := by
  simp [hostMay, hb, linkOpen, and_assoc]

theorem hostRequest_refused {s : State} {w : Bool} {off : Nat} {data : List Byte} (h : ¬ hostMay s w off data.length = true) :
    exec (.hostRequest w off data) s = .next (s.send (.hostReply [] [] false)) := by
  show execHostRequest w off data s = _
  simp [execHostRequest, h]

theorem hostRequest_queued {s : State} {w : Bool} {off : Nat} {data : List Byte} (h : hostMay s w off data.length = true)
    (hq : s.hostq ≠ []) :
    exec (.hostRequest w off data) s = .next { s with hostq := s.hostq ++ [{ write := w, off := off, data := data }] } := by
  show execHostRequest w off data s = _
  simp [execHostRequest, h, hq]

theorem hostRequest_served {s : State} {w : Bool} {off : Nat} {data : List Byte} (h : hostMay s w off data.length = true)
    (hq : s.hostq = []) :
    exec (.hostRequest w off data) s = .next (serveHost { s with hostq := [{ write := w, off := off, data := data }] }) := by
  show execHostRequest w off data s = _
  simp [execHostRequest, h, hq]

theorem hostMay_memory {s : State} {off : Nat} {data : List Byte} {w : Bool} (hb : blockOf off = none) (ho : s.hub.hlopen = true)
    (hd : data ≠ []) (hmem : ∀ i < data.length, isMemory s (off + i) = true) : hostMay s w off data.length = true :=
  (hostMay_memory_iff hb w _).mpr ⟨ho, (List.length_pos_iff.mpr hd).ne', hmem⟩

theorem hostRequest_closed {s : State} {w : Bool} {off : Nat} {data : List Byte} (ho : s.hub.hlopen = false)
    (hb : blockOf off = none) : exec (.hostRequest w off data) s = .next (s.send (.hostReply [] [] false)) := by
  refine hostRequest_refused fun hm => ?_
  obtain ⟨hopen, -⟩ := (hostMay_memory_iff hb w _).mp hm
  simp [ho] at hopen

theorem hostRequest_not_memory {s : State} {w : Bool} {off : Nat} {data : List Byte} (hb : blockOf off = none)
    (h : ∃ i < data.length, isMemory s (off + i) = false) :
    exec (.hostRequest w off data) s = .next (s.send (.hostReply [] [] false)) := by
  obtain ⟨i, hi, him⟩ := h
  refine hostRequest_refused fun hm => ?_
  obtain ⟨-, -, hall⟩ := (hostMay_memory_iff hb w _).mp hm
  simp [hall i hi] at him

/-- The oldest request's piece is held: only the look at it is left in the state. -/
theorem serveHost_held {s : State} {r : HostReq} {rest : List HostReq} (hq : s.hostq = r :: rest) (hb : blockOf r.off = none)
    (hh : (agentHeld s (r.off + r.done) (pieceSize (r.off + r.done) (r.data.length - r.done)) r.write).2 = true) :
    ∃ cores, serveHost s = { s with cores } := by
  obtain ⟨cores, hc⟩ := agentHeld_eq s (r.off + r.done) (pieceSize (r.off + r.done) (r.data.length - r.done)) r.write
  refine ⟨cores, ?_⟩
  rw [← hc]
  simp only [serveHost, hq, hb]
  split
  next heq => rw [heq]
  next heq => rw [heq] at hh; cases hh

/-- The oldest request's piece is free: it is performed, and the request is answered when it was its last. -/
theorem serveHost_free {s s2 : State} {r r2 : HostReq} {rest : List HostReq} {at_ k : Nat} (hq : s.hostq = r :: rest)
    (hb : blockOf r.off = none) (hat : r.off + r.done = at_) (hk : pieceSize at_ (r.data.length - r.done) = k)
    (hh : agentHeld s at_ k r.write = (s, false)) (hp : r.piece s k = (s2, r2)) :
    serveHost s = if r.data.length ≤ r2.done then { s2 with hostq := rest }.send r2.answer else { s2 with hostq := r2 :: rest } := by
  simp only [serveHost, hq, hb, hat, hk, hh, hp]

theorem HostReq.piece_write {s : State} {r : HostReq} (hw : r.write = true) (hu : s.hub.cxldn = []) (n : Nat) :
    r.piece s n = (s.poke (r.off + r.done) ((r.data.drop r.done).take n) false, { r with done := r.done + n }) := by
  simp [HostReq.piece, hw, State.write_eq_poke hu]

theorem HostReq.piece_read {s : State} {r : HostReq} (hw : r.write = false) (hu : s.hub.cxldn = []) (n : Nat) :
    let at_ := r.off + r.done
    let back := r.back ++ (s.bytes at_ n).zip ((List.range n).map fun i => s.poisoned (at_ + i))
    r.piece s n = (s, { r with done := r.done + n, back := back }) := by
  simp [HostReq.piece, hw, State.read_eq hu, lost_eq_false hu]

/-- A piece that lies in the request's data: a write puts those bytes into memory, a read changes nothing there. -/
theorem HostReq.piece_eq {s : State} {r : HostReq} (hu : s.hub.cxldn = []) {n : Nat} (hn : r.done + n ≤ r.data.length) :
    ∃ mem poison dirty noted back,
      r.piece s n = ({ s with mem, poison, dirty, noted }, { r with done := r.done + n, back }) ∧
      ∀ k, tget unlisted mem k = if r.write = true ∧ r.off + r.done ≤ k ∧ k < r.off + r.done + n then r.data.getD (k - r.off) 0
        else s.byte k := by
  by_cases hw : r.write = true
  · obtain ⟨poison, dirty, noted, hp⟩ := State.poke_eq (lost_eq_false hu (r.off + r.done)) ((r.data.drop r.done).take n) false
    refine ⟨_, poison, dirty, noted, r.back, (HostReq.piece_write hw hu n).trans (congrArg (·, _) hp), fun k => ?_⟩
    have hlen : ((r.data.drop r.done).take n).length = n := by simp; omega
    rw [tget_putBytes, hlen]
    by_cases hk : r.off + r.done ≤ k ∧ k < r.off + r.done + n
    · have hin : k - (r.off + r.done) < n := by omega
      have hat : r.done + (k - (r.off + r.done)) = k - r.off := by omega
      simp [hk, hw, List.getD_eq_getElem?_getD, hin, hat]
    · rw [if_neg hk, if_neg fun h => hk h.2]
      rfl
  · exact ⟨s.mem, s.poison, s.dirty, s.noted, _, HostReq.piece_read (by simpa using hw) hu n, fun k => by simp [hw, State.byte]⟩

/-- A read's answer carries the bytes read, and marks no granule when none of them is poisoned. -/
theorem HostReq.answer_read (off : Nat) (data : List Byte) (done : Nat) {l : List Byte} {flags : List Bool}
    (hl : l.length = flags.length) :
    ∃ marks, HostReq.answer ⟨false, off, data, done, l.zip flags⟩ = .hostReply l marks true ∧
      ((∀ b ∈ flags, b = false) → ∀ b ∈ marks, b = false) := by
  refine ⟨_, by simp only [HostReq.answer, List.map_fst_zip hl.le]; rfl, fun hf b hb => ?_⟩
  obtain ⟨i, -, rfl⟩ := List.mem_map.mp hb
  rw [List.any_eq_false]
  rintro ⟨⟨x, m⟩, j⟩ hx
  have hm : m ∈ flags := (List.of_mem_zip (List.fst_mem_of_mem_zipIdx hx)).2
  simp [hf m hm]

theorem HostReq.answer_write {r : HostReq} (hw : r.write = true) : r.answer = .hostReply [] [] true := by
  simp [HostReq.answer, hw]

/-! #### The first piece of a request at memory -/

section
variable {s : State} {off : Nat} {data : List Byte} {w : Bool} (hm : hostMay s w off data.length = true)
  (hb : blockOf off = none) (hq : s.hostq = [])
include hm hb hq

theorem hostRequest_held (hh : ∀ q, (agentHeld { s with hostq := q } off (pieceSize off data.length) w).2 = true) :
    ∃ cores, exec (.hostRequest w off data) s = .next { s with cores, hostq := [{ write := w, off := off, data := data }] } := by
  obtain ⟨cores, h⟩ := serveHost_held (s := { s with hostq := [{ write := w, off := off, data := data }] }) rfl hb (hh _)
  exact ⟨cores, by rw [hostRequest_served hm hq, h]⟩

variable {k : Nat} (hk : pieceSize off data.length = k) (hu : s.hub.cxldn = [])
  (hh : ∀ q, agentHeld { s with hostq := q } off k w = ({ s with hostq := q }, false))
include hk hh

/-- A request whose first piece nothing holds: it is performed, and the request is answered or stays in front. -/
theorem hostRequest_piece {s2 : State} {r2 : HostReq}
    (hp : HostReq.piece { s with hostq := [⟨w, off, data, 0, []⟩] } ⟨w, off, data, 0, []⟩ k = (s2, r2)) :
    exec (.hostRequest w off data) s = .next (if data.length ≤ r2.done then { s2 with hostq := [] }.send r2.answer
      else { s2 with hostq := [r2] }) := by
  rw [hostRequest_served hm hq]
  exact congrArg _ (serveHost_free (r := ⟨w, off, data, 0, []⟩) rfl hb rfl hk (hh _) hp)

include hu

theorem hostRequest_first (hn : k < data.length) :
    ∃ t r, exec (.hostRequest w off data) s = .next t ∧ t.hostq = [r] ∧ r.done = k ∧ r.data = data ∧ t.sent = s.sent ∧
      ∀ a, t.byte a = if w = true ∧ off ≤ a ∧ a < off + k then data.getD (a - off) 0 else s.byte a := by
  obtain ⟨mem, poison, dirty, noted, back, hp, hbyte⟩ := HostReq.piece_eq (s := { s with hostq := [⟨w, off, data, 0, []⟩] })
    (r := ⟨w, off, data, 0, []⟩) hu (n := k) (by simpa using hn.le)
  exact ⟨_, ⟨w, off, data, _, back⟩, (hostRequest_piece hm hb hq hk hh hp).trans (congrArg _ (if_neg (by simpa using hn))), rfl,
    Nat.zero_add _, rfl, rfl, hbyte⟩

theorem hostRequest_read_whole (hn : k = data.length) (hw : w = false) :
    ∃ t marks, exec (.hostRequest w off data) s = .next t ∧ t.sent = s.sent ++ [.hostReply (s.bytes off data.length) marks true] ∧
      t.mem = s.mem ∧ (s.anyPoison off data.length = false → ∀ b ∈ marks, b = false) := by
  subst hw hn
  obtain ⟨marks, ha, hmarks⟩ := HostReq.answer_read off data (0 + data.length)
    (l := s.bytes off data.length) (flags := (List.range data.length).map fun i => s.poisoned (off + i)) (by simp [State.bytes])
  have hp := hostRequest_piece hm hb hq hk hh (HostReq.piece_read (r := ⟨false, off, data, 0, []⟩) rfl (by exact hu) _)
  refine ⟨_, marks, hp.trans (congrArg _ (if_pos (by simp))), congrArg (s.sent ++ [·]) ha, rfl, fun hpois => hmarks fun b hb => ?_⟩
  obtain ⟨i, hi, rfl⟩ := List.mem_map.mp hb
  simpa using List.any_eq_false.mp hpois i hi

theorem hostRequest_write_whole (hn : k = data.length) (hw : w = true) :
    ∃ t, exec (.hostRequest w off data) s = .next t ∧ t.sent = s.sent ++ [.hostReply [] [] true] ∧ t.threads = s.threads ∧
      ∀ a, t.byte a = if off ≤ a ∧ a < off + data.length then data.getD (a - off) 0 else s.byte a := by
  subst hw hn
  obtain ⟨mem, poison, dirty, noted, back, hp, hbyte⟩ := HostReq.piece_eq (s := { s with hostq := [⟨true, off, data, 0, []⟩] })
    (r := ⟨true, off, data, 0, []⟩) hu (n := data.length) (by simp)
  exact ⟨_, (hostRequest_piece hm hb hq hk hh hp).trans (congrArg _ (if_pos (by simp))),
    congrArg (s.sent ++ [·]) (HostReq.answer_write rfl), rfl, fun a => (hbyte a).trans (by simp; rfl)⟩

end

/-! ### Register writes (R4, R5, R92) -/

theorem registerWrite_ignored {s : State} {who : Agent} {off size : Nat} {v : DWord}
    (h : ∀ b o, blockOf off = some (b, o) → blockShape off size = false ∨ mayWrite who b = false ∨
      (who = .host ∧ linkOpen s (some b) = false)) :
    exec (.registerWrite who off size v) s = .next s := by
  show execRegisterWrite who off size v s = _
  unfold execRegisterWrite
  split
  next b o hb => rw [if_neg]; rcases h b o hb with hs | hm | ⟨rfl, hl⟩ <;> simp [*]
  next => rfl

theorem registerWrite_unassigned {s : State} {who : Agent} {off size : Nat} {v : DWord}
    (h : blockOf off = none ∨ (size ≠ 4 ∧ size ≠ 8) ∨ off % size ≠ 0) : exec (.registerWrite who off size v) s = .next s := by
  refine registerWrite_ignored fun b o hb => .inl ?_
  rcases h with h | ⟨h4, h8⟩ | h
  · rw [hb] at h; cases h
  · simp [blockShape, h4, h8]
  · simp [blockShape, h]

theorem registerWrite_not_admitted {s : State} {who : Agent} {off size : Nat} {v : DWord} {b : Block} {o : Nat}
    (hb : blockOf off = some (b, o)) (hw : mayWrite who b = false) : exec (.registerWrite who off size v) s = .next s := by
  refine registerWrite_ignored fun b' o' hb' => .inr (.inl ?_)
  obtain ⟨rfl, -⟩ : b = b' ∧ o = o' := by simpa [hb] using hb'
  exact hw

theorem registerWrite_performed {s : State} {who : Agent} {off size o : Nat} {b : Block} {v : DWord} (ho : s.hub.hlopen = true)
    (hb : blockOf off = some (b, o)) (hs : blockShape off size = true) (hw : mayWrite who b = true) :
    exec (.registerWrite who off size v) s = .next (writeBlock s b o size v) := by
  show execRegisterWrite who off size v s = _
  simp [execRegisterWrite, hb, hs, hw, linkOpen, ho]

/-- Below the management block no offset belongs to it, so the host reaches nothing there before HueriLink opens (R285). -/
theorem blockOf_ne_mgmt {off o : Nat} {b : Block} (h : off < 0x7F00001B0000) (hb : blockOf off = some (b, o)) : b ≠ .mgmt := by
  rintro rfl
  have hlow : ¬ 0x1B0000 ≤ off - 0x7F0000000000 := by omega
  simp [blockOf, hlow, ite_eq_iff] at hb

theorem registerWrite_closed {s : State} {who : Agent} {off size : Nat} {v : DWord} (ho : s.hub.hlopen = false) (hw : who = .host)
    (hoff : off < 0x7F00001B0000) : exec (.registerWrite who off size v) s = .next s := by
  refine registerWrite_ignored fun b o hb => .inr (.inr ⟨hw, ?_⟩)
  simp [linkOpen, ho, blockOf_ne_mgmt hoff hb]

/-- The port block lies at 0x140000, 64 bytes a port. -/
theorem blockOf_port {p r : Nat} (hp : p < 48) (hr : r < 0x40) :
    blockOf (0x7F0000140000 + 0x40 * p + r) = some (.ports, 0x40 * p + r) := by
  simp only [blockOf, Bool.and_eq_true, decide_eq_true_eq]
  rw [if_neg (by omega), if_neg (by omega), if_neg (by omega), if_neg (by omega), if_pos (by omega)]
  simp; omega

/-- A write of 4 bytes to a port's register, by any agent. -/
theorem registerWrite_port {s : State} (ho : s.hub.hlopen = true) (who : Agent) {p r : Nat} (v : DWord) (hp : p < 48) (hr : r < 0x40)
    (h4 : r % 4 = 0) :
    exec (.registerWrite who (0x7F0000140000 + 0x40 * p + r) 4 v) s = .next (portWrite s (0x40 * p + r) (loWord v)) := by
  have hs : blockShape (0x7F0000140000 + 0x40 * p + r) 4 = true := by simp [blockShape]; omega
  exact registerWrite_performed ho (blockOf_port hp hr) hs rfl

theorem registerWrite_port_pair {s : State} (ho : s.hub.hlopen = true) (who : Agent) {p r : Nat} (v : DWord) (hp : p < 48)
    (hr : r < 0x40) (h8 : r % 8 = 0) :
    exec (.registerWrite who (0x7F0000140000 + 0x40 * p + r) 8 v) s =
      .next (portWrite (portWrite s (0x40 * p + r) (loWord v)) (0x40 * p + (r + 4)) (hiWord v)) := by
  have hs : blockShape (0x7F0000140000 + 0x40 * p + r) 8 = true := by simp [blockShape]; omega
  exact registerWrite_performed ho (blockOf_port hp hr) hs rfl

theorem portWrite_unc (s : State) (p : Nat) (w : Word) : portWrite s (0x40 * p + 0x18) w = s.setPort p { s.port p with punc := w } := by
  have hp : (0x40 * p + 0x18) / 0x40 = p := by omega
  have hr : (0x40 * p + 0x18) % 0x40 = 0x18 := by omega
  simp only [portWrite, hp, hr]

theorem portWrite_corr_low (s : State) (p : Nat) (w : Word) :
    portWrite s (0x40 * p + 0x10) w = s.setPort p { s.port p with pcorr := pairOf w (hiWord (s.port p).pcorr) } := by
  have hp : (0x40 * p + 0x10) / 0x40 = p := by omega
  have hr : (0x40 * p + 0x10) % 0x40 = 0x10 := by omega
  have h8 : (0x40 * p + 0x10) % 8 = 0 := by omega
  simp [portWrite, hp, hr, h8]

theorem portWrite_corr_high (s : State) (p : Nat) (w : Word) :
    portWrite s (0x40 * p + 0x14) w = s.setPort p { s.port p with pcorr := pairOf (loWord (s.port p).pcorr) w } := by
  have hp : (0x40 * p + 0x14) / 0x40 = p := by omega
  have hr : (0x40 * p + 0x14) % 0x40 = 0x14 := by omega
  have h8 : (0x40 * p + 0x14) % 8 = 4 := by omega
  simp [portWrite, hp, hr, h8]

/-- PSTAT (0x00) and LTAG (0x24) take no write (R5, R197). -/
theorem portWrite_readOnly (s : State) (p : Nat) (w : Word) {r : Nat} (hr : r = 0 ∨ r = 0x24) : portWrite s (0x40 * p + r) w = s := by
  have hmod : (0x40 * p + r) % 0x40 = r := by omega
  rcases hr with rfl | rfl <;> simp only [portWrite, hmod]

theorem registerWrite_punc {s : State} (ho : s.hub.hlopen = true) (who : Agent) {p : Nat} (v : DWord) (hp : p < 48) :
    exec (.registerWrite who (0x7F0000140000 + 0x40 * p + 0x18) 4 v) s = .next (s.setPort p { s.port p with punc := loWord v }) := by
  rw [registerWrite_port ho who v hp (by decide) (by decide), portWrite_unc]

theorem registerWrite_port_readOnly {s : State} (ho : s.hub.hlopen = true) (who : Agent) {p r : Nat} (v : DWord) (hp : p < 48)
    (hr : r = 0 ∨ r = 0x24) : exec (.registerWrite who (0x7F0000140000 + 0x40 * p + r) 4 v) s = .next s := by
  rw [registerWrite_port ho who v hp (by omega) (by omega), portWrite_readOnly s p _ hr]

theorem pairOf_getLsbD (a b : Word) (i : Nat) : (pairOf a b).getLsbD i = if i < 32 then a.getLsbD i else b.getLsbD (i - 32) :=
  BitVec.getLsbD_append

theorem loWord_getLsbD (v : DWord) {i : Nat} (hi : i < 32) : (loWord v).getLsbD i = v.getLsbD i := by
  simp [loWord, hi]

theorem hiWord_getLsbD (v : DWord) {i : Nat} (hi : i < 32) : (hiWord v).getLsbD i = v.getLsbD (32 + i) := by
  simp [hiWord, hi]

theorem loWord_pairOf (a b : Word) : loWord (pairOf a b) = a := by
  refine BitVec.eq_of_getLsbD_eq fun i hi => ?_
  rw [loWord_getLsbD _ hi, pairOf_getLsbD, if_pos hi]

theorem pairOf_loWord_hiWord (v : DWord) : pairOf (loWord v) (hiWord v) = v := by
  refine BitVec.eq_of_getLsbD_eq fun i hi => ?_
  rw [pairOf_getLsbD]
  split
  next h => exact loWord_getLsbD v h
  next h => rw [hiWord_getLsbD v (by omega), Nat.add_sub_cancel' (by omega)]

theorem registerWrite_pcorr {s : State} (ho : s.hub.hlopen = true) (who : Agent) {p : Nat} (v : DWord) (hp : p < 48) :
    exec (.registerWrite who (0x7F0000140000 + 0x40 * p + 0x10) 8 v) s =
      .next ((s.setPort p { s.port p with pcorr := pairOf (loWord v) (hiWord (s.port p).pcorr) }).setPort p { s.port p with pcorr := v }) := by
  rw [registerWrite_port_pair ho who v hp (by decide) (by decide), portWrite_corr_low, portWrite_corr_high]
  simp [loWord_pairOf, pairOf_loWord_hiWord]

theorem registerWrite_pwrlim {s : State} (ho : s.hub.hlopen = true) (v : DWord) :
    exec (.registerWrite .host 0x7F00001A0004 4 v) s = .next { s with hub := { s.hub with pwrlim :=
      if 3600 < (loWord v).toNat then 3600 else if (loWord v).toNat < 1200 then 1200 else loWord v } } :=
  registerWrite_performed ho (b := .telemetry) (o := 4) (by decide) (by decide) rfl

/-! ### Interrupts (R282) -/

theorem clearPending_getLsbD (s : State) (half : Bool) (v : DWord) {i : Nat} (hi : i < 128) :
    let lo := if half then 64 else 0
    (clearPending s half v).hub.hipend.getLsbD i =
      (s.hub.hipend.getLsbD i && !(decide (lo ≤ i ∧ i < lo + 64) && v.getLsbD (i - lo))) := by
  cases half <;> by_cases h : i < 64 <;> simp [clearPending, hi, h] <;> grind

/-- The mask after a write of one half: that half is the value written, the other as before. -/
theorem himaskNew_getLsbD (old : BitVec 128) (half : Bool) (v : DWord) {i : Nat} (hi : i < 128) :
    let lo := if half then 64 else 0
    (if half then (v.setWidth 128 <<< 64) ||| (old.setWidth 64).setWidth 128 else (old >>> 64 <<< 64) ||| v.setWidth 128 :
      BitVec 128).getLsbD i = if lo ≤ i ∧ i < lo + 64 then v.getLsbD (i - lo) else old.getLsbD i := by
  cases half <;> by_cases h : i < 64 <;> simp [hi, h]
  grind

theorem foldl_send_interrupt (l : List Nat) (s : State) :
    l.foldl (fun s i => s.send (.interrupt i)) s = { s with sent := s.sent ++ l.map .interrupt } := by
  induction l generalizing s with
  | nil => simp
  | cons i l ih => rw [List.foldl_cons, ih]; simp [State.send]

theorem writeMask_spec (s : State) (half : Bool) (v : DWord) :
    let lo := if half then 64 else 0
    let named := fun i : Nat => decide (lo ≤ i ∧ i < lo + 64)
    let t := writeMask s half v
    t.hub.hipend = s.hub.hipend ∧
      (∀ i < 128, t.hub.himask.getLsbD i = if named i then v.getLsbD (i - lo) else s.hub.himask.getLsbD i) ∧
      t.sent = s.sent ++ ((List.range 128).filter fun i =>
        named i && s.hub.himask.getLsbD i && !(v.getLsbD (i - lo)) && s.hub.hipend.getLsbD i).map .interrupt := by
  simp only [writeMask, foldl_send_interrupt, decide_eq_true_eq]
  refine ⟨trivial, fun i hi => himaskNew_getLsbD _ half v hi, ?_⟩
  congr 2
  refine List.filter_congr fun i hi => ?_
  rw [himaskNew_getLsbD _ half v (List.mem_range.mp hi)]
  by_cases h : (if half then 64 else 0) ≤ i ∧ i < (if half then 64 else 0) + 64
  · rw [if_pos h, decide_eq_true h, Bool.true_and]
  · simp only [if_neg h, decide_eq_false h, Bool.and_not_self, Bool.false_and]

/-! ### Answers over HueriLink (R107, R133, R286) -/

theorem huerilinkResponse_mgmt {s : State} (h : s.hub.mgbusy = true) (data : List Byte) :
    exec (.huerilinkResponse 0 data) s = .next { s with hub := { s.hub with mgbuf := s.hub.mgbuf ++ data } } := by
  show execHuerilinkResponse 0 data s = _
  simp [execHuerilinkResponse, h]

theorem huerilinkResponse_frame (s : State) (f : Nat) (data : List Byte) :
    exec (.huerilinkResponse (2 ^ 40 + f) data) s = .next (coherenceDone s f) := by
  show execHuerilinkResponse (2 ^ 40 + f) data s = _
  simp [execHuerilinkResponse]

/-- An answer whose number is neither the controller's, a script's, a stream's nor a frame's is a thread's. -/
theorem huerilinkResponse_thread (s : State) {u : Nat} (h0 : 0 < u) (hu : u < 2 ^ 32) (data : List Byte) :
    exec (.huerilinkResponse u data) s = .next (
      if !(s.hasThread u) then s
      else if data == [] && (s.thread u).hostOut != 0 then s.setThread { s.thread u with hostOut := (s.thread u).hostOut - 1 }
      else threadAnswer s (s.thread u) data) := by
  show execHuerilinkResponse u data s = _
  have hframe : ¬ 2 ^ 40 ≤ u := by omega
  have hstream : ¬ 2 ^ 33 ≤ u := by omega
  have hscript : ¬ 2 ^ 32 ≤ u := by omega
  have hctl : (u == 0) = false := by simp; omega
  simp only [execHuerilinkResponse, hframe, hstream, hscript, hctl, if_false, Bool.false_eq_true]

section
variable {s : State} {u : Nat} (h0 : 0 < u) (hu : u < 2 ^ 32)
include h0 hu

theorem huerilinkResponse_no_thread (data : List Byte) (hs : s.hasThread u = false) : exec (.huerilinkResponse u data) s = .next s := by
  rw [huerilinkResponse_thread s h0 hu]
  simp [hs]

theorem huerilinkResponse_acknowledges (hs : s.hasThread u = true) (ho : (s.thread u).hostOut ≠ 0) :
    exec (.huerilinkResponse u []) s = .next (s.setThread { s.thread u with hostOut := (s.thread u).hostOut - 1 }) := by
  rw [huerilinkResponse_thread s h0 hu]
  simp [hs, ho]

theorem huerilinkResponse_held_load {data : List Byte} (hs : s.hasThread u = true) (hd : data ≠ [])
    (hh : (s.thread u).hold = some .hostLink) :
    exec (.huerilinkResponse u data) s = .next (s.setThread { s.thread u with reply := some ⟨data, false, 0, 0⟩ }) := by
  rw [huerilinkResponse_thread s h0 hu]
  simp [hs, hd, threadAnswer, hh]

end

theorem huerilinkResponse_stream {s : State} {c n cc : Nat} {mark : BitVec 16} {val : Word} (data : List Byte) (hc : c < 16)
    (hn : n < 64) (hw : (s.stream c n).wait = some (.host cc mark val)) :
    exec (.huerilinkResponse (2 ^ 33 + 64 * c + n) data) s = .next (predwDone s c n cc mark ((wordsOf data 1).headD 0) val) := by
  show execHuerilinkResponse (2 ^ 33 + 64 * c + n) data s = _
  have hframe : ¬ 2 ^ 40 ≤ 2 ^ 33 + 64 * c + n := by omega
  have hctl : (2 ^ 33 + 64 * c + n == 0) = false := by simp
  have hstream : 2 ^ 33 ≤ 2 ^ 33 + 64 * c + n := by omega
  have hctx : (2 ^ 33 + 64 * c + n - 2 ^ 33) / 64 = c := by omega
  have hidx : (2 ^ 33 + 64 * c + n) % 64 = n := by omega
  simp only [execHuerilinkResponse, hframe, hctl, hstream, hctx, hidx, hw, if_false, if_true, Bool.false_eq_true]

/-- Going on after a wait is going on: `scriptNext` ends the wait itself. -/
theorem scriptNext_setScript_wait {s : State} {k : Nat} {x : Script} (hx : x.running = true) :
    scriptNext (s.setScript k { x with wait := none }) k = scriptNext (s.setScript k x) k := by
  simp only [scriptNext, State.script_setScript, if_true]
  split <;> simp only [State.setScript_setScript, hx]

theorem huerilinkResponse_script {s : State} {k : Nat} {d : Reg} {data : List Byte} (hk : k < 2 ^ 32)
    (hr : (s.script k).running = true) (hw : (s.script k).wait = some (.host d 4 false)) (hd : data.length = 4) :
    exec (.huerilinkResponse (2 ^ 32 + k) data) s = .next (scriptAnswer s k d.toNat (BitVec.ofNat 32 (natOf data))) := by
  show execHuerilinkResponse (2 ^ 32 + k) data s = _
  have hframe : ¬ 2 ^ 40 ≤ 2 ^ 32 + k := by omega
  have hctl : (2 ^ 32 + k == 0) = false := by simp
  have hstream : ¬ 2 ^ 33 ≤ 2 ^ 32 + k := by omega
  have hscript : 2 ^ 32 ≤ 2 ^ 32 + k := by omega
  have hword : loadWords (data.take 4) 4 false = [BitVec.ofNat 32 (natOf data)] := by
    simp [loadWords, wordsOf, List.take_of_length_le hd.le]
  simp only [execHuerilinkResponse, hframe, hctl, hstream, hscript, Nat.add_sub_cancel_left, hw, hword, if_false, if_true,
    Bool.false_eq_true]
  exact congrArg _ (scriptNext_setScript_wait
    (x := { s.script k with regs := lset (s.script k).regs d.toNat (BitVec.ofNat 32 (natOf data)) }) hr)

/-! ### Exclusion bits, CXL links and errors of stored bits (R268, R271, R275, R284) -/

theorem writeWord_cexcl {s : State} {o : Nat} (w : Word) (h1 : 0x20 ≤ o) (h2 : o < 0x50) (k : Nat) :
    nmem (writeWord s .checks o w).hub.cexcl k =
      if 8 * (o - 0x20) ≤ k ∧ k < 8 * (o - 0x20) + 32 then w.getLsbD (k - 8 * (o - 0x20)) else nmem s.hub.cexcl k := by
  have hin : (decide (0x20 ≤ o) && decide (o < 0x50)) = true := by simp [h1, h2]
  rw [← nmem_foldl_nput]
  unfold writeWord
  dsimp only
  split
  case h_7 => rw [if_pos hin]
  all_goals omega

theorem cexclWrite_performed (s : State) {w : Nat} (v : DWord) (hw : w < 6) :
    exec (.cexclWrite w v) s =
      .next (writeWord (writeWord s .checks (0x20 + 8 * w) (loWord v)) .checks (0x20 + 8 * w + 4) (hiWord v)) :=
  congrArg _ (if_pos hw)

theorem cexclWrite_nmem (s : State) {w : Nat} (v : DWord) (hw : w < 6) (k : Nat) :
    nmem (writeWord (writeWord s .checks (0x20 + 8 * w) (loWord v)) .checks (0x20 + 8 * w + 4) (hiWord v)).hub.cexcl k =
      if k / 64 = w then v.getLsbD (k % 64) else nmem s.hub.cexcl k := by
  have hlow : 8 * (0x20 + 8 * w - 0x20) = 64 * w := by omega
  have hhigh : 8 * (0x20 + 8 * w + 4 - 0x20) = 64 * w + 32 := by omega
  rw [writeWord_cexcl _ (by omega) (by omega), writeWord_cexcl _ (by omega) (by omega), hlow, hhigh]
  by_cases hk : k / 64 = w
  · rw [if_pos hk]
    by_cases h : k % 64 < 32
    · have hbit : k - 64 * w = k % 64 := by omega
      rw [if_neg (by omega), if_pos (by omega), hbit, loWord_getLsbD v h]
    · have hbit : 32 + (k - (64 * w + 32)) = k % 64 := by omega
      rw [if_pos (by omega), hiWord_getLsbD v (by omega), hbit]
  · rw [if_neg hk, if_neg (by omega), if_neg (by omega)]

theorem mcRecord_off {s : State} (h : s.hub.mcbase = 0) (sev kind uclass unit : Nat) (launch : Word) (addr : Nat) :
    mcRecord s sev kind uclass unit launch addr = s := by
  simp [mcRecord, h]

/-- With records off, an uncorrectable error of granules sets their marks and nothing else. -/
theorem granuleError_off {s : State} (h : s.hub.mcbase = 0) (uclass unit : Nat) (gs : List Nat) :
    granuleError s uclass unit gs = { s with poison := gs.foldl nins s.poison } :=
  mcRecord_off (s := { s with poison := gs.foldl nins s.poison }) h ..

/-- The two granules of a codeword of DRAM. -/
theorem codeword_contains (g x : Nat) : [g / 2 * 2, g / 2 * 2 + 1].contains x = (x / 2 == g / 2) := by
  rw [Bool.eq_iff_iff]
  simp
  omega

/-- What an uncorrectable error at an entry of a scrub's list poisons: an L2 granule, or a codeword of DRAM, homed in the die. -/
def scrubHits (s : State) (die x g : Nat) : Bool :=
  let y := 16 * (x % 2 ^ 60)
  homeDie y == die && if 2 ^ 60 ≤ x then x % 2 ^ 60 == g && inL2 s y else x / 2 == g / 2 && isDram y

theorem foldl_poison {f : State → Nat → State} {hits : Nat → Nat → Bool} {s : State}
    (hf : ∀ p x, ∃ q, f { s with poison := p } x = { s with poison := q } ∧ ∀ g, nmem q g = (nmem p g || hits x g))
    (l p : List Nat) :
    ∃ q, l.foldl f { s with poison := p } = { s with poison := q } ∧ ∀ g, nmem q g = (nmem p g || l.any (hits · g)) := by
  induction l generalizing p with
  | nil => exact ⟨p, rfl, by simp⟩
  | cons x l ih =>
    obtain ⟨q, hq, hqg⟩ := hf p x
    obtain ⟨r, hr, hrg⟩ := ih q
    exact ⟨r, by rw [List.foldl_cons, hq, hr], fun g => by rw [hrg, hqg, List.any_cons, Bool.or_assoc]⟩

/-- With records off, granules that are poisoned on a condition leave no other trace. -/
theorem markIf_off {s : State} (h : s.hub.mcbase = 0) (p : List Nat) (c : Bool) (gs : List Nat) :
    ∃ q, (∀ uclass unit addr, (if c then mcRecord { s with poison := gs.foldl nins p } 1 6 uclass unit 0 addr
        else { s with poison := p }) = { s with poison := q }) ∧
      ∀ g, nmem q g = (nmem p g || (c && gs.contains g)) := by
  cases c
  · exact ⟨p, fun _ _ _ => rfl, by simp⟩
  · exact ⟨gs.foldl nins p, fun _ _ _ => mcRecord_off (s := { s with poison := gs.foldl nins p }) h .., fun g => nmem_foldl_nins gs p g⟩

theorem scrubPass_poison {s : State} (h : s.hub.mcbase = 0) {die : Nat} (hd : die < 4) (l : List Nat) :
    ∃ q, exec (.scrubPass die false l) s = .next { s with poison := q } ∧
      ∀ g, nmem q g = (nmem s.poison g || l.any (scrubHits s die · g)) := by
  show ∃ q, execScrubPass die false l s = _ ∧ _
  simp only [execScrubPass, if_neg (Nat.not_le_of_lt hd), Bool.false_eq_true, if_false, Host.Outcome.next.injEq]
  refine foldl_poison (s := s) (fun p x => ?_) l s.poison
  by_cases hx : 2 ^ 60 ≤ x
  · obtain ⟨q, hq, hqg⟩ := markIf_off h p (inL2 s (16 * (x % 2 ^ 60)) && homeDie (16 * (x % 2 ^ 60)) == die) [x % 2 ^ 60]
    refine ⟨q, ?_, fun g => ?_⟩
    · simp only [if_pos hx]
      exact hq ..
    · rw [hqg]
      simp only [scrubHits, if_pos hx, List.contains_cons, List.contains_nil, Bool.or_false, BEq.comm (a := g)]
      ac_rfl
  · obtain ⟨q, hq, hqg⟩ := markIf_off h p (isDram (16 * (x % 2 ^ 60)) && homeDie (16 * (x % 2 ^ 60)) == die)
      [x % 2 ^ 60 / 2 * 2, x % 2 ^ 60 / 2 * 2 + 1]
    refine ⟨q, ?_, fun g => ?_⟩
    · simp only [if_neg hx]
      exact hq ..
    · rw [hqg, codeword_contains, Nat.mod_eq_of_lt (Nat.lt_of_not_le hx)]
      simp only [scrubHits, if_neg hx, Nat.mod_eq_of_lt (Nat.lt_of_not_le hx), BEq.comm (a := g / 2)]
      ac_rfl

/-! #### Errors of storage -/

section
variable {s : State} (h : s.hub.mcbase = 0)
include h

theorem storageError_register {u r : Nat} (hu : s.hasThread u = true) (hp : (s.teamOf (s.thread u)).place = .resident)
    (hr : r < (s.thread u).regs.length) :
    storageError s (.register u r) = s.setThread { s.thread u with pois := (s.thread u).pois.set r true } := by
  simp only [storageError, hu, hp, hr, decide_true, beq_self_eq_true, Bool.and_self, if_true]
  exact mcRecord_off (s := s.setThread _) h ..

theorem storageError_accumulator {u half unit row : Nat} (hu : s.teams.any (·.uid == u) = true) (hp : (s.team u).place = .resident)
    (hh : half < 2) (hr : row < 128) (hn : unit < accUnits (s.core ((s.team u).core + half))) :
    storageError s (.accumulator u half unit row) =
      s.setTeam { s.team u with rmark := nins (s.team u).rmark (half * 2 ^ 16 + unit * 2 ^ 7 + row) } := by
  simp only [storageError, hu, hp, hh, hr, hn, decide_true, beq_self_eq_true, Bool.and_self, if_true]
  exact mcRecord_off (s := s.setTeam _) h ..

theorem storageError_dram {g : Nat} (hg : isDram (16 * g) = true) :
    storageError s (.dram g) = { s with poison := [g / 2 * 2, g / 2 * 2 + 1].foldl nins s.poison } := by
  simp only [storageError, hg, if_true, granuleError_off h]

theorem storageError_state (hq : s.hub.mcctl = 1) (uclass unit : Nat) : storageError s (.state uclass unit) = quench s := by
  simp [storageError, fatalCheck, mcRecord_off h, hq]

end

theorem cxlLinkDown_down {s : State} {p : Nat} (hp : p < s.hub.cxl) :
    exec (.cxlLinkDown p) s = .next { s with hub := { s.hub with cxldn := nins s.hub.cxldn p } } :=
  congrArg _ (if_pos hp)

/-! ### The obligation -/

/-- Settles O53: each family of clauses is assembled from the lemma that says what its instruction does. -/
theorem hostRequestsAndRegisterWrites : Obligations.HostRequestsAndRegisterWrites := by
  unfold Obligations.HostRequestsAndRegisterWrites
  refine ⟨fun s off data hd => ⟨fun ho hb w => hostRequest_closed ho hb, fun hb h w => hostRequest_not_memory hb h,
      fun ho hb hmem => ?requests⟩,
    fun s who off size v => ⟨registerWrite_unassigned, fun b o => registerWrite_not_admitted, registerWrite_closed, fun ho => ?registers⟩,
    fun s half v => ⟨⟨_, rfl, rfl, fun i => clearPending_getLsbD s half v⟩, _, rfl, writeMask_spec s half v⟩,
    fun s data => ⟨fun h => huerilinkResponse_mgmt h data, fun u h0 hu => ?threads, fun f => ?frames,
      fun c n cc mark val hc hn => huerilinkResponse_stream data hc hn, fun k d hk hr hw hl => huerilinkResponse_script hk hr hw hl⟩,
    fun s => ⟨fun w v hw => ⟨_, cexclWrite_performed s v hw, cexclWrite_nmem s v hw⟩, fun w v hw => congrArg _ (if_neg (Nat.not_lt.mpr hw)),
      fun p => ⟨fun hp => congrArg _ (if_neg (Nat.not_lt.mpr hp)),
        fun hp => ⟨_, cxlLinkDown_down hp, rfl, fun q => nmem_nins _ p q⟩⟩,
      fun die l b hd => congrArg _ (if_pos hd), fun die l hd h => ?scrub, fun h => ?errors⟩⟩
  case requests =>
    have hm := fun w => hostMay_memory (w := w) hb ho hd hmem
    refine ⟨fun hq w => hostRequest_queued (hm w) hq, fun w hq hh => ?_,
      fun hq hu hn w hh => hostRequest_first (hm w) hb hq rfl hu hh hn,
      fun hq hu hn w hh => ⟨hostRequest_read_whole (hm w) hb hq rfl hu hh hn, hostRequest_write_whole (hm w) hb hq rfl hu hh hn⟩⟩
    obtain ⟨cores, h⟩ := hostRequest_held (hm w) hb hq hh
    exact ⟨_, h, rfl, rfl, rfl⟩
  case registers =>
    exact ⟨fun p hp => ⟨registerWrite_punc ho who v hp, registerWrite_pcorr ho who v hp,
      registerWrite_port_readOnly ho who v hp (.inl rfl), registerWrite_port_readOnly ho who v hp (.inr rfl)⟩, registerWrite_pwrlim ho v⟩
  case threads =>
    exact ⟨huerilinkResponse_no_thread h0 hu data, fun hs _ => ⟨huerilinkResponse_acknowledges h0 hu hs,
      huerilinkResponse_held_load h0 hu hs⟩⟩
  case frames =>
    simp only [huerilinkResponse_frame, coherenceDone, List.contains_iff_mem]
  case scrub =>
    obtain ⟨q, hq, hmarks⟩ := scrubPass_poison h hd l
    exact ⟨_, hq, rfl, hmarks⟩
  case errors =>
    refine ⟨fun u r => storageError_register h, fun u half unit row => storageError_accumulator h, fun g hg => ?_, fun uclass unit hq => ?_⟩
    · refine ⟨_, storageError_dram h hg, rfl, fun x => ?_⟩
      rw [nmem_foldl_nins, codeword_contains]
    · exact ⟨_, storageError_state h hq uclass unit, rfl, rfl, rfl⟩

end Sys2Proof.Machine
end

section
/-! PROOF. What leaves the ports' records as they were: machine checks, ends of launches, of graph runs and of rotations, woken
semaphores, translations, accumulator accesses and copies. Only a LIVE port's record changes when another agent sends (R203). -/
namespace Sys2Proof.Machine

theorem foldl_ports {α : Type} {f : State → α → State} (hf : ∀ s x, (f s x).ports = s.ports) (l : List α) (s : State) :
    (l.foldl f s).ports = s.ports := by
  induction l generalizing s with
  | nil => rfl
  | cons x l ih => exact (ih (f s x)).trans (hf s x)

/-! ### Machine checks and writes of memory -/

@[simp] theorem raise_ports (s : State) (v : Nat) : (raise s v).ports = s.ports := by
  unfold raise
  dsimp only
  split <;> rfl

@[simp] theorem State.poke_ports (s : State) (off : Nat) (l : List Byte) (b : Bool) : (s.poke off l b).ports = s.ports := by
  unfold State.poke
  split <;> rfl

@[simp] theorem mcRecord_ports (s : State) (sev kind uclass unit : Nat) (launch : Word) (addr : Nat) :
    (mcRecord s sev kind uclass unit launch addr).ports = s.ports := by
  unfold mcRecord putCheck
  split
  · rfl
  · split
    · simp
    · rfl

@[simp] theorem recordLost_ports (s : State) (off : Nat) (ls : List Nat) : (recordLost s off ls).ports = s.ports :=
  foldl_ports (fun _ _ => mcRecord_ports ..) ls s

@[simp] theorem State.write_ports (s : State) (off : Nat) (l : List Byte) (b : Bool) : (s.write off l b).ports = s.ports := by
  unfold State.write
  split
  · exact State.poke_ports ..
  · exact (recordLost_ports ..).trans (foldl_ports (fun _ _ => State.poke_ports ..) _ s)

/-! ### Ends of launches -/

@[simp] theorem stampEnd_ports (s : State) (b : Bundle) : (stampEnd s b).ports = s.ports := by rw [stampEnd_eq]

@[simp] theorem unbundle_ports (s : State) (t : Thread) : (unbundle s t).ports = s.ports :=
  foldl_ports stampEnd_ports _ (s.setCore t.core _)

/-- A save slot that a team leaves: its entry holds no team, and NTEAMS counts the others. -/
def leaveSlot (l : Launch) (tm : Team) (s : State) (n : Nat) : State :=
  (s.write (slotBase s l.ctx n + 0x100 + 256 * tm.pos + 4) (bytesOf 0 4) false).write (slotBase s l.ctx n)
    (bytesOf ((slotTeams s l.ctx n).filter (·.1.uid != tm.uid)).length 4) false

theorem leaveSlot_ports (l : Launch) (tm : Team) (s : State) (n : Nat) : (leaveSlot l tm s n).ports = s.ports := by
  unfold leaveSlot
  rw [State.write_ports, State.write_ports]

@[simp] theorem leaveSlots_ports (s : State) (tm : Team) : (leaveSlots s tm).ports = s.ports := by
  unfold leaveSlots
  split
  · exact foldl_ports (leaveSlot_ports (s.launchOf tm.launch) tm) _ s
  · rfl

@[simp] theorem removeTeam_ports (s : State) (u : Nat) : (removeTeam s u).ports = s.ports := leaveSlots_ports ..

@[simp] theorem stopForGood_ports (s : State) (t : Thread) : (stopForGood s t).ports = s.ports := by
  unfold stopForGood
  rw [unbundle_ports, State.setThread_ports]
  split <;> rfl

@[simp] theorem abortStep_ports (s : State) (u : Nat) : (abortStep s u).ports = s.ports := by
  unfold abortStep
  dsimp only
  split
  · rfl
  · have stopped : ∀ l : List Thread, (l.foldl (fun s t => stopForGood s (s.thread t.uid)) s).ports = s.ports :=
      fun l => foldl_ports (fun _ _ => stopForGood_ports ..) l s
    split
    · exact stopped _
    · exact (foldl_ports removeTeam_ports _ _).trans (stopped _)

@[simp] theorem abortLaunch_ports (s : State) (u status detail : Nat) : (abortLaunch s u status detail).ports = s.ports := by
  unfold abortLaunch
  split
  · exact abortStep_ports ..
  · rfl

/-! ### Semaphores and what waits on them -/

@[simp] theorem scriptNext_ports (s : State) (k : Nat) : (scriptNext s k).ports = s.ports := by
  unfold scriptNext
  dsimp only
  split <;> rfl

@[simp] theorem scriptAnswer_ports (s : State) (k d : Nat) (v : Word) : (scriptAnswer s k d v).ports = s.ports := scriptNext_ports ..

@[simp] theorem packetDone_ports (s : State) (c n detail status : Nat) : (packetDone s c n detail status).ports = s.ports := rfl

@[simp] theorem semWake_ports (fuel : Nat) (s : State) (c n : Nat) : (semWake fuel s c n).ports = s.ports := by
  induction fuel generalizing s with
  | zero => rfl
  | succ fuel ih =>
    have lowered : ∀ (dec : Bool) (v : DWord), (if dec then s.setSem c n v else s).ports = s.ports := by
      intro dec v
      split <;> rfl
    unfold semWake
    split
    · split
      · exact ih _
      · rw [ih, packetDone_ports, lowered]
    · split
      · rw [ih, scriptAnswer_ports, lowered]
      · rfl

@[simp] theorem semWrite_ports (s : State) (c n : Nat) (v : DWord) : (semWrite s c n v).ports = s.ports := semWake_ports ..

@[simp] theorem threadStore_ports (s : State) (b : Block) (o : Nat) (v : DWord) : (threadStore s b o v).ports = s.ports := by
  unfold threadStore
  split
  · exact semWrite_ports ..
  · unfold scoutWrite
    split <;> rfl
  · rfl

/-! ### Translations -/

@[simp] theorem fillDie_ports (s : State) (die : Nat) (x : Xlate) : (fillDie s die x).ports = s.ports := rfl

@[simp] theorem keepXlate_ports (s : State) (core ctx va : Nat) (x : Xlate) : (keepXlate s core ctx va x).ports = s.ports := by
  unfold keepXlate
  split <;> rfl

@[simp] theorem walkCheck_ports (s : State) (die : Nat) (pois : Option Nat) : (walkCheck s die pois).ports = s.ports := by
  cases pois with
  | none => rfl
  | some a => exact (mcRecord_ports ..).trans (recordLost_ports ..)

@[simp] theorem demandFault_ports (s : State) (ctx : Nat) (va : DWord) (agent kind level flags : Nat) (src launch : Word) :
    (demandFault s ctx va agent kind level flags src launch).ports = s.ports := by
  unfold demandFault
  split <;> rfl

@[simp] theorem walkFault_ports (s : State) (w : Walk) (meets : WalkReq → Bool) (kind level : Nat) :
    (walkFault s w meets kind level).ports = s.ports := by
  unfold walkFault
  split
  · exact demandFault_ports ..
  · rfl

@[simp] theorem endWalk_ports (s : State) (w : Walk) : (endWalk s w).ports = s.ports := by
  unfold endWalk
  dsimp only
  split
  · refine (foldl_ports (fun _ _ => keepXlate_ports ..) _ _).trans ?_
    split
    · rfl
    · exact walkFault_ports ..
  · exact (walkFault_ports ..).trans (walkCheck_ports ..)

theorem walker_ports {s t : State} {die ctx page : Nat} (h : walker s die ctx page = some t) : t.ports = s.ports := by
  unfold walker at h
  dsimp only at h
  split at h
  · exact Option.some.inj h ▸ endWalk_ports ..
  · split at h
    · cases h
    · exact Option.some.inj h ▸ rfl

@[simp] theorem walkNow_ports (s : State) (die ctx : Nat) (va : DWord) (write : Bool) : (walkNow s die ctx va write).1.ports = s.ports := by
  unfold walkNow
  dsimp only
  split
  · rfl
  next h =>
    split
    · exact (walkCheck_ports ..).trans (walker_ports h)
    · exact (fillDie_ports ..).trans (walker_ports h)

@[simp] theorem translateCore_ports (s : State) (core ctx : Nat) (va : DWord) (write : Bool) :
    (translateCore s core ctx va write).1.ports = s.ports := by
  unfold translateCore
  dsimp only
  split
  · rfl
  · split
    · split
      · rfl
      · exact keepXlate_ports ..
    · split
      · exact (keepXlate_ports ..).trans (walkNow_ports ..)
      · exact walkNow_ports ..

/-! ### Coherence, locks and caches -/

@[simp] theorem cohere_ports (s : State) (offs : List Nat) : (cohere s offs).1.ports = s.ports := by
  unfold cohere
  dsimp only
  split
  · rfl
  · dsimp only
    split <;> rfl

@[simp] theorem lockWait_ports (s : State) (ls : List Loc) (write : Bool) : (lockWait s ls write).1.ports = s.ports := by
  obtain ⟨cores, h⟩ := lockWait_eq s ls write
  rw [h]

@[simp] theorem writeBack_ports (s : State) (line : Nat) : (writeBack s line).ports = s.ports := by
  unfold writeBack
  dsimp only
  split
  · split
    · exact mcRecord_ports ..
    · rfl
  · rfl

@[simp] theorem touchL2_ports (s : State) (off : Nat) (cl : EClass) : (touchL2 s off cl).ports = s.ports := by
  unfold touchL2
  split
  · rfl
  · exact foldl_ports (fun _ _ => writeBack_ports ..) _ _

@[simp] theorem touch_ports (s : State) (core off : Nat) (cl : EClass) : (touch s core off cl).ports = s.ports := by
  have inCore : ∀ (c : Bool) (t : State) (x : Core), (if c then t.setCore core x else t).ports = t.ports := by
    intro c t x
    split <;> rfl
  unfold touch
  dsimp only
  split
  · rfl
  · rw [inCore]
    split
    · rfl
    · exact touchL2_ports ..

/-! ### Accumulator accesses -/

@[simp] theorem sbDone_ports (s : State) (u k : Nat) : (sbDone s u k).ports = s.ports := by
  unfold sbDone
  split <;> rfl

@[simp] theorem performAcc_ports (s : State) (team half : Nat) (k : AccKind) : (performAcc s team half k).ports = s.ports := by
  unfold performAcc
  dsimp only
  split
  · split <;> rfl
  · exact sbDone_ports ..
  · exact sbDone_ports ..
  · exact sbDone_ports ..
  · split
    · split <;> rfl
    · exact (abortLaunch_ports ..).trans (mcRecord_ports ..)

@[simp] theorem drainAnvil_ports (fuel : Nat) (s : State) (core : Nat) : (drainAnvil fuel s core).ports = s.ports := by
  induction fuel generalizing s with
  | zero => rfl
  | succ fuel ih =>
    unfold drainAnvil
    dsimp only
    split
    · exact (ih _).trans (performAcc_ports ..)
    · rfl

@[simp] theorem drain_ports (s : State) (core : Nat) : (drain s core).ports = s.ports := drainAnvil_ports ..

/-! ### Runs of graphs and rotations that end -/

@[simp] theorem wakeGraph_ports (s : State) (g status : Nat) : (wakeGraph s g status).ports = s.ports := by
  refine foldl_ports (fun s x => ?_) s.scripts s
  dsimp only
  split
  · split
    · exact scriptAnswer_ports ..
    · rfl
  · rfl

@[simp] theorem runEnd_ports (s : State) (g status : Nat) : (runEnd s g status).ports = s.ports := by
  unfold runEnd
  dsimp only
  split
  · rfl
  · exact wakeGraph_ports ..

@[simp] theorem wakeRote_ports (s : State) (i status : Nat) : (wakeRote s i status).ports = s.ports := by
  refine foldl_ports (fun s x => ?_) s.scripts s
  dsimp only
  split
  · split
    · rfl
    · split
      · exact scriptAnswer_ports ..
      · exact scriptAnswer_ports ..
  · rfl

@[simp] theorem rotStop_ports (s : State) (i state status : Nat) : (rotStop s i state status).ports = s.ports := by
  unfold rotStop
  dsimp only
  split
  · rfl
  · refine (wakeRote_ports ..).trans ?_
    show State.ports (ite _ _ _) = _
    split <;> rfl

@[simp] theorem endWorkOn_ports (s : State) (ctx p : Nat) : (endWorkOn s ctx p).ports = s.ports := by
  refine (foldl_ports (fun s i => ?_) _ _).trans (foldl_ports (fun s g => ?_) _ s)
  · dsimp only
    split
    · exact rotStop_ports ..
    · rfl
  · dsimp only
    split
    · exact runEnd_ports ..
    · rfl

/-! ### A port that is not LIVE keeps its record while others send (R203) -/

theorem port_of_ports {s t : State} (h : t.ports = s.ports) (p : Nat) : t.port p = s.port p :=
  congrArg (tget ({} : Port) · p) h

theorem pumpPort_port_of_ne {p q : Nat} (hpq : p ≠ q) (fuel : Nat) (s : State) : (pumpPort fuel s q).port p = s.port p := by
  induction fuel generalizing s with
  | zero => rfl
  | succ fuel ih =>
    unfold pumpPort
    dsimp only
    split
    · rw [ih]
      simp [sendBody, hpq]
    · rfl

theorem sendPacketAs_port_of_ne {p path : Nat} (h : path < 48 → p ≠ path) (s : State) (cls : Nat) (pk : Packet) :
    (sendPacketAs s path cls pk).port p = s.port p := by
  unfold sendPacketAs
  split
  next hp =>
    have hne := h hp
    simp only [pump, pumpPort_port_of_ne hne, State.port_setPort, if_neg hne]
  · split <;> rfl

section
variable {s : State} {p : Nat} (h : (s.port p).state ≠ .live)
include h

theorem ne_livePort {ctx x q : Nat} (hq : livePort s ctx x = some q) : p ≠ q := by
  rintro rfl
  have hl := List.find?_some hq
  simp only [Bool.and_eq_true, beq_iff_eq] at hl
  exact h hl.1.1.1

theorem ne_pathTo {ctx x : Nat} (hlt : pathTo s ctx x < 48) : p ≠ pathTo s ctx x := by
  unfold pathTo at hlt ⊢
  cases hq : livePort s ctx x with
  | none => rw [hq] at hlt; exact absurd hlt (by decide)
  | some q => exact ne_livePort h hq

theorem postOn_port (lane who ctx x typ op off : Nat) (va : DWord) (data : List Byte) (pmask : Nat) :
    (postOn s lane who ctx x typ op off va data pmask).port p = s.port p :=
  sendPacketAs_port_of_ne (ne_pathTo h) ..

/-- A completion word is stored on a path that is none of the ports that are not LIVE (R162, R203). -/
theorem storeWord_port (w : CWord) : (storeWord s w).1.port p = s.port p := by
  have translated : ∀ {s1 r}, translateCore s w.core w.ctx w.va true = (s1, r) → s1.port p = s.port p := fun ht =>
    port_of_ports (by rw [← translateCore_ports s w.core w.ctx w.va true, ht]) p
  unfold storeWord
  dsimp only
  split
  · rfl
  split
  next ht => exact translated ht
  next ht => exact (port_of_ports (demandFault_ports ..) p).trans (translated ht)
  next s1 phys ht =>
    have h1 := translated ht
    split
    next off _ =>
      split
      · exact h1
      · have locked := lockWait_ports s1 ((List.range 8).map fun i => .glob (phys + i)) true
        split
        next hl => exact (port_of_ports (by rw [← locked, hl]) p).trans h1
        next s2 hl =>
          have h2 := (port_of_ports (by rw [← locked, hl] : s2.ports = s1.ports) p).trans h1
          have coherent := cohere_ports s2 [off]
          split
          next hc => exact (port_of_ports (by rw [← coherent, hc]) p).trans h2
          next s3 hc =>
            exact (port_of_ports (by rw [touch_ports, State.write_ports, ← coherent, hc]) p).trans h2
    · split
      · exact (port_of_ports (threadStore_ports ..) p).trans h1
      · exact h1
    · exact h1
    · split
      · exact h1
      · split
        · exact h1
        · exact (postOn_port (h1 ▸ h) ..).trans h1
    · exact h1

end

theorem foldl_port {α : Type} {f : State → α → State} {p : Nat}
    (hf : ∀ s x, (s.port p).state ≠ .live → (f s x).port p = s.port p) (l : List α) {s : State} (h : (s.port p).state ≠ .live) :
    (l.foldl f s).port p = s.port p := by
  induction l generalizing s with
  | nil => rfl
  | cons x l ih =>
    have hx := hf s x h
    exact (ih (hx ▸ h)).trans hx

section
variable {s : State} {p : Nat} (h : (s.port p).state ≠ .live)
include h

theorem flushWords_port : (flushWords s).port p = s.port p := by
  refine foldl_port (fun s w hs => ?_) s.cwords (s := { s with cwords := [] }) h
  have hw := storeWord_port hs w
  split
  next hst => rw [← hw, hst]
  next hst => rw [← hw, hst]; rfl

theorem finishCopy_port (core i status : Nat) : (finishCopy s core i status).port p = s.port p := by
  have kept : ∀ (c : Bool) (t : State) (ws : List CWord), (if c then { t with cwords := ws } else t).ports = t.ports := by
    intro c t ws
    split <;> rfl
  have flushed : ∀ t : State, t.ports = s.ports → (flushWords t).port p = s.port p := by
    intro t ht
    have hp := port_of_ports ht p
    exact (flushWords_port (hp ▸ h)).trans hp
  unfold finishCopy
  dsimp only
  split
  · rfl
  · exact flushed _ ((kept ..).trans ((drain_ports ..).trans (drain_ports ..)))

theorem endCopy_port (core i status : Nat) : (endCopy s core i status).port p = s.port p := by
  unfold endCopy
  dsimp only
  split
  · rfl
  · split
    · rfl
    · exact finishCopy_port h core i status

theorem endCopiesOn_port (ctx q : Nat) : (endCopiesOn s ctx q).port p = s.port p := by
  refine foldl_port (fun s x hs => ?_) (lockHolders s) h
  dsimp only
  split
  · exact endCopy_port hs ..
  · rfl

end

end Sys2Proof.Machine
end

section
/-! PROOF. The states of a port, its flits and its lease (R10, R190-R198, R213-R217): what each event does, and the obligation
assembled from it. -/
namespace Sys2Proof.Machine

/-! ### A port's record while no path follows it (R127, R203, R206) -/

/-- No thread request is outstanding and no thread has noted a path. -/
def PathsQuiet (s : State) : Prop := s.lanes = [] ∧ ∀ th ∈ s.threads, th.paths = []

theorem notePaths_of_quiet {s : State} (h : PathsQuiet s) : notePaths s = s := by
  have unmoved : ∀ f : Thread → Nat × Nat → Nat × Nat,
      s.threads.map (fun t => { t with paths := t.paths.map (f t) }) = s.threads := by
    intro f
    refine (List.map_congr_left fun t ht => ?_).trans (List.map_id _)
    rw [h.2 t ht, List.map_nil, ← h.2 t ht, id]
  unfold notePaths
  rw [unmoved]

theorem rePath_of_quiet {s : State} (h : PathsQuiet s) : rePath s = s := by
  unfold rePath
  rw [h.1, List.foldl_nil]

/-- With nothing to follow it, a port's change is that change alone. -/
theorem putPort_of_quiet {s : State} (h : PathsQuiet s) (p : Nat) (t : Port) : putPort s p t = s.setPort p t := by
  have h1 : PathsQuiet (s.setPort p t) := h
  rw [putPort, notePaths_of_quiet h1, rePath_of_quiet h1]

/-- A port that is up or on its way is no default entry, so setting it twice is setting it once, in any table. -/
theorem State.setPort_setPort {a b : Port} (s : State) (p : Nat) (ha : a.state ≠ .dark) (hb : b.state ≠ .dark) :
    (s.setPort p a).setPort p b = s.setPort p b := by
  have listed : ∀ {x : Port}, x.state ≠ .dark → x ≠ {} := by rintro x hx rfl; exact hx rfl
  simp only [State.setPort, tset, if_neg (listed ha), if_neg (listed hb), tins_tins]

theorem State.port_setPort_same (s : State) (p : Nat) (t : Port) : (s.setPort p t).port p = t := by
  rw [State.port_setPort, if_pos rfl]

theorem Port.marks_eq (t : Port) : t.marks = if t.state = .live then 0 else t.dead := by
  simp only [Port.marks, beq_iff_eq]

theorem Port.faulted_of_ne_live {t : Port} (h : t.state ≠ .live) (cause : Nat) :
    t.faulted cause = { t with state := .fault, cause := cause, retrain := false, wlock := none } := by
  rw [Port.faulted, Port.marks_eq, if_neg h]

theorem Port.up_iff (t : Port) : t.up = true ↔ t.state = .trained ∨ t.state = .live := by
  simp only [Port.up, Bool.or_eq_true, beq_iff_eq]

theorem PState.lasersOn_iff (x : PState) : x.lasersOn = true ↔ x = .locking ∨ x = .trained ∨ x = .live := by
  cases x <;> decide

/-! ### Locking and training (R194, R195) -/

section
variable {s : State} {p : Nat}

theorem wavelengthLock_waiting (l : BitVec 8)
    (h : (s.port p).state = .locking ∧ (s.port p).retrain = false ∧ (s.port p).wlock = none ∧ s.htime ≤ (s.port p).since + 12000) :
    exec (.wavelengthLock p l) s = .next (s.setPort p (if 7 ≤ lit l then
      { s.port p with locked := l, wlock := some s.htime, dead := ~~~l } else { s.port p with locked := l })) := by
  obtain ⟨hs, hr, hw, ht⟩ := h
  exact congrArg _ (if_pos (by simp [hs, hr, hw, ht]))

theorem wavelengthLock_idle (l : BitVec 8) (h : (s.port p).state ≠ .locking ∨ (s.port p).since + 12000 < s.htime) :
    exec (.wavelengthLock p l) s = .next s := by
  refine congrArg _ (if_neg ?_)
  simp only [Bool.and_eq_true, beq_iff_eq, decide_eq_true_eq]
  rintro ⟨⟨⟨hs, -⟩, -⟩, ht⟩
  exact h.elim (· hs) (Nat.not_lt.mpr ht)

theorem portLockTimeout_late (hq : PathsQuiet s)
    (h : (s.port p).state = .locking ∧ (s.port p).retrain = false ∧ (s.port p).wlock = none ∧ (s.port p).since + 12000 ≤ s.htime) :
    exec (.portLockTimeout p) s = .next (s.setPort p ((s.port p).faulted 4)) := by
  obtain ⟨hs, hr, hw, ht⟩ := h
  rw [← putPort_of_quiet hq]
  exact congrArg _ (if_pos (by simp [hs, hr, hw, ht]))

theorem portLockTimeout_idle (h : (s.port p).state ≠ .locking ∨ s.htime < (s.port p).since + 12000) :
    exec (.portLockTimeout p) s = .next s := by
  refine congrArg _ (if_neg ?_)
  simp only [Bool.and_eq_true, beq_iff_eq, decide_eq_true_eq]
  rintro ⟨⟨⟨hs, -⟩, -⟩, ht⟩
  exact h.elim (· hs) (Nat.not_lt.mpr ht)

theorem portTrained_locked {w : Nat} (hw : (s.port p).wlock = some w) (hs : (s.port p).state = .locking) (ht : s.htime ≤ w + 6000) :
    exec (.portTrained p) s = .next (s.setPort p { s.port p with state := .trained, since := s.htime, wlock := none }) := by
  show execPortTrained p s = _
  simp [execPortTrained, hw, hs, ht]

theorem portTrained_unlocked (hw : (s.port p).wlock = none) : exec (.portTrained p) s = .next s := by
  show execPortTrained p s = _
  simp only [execPortTrained, hw]

theorem portTrainingTimeout_late (hq : PathsQuiet s) {w : Nat} (hw : (s.port p).wlock = some w) (hs : (s.port p).state = .locking)
    (ht : w + 6000 ≤ s.htime) : exec (.portTrainingTimeout p) s = .next (s.setPort p ((s.port p).faulted 5)) := by
  show execPortTrainingTimeout p s = _
  simp [execPortTrainingTimeout, hw, hs, ht, putPort_of_quiet hq]

theorem portTrainingTimeout_early {w : Nat} (hw : (s.port p).wlock = some w) (ht : s.htime < w + 6000) :
    exec (.portTrainingTimeout p) s = .next s := by
  show execPortTrainingTimeout p s = _
  simp [execPortTrainingTimeout, hw, Nat.not_le.mpr ht]

theorem portTrainingTimeout_unlocked (hw : (s.port p).wlock = none) : exec (.portTrainingTimeout p) s = .next s := by
  show execPortTrainingTimeout p s = _
  simp only [execPortTrainingTimeout, hw]

theorem helloSend_trained (h : (s.port p).state = .trained) :
    exec (.helloSend p) s = .next (sendControl s p (helloBody s.hub.chip (s.port p).peer (s.port p).ltag p)) :=
  congrArg _ (if_pos (beq_iff_eq.mpr h))

theorem helloSend_untrained (h : (s.port p).state ≠ .trained) : exec (.helloSend p) s = .next s :=
  congrArg _ (if_neg (mt beq_iff_eq.mp h))

theorem portHelloTimeout_untrained (h : (s.port p).state ≠ .trained) : exec (.portHelloTimeout p) s = .next s :=
  congrArg _ (if_neg (by simp [h]))

theorem portHelloTimeout_late (hq : PathsQuiet s) (hs : (s.port p).state = .trained) (ht : (s.port p).since + 2000 ≤ s.htime) :
    exec (.portHelloTimeout p) s = .next (s.setPort p ((s.port p).faulted 6)) := by
  rw [← putPort_of_quiet hq]
  exact congrArg _ (if_pos (by simp [hs, ht]))

/-! ### Loss of light and retraining (R190, R195) -/

theorem lossOfLight_lit (hq : PathsQuiet s) (h : (s.port p).state = .trained ∨ (s.port p).state = .live ∨ (s.port p).state = .locking) :
    exec (.lossOfLight p) s = .next (s.setPort p { (s.port p).darken with cause := 2 }) := by
  rw [← putPort_of_quiet hq]
  refine congrArg _ (if_pos ?_)
  simpa only [Bool.or_eq_true, Port.up_iff, beq_iff_eq, or_assoc] using h

theorem lossOfLight_unlit (h : (s.port p).state = .dark ∨ (s.port p).state = .fault) : exec (.lossOfLight p) s = .next s := by
  refine congrArg _ (if_neg ?_)
  rcases h with h | h <;> simp [Port.up, h]

theorem retrainRelock_after (hs : (s.port p).state = .locking) (hr : (s.port p).retrain = true) (ht : (s.port p).since + 200 ≤ s.htime) :
    exec (.retrainRelock p) s = .next (s.setPort p ((s.port p).locking s.htime false)) :=
  congrArg _ (if_pos (by simp [hs, hr, ht]))

theorem retrainRelock_idle (h : (s.port p).state ≠ .locking) : exec (.retrainRelock p) s = .next s :=
  congrArg _ (if_neg (by simp [h]))

theorem startRetrain_of_quiet (hq : PathsQuiet s) (cause : Nat) :
    startRetrain s p cause =
      (s.setPort p ((s.port p).retraining s.htime cause true)).send (.flit p (flitBytes 1 0 0 retrainBody)) := by
  rw [startRetrain, putPort_of_quiet hq, sendControl]

theorem wavelengthDead_first (hu : (s.port p).up = true) {w : Nat} (hw : w < 8) (hd : (s.port p).dead = 0) :
    exec (.wavelengthDead p w) s = .next (s.setPort p { s.port p with dead := 1#8 <<< w }) := by
  show execWavelengthDead p w s = _
  simp [execWavelengthDead, hu, Nat.not_le.mpr hw, hd]

theorem wavelengthDead_second (hu : (s.port p).up = true) {w : Nat} (hw : w < 8) (hd : (s.port p).dead ≠ 0)
    (hl : (s.port p).dead.getLsbD w = false) : exec (.wavelengthDead p w) s = .next (startRetrain s p 8) := by
  show execWavelengthDead p w s = _
  simp [execWavelengthDead, hu, Nat.not_le.mpr hw, hl, show (s.port p).dead ≠ 0#8 from hd]

theorem wavelengthDead_down (hu : (s.port p).up = false) (w : Nat) : exec (.wavelengthDead p w) s = .next s :=
  congrArg _ (if_pos (by simp [hu]))

/-! ### Control flits (R191, R192, R196) -/

/-- What the code corrected and lost while a flit came is counted (R189). -/
def Port.heard (t : Port) (c : FlitCode) : Port :=
  { t with pcorr := t.pcorr + BitVec.ofNat 64 c.fixed, punc := t.punc + BitVec.ofNat 32 c.lost }

theorem countCode_eq (s : State) (p : Nat) (c : FlitCode) : countCode s p c = s.setPort p ((s.port p).heard c) := rfl

/-- A whole control flit of a type that brings no acknowledgement. -/
def IsControl (b : List Byte) (c : FlitCode) (ctype : Nat) : Prop :=
  c.touched = false ∧ flitOk b = true ∧ bits (flitWord b 0) 28 4 = 1 ∧ flitWord b 4 = 0 ∧ flitWord b 8 = ctype

theorem flitGood_eq_false {b : List Byte} {c : FlitCode} (h : c.touched = true ∨ flitOk b = false) (kind : Nat) :
    flitGood kind b c = false := by
  rcases h with h | h <;> simp [flitGood, h]

theorem IsControl.flitGood {b : List Byte} {c : FlitCode} {ctype : Nat} (h : IsControl b c ctype) : flitGood 1 b c = true := by
  obtain ⟨ht, hok, hkind, -, -⟩ := h
  simp [Machine.flitGood, ht, hok, hkind]

theorem controlIn_down (hu : (s.port p).up = false) (ctype : Nat) (b : List Byte) (c : FlitCode) (act : State → State) :
    controlIn s p ctype b c act = s := by
  simp [controlIn, hu]

theorem controlIn_corrupt (hu : (s.port p).up = true) {b : List Byte} {c : FlitCode} (h : c.touched = true ∨ flitOk b = false)
    (ctype : Nat) (act : State → State) : controlIn s p ctype b c act = s.setPort p ((s.port p).heard c) := by
  simp [controlIn, hu, flitGood_eq_false h, countCode_eq]

theorem controlIn_otherType (hu : (s.port p).up = true) {b : List Byte} {c : FlitCode} {ctype other : Nat} (h : IsControl b c other)
    (hne : other ≠ ctype) (act : State → State) : controlIn s p ctype b c act = s.setPort p ((s.port p).heard c) := by
  obtain ⟨-, -, -, -, htype⟩ := h
  simp [controlIn, hu, htype, hne, countCode_eq]

theorem applyAck_zero (s : State) (p : Nat) : applyAck s p 0 = s := rfl

theorem controlIn_acts (hu : (s.port p).up = true) {b : List Byte} {c : FlitCode} {ctype : Nat} (h : IsControl b c ctype)
    (act : State → State) : controlIn s p ctype b c act = act (s.setPort p ((s.port p).heard c)) := by
  have hgood := h.flitGood
  obtain ⟨-, -, -, hack, htype⟩ := h
  simp [controlIn, hu, hgood, hack, htype, countCode_eq, applyAck_zero]

/-! ### HELLO and RETRAIN (R195, R196) -/

theorem bits_zero_low (x n : Nat) : bits x 0 n = x % 2 ^ n := rfl

theorem helloMatches_iff (s : State) (t : Port) (self peer : Nat) (ltag : Word) :
    helloMatches s t self peer ltag = true ↔ self = t.peer ∧ peer = s.hub.chip ∧ ltag = t.ltag ∧ self ≠ s.hub.chip := by
  simp only [helloMatches, Bool.and_eq_true, beq_iff_eq, bne_iff_ne, and_assoc]

/-- The HELLO names the two ends and the tag of the port's lease (R196). -/
def HelloFits (s : State) (t : Port) (b : List Byte) : Prop :=
  flitWord b 0x0C % 2 ^ 21 = t.peer ∧ flitWord b 0x10 % 2 ^ 21 = s.hub.chip ∧ BitVec.ofNat 32 (flitWord b 0x14) = t.ltag ∧
    flitWord b 0x0C % 2 ^ 21 ≠ s.hub.chip

theorem helloIn_fits (hq : PathsQuiet s) (hs : (s.port p).state = .trained) {b : List Byte} (hf : HelloFits s (s.port p) b)
    (ht : s.htime ≤ (s.port p).since + 2000) (hempty : (s.port p).queue = []) :
    (helloIn p b s).port p = { s.port p with state := .live, ppeer := flitWord b 0x18 % 64 } := by
  have hm := (helloMatches_iff s { s.port p with ppeer := bits (flitWord b 0x18) 0 6 } _ _ _).mpr hf
  have hin : helloIn p b s = pump (putPort s p { s.port p with state := .live, ppeer := flitWord b 0x18 % 64 }) p :=
    (if_pos (beq_iff_eq.mpr hs)).trans ((if_pos hm).trans (if_pos ht))
  rw [hin, putPort_of_quiet hq, pump, State.port_setPort_same, hempty, List.length_nil, Nat.mul_zero, pumpPort, State.port_setPort_same]

theorem helloIn_misfits (hq : PathsQuiet s) (hs : (s.port p).state = .trained) {b : List Byte} (hf : ¬ HelloFits s (s.port p) b) :
    helloIn p b s = s.setPort p { s.port p with
      state := .fault, cause := 7, retrain := false, wlock := none, ppeer := flitWord b 0x18 % 64 } := by
  have hm := mt (helloMatches_iff s { s.port p with ppeer := bits (flitWord b 0x18) 0 6 } _ _ _).mp hf
  have hin : helloIn p b s = putPort s p (Port.faulted { s.port p with ppeer := flitWord b 0x18 % 64 } 7) :=
    (if_pos (beq_iff_eq.mpr hs)).trans (if_neg hm)
  rw [hin, putPort_of_quiet hq, Port.faulted_of_ne_live]
  exact fun hl => PState.noConfusion (hs.symm.trans hl)

theorem hello_eq (s : State) (p : Nat) (b : List Byte) (c : FlitCode) :
    exec (.hello p b c.fixed c.lost c.touched) s = .next (controlIn s p 1 b c (helloIn p b)) := rfl

theorem hello_fits (hq : PathsQuiet s) (hs : (s.port p).state = .trained) {b : List Byte} {c : FlitCode} (hc : IsControl b c 1)
    (hf : HelloFits s (s.port p) b) (ht : s.htime ≤ (s.port p).since + 2000) (hempty : (s.port p).queue = []) :
    ∃ x, exec (.hello p b c.fixed c.lost c.touched) s = .next x ∧
      x.port p = { (s.port p).heard c with state := .live, ppeer := flitWord b 0x18 % 64 } := by
  have hq1 : PathsQuiet (s.setPort p ((s.port p).heard c)) := hq
  have hport := State.port_setPort_same s p ((s.port p).heard c)
  refine ⟨_, (hello_eq ..).trans (congrArg _ (controlIn_acts ((Port.up_iff _).mpr (.inl hs)) hc _)), ?_⟩
  rw [helloIn_fits hq1, hport] <;> rw [hport] <;> assumption

theorem hello_misfits (hq : PathsQuiet s) (hs : (s.port p).state = .trained) {b : List Byte} {c : FlitCode} (hc : IsControl b c 1)
    (hf : ¬ HelloFits s (s.port p) b) :
    exec (.hello p b c.fixed c.lost c.touched) s = .next (s.setPort p { (s.port p).heard c with
      state := .fault, cause := 7, retrain := false, wlock := none, ppeer := flitWord b 0x18 % 64 }) := by
  have hq1 : PathsQuiet (s.setPort p ((s.port p).heard c)) := hq
  have hport := State.port_setPort_same s p ((s.port p).heard c)
  have hdark : ((s.port p).heard c).state ≠ .dark := fun hd => PState.noConfusion (hs.symm.trans hd)
  have hin := helloIn_misfits hq1 (b := b) (by rw [hport]; exact hs) (by rw [hport]; exact hf)
  rw [hport, State.setPort_setPort _ _ hdark PState.noConfusion] at hin
  rw [hello_eq, controlIn_acts ((Port.up_iff _).mpr (.inl hs)) hc, hin]

theorem retrain_acts (hq : PathsQuiet s) (hu : (s.port p).up = true) {b : List Byte} {c : FlitCode} (hc : IsControl b c 2) :
    exec (.retrain ⟨p, b, c⟩) s = .next (s.setPort p (((s.port p).heard c).retraining s.htime 10 false)) := by
  have hq1 : PathsQuiet (s.setPort p ((s.port p).heard c)) := hq
  have hport := State.port_setPort_same s p ((s.port p).heard c)
  have hdark : ((s.port p).heard c).state ≠ .dark := by
    rcases (Port.up_iff _).mp hu with h | h <;> exact fun hd => PState.noConfusion (h.symm.trans hd)
  refine congrArg _ ((controlIn_acts hu hc _).trans ?_)
  rw [putPort_of_quiet hq1, hport, State.setPort_setPort _ _ hdark PState.noConfusion]
  rfl

end

/-! ### Acknowledgement and replay (R191, R192, R193) -/

/-- Things sent one after another, each for an element that passes a test of the ports, leave in the order of the list. -/
theorem foldl_send_if {α : Type} (c : State → α → Bool) (g : State → α → Sent)
    (hc : ∀ (s : State) (y : Sent) (x : α), c (s.send y) x = c s x) (hg : ∀ (s : State) (y : Sent) (x : α), g (s.send y) x = g s x)
    (l : List α) (s : State) :
    l.foldl (fun s x => if c s x then s.send (g s x) else s) s = { s with sent := s.sent ++ (l.filter (c s)).map (g s) } := by
  induction l generalizing s with
  | nil => simp
  | cons x l ih =>
    rw [List.foldl_cons]
    by_cases hx : c s x = true
    · rw [if_pos hx, ih, List.filter_cons_of_pos hx, List.map_cons, funext (hc s _), funext (hg s _)]
      simp only [State.send, List.append_assoc, List.singleton_append]
    · rw [if_neg hx, ih, List.filter_cons_of_neg hx]

theorem foldl_send {α : Type} (g : α → Sent) (l : List α) (s : State) :
    l.foldl (fun s x => s.send (g x)) s = { s with sent := s.sent ++ l.map g } := by
  simpa using foldl_send_if (fun _ _ => true) (fun _ => g) (fun _ _ _ => rfl) (fun _ _ _ => rfl) l s

theorem pauseCopies_free {s : State} (h : lockHolders s = []) (p : Nat) : pauseCopies s p = s := by
  rw [pauseCopies, h, List.foldl_nil]

section
variable {s : State} {p : Nat}

theorem ackReport_live (h : (s.port p).state = .live) :
    exec (.ackReport p) s = .next (s.send (.flit p (flitBytes 0 0 (2 ^ 31 + ((s.port p).rxseq + 2 ^ 24 - 1) % 2 ^ 24) []))) :=
  congrArg _ (if_pos (beq_iff_eq.mpr h))

theorem ackReport_other (h : (s.port p).state ≠ .live) : exec (.ackReport p) s = .next s :=
  congrArg _ (if_neg (mt beq_iff_eq.mp h))

theorem replayLimit_reached (hs : (s.port p).state = .live) (hr : ∃ r ∈ (s.port p).replay, 9 ≤ r.2.2) :
    exec (.replayLimit p) s = .next (startRetrain s p 9) :=
  congrArg _ (if_pos (by simpa [hs] using hr))

theorem replayLimit_below (h : (s.port p).state ≠ .live ∨ ∀ r ∈ (s.port p).replay, r.2.2 < 9) :
    exec (.replayLimit p) s = .next s := by
  refine congrArg _ (if_neg ?_)
  simp only [Bool.and_eq_true, beq_iff_eq, List.any_eq_true, decide_eq_true_eq]
  rintro ⟨hs, r, hr, h9⟩
  exact h.elim (· hs) fun hlt => Nat.not_lt.mpr h9 (hlt r hr)

theorem nak_other (h : (s.port p).state ≠ .live) (n : Nat) : exec (.nak p n) s = .next s :=
  congrArg _ (if_pos (bne_iff_ne.mpr h))

theorem nak_limit (hs : (s.port p).state = .live) {n : Nat}
    (hr : ∃ r ∈ (s.port p).replay, seqLe (n % 2 ^ 24) r.1 = true ∧ 9 ≤ r.2.2) : exec (.nak p n) s = .next (startRetrain s p 9) := by
  refine congrArg _ ((if_neg (by simp [hs])).trans (if_pos ?_))
  simpa only [List.any_eq_true, Bool.and_eq_true, decide_eq_true_eq] using hr

/-- The record of a port that sends its flits from ASEQ on again (R192). -/
def Port.replaying (t : Port) (aseq : Nat) : Port :=
  { t with prpl := t.prpl + 1, replay := t.replay.map (fun r => if seqLe aseq r.1 then (r.1, r.2.1, r.2.2 + 1) else r)
           replayed := (t.replay.filter fun r => seqLe aseq r.1).getLast?.map (·.1) }

/-- A replay request below the limit: the flits from ASEQ on leave again, in order (R192). -/
theorem replayFrom_below (hs : (s.port p).state = .live) {aseq : Nat}
    (hr : ∀ r ∈ (s.port p).replay, seqLe aseq r.1 = true → r.2.2 < 9) (hl : lockHolders s = []) :
    replayFrom s p aseq = { s.setPort p ((s.port p).replaying aseq) with
      sent := s.sent ++ ((s.port p).replay.filter fun r => seqLe aseq r.1).map fun r => .flit p (flitBytes 2 r.1 0 r.2.1) } := by
  have hbelow : ¬ ((s.port p).replay.any fun r => seqLe aseq r.1 && 9 ≤ r.2.2) = true := by
    simp only [List.any_eq_true, Bool.and_eq_true, decide_eq_true_eq]
    rintro ⟨r, hm, ha, h9⟩
    exact Nat.not_lt.mpr h9 (hr r hm ha)
  have hagain : replayFrom s p aseq = pauseCopies (((s.port p).replay.filter fun r => seqLe aseq r.1).foldl
      (fun s r => s.send (.flit p (flitBytes 2 r.1 0 r.2.1))) (s.setPort p ((s.port p).replaying aseq))) p :=
    (if_neg (by simp [hs])).trans (if_neg hbelow)
  rw [hagain, foldl_send]
  refine pauseCopies_free ?_ p
  exact hl

theorem nak_replays (hs : (s.port p).state = .live) {n : Nat}
    (hr : ∀ r ∈ (s.port p).replay, seqLe (n % 2 ^ 24) r.1 = true → r.2.2 < 9) (hl : lockHolders s = []) :
    ∃ x, exec (.nak p n) s = .next x ∧ (x.port p).prpl = (s.port p).prpl + 1 ∧
      x.sent = s.sent ++ ((s.port p).replay.filter fun r => seqLe (n % 2 ^ 24) r.1).map fun r => .flit p (flitBytes 2 r.1 0 r.2.1) :=
  ⟨_, congrArg Host.Outcome.next (replayFrom_below hs hr hl), congrArg Port.prpl (State.port_setPort_same ..), rfl⟩

theorem idleFlit_corrupt (hs : (s.port p).state = .live) {b : List Byte} {c : FlitCode} (h : c.touched = true ∨ flitOk b = false) :
    exec (.idleFlit p ⟨b, c⟩) s = .next (s.setPort p ((s.port p).heard c)) := by
  show execIdleFlit p ⟨b, c⟩ s = _
  simp [execIdleFlit, hs, flitGood_eq_false h, countCode_eq]

/-- An acknowledgement word with its flag and no NAK flag is its ASEQ (R191). -/
theorem applyAck_ack (s : State) (p : Nat) {n : Nat} (hn : n < 2 ^ 24) : applyAck s p (2 ^ 31 + n) = ackFlits s p n := by
  have hack : bits (2 ^ 31 + n) 31 1 = 1 := by rw [bits, Nat.shiftRight_eq_div_pow]; omega
  have hnak : bits (2 ^ 31 + n) 30 1 = 0 := by rw [bits, Nat.shiftRight_eq_div_pow]; omega
  have hseq : bits (2 ^ 31 + n) 0 24 = n := by rw [bits_zero_low]; omega
  rw [applyAck, hack, hnak, hseq]
  rfl

theorem ackFlits_port (hempty : (s.port p).queue = []) (n : Nat) :
    (ackFlits s p n).port p = { s.port p with
      replay := (s.port p).replay.filter (fun r => !(seqLe r.1 n)), replayed := (s.port p).replayed.filter fun m => !(seqLe m n) } := by
  simp only [ackFlits, pump, State.port_setPort_same, hempty, List.length_nil, Nat.mul_zero, pumpPort]

theorem idleFlit_acks (hs : (s.port p).state = .live) {n : Nat} {b : List Byte} {c : FlitCode} (hempty : (s.port p).queue = [])
    (ht : c.touched = false) (hok : flitOk b = true) (hkind : bits (flitWord b 0) 28 4 = 0) (hack : flitWord b 4 = 2 ^ 31 + n)
    (hn : n < 2 ^ 24) :
    ∃ x, exec (.idleFlit p ⟨b, c⟩) s = .next x ∧ (x.port p).replay = (s.port p).replay.filter (fun r => !(seqLe r.1 n)) ∧
      (x.port p).pcorr = ((s.port p).heard c).pcorr := by
  have hgood : flitGood 0 b c = true := by simp [flitGood, ht, hok, hkind]
  have hport := State.port_setPort_same s p ((s.port p).heard c)
  refine ⟨_, congrArg Host.Outcome.next ((if_neg (by simp [hs])).trans (if_pos hgood)), ?_⟩
  have hword : flitWord (FlitIn.mk b c).bytes 4 = 2 ^ 31 + n := hack
  rw [hword, applyAck_ack _ _ hn, countCode_eq, ackFlits_port (by rw [hport]; exact hempty), hport]
  exact ⟨rfl, rfl⟩

theorem sendIdle_nak (s : State) (q aseq : Nat) :
    sendIdle s q true aseq = s.send (.flit q (flitBytes 0 0 (2 ^ 31 + 2 ^ 30 + aseq % 2 ^ 24) [])) := by
  rw [sendIdle, one, if_pos rfl, Nat.one_mul]

theorem nakRepeat_eq (s : State) : exec .nakRepeat s = .next { s with
    sent := s.sent ++ ((List.range 48).filter fun q => (s.port q).state == .live && (s.port q).nakOut).map
      fun q => .flit q (flitBytes 0 0 (2 ^ 31 + 2 ^ 30 + (s.port q).rxseq % 2 ^ 24) []) } := by
  show execNakRepeat s = _
  simp only [execNakRepeat, sendIdle_nak]
  exact congrArg Host.Outcome.next (foldl_send_if (fun s q => (s.port q).state == .live && (s.port q).nakOut)
    (fun s q => .flit q (flitBytes 0 0 (2 ^ 31 + 2 ^ 30 + (s.port q).rxseq % 2 ^ 24) [])) (fun _ _ _ => rfl) (fun _ _ _ => rfl)
    (List.range 48) s)

end

/-! ### Failure of an engine (R10, R195) -/

/-- Port i of an engine fails with it. -/
def failPort (e : Nat) (s : State) (i : Nat) : State := putPort s (4 * e + i) ((s.port (4 * e + i)).faulted 11)

/-- The first k ports of an engine have failed with it, and nothing else has changed. -/
structure EngineFailed (e k : Nat) (s x : State) : Prop where
  quiet  : PathsQuiet x
  hub    : x.hub = s.hub
  failed : ∀ n < k, (x.port (4 * e + n)).state = .fault ∧ (x.port (4 * e + n)).cause = 11
  others : ∀ q, (∀ n < k, q ≠ 4 * e + n) → x.port q = s.port q

theorem foldl_failPort (e : Nat) {s : State} (hq : PathsQuiet s) (k : Nat) : EngineFailed e k s ((List.range k).foldl (failPort e) s) := by
  induction k with
  | zero => exact ⟨hq, rfl, fun _ hn => absurd hn (Nat.not_lt_zero _), fun _ _ => rfl⟩
  | succ k ih =>
    obtain ⟨quiet, hub, failed, others⟩ := ih
    rw [List.range_succ, List.foldl_append, List.foldl_cons, List.foldl_nil, failPort, putPort_of_quiet quiet]
    refine ⟨quiet, hub, fun n hn => ?_, fun q hne => ?_⟩
    · rw [State.port_setPort]
      split
      · exact ⟨rfl, rfl⟩
      · exact failed n (by omega)
    · rw [State.port_setPort, if_neg (hne k (Nat.lt_succ_self k))]
      exact others q fun n hn => hne n (Nat.lt_succ_of_lt hn)

theorem engineFailure_eq (s : State) {e : Nat} (he : e < 12) : exec (.engineFailure e) s =
    .next ((List.range 4).foldl (failPort e) { s with hub := { s.hub with engines := nins s.hub.engines e } }) :=
  congrArg Host.Outcome.next (if_neg (Nat.not_le.mpr he))

theorem engineFailure_fails {s : State} (hq : PathsQuiet s) {e : Nat} (he : e < 12) :
    ∃ x, exec (.engineFailure e) s = .next x ∧ nmem x.hub.engines e = true ∧
      (∀ n < 4, (x.port (4 * e + n)).state = .fault ∧ (x.port (4 * e + n)).cause = 11) ∧
      ∀ n, n / 4 ≠ e → x.port n = s.port n := by
  obtain ⟨-, hub, failed, others⟩ :=
    foldl_failPort e (s := { s with hub := { s.hub with engines := nins s.hub.engines e } }) hq 4
  refine ⟨_, engineFailure_eq s he, ?_, failed, fun n hn => others n fun m hm => by omega⟩
  rw [hub, nmem_nins, beq_self_eq_true, Bool.true_or]

/-! ### Leases (R195, R198, R213-R217) -/

section
variable {s : State} {p : Nat}

@[simp] theorem sendRelease_ports (s : State) (ctx p : Nat) (tag : Word) : (sendRelease s ctx p tag).ports = s.ports := rfl

theorem leaseEnd_before (h : (s.port p).leased = false ∨ s.htime < (s.port p).lend) : exec (.leaseEnd p) s = .next s := by
  refine congrArg _ (if_neg ?_)
  simp only [Bool.and_eq_true, decide_eq_true_eq]
  rintro ⟨hl, ht⟩
  exact h.elim (fun hf => Bool.noConfusion (hl.symm.trans hf)) (Nat.not_lt.mpr ht)

/-- A port whose lease ends while it is neither dark nor failed. -/
def Port.released (t : Port) (cause : Nat) : Port :=
  { t.darken with cause := cause, leased := false, ctx := 0, peer := 0, swport := 0, lend := 0, ltag := 0 }

theorem endLease_eq (hq : PathsQuiet s) (hl : (s.port p).leased = true) (hf : (s.port p).state ≠ .fault) (hd : (s.port p).state ≠ .dark)
    (cause : Nat) : endLease s p cause = endCopiesOn (endWorkOn (sendRelease (s.setPort p ((s.port p).released cause)) (s.port p).ctx p
      (s.port p).ltag) (s.port p).ctx p) (s.port p).ctx p := by
  simp only [endLease, hl, Bool.not_true, Bool.false_eq_true, if_false, beq_eq_false_iff_ne.mpr hf, beq_eq_false_iff_ne.mpr hd,
    Bool.false_and, Bool.or_self, putPort_of_quiet hq]
  rfl

/-- The end of a lease leaves the port dark and unleased, whatever ends with it on the port. -/
theorem endLease_port (hq : PathsQuiet s) (hl : (s.port p).leased = true) (hf : (s.port p).state ≠ .fault) (hd : (s.port p).state ≠ .dark)
    (cause : Nat) : (endLease s p cause).port p = (s.port p).released cause := by
  have before : ∀ ctx q tag, (endWorkOn (sendRelease (s.setPort p ((s.port p).released cause)) ctx q tag) ctx q).port p =
      (s.port p).released cause := fun ctx q tag =>
    (port_of_ports ((endWorkOn_ports ..).trans (sendRelease_ports ..)) p).trans (State.port_setPort_same ..)
  rw [endLease_eq hq hl hf hd, endCopiesOn_port, before]
  rw [before]
  exact PState.noConfusion

theorem leaseEnd_after (hq : PathsQuiet s) (hl : (s.port p).leased = true) (ht : (s.port p).lend ≤ s.htime)
    (hf : (s.port p).state ≠ .fault) (hd : (s.port p).state ≠ .dark) :
    ∃ x, exec (.leaseEnd p) s = .next x ∧ x.port p = (s.port p).released 3 :=
  ⟨_, congrArg Host.Outcome.next (if_pos (by simp [hl, ht])), endLease_port hq hl hf hd 3⟩

/-- Word o of a switch controller's record (R198). -/
def switchWord (pk : Packet) (o : Nat) : Word := BitVec.ofNat 32 (natOf ((pk.data.drop o).take 4))

/-- A grant to a port without a lease is a new lease, with nothing sent or received under it (R198, R213). -/
theorem Port.granted_new {t : Port} (hl : t.leased = false) (now : Nat) (r : Nat × Word × Nat × Word × Nat) (tag : Word) :
    t.granted now r tag =
      { t with request := none, leased := true, ctx := r.1, peer := r.2.2.1, swport := r.2.2.2.1, lend := now + r.2.2.2.2 * 1000, ltag := tag
               txseq := 0, replay := [], replayed := none, queue := [], rxseq := 0, nakOut := false, rxpart := [] } := by
  simp only [Port.granted, hl, Bool.false_eq_true, if_false]

variable {pk : Packet} (hlen : pk.data.length = 16)
include hlen

theorem swrep_granted (hq : PathsQuiet s) (hop : natOf (pk.data.take 1) = 1) (hr : requestOf s (switchWord pk 4) = some p)
    {r : Nat × Word × Nat × Word × Nat} (ht : (s.port p).request = some r) :
    exec (.swrep pk) s = .next (s.setPort p ((s.port p).granted s.htime r (switchWord pk 8))) := by
  have hshort : ¬ pk.data.length < 12 := by omega
  have hr' : requestOf s (BitVec.ofNat 32 (natOf ((pk.data.drop 4).take 4))) = some p := hr
  show Host.Outcome.next (switchReply s pk) = _
  simp only [switchReply, if_neg hshort, hop, hr', ht, Option.getD_some, putPort_of_quiet hq]
  rfl

theorem swrep_pathSet (hop : natOf (pk.data.take 1) = 2) (hr : leaseOf s (switchWord pk 8) = some p) (hd : (s.port p).state = .dark) :
    exec (.swrep pk) s = .next (s.setPort p ((s.port p).locking s.htime false)) := by
  have hshort : ¬ pk.data.length < 12 := by omega
  have hr' : leaseOf s (BitVec.ofNat 32 (natOf ((pk.data.drop 8).take 4))) = some p := hr
  show Host.Outcome.next (switchReply s pk) = _
  simp only [switchReply, if_neg hshort, hop, hr', hd, beq_self_eq_true, if_true]

theorem swrep_refused (hop : natOf (pk.data.take 1) = 3) (hr : requestOf s (switchWord pk 4) = some p) :
    exec (.swrep pk) s = .next (s.setPort p { s.port p with request := none, refused := true }) := by
  have hshort : ¬ pk.data.length < 12 := by omega
  have hr' : requestOf s (BitVec.ofNat 32 (natOf ((pk.data.drop 4).take 4))) = some p := hr
  show Host.Outcome.next (switchReply s pk) = _
  simp only [switchReply, if_neg hshort, hop, hr']

end

/-! ### The obligation -/

/-- Settles O44: each clause is the lemma that says what its event does to the port. -/
theorem portsFollowTheirStates : Obligations.PortsFollowTheirStates := by
  unfold Obligations.PortsFollowTheirStates
  refine ⟨PState.lasersOn_iff, fun s p hlanes hpaths => ?_⟩
  intro t now goes stays fails locks retrains restarts heard control
  have hq : PathsQuiet s := ⟨hlanes, hpaths⟩
  have hfails : ∀ (i : Instr) (cause : Nat), exec i s = .next (s.setPort p (t.faulted cause)) → goes i (fails cause) := by
    intro i cause h
    rw [Port.faulted, Port.marks_eq] at h
    exact h
  have hrestarts : ∀ (i : Instr) (cause : Nat), exec i s = .next (startRetrain s p cause) → restarts i cause := by
    intro i cause h
    rw [startRetrain_of_quiet hq] at h
    exact h
  refine ⟨fun l => ⟨wavelengthLock_waiting l, wavelengthLock_idle l⟩,
    fun h => hfails _ 4 (portLockTimeout_late hq h), portLockTimeout_idle,
    fun w hw hs => ⟨portTrained_locked hw hs, fun ht => hfails _ 5 (portTrainingTimeout_late hq hw hs ht), portTrainingTimeout_early hw⟩,
    fun hw => ⟨portTrained_unlocked hw, portTrainingTimeout_unlocked hw⟩,
    helloSend_trained, fun h => ⟨helloSend_untrained h, portHelloTimeout_untrained h⟩,
    fun hs ht => hfails _ 6 (portHelloTimeout_late hq hs ht), ?hello, ?up, ?light, ?down, retrainRelock_after, ?live,
    ⟨_, nakRepeat_eq s, rfl, rfl⟩, fun e => engineFailure_fails hq, leaseEnd_before, ?lease, ?switch⟩
  case hello =>
    intro b c hs hc
    exact ⟨hello_fits hq hs hc, hello_misfits hq hs hc⟩
  case up =>
    intro h
    have hu := (Port.up_iff t).mpr h
    refine ⟨fun b c => ⟨fun hbad => ⟨congrArg _ (controlIn_corrupt hu hbad 1 _), congrArg _ (controlIn_corrupt hu hbad 2 _)⟩,
        fun hc => congrArg _ (controlIn_otherType hu hc (by decide) _),
        fun hc => ⟨congrArg _ (controlIn_otherType hu hc (by decide) _), retrain_acts hq hu hc⟩⟩,
      fun w => wavelengthDead_first hu, fun w hw hd hl => hrestarts _ 8 (wavelengthDead_second hu hw hd hl)⟩
  case light =>
    intro h
    have hlit := lossOfLight_lit hq h
    rw [Port.darken, Port.marks_eq] at hlit
    exact hlit
  case down =>
    intro h
    have hd : t.up = false := by rcases h with h | h <;> simp [Port.up, h]
    have hlive : t.state ≠ .live := by rcases h with h | h <;> rw [h] <;> exact PState.noConfusion
    have hlock : t.state ≠ .locking := by rcases h with h | h <;> rw [h] <;> exact PState.noConfusion
    exact ⟨fun b c => ⟨congrArg _ (controlIn_down hd 2 b c _), congrArg _ (controlIn_down hd 1 b c _)⟩, lossOfLight_unlit h,
      wavelengthDead_down hd, retrainRelock_idle hlock, ackReport_other hlive, replayLimit_below (.inl hlive), nak_other hlive⟩
  case live =>
    intro hs
    exact ⟨ackReport_live hs, fun h => hrestarts _ 9 (replayLimit_reached hs h), fun h => replayLimit_below (.inr h),
      fun n => ⟨fun h => hrestarts _ 9 (nak_limit hs h), nak_replays hs⟩,
      fun n b c => ⟨idleFlit_corrupt hs, idleFlit_acks hs⟩⟩
  case lease =>
    intro hl ht hf hd
    obtain ⟨x, hx, hport⟩ := leaseEnd_after hq hl ht hf hd
    refine ⟨x, hx, ?_⟩
    rw [hport]
    exact ⟨rfl, rfl, rfl, rfl⟩
  case switch =>
    intro pk tag hlen w
    refine ⟨fun hop hr hl r ht => ?_, fun hop htag hr hd => swrep_pathSet hlen hop ?_ hd,
      fun hop hr => swrep_refused hlen hop hr⟩
    · refine ⟨_, swrep_granted hlen hq hop hr ht, ?_⟩
      rw [State.port_setPort_same, Port.granted_new hl]
      exact ⟨rfl, rfl, rfl, rfl, rfl, rfl, rfl⟩
    · subst htag
      exact hr

end Sys2Proof.Machine
end

section
/-! PROOF. How a thread that executes outside scout reaches its instruction's own work, how it leaves its clause, waits and
becomes ready (R19, R20, R256, R257), and what a change of every thread does to one of them. -/
namespace Sys2Proof.Machine
open Sys2Proof

/-! ### A change of every thread that keeps their identities -/

theorem find_map_uid {f : Thread → Thread} (hf : ∀ x, (f x).uid = x.uid) (l : List Thread) (v : Nat) :
    (l.map f).find? (·.uid == v) = (l.find? (·.uid == v)).map f := by
  rw [List.find?_map]
  exact congrArg (Option.map f ·) (congrArg (List.find? · l) (funext fun x => by simp [hf x]))

theorem hasThread_map {f : Thread → Thread} (hf : ∀ x, (f x).uid = x.uid) (s : State) (v : Nat) :
    ({ s with threads := s.threads.map f } : State).hasThread v = s.hasThread v := by
  simp only [State.hasThread, List.any_map, Function.comp_def, hf]

theorem thread_map {f : Thread → Thread} (hf : ∀ x, (f x).uid = x.uid) {s : State} {v : Nat} (h : s.hasThread v = true) :
    ({ s with threads := s.threads.map f } : State).thread v = f (s.thread v) := by
  unfold State.thread
  rw [find_map_uid hf]
  cases hx : s.threads.find? (·.uid == v) with
  | some x => rfl
  | none =>
    obtain ⟨x, hm, hv⟩ := List.any_eq_true.mp h
    exact absurd hv (List.find?_eq_none.mp hx x hm)

/-- A thread that is there is one of the machine's. -/
theorem State.thread_mem {s : State} {v : Nat} (h : s.hasThread v = true) : s.thread v ∈ s.threads := by
  unfold State.thread
  cases hx : s.threads.find? (·.uid == v) with
  | some x => exact List.mem_of_find?_eq_some hx
  | none =>
    obtain ⟨x, hm, hv⟩ := List.any_eq_true.mp h
    exact absurd hv (List.find?_eq_none.mp hx x hm)

/-! ### Changes of teams -/

theorem find_map_team {f : Team → Team} (hf : ∀ x, (f x).uid = x.uid) (l : List Team) (v : Nat) :
    (l.map f).find? (·.uid == v) = (l.find? (·.uid == v)).map f := by
  rw [List.find?_map]
  exact congrArg (Option.map f ·) (congrArg (List.find? · l) (funext fun x => by simp [hf x]))

theorem State.team_uid {s : State} {u : Nat} (h : s.hasTeam u = true) : (s.team u).uid = u := by
  unfold State.team
  cases hx : s.teams.find? (·.uid == u) with
  | some x => simpa using List.find?_some hx
  | none =>
    obtain ⟨x, hm, hv⟩ := List.any_eq_true.mp h
    exact absurd hv (List.find?_eq_none.mp hx x hm)

theorem State.hasTeam_map {f : Team → Team} (hf : ∀ x, (f x).uid = x.uid) (s : State) (v : Nat) :
    ({ s with teams := s.teams.map f } : State).hasTeam v = s.hasTeam v := by
  simp only [State.hasTeam, List.any_map, Function.comp_def, hf]

/-- The change of a list of teams that setting one is. -/
theorem Team.put_uid (t x : Team) : (if (x.uid == t.uid) = true then t else x).uid = x.uid := by
  split
  case isTrue h => exact (beq_iff_eq.mp h).symm
  case isFalse => rfl

@[simp] theorem State.hasTeam_setTeam (s : State) (t : Team) (v : Nat) : (s.setTeam t).hasTeam v = s.hasTeam v :=
  State.hasTeam_map t.put_uid s v

theorem State.team_setTeam (s : State) (t : Team) (v : Nat) :
    (s.setTeam t).team v = if v = t.uid ∧ s.hasTeam v = true then t else s.team v := by
  have e : (s.setTeam t).teams.find? (·.uid == v) = (s.teams.find? (·.uid == v)).map _ := find_map_team t.put_uid s.teams v
  unfold State.team
  rw [e]
  cases hx : s.teams.find? (·.uid == v) with
  | none =>
    have hn : s.hasTeam v = false := by simpa [State.hasTeam] using hx
    simp [hn]
  | some x =>
    have hxv : x.uid = v := by simpa using List.find?_some hx
    have hh : s.hasTeam v = true := List.any_eq_true.mpr ⟨x, List.mem_of_find?_eq_some hx, by simp [hxv]⟩
    simp [hxv, hh]

theorem State.team_setTeam_same {s : State} {t : Team} (h : s.hasTeam t.uid = true) : (s.setTeam t).team t.uid = t := by
  rw [State.team_setTeam, if_pos ⟨rfl, h⟩]

/-! ### Stamps at the end of a clause (R20) -/

theorem stampEnd_stamp (s : State) (b : Bundle) (v : Nat) :
    ((stampEnd s b).thread v).stamp = (s.thread v).stamp ∨ ((stampEnd s b).thread v).stamp = s.cycle := by
  unfold stampEnd
  split
  · by_cases h : s.hasThread v = true
    · unfold modWhere
      rw [thread_map (fun x => by split <;> rfl) h]
      split
      · exact .inr rfl
      · exact .inl rfl
    · refine .inl ?_
      have hx : s.threads.find? (·.uid == v) = none := by simpa [State.hasThread] using h
      unfold State.thread modWhere
      rw [find_map_uid (fun x => by split <;> rfl), hx]
      rfl
  · exact .inl rfl

theorem stampEnds_stamp (bs : List Bundle) (s : State) (v : Nat) :
    ((bs.foldl stampEnd s).thread v).stamp = (s.thread v).stamp ∨ ((bs.foldl stampEnd s).thread v).stamp = s.cycle := by
  induction bs generalizing s with
  | nil => exact .inl rfl
  | cons b bs ih =>
    have hc : (stampEnd s b).cycle = s.cycle := by rw [stampEnd_eq]
    rcases ih (stampEnd s b) with h | h
    · rw [List.foldl_cons, h]
      exact stampEnd_stamp s b v
    · exact .inr (h.trans hc)

theorem leaveClause_stamp (s : State) (t : Thread) (v : Nat) :
    ((leaveClause s t).thread v).stamp = (s.thread v).stamp ∨ ((leaveClause s t).thread v).stamp = s.cycle :=
  stampEnds_stamp _ _ v

@[simp] theorem leaveClause_teams (s : State) (t : Thread) : (leaveClause s t).teams = s.teams := by rw [leaveClause_eq]
@[simp] theorem leaveClause_launches (s : State) (t : Thread) : (leaveClause s t).launches = s.launches := by rw [leaveClause_eq]
@[simp] theorem leaveClause_cycle (s : State) (t : Thread) : (leaveClause s t).cycle = s.cycle := by rw [leaveClause_eq]
@[simp] theorem leaveClause_mem (s : State) (t : Thread) : (leaveClause s t).mem = s.mem := by rw [leaveClause_eq]
@[simp] theorem leaveClause_hub (s : State) (t : Thread) : (leaveClause s t).hub = s.hub := by rw [leaveClause_eq]

/-- Two threads that differ at most in their stamps agree in every other field. -/
theorem Thread.eq_of_unstamped {x y : Thread} (h : x.unstamped = y.unstamped) : x = { y with stamp := x.stamp } := by
  cases x; cases y
  simp only [Thread.unstamped, Thread.mk.injEq] at h
  simp only [Thread.mk.injEq]
  tauto

/-! ### Threads at their instruction, outside scout -/

theorem endsScout_none {s : State} {t : Thread} (h : t.scout = none) (k : State) : endsScout s t k = k := by
  simp [endsScout, h]

/-- A change by the instruction of this step, made by the thread that executes it. -/
theorem withCur_eq {s : State} {u : Nat} {c : Cur} {th : Thread} (h : Runs s u c th) (f : Cur → State) :
    withCur s f = .next (f c) := by
  simp [withCur, h.cur]

/-- An instruction of core threads, without an X word. -/
theorem threadOp_eq {s : State} {u : Nat} {c : Cur} {th : Thread} (h : Runs s u c th) (k : State → Thread → Cur → State) :
    threadOp s none k = .next (k (s.setThread th) th c) := by
  simp only [threadOp, withCur_eq h, h.who]
  rw [onThread_eq h none (by simp), Thread.raised_none]

/-- A check that fails outside scout traps (R256). -/
theorem trapOr_none {s : State} {u : Nat} (h : (s.thread u).scout = none) (code : Nat) (a : DWord) (i : Word) (epc : DWord) :
    trapOr s u code a i epc = takeTrap s u code a i epc := by
  simp [trapOr, h]

/-- An executing thread is in place where its landed results have been put. -/
theorem Runs.thread_set {s : State} {u : Nat} {c : Cur} {th : Thread} (h : Runs s u c th) : (s.setThread th).thread u = th :=
  State.thread_setThread_same h.uid h.has

/-- The executing thread's failed check is its trap (R256). -/
theorem Runs.checked_some {s : State} {u : Nat} {c : Cur} {th : Thread} (h : Runs s u c th) {bad : Option (Nat × DWord × Word)}
    {code : Nat} {a : DWord} {i : Word} (hb : bad = some (code, a, i)) (k : State) :
    checked (s.setThread th) th c bad k = takeTrap (s.setThread th) u code a i c.addr := by
  simp only [checked, hb, h.uid]
  exact trapOr_none (by rw [h.thread_set]; exact h.scout) code a i c.addr

/-- What landing its results leaves of an executing thread. -/
theorem Runs.still {s : State} {u : Nat} {c : Cur} {th : Thread} (h : Runs s u c th) : th.still = (s.thread u).still :=
  prepare_still h.land

theorem Runs.status {s : State} {u : Nat} {c : Cur} {th : Thread} (h : Runs s u c th) : th.status = (s.thread u).status :=
  (congrArg Thread.status h.still :)

theorem Runs.team {s : State} {u : Nat} {c : Cur} {th : Thread} (h : Runs s u c th) : th.team = (s.thread u).team :=
  (congrArg Thread.team h.still :)

/-! ### Waiting in an instruction (R19) -/

/-- A thread as it waits. -/
def Thread.inWait (t : Thread) (w : Wait) : Thread := { t with status := .waiting w, hold := none, part := none, polls := false }

theorem waitIn_eq (s : State) (t : Thread) (w : Wait) : waitIn s t w = leaveClause (s.setThread (t.inWait w)) t := rfl

/-- Leaving a clause as another thread in its place: it changes nothing else but bundles and stamps. -/
theorem leaveClause_set_spec {s : State} {t t' : Thread} {u : Nat} (hu : t'.uid = u) (hs : s.hasThread u = true) :
    ((leaveClause (s.setThread t') t).thread u).unstamped = t'.unstamped ∧ OnlyThread s (leaveClause (s.setThread t') t) u := by
  refine ⟨?_, ?_, fun a => ?_, fun v hv => ?_, fun n => ?_⟩
  · rw [leaveClause_thread, State.thread_setThread_same hu hs]
  · rw [leaveClause_eq]; rfl
  · rw [leaveClause_byte]; rfl
  · rw [leaveClause_thread, State.thread_setThread_other (by simpa [hu] using hv)]
  · rw [leaveClause_core]
    split <;> rfl

/-- The executing thread leaves its clause as it then stands. -/
theorem Runs.leaves {s : State} {u : Nat} {c : Cur} {th t' : Thread} (h : Runs s u c th) (hu : t'.uid = u) (t : Thread) :
    ((leaveClause ((s.setThread th).setThread t') t).thread u).unstamped = t'.unstamped ∧
      OnlyThread s (leaveClause ((s.setThread th).setThread t') t) u := by
  obtain ⟨h1, h2⟩ := leaveClause_set_spec (s := s.setThread th) (t := t) hu (by simpa using h.has)
  exact ⟨h1, OnlyThread.of_set h.uid h2⟩

/-- Outside scout, going on is standing at the new address and leaving the clause (R257, R302). -/
theorem retireAt_eq {s : State} {t : Thread} (h : t.scout = none) (c : Cur) (pc : DWord) (tr : Bool) :
    retireAt s t c pc tr = leaveClause (s.setThread (t.goneTo c pc tr)) (t.goneTo c pc tr) := by
  have hin : t.inEpisode = false := by simp [Thread.inEpisode, h]
  have hlow : (t.goneTo c pc tr).scout = none := (Thread.lower_scout t).trans h
  have e : retireAt s t c pc tr =
      (fun t2 => if t.inEpisode then scoutCount (leaveClause (s.setThread t2) t2) t 0x08 else leaveClause (s.setThread t2) t2)
        (match (t.goneTo c pc tr).scout with
          | some sc => { t.goneTo c pc tr with scout := some { sc with count := sc.count + 1 } }
          | none => t.goneTo c pc tr) := rfl
  rw [e, hin, hlow]
  rfl

/-- The ready stamp of a thread that goes on is its own or renewed as the clause ends (R20). -/
theorem retire_stamp {s : State} {t : Thread} {u : Nat} {c : Cur} (hu : t.uid = u) (hs : s.hasThread u = true) (hsc : t.scout = none)
    (hst : t.stamp = s.cycle) : ((retire s t c).thread u).stamp = s.cycle := by
  rw [retire, retireAt_eq hsc]
  rcases leaveClause_stamp (s.setThread (t.goneTo c c.next false)) (t.goneTo c c.next false) u with h | h
  · rw [h, State.thread_setThread_same (t := t.goneTo c c.next false) ((Thread.lower_uid t).trans hu) hs]
    exact (Thread.lower_stamp t).trans hst
  · exact h

/-- With nothing that could be bad, no check fails (R256). -/
theorem regChecks_empty (t : Thread) (c : Cur) : regChecks t c false [] [] = none := rfl

theorem regChecks_ill (t : Thread) (c : Cur) (uses hot : List Nat) : regChecks t c true uses hot = some (0x01, c.addr, c.word) := rfl

end Sys2Proof.Machine
end

section
/-! PROOF. NOP, YIELD, SLEEP and EXIT (R19, R20, R210, R360, R417, R455, R473), and the obligation assembled from them. -/
namespace Sys2Proof.Machine
open Sys2Proof

/-- A counter falls whatever the ready stamp is. -/
theorem Thread.lower_stamped (t : Thread) (n : Nat) : ({ t with stamp := n } : Thread).lower = { t.lower with stamp := n } := by
  cases hu : t.up with
  | none => simp only [Thread.lower, hu]
  | some k =>
    simp only [Thread.lower, hu]
    unfold Thread.sbDown
    split <;> rfl

/-- SLEEP for n, as an immediate below 1024 or as a literal (R455). -/
theorem sleep_eq_sleepOp {n : Nat} (hn : n < 2 ^ 32) {i : Instr}
    (hi : i ∈ (if n < 1024 then [Instr.sleep (BitVec.ofNat 11 n)] else []) ++ [Instr.sleepLiteral (BitVec.ofNat 32 n)]) (s : State) :
    exec i s = sleepOp false n s := by
  rcases List.mem_append.mp hi with hi | hi
  · split at hi
    case isTrue h10 =>
      rw [List.mem_singleton.mp hi]
      have hv : (BitVec.ofNat 11 n).toNat = n := by
        rw [BitVec.toNat_ofNat]
        exact Nat.mod_eq_of_lt (by omega)
      show sleepOp (!(Instr.wf (.sleep _))) (BitVec.ofNat 11 n).toNat s = _
      simp only [Instr.wf, hv, h10, decide_true, Bool.not_true]
    case isFalse => exact absurd hi List.not_mem_nil
  · rw [List.mem_singleton.mp hi]
    have hv : (BitVec.ofNat 32 n).toNat = n := by
      rw [BitVec.toNat_ofNat]
      exact Nat.mod_eq_of_lt hn
    show sleepOp (!(Instr.wf (.sleepLiteral _))) (BitVec.ofNat 32 n).toNat s = _
    simp only [Instr.wf, hv, Bool.not_true]

section
variable {s : State} {u : Nat} {c : Cur} {th : Thread} (h : Runs s u c th)
include h

theorem nop_advances : ∃ t, exec .nop s = .next t ∧ Advanced s t u c th := by
  have e : exec .nop s = .next (retire (s.setThread th) th c) := by
    show withCur s _ = _
    rw [withCur_eq h]
    simp only [h.who]
    rw [onThread_eq h none (by simp), Thread.raised_none]
  exact ⟨_, e, retire_advanced h.uid h.uid h.has h.scout⟩

/-- Going on with the stamp of this cycle is going on, with that stamp. -/
theorem Runs.retires_stamped :
    Advanced s (retire (s.setThread th) { th with stamp := s.cycle } c) u c th ∧
      ((retire (s.setThread th) { th with stamp := s.cycle } c).thread u).stamp = s.cycle := by
  have hg : (({ th with stamp := s.cycle } : Thread).goneOn c).unstamped = (th.goneOn c).unstamped := by
    simp only [Thread.goneOn, Thread.lower_stamped, Thread.unstamped]
  obtain ⟨h1, h2⟩ := retire_advanced (th := th) (t := { th with stamp := s.cycle }) (c := c) (u := u) h.uid h.uid h.has h.scout
  exact ⟨⟨h1.trans hg, h2⟩, retire_stamp h.uid (by simpa using h.has) h.scout rfl⟩

theorem yield_advances : ∃ t, exec .yield s = .next t ∧ Advanced s t u c th ∧ (t.thread u).stamp = s.cycle := by
  have e : exec .yield s = .next (retire (s.setThread th) { th with stamp := s.cycle } c) := by
    refine (threadOp_eq h _).trans ?_
    rw [endsScout_none h.scout]
    rfl
  exact ⟨_, e, h.retires_stamped⟩

/-- SLEEP of a thread, its immediate in bounds or not (R455). -/
theorem sleepOp_eq (ill : Bool) (n : Nat) :
    sleepOp ill n s = .next (checked (s.setThread th) th c (regChecks th c ill [] [])
      (if n == 0 then retire (s.setThread th) { th with stamp := s.cycle } c else waitIn (s.setThread th) th (.sleep (s.cycle + n) c.next))) := by
  unfold sleepOp
  rw [withCur_eq h]
  simp only [h.who]
  rw [onThread_eq h none (by simp), Thread.raised_none, endsScout_none h.scout]
  rfl

theorem sleepOp_zero : ∃ t, sleepOp false 0 s = .next t ∧ Advanced s t u c th ∧ (t.thread u).stamp = s.cycle :=
  ⟨_, sleepOp_eq h false 0, h.retires_stamped⟩

theorem sleepOp_waits {n : Nat} (hn : n ≠ 0) :
    ∃ t, sleepOp false n s = .next t ∧ OnlyThread s t u ∧ (t.thread u).unstamped = (th.inWait (.sleep (s.cycle + n) c.next)).unstamped := by
  refine ⟨_, sleepOp_eq h false n, ?_⟩
  have hb : (n == 0) = false := by simpa using hn
  simp only [regChecks_empty, checked, hb, Bool.false_eq_true, ↓reduceIte, waitIn_eq]
  exact (h.leaves (t' := th.inWait (.sleep (s.cycle + n) c.next)) h.uid th).symm

theorem sleep_traps {n : BitVec 11} (hn : 1024 ≤ n.toNat) : Traps s u th (.sleep n) 0x01 c.addr c.word c.addr := by
  have hill : (!(Instr.wf (.sleep n))) = true := by simpa [Instr.wf] using hn
  refine (sleepOp_eq h _ n.toNat).trans ?_
  rw [hill, h.checked_some (regChecks_ill ..)]

end

/-! ### EXIT (R28, R137, R252, R360) -/

/-- The thread is parked on a service call. -/
def Thread.isParked (t : Thread) : Bool := match t.status with | .parked _ => true | _ => false

theorem Thread.isParked_eq_false {t : Thread} (h : ∀ e, t.status ≠ .parked e) : t.isParked = false := by
  unfold Thread.isParked
  split
  case h_1 e he => exact absurd he (h e)
  case h_2 => rfl

/-- A group without a parked thread is not spilled (R252). -/
theorem spillGroup_noneParked {s : State} (h : ∀ x ∈ s.threads, ∀ e, x.status ≠ .parked e) (tm : Team) (g : Nat) : spillGroup s tm g = s := by
  have hp : ((s.threads.filter fun t => t.team == tm.uid && groupOf t (s.launchOf tm.launch).rcd == g).any Thread.isParked) = false :=
    List.any_eq_false.mpr fun x hx => by simp [Thread.isParked_eq_false (h x (List.mem_of_mem_filter hx))]
  exact if_neg fun e => by
    simp only [Bool.and_eq_true] at e
    exact Bool.false_ne_true (hp.symm.trans e.1.1)

/-- New stamps park no thread. -/
theorem leaveClause_noneParked {s : State} (h : ∀ x ∈ s.threads, ∀ e, x.status ≠ .parked e) (t : Thread) :
    ∀ x ∈ (leaveClause s t).threads, ∀ e, x.status ≠ .parked e := by
  have hs : ∀ (bs : List Bundle) (s : State), (∀ x ∈ s.threads, ∀ e, x.status ≠ .parked e) →
      ∀ x ∈ (bs.foldl stampEnd s).threads, ∀ e, x.status ≠ .parked e := by
    intro bs
    induction bs with
    | nil => exact fun _ h => h
    | cons b bs ih =>
      intro s h
      refine ih (stampEnd s b) fun x hx => ?_
      unfold stampEnd at hx
      split at hx
      · obtain ⟨y, hy, rfl⟩ := List.mem_map.mp hx
        split <;> exact h y hy
      · exact h x hx
  exact hs _ _ h

theorem setThread_noneParked {s : State} (h : ∀ x ∈ s.threads, ∀ e, x.status ≠ .parked e) {t : Thread} (ht : ∀ e, t.status ≠ .parked e) :
    ∀ x ∈ (s.setThread t).threads, ∀ e, x.status ≠ .parked e := by
  intro x hx
  obtain ⟨y, hy, rfl⟩ := List.mem_map.mp hx
  split
  · exact ht
  · exact h y hy

/-- Setting a team's mark of unread errors changes nothing else of it. -/
theorem team_setTeam_remErr (s : State) (u : Nat) (b : Bool) :
    ∃ b', (s.setTeam { s.team u with remErr := b }).team u = { s.team u with remErr := b' } := by
  rw [State.team_setTeam]
  split
  · exact ⟨b, rfl⟩
  · exact ⟨(s.team u).remErr, rfl⟩

/-- A thread as it has exited. -/
def Thread.ended (t : Thread) (c : Cur) : Thread :=
  { t with status := .exited, window := [], pc := c.next, mid := none, hold := none, part := none }

/-- What an EXIT ends besides its thread: instances that name its lane, gathering instances without its row, and its group's
places when all the others are parked (R28, R137, R252). -/
def afterExit (s : State) (t : Thread) (team : Nat) : State :=
  let s1 := (namedIn s t).foldl (fun s v => failInstance s team v 3) s
  let s2 := (unsignedOn s1 t).foldl (fun s i => discardGather s team i 6) s1
  spillGroup s2 (s2.teamOf t) (groupOf t (s2.launchOfThread t).rcd)

theorem afterExit_nothing {s : State} {t : Thread} (hr : (s.teamOf t).rdvs = []) (hc : (s.teamOf t).convs = [])
    (hp : ∀ x ∈ s.threads, ∀ e, x.status ≠ .parked e) (team : Nat) : afterExit s t team = s := by
  have hn : namedIn s t = [] := by simp [namedIn, hr]
  have hg : unsignedOn s t = [] := by simp [unsignedOn, hc]
  simp only [afterExit, hn, List.foldl_nil, hg]
  exact spillGroup_noneParked hp _ _

/-- The state in which an EXIT's thread has left its clause; b is the team's mark of unread errors (R130, R360). -/
def exited (s : State) (t : Thread) (c : Cur) (b : Bool) : State :=
  leaveClause ((s.setTeam { s.teamOf t with remErr := b }).setThread (t.ended c)) (t.ended c)

theorem exit_eq {s : State} {u : Nat} {c : Cur} {th : Thread} (h : Runs s u c th) :
    exec .exit s = .next (afterExit (exited (s.setThread th) th c ((s.teamOf th).remErr || th.remerr.msb)) (th.ended c) (s.teamOf th).uid) := by
  show withCur s _ = _
  rw [withCur_eq h]
  simp only [h.who]
  rw [onThread_eq h none (by simp), Thread.raised_none, endsScout_none h.scout]
  rfl

theorem exited_team (s : State) (t : Thread) (c : Cur) (b : Bool) :
    ((exited s t c b).teamOf (t.ended c)).rdvs = (s.teamOf t).rdvs ∧ ((exited s t c b).teamOf (t.ended c)).convs = (s.teamOf t).convs := by
  obtain ⟨b', hb'⟩ := team_setTeam_remErr s t.team b
  have e : (exited s t c b).teamOf (t.ended c) = { s.team t.team with remErr := b' } := by
    rw [← hb']
    show State.team _ _ = _
    unfold State.team exited
    rw [leaveClause_teams]
    rfl
  rw [e]
  exact ⟨rfl, rfl⟩

/-- EXIT of a thread whose team waits for nothing it could disturb (R360). -/
theorem exit_exits {s : State} {u : Nat} {c : Cur} {th : Thread} (h : Runs s u c th) (hr : (s.teamOf th).rdvs = [])
    (hc : (s.teamOf th).convs = []) (hp : ∀ x ∈ s.threads, ∀ e, x.status ≠ .parked e) :
    ∃ t, exec .exit s = .next t ∧ (t.thread u).status = .exited ∧ (t.thread u).window = [] ∧ (∀ a, t.byte a = s.byte a) ∧
      ∀ v, v ≠ u → (t.thread v).unstamped = (s.thread v).unstamped := by
  generalize hb : ((s.teamOf th).remErr || th.remerr.msb) = b
  have hth : ∀ e, th.status ≠ .parked e := by
    rw [h.status]
    exact hp _ (State.thread_mem h.has)
  have hq : ∀ x ∈ (exited (s.setThread th) th c b).threads, ∀ e, x.status ≠ .parked e :=
    leaveClause_noneParked (setThread_noneParked (s := (s.setThread th).setTeam { s.teamOf th with remErr := b })
      (setThread_noneParked hp hth) (fun _ => Status.noConfusion)) _
  obtain ⟨htr, htc⟩ := exited_team (s.setThread th) th c b
  have e := exit_eq h
  rw [hb, afterExit_nothing (htr.trans hr) (htc.trans hc) hq] at e
  obtain ⟨h1, h2⟩ := leaveClause_set_spec (s := (s.setThread th).setTeam { s.teamOf th with remErr := b }) (t := th.ended c)
    (t' := th.ended c) h.uid (by simpa using h.has)
  have hu := Thread.eq_of_unstamped h1
  refine ⟨_, e, (congrArg Thread.status hu :), (congrArg Thread.window hu :), h2.memory, fun v hv => ?_⟩
  exact (h2.others v hv).trans (congrArg Thread.unstamped (State.thread_setThread_other (s := s) (by simpa [h.uid] using hv)))

/-! ### The end of a sleep (R19, R455) -/

theorem sleepExpire_thread {s : State} {u till : Nat} {next : DWord} (hs : s.hasThread u = true)
    (hw : (s.thread u).status = .waiting (.sleep till next)) :
    exec (.sleepExpire u) s = .next (if till ≤ s.cycle then s.setThread ((s.thread u).readyAt next s.cycle) else s) := by
  show execSleepExpire u s = _
  unfold execSleepExpire
  simp only [hw, hs, Bool.true_and, decide_eq_true_eq]

theorem sleepExpire_script {s : State} {k till : Nat} (hk : k < 4) (hs : s.hasThread (scriptAsker k) = false)
    (hr : (s.script k).running = true) (hw : (s.script k).wait = some (.sleep till)) :
    exec (.sleepExpire (scriptAsker k)) s = .next (if till ≤ s.htime then scriptNext s k else s) := by
  have hth : s.thread (scriptAsker k) = {} := by
    have hx : s.threads.find? (·.uid == scriptAsker k) = none := by simpa [State.hasThread] using hs
    simp [State.thread, hx]
  have hf : (List.range 4).find? (fun j => scriptAsker j == scriptAsker k) = some k := by
    have : ∀ k < 4, (List.range 4).find? (fun j => scriptAsker j == scriptAsker k) = some k := by decide
    exact this k hk
  show execSleepExpire (scriptAsker k) s = _
  unfold execSleepExpire
  simp only [hth, hf, hw, hr, Bool.true_and, decide_eq_true_eq]

/-- Settles O14: each clause is the lemma that says what its instruction does. -/
theorem nopYieldSleepAndExit : Obligations.NopYieldSleepAndExit := by
  refine ⟨fun s u c th h => ⟨nop_advances h, yield_advances h, ?sleep, fun n => sleep_traps h, exit_exits h⟩,
    fun s u till next hs hw => ?thread, fun s k till hk hs hr hw => ?script⟩
  case sleep =>
    intro n hn i hi
    rw [sleep_eq_sleepOp hn hi]
    split
    case isTrue h0 => rw [h0]; exact sleepOp_zero h
    case isFalse h0 => exact sleepOp_waits h h0
  case thread =>
    rw [sleepExpire_thread hs hw]
    exact ⟨fun ht => by rw [if_pos ht], fun ht => by rw [if_neg (by omega)]⟩
  case script =>
    rw [sleepExpire_script hk hs hr hw]
    exact ⟨fun ht => by rw [if_pos ht], fun ht => by rw [if_neg (by omega)]⟩

end Sys2Proof.Machine
end

section
/-! PROOF. Team barriers (R30-R32, R332), and the obligation assembled from what an arrival does. -/
namespace Sys2Proof.Machine
open Sys2Proof

section
variable {s : State} {u : Nat} {c : Cur} {th : Thread} (h : Runs s u c th)
include h

/-- The count a BAR names, and whether the instruction is illegal (R332). -/
theorem bar_eq (all : Bool) (slot : BitVec 4) (a : Reg) :
    let r := (s.launchOfThread th).rcd
    let rs := if all then [] else [a.toNat]
    let n := if all then r.nthr else (th.val a).toNat
    exec (.bar all slot a) s = .next (checked (s.setThread th) th c
      (regChecks th c (!(Instr.wf (.bar all slot a)) || r.nbar ≤ slot.toNat || limited th rs (n == 0 || r.nthr < n)) rs rs)
      (arriveBar (s.setThread th) th c slot.toNat n)) := by
  refine (threadOp_eq h _).trans ?_
  rw [endsScout_none h.scout]
  rfl

/-- A BAR that breaks a limit is illegal (R256, R332). -/
theorem bar_illegal {all : Bool} {slot : BitVec 4} {a : Reg} (hill :
      let r := (s.launchOfThread th).rcd
      let n := if all then r.nthr else (th.val a).toNat
      r.nbar ≤ slot.toNat ∨ (limited th (if all then [] else [a.toNat]) (n == 0 || r.nthr < n)) = true) :
    Traps s u th (.bar all slot a) 0x01 c.addr c.word c.addr := by
  refine (bar_eq h all slot a).trans ?_
  rw [h.checked_some]
  rcases hill with hill | hill
  · simp only [hill, decide_true, Bool.or_true, Bool.true_or, regChecks_ill]
  · simp only [hill, Bool.or_true, regChecks_ill]

/-- A BAR within its limits arrives. -/
theorem bar_arrives {all : Bool} {slot : BitVec 4} {a : Reg} (ha : all = true → a = 0) (hr : all = false → Readable th [a.toNat])
    (hslot : slot.toNat < (s.launchOfThread th).rcd.nbar)
    (hn : let n := if all then (s.launchOfThread th).rcd.nthr else (th.val a).toNat
      1 ≤ n ∧ n ≤ (s.launchOfThread th).rcd.nthr) :
    exec (.bar all slot a) s =
      .next (arriveBar (s.setThread th) th c slot.toNat (if all then (s.launchOfThread th).rcd.nthr else (th.val a).toNat)) := by
  refine (bar_eq h all slot a).trans ?_
  have hwf : Instr.wf (.bar all slot a) = true := by
    cases all
    · rfl
    · simp [Instr.wf, ha rfl]
  have hlim : ((if all then (s.launchOfThread th).rcd.nthr else (th.val a).toNat) == 0 ||
      decide ((s.launchOfThread th).rcd.nthr < if all then (s.launchOfThread th).rcd.nthr else (th.val a).toNat)) = false := by
    simp only at hn
    simp only [Bool.or_eq_false_iff, beq_eq_false_iff_ne, decide_eq_false_iff_not]
    omega
  have hreg : Readable th (if all then [] else [a.toNat]) := by
    cases all
    · exact hr rfl
    · exact fun _ hx => absurd hx List.not_mem_nil
  simp only [hwf, hlim, limited, Bool.not_true, Bool.false_and, Bool.or_false, Nat.not_le.mpr hslot, decide_false]
  rw [regChecks_none (fun r hx => (hreg r hx).1) (fun r hx => (hreg r hx).2)]
  rfl

/-- The state in which a thread waits at a barrier slot that has counted its arrival (R30). -/
def arrivedAtBar (s : State) (th : Thread) (slot count arrivals : Nat) : State :=
  let s1 := waitIn s th (.bar slot)
  s1.setTeam { s1.team th.team with bars := tset {} (s1.team th.team).bars slot ⟨true, count, arrivals⟩ }

omit h in
theorem waitIn_team (s : State) (t : Thread) (w : Wait) (v : Nat) : (waitIn s t w).team v = s.team v := by
  unfold State.team
  rw [waitIn_eq, leaveClause_teams]
  rfl

omit h in
theorem arriveBar_agrees {s : State} {th : Thread} {c : Cur} {slot count : Nat} (ht : s.hasTeam th.team = true)
    (hb : (tget {} (s.teamOf th).bars slot).active = true → (tget {} (s.teamOf th).bars slot).target = count) :
    arriveBar s th c slot count =
      let k := (tget {} (s.teamOf th).bars slot).arrivals + 1
      if k = count then completeBarrier (arrivedAtBar s th slot count k) th.team slot else arrivedAtBar s th slot count k := by
  have hu : (s.teamOf th).uid = th.team := State.team_uid ht
  have hc : ((tget {} (s.teamOf th).bars slot).active && (tget {} (s.teamOf th).bars slot).target != count) = false := by
    cases hact : (tget {} (s.teamOf th).bars slot).active with
    | false => rfl
    | true => simp [hb hact]
  unfold arriveBar
  simp only [hc, hu, Bool.false_eq_true, ↓reduceIte, beq_iff_eq]
  rfl

end

section
variable {s : State} {th : Thread} {slot count k : Nat}

theorem arrivedAtBar_team (ht : s.hasTeam th.team = true) :
    ((arrivedAtBar s th slot count k).team th.team) =
      { s.team th.team with bars := tset {} (s.team th.team).bars slot ⟨true, count, k⟩ } := by
  have hw : (waitIn s th (.bar slot)).hasTeam th.team = true := by
    unfold State.hasTeam
    rw [waitIn_eq, leaveClause_teams]
    exact ht
  have huid : ((waitIn s th (.bar slot)).team th.team).uid = th.team := State.team_uid hw
  unfold arrivedAtBar
  rw [State.team_setTeam, if_pos ⟨huid.symm, hw⟩, waitIn_team]

/-- A barrier that completes wakes the threads of the team that wait at it, and no other (R30). -/
theorem completeBarrier_thread {team v : Nat} (hv : s.hasThread v = true) :
    (completeBarrier s team slot).thread v =
      if (s.thread v).team = team ∧ (s.thread v).status = .waiting (.bar slot) then (s.thread v).readyAt ((s.thread v).pc + 4) s.cycle
      else s.thread v := by
  unfold completeBarrier modWhere
  rw [thread_map (s := s.setTeam _) (fun x => by split <;> simp) (by simpa using hv)]
  simp [Bool.and_eq_true]

theorem completeBarrier_bar {team : Nat} (ht : s.hasTeam team = true) : tget {} ((completeBarrier s team slot).team team).bars slot = {} := by
  have e : (completeBarrier s team slot).team team = { s.team team with bars := tset {} (s.team team).bars slot {} } := by
    show (s.setTeam _).team team = _
    rw [State.team_setTeam, if_pos ⟨(State.team_uid ht).symm, ht⟩]
  rw [e]
  exact tget_tset_same {} (s.team team).bars slot {}

end

/-- The arrivals at a barrier slot so far, and what a further one leads to (R30). -/
theorem bar_counts {s : State} {u : Nat} {c : Cur} {th : Thread} (h : Runs s u c th) {slot n k : Nat} (ht : s.hasTeam th.team = true) :
    let t := arrivedAtBar (s.setThread th) th slot n k
    (t.thread u).unstamped = (th.inWait (.bar slot)).unstamped ∧ (∀ a, t.byte a = s.byte a) ∧ t.hasThread u = true ∧ t.hasTeam th.team = true ∧
      tget {} (t.team th.team).bars slot = ⟨true, n, k⟩ ∧
      ∀ v, s.hasThread v = true → v ≠ u → t.hasThread v = true ∧ (t.thread v).unstamped = (s.thread v).unstamped := by
  obtain ⟨h1, h2⟩ := h.leaves (t' := th.inWait (.bar slot)) h.uid th
  refine ⟨h1, h2.memory, ?_, ?_, ?_, fun v hv hne => ⟨?_, h2.others v hne⟩⟩
  · exact (leaveClause_hasThread ..).trans (by simpa using h.has)
  · refine (State.hasTeam_setTeam ..).trans ?_
    unfold State.hasTeam
    rw [waitIn_eq, leaveClause_teams]
    exact ht
  · rw [arrivedAtBar_team (s := s.setThread th) ht]
    exact tget_tset_same {} (s.team th.team).bars slot ⟨true, n, k⟩
  · exact (leaveClause_hasThread ..).trans (by simpa using hv)

/-- Settles O20: the limits, the disagreeing count, an arrival short of the count and the last one. -/
theorem barrierArrivals : Obligations.BarrierArrivals := by
  intro s u c th all slot a h ht r b n
  refine ⟨fun hs => bar_illegal h (.inl hs), fun ha hr hslot => ⟨fun hn => bar_illegal h (.inr ?illegal), fun h1 h2 hact htar => ?other, fun h1 h2 hagree => ?_⟩⟩
  case illegal =>
    have hrs : ∀ x ∈ (if all then [] else [a.toNat]), x < th.regs.length := by
      cases all
      · exact fun x hx => (hr rfl x hx).1
      · exact fun _ hx => absurd hx List.not_mem_nil
    simp only [limited, Bool.and_eq_true, Bool.or_eq_true, beq_iff_eq, decide_eq_true_eq, List.all_eq_true]
    exact ⟨hn, fun x hx => ⟨hrs x hx, by simp [Thread.invalid_none h.scout]⟩⟩
  case other =>
    refine (bar_arrives h ha hr hslot ⟨h1, h2⟩).trans ?_
    have hc : (b.active && b.target != n) = true := by simp [hact, htar]
    rw [← h.uid]
    exact congrArg _ (if_pos hc)
  have e := bar_arrives h ha hr hslot ⟨h1, h2⟩
  rw [arriveBar_agrees (s := s.setThread th) ht hagree] at e
  obtain ⟨hu, hmem, hhas, hteam, hbar, hothers⟩ := bar_counts (slot := slot.toNat) (n := n) (k := b.arrivals + 1) h ht
  have hu := Thread.eq_of_unstamped hu
  by_cases hk : b.arrivals + 1 = n
  case neg =>
    refine ⟨_, e.trans (congrArg _ (if_neg hk)), hmem, fun _ => ⟨(congrArg Thread.status hu :), hbar⟩, fun hk' => absurd hk' hk⟩
  case pos =>
    refine ⟨_, e.trans (congrArg _ (if_pos hk)), hmem, fun hk' => absurd hk hk', fun _ => ?_⟩
    have hself := completeBarrier_thread (slot := slot.toNat) (team := th.team) hhas
    rw [if_pos ⟨(congrArg Thread.team hu :), (congrArg Thread.status hu :)⟩] at hself
    refine ⟨(congrArg Thread.status hself :), (congrArg Thread.pc hself).trans (congrArg (fun x : Thread => x.pc + 4) hu :), (congrArg Thread.mid hself :),
      completeBarrier_bar hteam, fun v hv hne hvt hvs => ?_⟩
    obtain ⟨hv1, hv2⟩ := hothers v hv hne
    have hv2 := Thread.eq_of_unstamped hv2
    have hother := completeBarrier_thread (slot := slot.toNat) (team := th.team) hv1
    rw [if_pos ⟨(congrArg Thread.team hv2 :).trans hvt, (congrArg Thread.status hv2 :).trans hvs⟩] at hother
    exact ⟨(congrArg Thread.status hother :), (congrArg Thread.pc hother).trans (congrArg (fun x : Thread => x.pc + 4) hv2 :)⟩

end Sys2Proof.Machine
end

section
/-! PROOF. What the cross-lane operations compute over their members' operands (R331, R356, R437, R446, R450, R471), free of
the machine: ballots and elections, shuffles, votes, reductions and scans. -/
namespace Sys2Proof.Machine
open Sys2Proof

/-! ### FP32 patterns in their order, -0 below +0 (R69) -/

/-- A value of a pattern of FP32: its exponent is on the grid of the least subnormal, and its magnitude is not zero. -/
def Val.onFp32 : Val → Prop
  | .fin _ m e => -149 ≤ e ∧ 0 < m
  | _ => True

theorem valOf_fp32 (x : Nat) : (valOf fp32 x).onFp32 := by
  have e : valOf fp32 x =
      if x % 2 ^ 31 == 0 then .zero (x >>> 31 % 2 == 1)
      else if x % 2 ^ 31 ≤ 0x7F7FFFFF then
        if (x % 2 ^ 31) >>> 23 == 0 then .fin (x >>> 31 % 2 == 1) (x % 2 ^ 31 % 2 ^ 23) (-149)
        else .fin (x >>> 31 % 2 == 1) (x % 2 ^ 31 % 2 ^ 23 + 2 ^ 23) (-149 + ((x % 2 ^ 31) >>> 23 : Nat) - 1)
      else if some 0x7F800000 == some (x % 2 ^ 31) then .inf (x >>> 31 % 2 == 1) else .nan := rfl
  rw [e]
  split_ifs with h0 hfin hsub hinf
  · trivial
  · simp only [beq_iff_eq, Nat.shiftRight_eq_div_pow] at h0 hsub
    exact ⟨by omega, by omega⟩
  · simp only [beq_iff_eq, Nat.shiftRight_eq_div_pow] at hsub
    exact ⟨by simp only [Nat.shiftRight_eq_div_pow]; omega, by omega⟩
  · trivial
  · trivial

/-- The place of a value in the order: the infinities at the ends, the zeros between the negative and the positive numbers. -/
def Val.rank : Val → ℤ ×ₗ ℤ
  | .nan => toLex (2, 0)
  | .inf n => toLex (if n then -1 else 1, 0)
  | .zero n => toLex (0, if n then -1 else 0)
  | .fin n m e => toLex (0, 2 * (Val.fin n m e).onGrid (-149))

theorem onGrid_scale (n : Bool) (m : Nat) {e p q : Int} (hq : p ≤ q) (he : q ≤ e) :
    (Val.fin n m e).onGrid p = (Val.fin n m e).onGrid q * 2 ^ (q - p).toNat := by
  have hx : (e - p).toNat = (e - q).toNat + (q - p).toNat := by omega
  simp only [Val.onGrid, Nat.shiftLeft_eq, hx, pow_add, ← mul_assoc]
  split <;> push_cast <;> ring

theorem onGrid_neg_iff (n : Bool) {m : Nat} (e q : Int) (hm : 0 < m) : (Val.fin n m e).onGrid q < 0 ↔ n = true := by
  have hk : 0 < m <<< (e - q).toNat := by rw [Nat.shiftLeft_eq]; positivity
  simp only [Val.onGrid]
  generalize m <<< (e - q).toNat = k at hk
  cases n
  · simp
  · simpa using hk

theorem onGrid_ne_zero (n : Bool) {m : Nat} (e q : Int) (hm : 0 < m) : (Val.fin n m e).onGrid q ≠ 0 := by
  have hk : 0 < m <<< (e - q).toNat := by rw [Nat.shiftLeft_eq]; positivity
  simp only [Val.onGrid]
  generalize m <<< (e - q).toNat = k at hk
  cases n <;> simp only [Bool.false_eq_true, ↓reduceIte] <;> omega

/-- The order of two numbers is that of their places (R69). -/
theorem vle0_iff {x y : Val} (hx : x.onFp32) (hy : y.onFp32) (hxn : x ≠ .nan) (hyn : y ≠ .nan) : vle0 x y = true ↔ x.rank ≤ y.rank := by
  rw [Prod.Lex.le_iff]
  cases x with
  | nan => exact absurd rfl hxn
  | inf a =>
    cases y with
    | nan => exact absurd rfl hyn
    | inf b => cases a <;> cases b <;> simp [vle0, Val.rank]
    | zero b => cases a <;> simp [vle0, Val.rank]
    | fin b n g => cases a <;> simp [vle0, Val.rank]
  | zero a =>
    cases y with
    | nan => exact absurd rfl hyn
    | inf b => cases b <;> simp [vle0, Val.rank]
    | zero b => cases a <;> cases b <;> simp [vle0, Val.rank]
    | fin b n g =>
      have h := onGrid_neg_iff b g (-149) hy.2
      have h0 := onGrid_ne_zero b g (-149) hy.2
      cases a <;> cases b <;> simp_all [vle0, Val.rank] <;> omega
  | fin a m e =>
    cases y with
    | nan => exact absurd rfl hyn
    | inf b => cases b <;> simp [vle0, Val.rank]
    | zero b =>
      have h := onGrid_neg_iff a e (-149) hx.2
      have h0 := onGrid_ne_zero a e (-149) hx.2
      cases a <;> cases b <;> simp_all [vle0, Val.rank] <;> omega
    | fin b n g =>
      have hq : -149 ≤ min e g := le_min hx.1 hy.1
      have h1 := onGrid_scale a m hq (min_le_left e g)
      have h2 := onGrid_scale b n hq (min_le_right e g)
      have hpow : (0 : ℤ) < 2 ^ (min e g - -149).toNat := by positivity
      simp only [vle0, Val.rank, ofLex_toLex, lt_self_iff_false, false_or, true_and, decide_eq_true_eq, h1, h2]
      constructor
      · intro h
        have := Int.mul_le_mul_of_nonneg_right h hpow.le
        omega
      · intro h
        exact le_of_mul_le_mul_right (by omega) hpow

/-! ### The least and the greatest FP32 value (R437) -/

/-- A word whose pattern is no NaN. -/
def IsNum (w : Word) : Prop := valOf fp32 w.toNat ≠ .nan
/-- The place of a word's value in the order. -/
def rankOf (w : Word) : ℤ ×ₗ ℤ := (valOf fp32 w.toNat).rank

theorem vle0_words {a b : Word} (ha : IsNum a) (hb : IsNum b) : vle0 (valOf fp32 a.toNat) (valOf fp32 b.toNat) = true ↔ rankOf a ≤ rankOf b :=
  vle0_iff (valOf_fp32 _) (valOf_fp32 _) ha hb

/-- One step of a reduction by minimum or by maximum. -/
def minStep (a x : Word) : Word := BitVec.ofNat 32 (fMin fp32 a.toNat x.toNat)
def maxStep (a x : Word) : Word := BitVec.ofNat 32 (fMax fp32 a.toNat x.toNat)

theorem ofNat_ite (p : Prop) [Decidable p] (a b : Word) : BitVec.ofNat 32 (if p then a.toNat else b.toNat) = if p then a else b := by
  split <;> simp

theorem minStep_nums {a x : Word} (ha : IsNum a) (hx : IsNum x) : minStep a x = if rankOf a ≤ rankOf x then a else x := by
  have e : fMin fp32 a.toNat x.toNat = if vle0 (valOf fp32 a.toNat) (valOf fp32 x.toNat) then a.toNat else x.toNat := by
    unfold fMin
    split
    · exact absurd ‹_› ha
    · exact absurd ‹_› ha
    · exact absurd ‹_› hx
    · rfl
  rw [minStep, e, ofNat_ite]
  simp only [vle0_words ha hx]

theorem maxStep_nums {a x : Word} (ha : IsNum a) (hx : IsNum x) : maxStep a x = if rankOf a ≤ rankOf x then x else a := by
  have e : fMax fp32 a.toNat x.toNat = if vle0 (valOf fp32 a.toNat) (valOf fp32 x.toNat) then x.toNat else a.toNat := by
    unfold fMax
    split
    · exact absurd ‹_› ha
    · exact absurd ‹_› ha
    · exact absurd ‹_› hx
    · rfl
  rw [maxStep, e, ofNat_ite]
  simp only [vle0_words ha hx]

/-- A NaN gives way to the other operand. -/
theorem step_nan_left {a x : Word} (ha : ¬ IsNum a) (hx : IsNum x) : minStep a x = x ∧ maxStep a x = x := by
  have ha : valOf fp32 a.toNat = .nan := not_not.mp ha
  unfold minStep maxStep fMin fMax
  rw [ha]
  cases hv : valOf fp32 x.toNat with
  | nan => exact absurd hv hx
  | _ => simp

theorem step_nan_right {a x : Word} (ha : IsNum a) (hx : ¬ IsNum x) : minStep a x = a ∧ maxStep a x = a := by
  have hx : valOf fp32 x.toNat = .nan := not_not.mp hx
  unfold minStep maxStep fMin fMax
  rw [hx]
  cases hv : valOf fp32 a.toNat with
  | nan => exact absurd hv ha
  | _ => simp

theorem step_nan {a x : Word} (ha : ¬ IsNum a) (hx : ¬ IsNum x) : minStep a x = 0x7FC00000 ∧ maxStep a x = 0x7FC00000 := by
  have ha : valOf fp32 a.toNat = .nan := not_not.mp ha
  have hx : valOf fp32 x.toNat = .nan := not_not.mp hx
  unfold minStep maxStep fMin fMax
  rw [ha, hx]
  exact ⟨rfl, rfl⟩

/-- a is the extreme number of a list, by a relation on places, or the canonical NaN of a list without numbers. -/
def Extreme (le : ℤ ×ₗ ℤ → ℤ ×ₗ ℤ → Prop) (l : List Word) (a : Word) : Prop :=
  (a = 0x7FC00000 ∧ ∀ y ∈ l, ¬ IsNum y) ∨ (IsNum a ∧ a ∈ l ∧ ∀ y ∈ l, IsNum y → le (rankOf a) (rankOf y))

theorem not_isNum_canonical : ¬ IsNum 0x7FC00000 := not_not.mpr rfl

/-- A step that takes the better number, passing over NaNs, keeps the extreme of what it has seen. -/
theorem extreme_step {le : ℤ ×ₗ ℤ → ℤ ×ₗ ℤ → Prop} (hrefl : ∀ a, le a a) (htrans : ∀ a b c, le a b → le b c → le a c) {step : Word → Word → Word}
    (hl : ∀ a x, ¬ IsNum a → IsNum x → step a x = x) (hr : ∀ a x, IsNum a → ¬ IsNum x → step a x = a)
    (hn : ∀ a x, ¬ IsNum a → ¬ IsNum x → step a x = 0x7FC00000)
    (hb : ∀ a x, IsNum a → IsNum x → step a x = a ∧ le (rankOf a) (rankOf x) ∨ step a x = x ∧ le (rankOf x) (rankOf a))
    {l : List Word} {a : Word} (h : Extreme le l a) (x : Word) : Extreme le (l ++ [x]) (step a x) := by
  by_cases hx : IsNum x
  · refine .inr ?_
    rcases h with ⟨rfl, hall⟩ | ⟨ha, hmem, hle⟩
    · rw [hl _ _ not_isNum_canonical hx]
      refine ⟨hx, by simp, fun y hy hyn => ?_⟩
      rcases List.mem_append.mp hy with hy | hy
      · exact absurd hyn (hall y hy)
      · rw [List.mem_singleton.mp hy]; exact hrefl _
    · rcases hb a x ha hx with ⟨e, hax⟩ | ⟨e, hxa⟩
      · rw [e]
        refine ⟨ha, by simp [hmem], fun y hy hyn => ?_⟩
        rcases List.mem_append.mp hy with hy | hy
        · exact hle y hy hyn
        · rw [List.mem_singleton.mp hy]; exact hax
      · rw [e]
        refine ⟨hx, by simp, fun y hy hyn => ?_⟩
        rcases List.mem_append.mp hy with hy | hy
        · exact htrans _ _ _ hxa (hle y hy hyn)
        · rw [List.mem_singleton.mp hy]; exact hrefl _
  · rcases h with ⟨rfl, hall⟩ | ⟨ha, hmem, hle⟩
    · refine .inl ⟨hn _ _ not_isNum_canonical hx, fun y hy => ?_⟩
      rcases List.mem_append.mp hy with hy | hy
      · exact hall y hy
      · rw [List.mem_singleton.mp hy]; exact hx
    · rw [hr _ _ ha hx]
      refine .inr ⟨ha, by simp [hmem], fun y hy hyn => ?_⟩
      rcases List.mem_append.mp hy with hy | hy
      · exact hle y hy hyn
      · exact absurd (List.mem_singleton.mp hy ▸ hyn) hx

/-- A property of what has been seen, kept by every step, holds of the whole list. -/
theorem foldl_seen {α β : Type} (P : List α → β → Prop) {f : β → α → β} (hf : ∀ l b x, P l b → P (l ++ [x]) (f b x)) {b : β} (h0 : P [] b)
    (l : List α) : P l (l.foldl f b) := by
  induction l using List.reverseRecOn with
  | nil => exact h0
  | append_singleton l x ih => rw [List.foldl_append]; exact hf _ _ _ ih

theorem reduce_fmin (p : List Word) : Extreme (· ≤ ·) p (reduce 1 2 p) :=
  foldl_seen (Extreme (· ≤ ·)) (f := minStep) (fun _ _ x h => extreme_step (le := (· ≤ ·)) le_refl (fun _ _ _ => le_trans) (fun _ _ ha hx => (step_nan_left ha hx).1)
    (fun _ _ ha hx => (step_nan_right ha hx).1) (fun _ _ ha hx => (step_nan ha hx).1)
    (fun a x ha hx => by rw [minStep_nums ha hx]; split; exacts [.inl ⟨rfl, ‹_›⟩, .inr ⟨rfl, (not_le.mp ‹_›).le⟩]) h x)
    (.inl ⟨rfl, by simp⟩) p

theorem reduce_fmax (p : List Word) : Extreme (· ≥ ·) p (reduce 2 2 p) :=
  foldl_seen (Extreme (· ≥ ·)) (f := maxStep) (fun _ _ x h => extreme_step (le := (· ≥ ·)) (fun _ => le_refl _) (fun _ _ _ h1 h2 => le_trans h2 h1)
    (fun _ _ ha hx => (step_nan_left ha hx).2) (fun _ _ ha hx => (step_nan_right ha hx).2) (fun _ _ ha hx => (step_nan ha hx).2)
    (fun a x ha hx => by rw [maxStep_nums ha hx]; split; exacts [.inr ⟨rfl, ‹_›⟩, .inl ⟨rfl, (not_le.mp ‹_›).le⟩]) h x)
    (.inl ⟨rfl, by simp⟩) p

/-- A list with a number reduces to one of its numbers. -/
theorem Extreme.number {le : ℤ ×ₗ ℤ → ℤ ×ₗ ℤ → Prop} {l : List Word} {a y : Word} (h : Extreme le l a) (hy : y ∈ l) (hn : IsNum y) :
    IsNum a ∧ a ∈ l ∧ le (rankOf a) (rankOf y) := by
  rcases h with ⟨-, hall⟩ | ⟨ha, hmem, hle⟩
  · exact absurd hn (hall y hy)
  · exact ⟨ha, hmem, hle y hy hn⟩

theorem Extreme.canonical {le : ℤ ×ₗ ℤ → ℤ ×ₗ ℤ → Prop} {l : List Word} {a : Word} (h : Extreme le l a) (hl : ∀ y ∈ l, ¬ IsNum y) : a = 0x7FC00000 := by
  rcases h with ⟨ha, -⟩ | ⟨ha, hmem, -⟩
  · exact ha
  · exact absurd ha (hl a hmem)

/-- FCMP .le holds of two numbers in their order (R365). -/
theorem fcmp_le_of_rank {a b : Word} (ha : IsNum a) (hb : IsNum b) (h : rankOf a ≤ rankOf b) : fcmpHolds 3 a b = true := by
  have hle := (vle0_words ha hb).mpr h
  unfold fcmpHolds vcmp
  split
  · exact absurd ‹_› ha
  · exact absurd ‹_› hb
  · rfl
  · simp only [hle, ↓reduceIte]
    split <;> rfl

/-- The place of -0 is below that of +0. -/
theorem rank_negZero_lt : rankOf 0x80000000 < rankOf 0 := by
  have e1 : rankOf 0x80000000 = toLex (0, -1) := rfl
  have e2 : rankOf 0 = toLex (0, 0) := rfl
  rw [e1, e2, Prod.Lex.lt_iff]
  exact .inr ⟨rfl, by decide⟩

/-! ### Integer reductions (R437) -/

theorem foldl_add_words (p : List Word) : p.foldl (· + ·) 0 = BitVec.ofNat 32 (p.map (·.toNat)).sum :=
  foldl_seen (fun (l : List Word) (b : Word) => b = BitVec.ofNat 32 (l.map (·.toNat)).sum)
    (fun l b x h => by rw [h, List.map_append, List.sum_append, BitVec.ofNat_add]; simp) rfl p

theorem foldl_and_getLsbD (p : List Word) {k : Nat} (hk : k < 32) :
    (p.foldl (· &&& ·) 0xFFFFFFFF).getLsbD k = p.all fun y => y.getLsbD k :=
  foldl_seen (fun (l : List Word) (b : Word) => b.getLsbD k = l.all fun y => y.getLsbD k)
    (fun l b x h => by rw [BitVec.getLsbD_and, h, List.all_append]; simp)
    ((BitVec.getLsbD_allOnes (v := 32)).trans (decide_eq_true hk)) p

theorem foldl_or_getLsbD (p : List Word) (k : Nat) : (p.foldl (· ||| ·) 0).getLsbD k = p.any fun y => y.getLsbD k :=
  foldl_seen (fun (l : List Word) (b : Word) => b.getLsbD k = l.any fun y => y.getLsbD k)
    (fun l b x h => by rw [BitVec.getLsbD_or, h, List.any_append]; simp) (by simp) p

theorem foldl_xor_getLsbD (p : List Word) (k : Nat) :
    (p.foldl (· ^^^ ·) 0).getLsbD k = decide ((p.filter fun y => y.getLsbD k).length % 2 = 1) :=
  foldl_seen (fun (l : List Word) (b : Word) => b.getLsbD k = decide ((l.filter fun y => y.getLsbD k).length % 2 = 1))
    (fun l b x h => by
      rw [BitVec.getLsbD_xor, h, List.filter_append, List.length_append]
      cases hx : x.getLsbD k
      · simp [hx]
      · rcases Nat.mod_two_eq_zero_or_one (l.filter fun y => y.getLsbD k).length with h2 | h2 <;> simp [hx, h2, Nat.add_mod])
    (by simp) p

/-- A reduction that takes the word of the lesser key from a word of the greatest key on gives a least one of the list. -/
theorem foldl_least {key : Word → Int} (hinj : Function.Injective key) {e : Word} (htop : ∀ y, key y ≤ key e) {f : Word → Word → Word}
    (hf : ∀ a x, f a x = a ∧ key a ≤ key x ∨ f a x = x ∧ key x ≤ key a) (p : List Word) :
    (p ≠ [] → p.foldl f e ∈ p) ∧ ∀ y ∈ p, key (p.foldl f e) ≤ key y := by
  have h := foldl_seen (fun (l : List Word) (b : Word) => (l = [] ∧ b = e ∨ b ∈ l) ∧ ∀ y ∈ l, key b ≤ key y) (f := f) (b := e)
    (fun l b x ⟨hmem, hle⟩ => ?_) ⟨.inl ⟨rfl, rfl⟩, by simp⟩ p
  · refine ⟨fun hp => ?_, h.2⟩
    rcases h.1 with ⟨h1, -⟩ | h1
    · exact absurd h1 hp
    · exact h1
  · rcases hf b x with ⟨e1, h1⟩ | ⟨e1, h1⟩
    · rw [e1]
      refine ⟨.inr ?_, fun y hy => ?_⟩
      · rcases hmem with ⟨rfl, rfl⟩ | hmem
        · rw [hinj (le_antisymm (htop x) h1)]; simp
        · simp [hmem]
      · rcases List.mem_append.mp hy with hy | hy
        · exact hle y hy
        · rw [List.mem_singleton.mp hy]; exact h1
    · rw [e1]
      refine ⟨.inr (by simp), fun y hy => ?_⟩
      rcases List.mem_append.mp hy with hy | hy
      · exact h1.trans (hle y hy)
      · rw [List.mem_singleton.mp hy]

theorem toInt_injective : Function.Injective (BitVec.toInt : Word → Int) := fun _ _ h => BitVec.eq_of_toInt_eq h
theorem toNat_injective : Function.Injective (fun w : Word => (w.toNat : Int)) := fun _ _ h => BitVec.eq_of_toNat_eq (Int.ofNat.inj h)

theorem toInt_bounds (w : Word) : -2 ^ 31 ≤ w.toInt ∧ w.toInt ≤ 2 ^ 31 - 1 := by
  have h1 := BitVec.le_toInt w
  have h2 := BitVec.toInt_lt (x := w)
  omega

theorem wmin_signed (a x : Word) : wmin false a x = a ∧ a.toInt ≤ x.toInt ∨ wmin false a x = x ∧ x.toInt ≤ a.toInt := by
  simp only [wmin, Bool.false_eq_true, ↓reduceIte, BitVec.slt, decide_eq_true_eq]
  split
  · exact .inl ⟨rfl, by omega⟩
  · exact .inr ⟨rfl, by omega⟩

theorem wmax_signed (a x : Word) : wmax false a x = a ∧ -a.toInt ≤ -x.toInt ∨ wmax false a x = x ∧ -x.toInt ≤ -a.toInt := by
  simp only [wmax, Bool.false_eq_true, ↓reduceIte, BitVec.slt, decide_eq_true_eq]
  split
  · exact .inr ⟨rfl, by omega⟩
  · exact .inl ⟨rfl, by omega⟩

theorem wmin_unsigned (a x : Word) : wmin true a x = a ∧ (a.toNat : Int) ≤ x.toNat ∨ wmin true a x = x ∧ (x.toNat : Int) ≤ a.toNat := by
  simp only [wmin, ↓reduceIte, BitVec.ult, decide_eq_true_eq]
  split
  · exact .inl ⟨rfl, by omega⟩
  · exact .inr ⟨rfl, by omega⟩

theorem wmax_unsigned (a x : Word) : wmax true a x = a ∧ -(a.toNat : Int) ≤ -x.toNat ∨ wmax true a x = x ∧ -(x.toNat : Int) ≤ -a.toNat := by
  simp only [wmax, ↓reduceIte, BitVec.ult, decide_eq_true_eq]
  split
  · exact .inr ⟨rfl, by omega⟩
  · exact .inl ⟨rfl, by omega⟩

theorem reduce_min_signed (p : List Word) : (p ≠ [] → reduce 1 0 p ∈ p) ∧ ∀ y ∈ p, (reduce 1 0 p).toInt ≤ y.toInt :=
  foldl_least toInt_injective (e := 0x7FFFFFFF) (fun y => (toInt_bounds y).2) wmin_signed p

theorem reduce_max_signed (p : List Word) : (p ≠ [] → reduce 2 0 p ∈ p) ∧ ∀ y ∈ p, -(reduce 2 0 p).toInt ≤ -y.toInt :=
  foldl_least (key := fun w => -w.toInt) (neg_injective.comp toInt_injective) (e := 0x80000000) (fun y => neg_le_neg (toInt_bounds y).1) wmax_signed p

theorem reduce_min_unsigned (p : List Word) : (p ≠ [] → reduce 1 1 p ∈ p) ∧ ∀ y ∈ p, ((reduce 1 1 p).toNat : Int) ≤ y.toNat :=
  foldl_least toNat_injective (e := 0xFFFFFFFF) (fun y => Int.ofNat_le.mpr (Nat.le_of_lt_succ y.isLt)) wmin_unsigned p

theorem reduce_max_unsigned (p : List Word) : (p ≠ [] → reduce 2 1 p ∈ p) ∧ ∀ y ∈ p, -((reduce 2 1 p).toNat : Int) ≤ -y.toNat :=
  foldl_least (key := fun w : Word => -(w.toNat : Int)) (neg_injective.comp toNat_injective) (e := 0)
    (fun y => by simp) wmax_unsigned p

/-- The least and the greatest are members of the list (R437). -/
theorem reduce_minmax_mem {p : List Word} {ty : Nat} (hty : ty ≤ 2) (hp : ∃ y ∈ p, ty = 2 → IsNum y) : reduce 1 ty p ∈ p ∧ reduce 2 ty p ∈ p := by
  obtain ⟨y, hy, hn⟩ := hp
  have hne : p ≠ [] := List.ne_nil_of_mem hy
  match ty, hty with
  | 0, _ => exact ⟨(reduce_min_signed p).1 hne, (reduce_max_signed p).1 hne⟩
  | 1, _ => exact ⟨(reduce_min_unsigned p).1 hne, (reduce_max_unsigned p).1 hne⟩
  | 2, _ => exact ⟨((reduce_fmin p).number hy (hn rfl)).2.1, ((reduce_fmax p).number hy (hn rfl)).2.1⟩

/-! ### FP32 sums (R437) -/

/-- The sign and the magnitude of a pattern. -/
theorem valOf_fp32_cases (w : Word) :
    (valOf fp32 w.toNat = .zero true ↔ w = 0x80000000) ∧ (valOf fp32 w.toNat = .inf false ↔ w = 0x7F800000) ∧
      (valOf fp32 w.toNat = .inf true ↔ w = 0xFF800000) := by
  have e : valOf fp32 w.toNat =
      if w.toNat % 2 ^ 31 == 0 then .zero (w.toNat >>> 31 % 2 == 1)
      else if w.toNat % 2 ^ 31 ≤ 0x7F7FFFFF then
        if (w.toNat % 2 ^ 31) >>> 23 == 0 then .fin (w.toNat >>> 31 % 2 == 1) (w.toNat % 2 ^ 31 % 2 ^ 23) (-149)
        else .fin (w.toNat >>> 31 % 2 == 1) (w.toNat % 2 ^ 31 % 2 ^ 23 + 2 ^ 23) (-149 + ((w.toNat % 2 ^ 31) >>> 23 : Nat) - 1)
      else if some 0x7F800000 == some (w.toNat % 2 ^ 31) then .inf (w.toNat >>> 31 % 2 == 1) else .nan := rfl
  have hw := w.isLt
  have h1 : w = 0x80000000 ↔ w.toNat = 0x80000000 := ⟨fun h => by rw [h]; rfl, fun h => BitVec.eq_of_toNat_eq h⟩
  have h2 : w = 0x7F800000 ↔ w.toNat = 0x7F800000 := ⟨fun h => by rw [h]; rfl, fun h => BitVec.eq_of_toNat_eq h⟩
  have h3 : w = 0xFF800000 ↔ w.toNat = 0xFF800000 := ⟨fun h => by rw [h]; rfl, fun h => BitVec.eq_of_toNat_eq h⟩
  rw [e, h1, h2, h3, Nat.shiftRight_eq_div_pow]
  split_ifs with h0 hfin hsub hinf <;>
    simp only [beq_iff_eq, Option.some.injEq, Val.zero.injEq, Val.inf.injEq, false_iff, beq_eq_false_iff_ne] at * <;> omega

theorem sumFp_eq (p : List Word) :
    sumFp p =
      if (∃ y ∈ p, valOf fp32 y.toNat = .nan) ∨ 0xFF800000 ∈ p ∧ 0x7F800000 ∈ p then 0x7FC00000
      else if 0x7F800000 ∈ p then 0x7F800000 else if 0xFF800000 ∈ p then 0xFF800000
      else
        let sum : Int := (p.map fun y => (valOf fp32 y.toNat).onGrid (-149)).sum
        if sum = 0 then (if ∀ y ∈ p, y = 0x80000000 then 0x80000000 else 0)
        else BitVec.ofNat 32 (roundTo fp32 .rne false (.fin (decide (sum < 0)) sum.natAbs (-149))).1 := by
  have hnan : ((p.map fun x => valOf fp32 x.toNat).any fun v => decide (v = Val.nan)) = decide (∃ y ∈ p, valOf fp32 y.toNat = .nan) :=
    Bool.eq_iff_iff.mpr (by simp)
  have hpos : ((p.map fun x => valOf fp32 x.toNat).any fun v => decide (v = Val.inf false)) = decide (0x7F800000 ∈ p) :=
    Bool.eq_iff_iff.mpr (by simp [(valOf_fp32_cases _).2.1])
  have hneg : ((p.map fun x => valOf fp32 x.toNat).any fun v => decide (v = Val.inf true)) = decide (0xFF800000 ∈ p) :=
    Bool.eq_iff_iff.mpr (by simp [(valOf_fp32_cases _).2.2])
  have hzero : ((p.map fun x => valOf fp32 x.toNat).all fun v => decide (v = Val.zero true)) = decide (∀ y ∈ p, y = 0x80000000) :=
    Bool.eq_iff_iff.mpr (by simp [(valOf_fp32_cases _).1])
  have hsum : ((p.map fun x => valOf fp32 x.toNat).map (Val.onGrid (-149))).foldl (· + ·) 0 =
      (p.map fun y => (valOf fp32 y.toNat).onGrid (-149)).sum := by
    rw [← List.sum_eq_foldl, List.map_map]; rfl
  have hval : ∀ x : Int, x ≠ 0 → valInt x (-149) false = .fin (decide (x < 0)) x.natAbs (-149) := fun x hx => by simp [valInt, hx]
  unfold sumFp
  simp only [hnan, hpos, hneg, hzero, hsum, beq_iff_eq, Bool.or_eq_true, Bool.and_eq_true, decide_eq_true_eq]
  split_ifs with _ _ _ hs
  · rfl
  · rfl
  · rfl
  · rfl
  · rfl
  · rw [hval _ hs]

/-! ### Members in ascending lane order -/

section
variable {l : List Arrived} (hs : (l.map (·.1)).Pairwise (· < ·))
include hs

/-- A lane names one member. -/
theorem arrived_unique {x y : Arrived} (hx : x ∈ l) (hy : y ∈ l) (h : x.1 = y.1) : x = y := by
  have hn : (l.map (·.1)).Nodup := hs.imp fun h => Nat.ne_of_lt h
  exact List.inj_on_of_nodup_map hn hx hy h

theorem find_lane {x : Arrived} (hx : x ∈ l) : l.find? (fun y => y.1 == x.1) = some x := by
  cases hf : l.find? (fun y => y.1 == x.1) with
  | none => exact absurd (beq_self_eq_true x.1) (List.find?_eq_none.mp hf x hx)
  | some y => rw [arrived_unique hs (List.mem_of_find?_eq_some hf) hx (by simpa using List.find?_some hf)]

/-- ELECT's candidate is the lowest member with a non-zero operand (R356). -/
theorem electRes_eq {x : Arrived} (hx : x ∈ l) :
    electRes l x.1 = if x.2.1 ≠ 0 ∧ ∀ y ∈ l, y.2.1 ≠ 0 → x.1 ≤ y.1 then 1 else 0 := by
  unfold electRes
  cases hf : l.find? fun x => x.2.1 != 0 with
  | none =>
    have h0 : x.2.1 = 0 := by simpa using List.find?_eq_none.mp hf x hx
    simp [h0]
  | some z =>
    obtain ⟨hz, a, b, rfl, ha⟩ := List.find?_eq_some_iff_append.mp hf
    have hz : z.2.1 ≠ 0 := by simpa using hz
    have hlow : ∀ y ∈ a ++ z :: b, y.2.1 ≠ 0 → z.1 ≤ y.1 := by
      intro y hy hy0
      rcases List.mem_append.mp hy with hy | hy
      · exact absurd (by simpa using ha y hy) hy0
      · rcases List.mem_cons.mp hy with rfl | hy
        · exact le_rfl
        · rw [List.map_append, List.map_cons] at hs
          exact ((List.pairwise_cons.mp (List.pairwise_append.mp hs).2.1).1 _ (List.mem_map_of_mem hy)).le
    have hzm : z ∈ a ++ z :: b := by simp
    by_cases hzx : z = x
    · subst hzx
      rw [if_pos ⟨hz, hlow⟩]
      simp
    · have hne : z.1 ≠ x.1 := fun e => hzx (arrived_unique hs hzm hx e)
      have hc : ¬ (x.2.1 ≠ 0 ∧ ∀ y ∈ a ++ z :: b, y.2.1 ≠ 0 → x.1 ≤ y.1) := fun ⟨h0, hall⟩ =>
        hne (le_antisymm (hlow x hx h0) (hall z hzm hz))
      rw [if_neg hc]
      simp [hne]

/-- SHFL gives a member what its source lane holds, else its own (R450). -/
theorem shflRes_eq {x : Arrived} (hx : x ∈ l) (mode w : Nat) :
    shflRes mode w l x.1 = match l.find? (fun y => y.1 == shflSource mode w l x.1 x.2.2.2) with
      | some y => (y.2.1, y.2.2.1)
      | none => (x.2.1, x.2.2.1) := by
  unfold shflRes arrivedAt
  simp only [find_lane hs hx, Option.getD_some]
  cases l.find? (fun y => y.1 == shflSource mode w l x.1 x.2.2.2) <;> rfl

/-- The members before one in ascending order are those of lower lanes. -/
theorem length_filter_lt {p : Nat} (hp : p < l.length) : (l.filter fun x => x.1 < (l.getD p (0, 0, false, 0)).1).length = p := by
  have hsplit := List.take_append_drop p l
  have hdrop : l.drop p = l[p] :: l.drop (p + 1) := List.drop_eq_getElem_cons hp
  have hget : l.getD p (0, 0, false, 0) = l[p] := by simp [List.getD_eq_getElem?_getD, hp]
  have hpair : ((l.take p).map (·.1) ++ l[p].1 :: (l.drop (p + 1)).map (·.1)).Pairwise (· < ·) := by
    rw [← List.map_cons, ← hdrop, ← List.map_append, hsplit]; exact hs
  obtain ⟨-, h2, h3⟩ := List.pairwise_append.mp hpair
  have hlo : (l.take p).filter (fun x => x.1 < l[p].1) = l.take p :=
    List.filter_eq_self.mpr fun x hx => by simpa using h3 _ (List.mem_map_of_mem hx) _ List.mem_cons_self
  have hhi : (l.drop p).filter (fun x => x.1 < l[p].1) = [] := by
    rw [hdrop]
    refine List.filter_eq_nil_iff.mpr fun x hx => ?_
    rcases List.mem_cons.mp hx with rfl | hx
    · simp
    · simpa using ((List.pairwise_cons.mp h2).1 _ (List.mem_map_of_mem hx)).le
  rw [hget]
  calc (l.filter fun x => x.1 < l[p].1).length
      = ((l.take p ++ l.drop p).filter fun x => x.1 < l[p].1).length := by rw [hsplit]
    _ = p := by rw [List.filter_append, hlo, hhi]; simp; omega

/-- SHFL by rot gives the member b places on (R450). -/
theorem shflRes_rot {p : Nat} (hp : p < l.length) (w : Nat) :
    let x := l.getD p (0, 0, false, 0)
    let y := l.getD ((p + x.2.2.2.toNat) % l.length) (0, 0, false, 0)
    shflRes 1 w l x.1 = (y.2.1, y.2.2.1) := by
  intro x y
  have hx : x ∈ l := by
    simp only [x, List.getD_eq_getElem?_getD, List.getElem?_eq_getElem hp, Option.getD_some]
    exact List.getElem_mem hp
  have hq : (p + x.2.2.2.toNat) % l.length < l.length := Nat.mod_lt _ (by omega)
  have hy : y ∈ l := by
    simp only [y, List.getD_eq_getElem?_getD, List.getElem?_eq_getElem hq, Option.getD_some]
    exact List.getElem_mem hq
  have hsrc : shflSource 1 w l x.1 x.2.2.2 = y.1 := by
    have : (l.filter fun z => z.1 < x.1).length = p := length_filter_lt hs hp
    simp only [shflSource, this, y, List.getD_eq_getElem?_getD, List.getElem?_eq_getElem hq, Option.getD_some]
  rw [shflRes_eq hs hx, hsrc, find_lane hs hy]

end

/-- BALLOT's bit of a lane (R331). -/
theorem ballotRes_getLsbD (l : List Arrived) {k : Nat} (hk : k < 64) :
    (ballotRes l).getLsbD k = l.any fun x => x.1 == k && x.2.1 != 0 :=
  foldl_seen (fun (l : List Arrived) (b : DWord) => b.getLsbD k = l.any fun x => x.1 == k && x.2.1 != 0)
    (fun l b x h => by
      show (if x.2.1 != 0 then b ||| (1#64 <<< x.1) else b).getLsbD k = _
      rw [List.any_append, ← h]
      cases h0 : x.2.1 != 0 with
      | false => simp only [List.any_cons, List.any_nil, h0, Bool.and_false, Bool.or_false, Bool.false_eq_true, ↓reduceIte]
      | true =>
        have hbit : (1#64 <<< x.1).getLsbD k = (x.1 == k) := by
          rw [BitVec.getLsbD_shiftLeft, BitVec.getLsbD_one, Bool.eq_iff_iff]
          simp only [Bool.and_eq_true, Bool.not_eq_true', decide_eq_true_eq, decide_eq_false_iff_not, beq_iff_eq]
          omega
        simp only [↓reduceIte, BitVec.getLsbD_or, hbit, List.any_cons, List.any_nil, h0, Bool.and_true, Bool.or_false])
    (by simp) l

/-- The lane opposite in a span of 2^g lanes (R450). -/
theorem xor_span (n g : Nat) : n ^^^ (2 ^ g - 1) = n / 2 ^ g * 2 ^ g + (2 ^ g - 1 - n % 2 ^ g) := by
  have hlt : n % 2 ^ g < 2 ^ g := Nat.mod_lt _ (by positivity)
  have h2 : 2 ^ g - 1 - n % 2 ^ g < 2 ^ g := by omega
  apply Nat.eq_of_testBit_eq
  intro i
  rw [Nat.testBit_xor, Nat.testBit_two_pow_sub_one, Nat.mul_comm, Nat.testBit_two_pow_mul_add _ h2]
  by_cases hi : i < g
  · have hsub : 2 ^ g - 1 - n % 2 ^ g = 2 ^ g - (n % 2 ^ g + 1) := by omega
    simp only [hi, ↓reduceIte, decide_true, hsub, Nat.testBit_two_pow_sub_succ hlt, Nat.testBit_mod_two_pow, Bool.true_and]
    cases n.testBit i <;> rfl
  · simp only [hi, ↓reduceIte, decide_false, Bool.xor_false, Nat.testBit_div_two_pow]
    congr 1
    omega

theorem shflSource_lane (w : Nat) (l : List Arrived) (n : Nat) (b : Word) : shflSource 0 w l n b = b.toNat % w := rfl

theorem shflSource_span (w : Nat) (l : List Arrived) (n : Nat) (b : Word) :
    let k := 2 ^ min (b.toNat % 8) (Nat.log2 w)
    shflSource 2 w l n b = n / k * k + b.toNat / 256 % 256 % k ∧ shflSource 3 w l n b = n / k * k + (k - 1 - n % k) := by
  have h0 : bits b.toNat 0 3 = b.toNat % 8 := rfl
  have h8 : bits b.toNat 8 8 = b.toNat / 256 % 256 := by rw [bits, Nat.shiftRight_eq_div_pow]; norm_num
  refine ⟨?_, ?_⟩
  · simp only [shflSource, h0, h8]
  · simp only [shflSource, h0]
    exact xor_span _ _

/-! ### Votes (R471) -/

theorem voteTest_iff (l : List Arrived) (y : Word) :
    (voteTest 0 l y = true ↔ y ≠ 0) ∧ (voteTest 1 l y = true ↔ l.head?.map (·.2.1) = some y) ∧ voteTest 2 l y = y.getLsbD 31 := by
  refine ⟨by simp [voteTest], ?_, by simp [voteTest, BitVec.msb_eq_getLsbD_last]⟩
  simp only [voteTest, beq_iff_eq]
  exact eq_comm

/-- Eight fields of a number: a bit, a bit, a field of seven, two bytes. -/
theorem sum_fields {all none len last first : Nat} (ha : all ≤ 1) (hn : none ≤ 1) (hl : len < 128) (h2 : last < 256) (h1 : first < 256) :
    let n := all * 2147483648 + none * 1073741824 + len * 65536 + last * 256 + first
    n < 4294967296 ∧ n / 65536 % 128 = len ∧ n / 2147483648 % 2 = all ∧ n / 1073741824 % 2 = none ∧ n % 256 = first ∧ n / 256 % 256 = last ∧
      n / 8388608 % 128 = 0 := by
  intro n
  refine ⟨?_, ?_, ?_, ?_, ?_, ?_, ?_⟩ <;> simp only [n] <;> omega

theorem voteRes_fields {l : List Arrived} (hs : (l.map (·.1)).Pairwise (· < ·)) (h64 : ∀ x ∈ l, x.1 < 64) (k : Nat) :
    let p := l.filter fun x => voteTest k l x.2.1
    (voteRes k l).extractLsb' 16 7 = BitVec.ofNat 7 p.length ∧ (voteRes k l).getLsbD 31 = decide (p.length = l.length) ∧
      (voteRes k l).getLsbD 30 = decide (p = []) ∧ (voteRes k l).extractLsb' 0 8 = BitVec.ofNat 8 ((p.head?.map (·.1)).getD 255) ∧
      (voteRes k l).extractLsb' 8 8 = BitVec.ofNat 8 ((p.getLast?.map (·.1)).getD 255) ∧ (voteRes k l).extractLsb' 23 7 = 0 := by
  intro p
  have hlen : l.length ≤ 64 := by
    have hn : (l.map (·.1)).Nodup := hs.imp fun h => Nat.ne_of_lt h
    have := (List.subperm_of_subset hn (l₂ := List.range 64) fun x hx => by
      obtain ⟨y, hy, rfl⟩ := List.mem_map.mp hx
      simpa using h64 y hy).length_le
    simpa using this
  have hp : p.length ≤ l.length := List.length_filter_le ..
  have hin : ∀ x ∈ p, x.1 < 256 := fun x hx => (h64 x (List.mem_of_mem_filter hx)).trans (by decide)
  have hfirst : (p.head?.map (·.1)).getD 255 < 256 := by
    cases hh : p.head? with
    | none => simp
    | some x => exact hin x (List.mem_of_mem_head? hh)
  have hlast : (p.getLast?.map (·.1)).getD 255 < 256 := by
    cases hh : p.getLast? with
    | none => simp
    | some x => exact hin x (List.mem_of_getLast? hh)
  obtain ⟨hlt, h1, h2, h3, h4, h5, h6⟩ := sum_fields (all := if p.length = l.length then 1 else 0) (none := if p = [] then 1 else 0)
    (len := p.length) (by split <;> omega) (by split <;> omega) (by omega) hlast hfirst
  have e : (voteRes k l).toNat = (if p.length = l.length then 1 else 0) * 2147483648 + (if p = [] then 1 else 0) * 1073741824 +
      p.length * 65536 + (p.getLast?.map (·.1)).getD 255 * 256 + (p.head?.map (·.1)).getD 255 := by
    rw [← Nat.mod_eq_of_lt hlt, ite_mul, ite_mul]
    unfold voteRes
    simp only [beq_iff_eq, BitVec.toNat_ofNat, Nat.reducePow, one_mul, zero_mul]
    rfl
  rw [← e] at h1 h2 h3 h4 h5 h6
  have field : ∀ (lo n v : Nat), (voteRes k l).toNat / 2 ^ lo % 2 ^ n = v → v < 2 ^ n → (voteRes k l).extractLsb' lo n = BitVec.ofNat n v := by
    intro lo n v hv hlt
    apply BitVec.eq_of_toNat_eq
    rw [BitVec.extractLsb'_toNat, Nat.shiftRight_eq_div_pow, hv, BitVec.toNat_ofNat, Nat.mod_eq_of_lt hlt]
  have bit : ∀ j, (voteRes k l).getLsbD j = decide ((voteRes k l).toNat / 2 ^ j % 2 = 1) := fun j => by
    rw [← BitVec.testBit_toNat, Nat.testBit_eq_decide_div_mod_eq]
  refine ⟨field 16 7 _ h1 (by omega), ?_, ?_, field 0 8 _ (by rw [Nat.pow_zero, Nat.div_one]; exact h4) hfirst, field 8 8 _ h5 hlast,
    field 23 7 0 h6 (by decide)⟩
  · rw [bit 31, decide_eq_decide, show (voteRes k l).toNat / 2 ^ 31 % 2 = _ from h2]
    split <;> simp_all
  · rw [bit 30, decide_eq_decide, show (voteRes k l).toNat / 2 ^ 30 % 2 = _ from h3]
    split <;> simp_all

/-! ### Scans (R446) -/

theorem scanRes_inclusive {l : List Arrived} {x : Arrived} (hx : x ∈ l) (op ty : Nat) :
    scanRes op ty false l x.1 = reduce op ty ((l.filter fun y => y.1 ≤ x.1).map (·.2.1)) := by
  have hne : (l.filter fun y => decide (y.1 ≤ x.1)) ≠ [] := List.ne_nil_of_mem (List.mem_filter.mpr ⟨hx, by simp⟩)
  unfold scanRes
  simp [hne]

theorem scanRes_exclusive {l : List Arrived} {x : Arrived} (hx : ∃ y ∈ l, y.1 < x.1) (op ty : Nat) :
    scanRes op ty true l x.1 = reduce op ty ((l.filter fun y => y.1 < x.1).map (·.2.1)) := by
  obtain ⟨y, hy, hlt⟩ := hx
  have hne : (l.filter fun y => decide (y.1 < x.1)) ≠ [] := List.ne_nil_of_mem (List.mem_filter.mpr ⟨hy, by simpa using hlt⟩)
  unfold scanRes
  simp [hne]

theorem scanRes_lowest {l : List Arrived} {x : Arrived} (hx : ∀ y ∈ l, x.1 ≤ y.1) (op ty : Nat) :
    scanRes op ty true l x.1 = scanIdentity op ty := by
  have he : (l.filter fun y => decide (y.1 < x.1)) = [] := List.filter_eq_nil_iff.mpr fun y hy => by simpa using hx y hy
  unfold scanRes
  simp [he]

/-- The identities that the lowest member of an exclusive scan receives (R446). -/
theorem scanIdentity_mem {op ty : Nat} {v : Word} (h : (op, ty, v) ∈ ([(0, 0, 0), (0, 1, 0), (0, 2, 0), (1, 0, 0x7FFFFFFF), (1, 1, 0xFFFFFFFF),
      (1, 2, 0x7F800000), (2, 0, 0x80000000), (2, 1, 0), (2, 2, 0xFF800000), (3, 0, 0xFFFFFFFF), (3, 1, 0xFFFFFFFF), (4, 0, 0), (4, 1, 0),
      (5, 0, 0), (5, 1, 0)] : List (Nat × Nat × Word))) : scanIdentity op ty = v := by
  have all : ∀ x ∈ ([(0, 0, 0), (0, 1, 0), (0, 2, 0), (1, 0, 0x7FFFFFFF), (1, 1, 0xFFFFFFFF), (1, 2, 0x7F800000), (2, 0, 0x80000000), (2, 1, 0),
      (2, 2, 0xFF800000), (3, 0, 0xFFFFFFFF), (3, 1, 0xFFFFFFFF), (4, 0, 0), (4, 1, 0), (5, 0, 0), (5, 1, 0)] : List (Nat × Nat × Word)),
      scanIdentity x.1 x.2.1 = x.2.2 := by decide
  exact all _ h

end Sys2Proof.Machine
end

section
/-! PROOF. The rendezvous of a group (R26-R29): an arrival that waits, the last arrival, and the obligation on the cross-lane
instructions assembled from them and from what their operations compute. -/
namespace Sys2Proof.Machine
open Sys2Proof

/-! ### Landing looks at registers, counters, flags, windows and scout alone -/

/-- A thread with the parts of another that landing reads and writes. -/
def Thread.onto (t r : Thread) : Thread :=
  { r with regs := t.regs, pois := t.pois, window := t.window, sb := t.sb, fstat := t.fstat, scout := t.scout }

theorem flag_onto (t r : Thread) (f : BitVec 5) : (t.onto r).flag f = (t.flag f).onto r := by
  unfold Thread.flag
  cases h : t.scout <;> simp [Thread.onto, h]

theorem sbDown_onto (t r : Thread) (k : Nat) : (t.onto r).sbDown k = (t.sbDown k).onto r := by
  unfold Thread.sbDown
  split <;> rfl

theorem foldl_onto {α : Type} {f : Thread → α → Thread} {r : Thread} (hf : ∀ t x, f (t.onto r) x = (f t x).onto r) (l : List α) (t : Thread) :
    l.foldl f (t.onto r) = (l.foldl f t).onto r := by
  induction l generalizing t with
  | nil => rfl
  | cons x l ih => rw [List.foldl_cons, List.foldl_cons, hf, ih]

theorem landOne_onto (t r : Thread) (p : Pending) : landOne (t.onto r) p = (landOne t p).onto r := by
  unfold landOne
  rw [foldl_onto]
  · generalize List.foldl _ t p.regs = g
    simp only
    split
    · rw [flag_onto, sbDown_onto]
    · exact sbDown_onto { g with fstat := g.fstat ||| p.fl } r p.sb
  · intro t x
    cases h : t.scout with
    | none => simp [Thread.onto, h, Thread.put]
    | some sc =>
      simp only [Thread.onto, h]
      split
      · rfl
      · split <;> rfl

theorem landAll_onto (t r : Thread) : landAll (t.onto r) = (landAll t).onto r := by
  unfold landAll landWhere
  show landWhere.go _ (t.onto r) [] t.window = _
  generalize t.window = w
  generalize ([] : List Pending) = older
  induction w generalizing t older with
  | nil => rfl
  | cons p w ih =>
    simp only [landWhere.go]
    split
    · rw [landOne_onto]
      exact ih (landOne t p) _
    · exact ih t _

/-- A counter falls by what the counters are and which of them is up. -/
theorem lower_sb_congr {x y : Thread} (hs : x.sb = y.sb) (hu : x.up = y.up) : x.lower.sb = y.lower.sb := by
  unfold Thread.lower
  rw [hu]
  cases y.up with
  | none => exact hs
  | some k =>
    simp only [Thread.sbDown]
    split
    · simp only [hs]
    · exact hs

/-- Threads that agree in what landing reads land the same. -/
theorem landAll_congr {x y : Thread} (h : x = y.onto x) (hu : x.up = y.up) :
    (landAll x).regs = (landAll y).regs ∧ (landAll x).pois = (landAll y).pois ∧ (landAll x).lower.sb = (landAll y).lower.sb := by
  have e : landAll x = (landAll y).onto x := (congrArg landAll h).trans (landAll_onto y x)
  have up : ∀ t : Thread, (landAll t).up = t.up := fun t => (congrArg Thread.up (landWhere_still t fun _ => true) :)
  exact ⟨(congrArg Thread.regs e :), (congrArg Thread.pois e :),
    lower_sb_congr (congrArg Thread.sb e :) ((up x).trans (hu.trans (up y).symm))⟩

/-! ### Landing keeps the number of registers -/

theorem flag_lengths (t : Thread) (f : BitVec 5) : (t.flag f).regs = t.regs ∧ (t.flag f).pois = t.pois := by
  unfold Thread.flag
  split <;> exact ⟨rfl, rfl⟩

theorem foldl_keeps {α β : Type} {f : Thread → α → Thread} {g : Thread → β} (hf : ∀ t x, g (f t x) = g t) (l : List α) (t : Thread) :
    g (l.foldl f t) = g t := by
  induction l generalizing t with
  | nil => rfl
  | cons x l ih => exact (ih (f t x)).trans (hf t x)

theorem landOne_lengths (t : Thread) (p : Pending) :
    ((landOne t p).regs.length, (landOne t p).pois.length) = (t.regs.length, t.pois.length) := by
  have hlast : ∀ g : Thread, (((if p.prov then g.flag p.fl else { g with fstat := g.fstat ||| p.fl }).sbDown p.sb).regs,
      ((if p.prov then g.flag p.fl else { g with fstat := g.fstat ||| p.fl }).sbDown p.sb).pois) = (g.regs, g.pois) := by
    intro g
    rw [Thread.sbDown_regs, Thread.sbDown_pois]
    split
    · rw [(flag_lengths g p.fl).1, (flag_lengths g p.fl).2]
    · rfl
  unfold landOne
  simp only
  rw [congrArg (fun x : List Word × List Bool => (x.1.length, x.2.length)) (hlast _)]
  refine foldl_keeps (g := fun t : Thread => (t.regs.length, t.pois.length)) (fun t x => ?_) p.regs t
  cases h : t.scout with
  | none => simp [Thread.put]
  | some sc =>
    simp only
    split
    · rfl
    · split <;> simp [Thread.put]

theorem landAll_lengths (t : Thread) : ((landAll t).regs.length, (landAll t).pois.length) = (t.regs.length, t.pois.length) := by
  unfold landAll landWhere
  generalize t.window = w
  generalize ([] : List Pending) = older
  induction w generalizing t older with
  | nil => rfl
  | cons p w ih =>
    simp only [landWhere.go]
    split
    · exact (ih (landOne t p) _).trans (landOne_lengths t p)
    · exact ih t _

/-! ### Results written at once, in or outside scout -/

theorem writeNow_parts (t : Thread) (rs : List (Nat × Word × Bool)) :
    (writeNow t rs false).regs = rs.foldl (fun l x => l.set x.1 x.2.1) t.regs ∧ (writeNow t rs false).pois = rs.foldl (fun l x => l.set x.1 x.2.2) t.pois ∧
      (writeNow t rs false).sb = t.sb ∧ (writeNow t rs false).up = t.up ∧ (writeNow t rs false).uid = t.uid := by
  have key : ∀ (rs : List (Nat × Word × Bool)) (t : Thread) (f : Thread → (Nat × Word × Bool) → Thread),
      (∀ t x, (f t x).regs = t.regs.set x.1 x.2.1 ∧ (f t x).pois = t.pois.set x.1 x.2.2 ∧ (f t x).sb = t.sb ∧ (f t x).up = t.up ∧ (f t x).uid = t.uid) →
      (rs.foldl f t).regs = rs.foldl (fun l x => l.set x.1 x.2.1) t.regs ∧ (rs.foldl f t).pois = rs.foldl (fun l x => l.set x.1 x.2.2) t.pois ∧
        (rs.foldl f t).sb = t.sb ∧ (rs.foldl f t).up = t.up ∧ (rs.foldl f t).uid = t.uid := by
    intro rs
    induction rs with
    | nil => intro t f _; exact ⟨rfl, rfl, rfl, rfl, rfl⟩
    | cons x rs ih =>
      intro t f hf
      obtain ⟨h1, h2, h3, h4, h5⟩ := hf t x
      obtain ⟨i1, i2, i3, i4, i5⟩ := ih (f t x) f hf
      simp only [List.foldl_cons]
      exact ⟨i1.trans (by rw [h1]), i2.trans (by rw [h2]), i3.trans h3, i4.trans h4, i5.trans h5⟩
  refine key rs { t with window := t.discard (rs.map (·.1)) t.window } _ fun t x => ?_
  simp only [Bool.false_eq_true, ↓reduceIte, Thread.put_scout]
  cases h : t.scout with
  | none => exact ⟨rfl, rfl, rfl, rfl, rfl⟩
  | some sc => exact ⟨rfl, rfl, rfl, rfl, rfl⟩

/-- What a list holds after values have been put at different places of it. -/
theorem foldl_set_getD {α β : Type} {g : β → α} {l : List (Nat × β)} (hn : (l.map (·.1)).Nodup) (d : α) (r : List α) (n : Nat) :
    (n ∉ l.map (·.1) → (l.foldl (fun r x => r.set x.1 (g x.2)) r).getD n d = r.getD n d) ∧
      ∀ x ∈ l, x.1 < r.length → (l.foldl (fun r x => r.set x.1 (g x.2)) r).getD x.1 d = g x.2 := by
  induction l generalizing r with
  | nil => simp
  | cons y l ih =>
    simp only [List.map_cons, List.nodup_cons] at hn
    have hkeep : ∀ k, k ∉ l.map (·.1) → (l.foldl (fun r x => r.set x.1 (g x.2)) (r.set y.1 (g y.2))).getD k d = (r.set y.1 (g y.2)).getD k d := by
      intro k hk
      clear ih
      generalize r.set y.1 (g y.2) = r'
      clear hn
      induction l generalizing r' with
      | nil => rfl
      | cons z l ih' =>
        simp only [List.map_cons, List.mem_cons, not_or] at hk
        rw [List.foldl_cons, ih' hk.2]
        simp [List.getD_eq_getElem?_getD, List.getElem?_set_ne (Ne.symm hk.1)]
    refine ⟨fun hk => ?_, fun x hx hlt => ?_⟩
    · simp only [List.map_cons, List.mem_cons, not_or] at hk
      rw [List.foldl_cons, hkeep n hk.2]
      simp [List.getD_eq_getElem?_getD, List.getElem?_set_ne (Ne.symm hk.1)]
    · rw [List.foldl_cons]
      rcases List.mem_cons.mp hx with rfl | hx
      · rw [hkeep _ hn.1]
        simp [List.getD_eq_getElem?_getD, hlt]
      · exact (ih hn.2 (r.set y.1 (g y.2))).2 x hx (by simpa using hlt)

theorem writeNow_reg_other {t : Thread} {rs : List (Nat × Word × Bool)} (hn : (rs.map (·.1)).Nodup) {n : Nat} (h : n ∉ rs.map (·.1)) :
    (writeNow t rs false).reg n = t.reg n := by
  obtain ⟨h1, h2, -⟩ := writeNow_parts t rs
  unfold Thread.reg
  rw [h1, h2, (foldl_set_getD (g := Prod.fst) hn 0 t.regs n).1 h, (foldl_set_getD (g := Prod.snd) hn false t.pois n).1 h]

theorem writeNow_reg_same {t : Thread} {rs : List (Nat × Word × Bool)} (hn : (rs.map (·.1)).Nodup) {x : Nat × Word × Bool} (h : x ∈ rs)
    (hr : x.1 < t.regs.length) (hp : x.1 < t.pois.length) : (writeNow t rs false).reg x.1 = x.2 := by
  obtain ⟨h1, h2, -⟩ := writeNow_parts t rs
  unfold Thread.reg
  rw [h1, h2, (foldl_set_getD (g := Prod.fst) hn 0 t.regs x.1).2 x h hr, (foldl_set_getD (g := Prod.snd) hn false t.pois x.1).2 x h hp]

/-! ### The rendezvous completes (R27) -/

/-- Threads changed one after another, each once. -/
theorem foldl_setThread {α : Type} {key : α → Nat} {g : α → Nat → Thread → Thread} (hg : ∀ x n t, (g x n t).uid = t.uid) {l : List α}
    (hn : (l.map key).Nodup) {s : State} (hs : ∀ x ∈ l, s.hasThread (key x) = true) :
    (∀ x ∈ l, (l.foldl (fun s x => s.setThread (g x s.cycle (s.thread (key x)))) s).thread (key x) = g x s.cycle (s.thread (key x))) ∧
      l.foldl (fun s x => s.setThread (g x s.cycle (s.thread (key x)))) s =
        { s with threads := (l.foldl (fun s x => s.setThread (g x s.cycle (s.thread (key x)))) s).threads } ∧
      ∀ v, v ∉ l.map key → (l.foldl (fun s x => s.setThread (g x s.cycle (s.thread (key x)))) s).thread v = s.thread v := by
  induction l generalizing s with
  | nil => exact ⟨by simp, rfl, fun _ _ => rfl⟩
  | cons y l ih =>
    simp only [List.map_cons, List.nodup_cons] at hn
    have hy := hs y List.mem_cons_self
    have hyu : (g y s.cycle (s.thread (key y))).uid = key y := (hg ..).trans (State.thread_uid hy)
    obtain ⟨h1, h2, h3⟩ := ih hn.2 (s := s.setThread (g y s.cycle (s.thread (key y)))) fun x hx => by
      rw [State.hasThread_setThread]; exact hs x (List.mem_cons_of_mem _ hx)
    simp only [List.foldl_cons]
    refine ⟨fun x hx => ?_, ?_, fun v hv => ?_⟩
    · rcases List.mem_cons.mp hx with rfl | hx
      · rw [h3 _ hn.1, State.thread_setThread_same hyu hy]
      · have hne : key x ≠ key y := fun e => hn.1 (e ▸ List.mem_map_of_mem hx)
        rw [h1 x hx, State.thread_setThread_other (by rw [hyu]; exact hne)]
        rfl
    · rw [h2]; rfl
    · simp only [List.map_cons, List.mem_cons, not_or] at hv
      rw [h3 v hv.2, State.thread_setThread_other (by rw [hyu]; exact hv.1)]

/-- A member of an rendezvous as it goes on with its results. -/
def Thread.rejoins (t : Thread) (c : Cur) (rs : List (Nat × Word × Bool)) (now : Nat) : Thread := (writeNow (landAll t) rs false).readyAt c.next now

theorem landAll_uid (t : Thread) : (landAll t).uid = t.uid := (congrArg Thread.uid (landWhere_still t fun _ => true) :)

theorem rejoins_uid (t : Thread) (c : Cur) (rs : List (Nat × Word × Bool)) (now : Nat) : (t.rejoins c rs now).uid = t.uid :=
  (Thread.readyAt_uid ..).trans ((writeNow_parts (landAll t) rs).2.2.2.2.trans (landAll_uid t))

theorem completeInstance_spec {s : State} {team : Nat} {v : Rdv} {c : Cur} {d : List Nat} {res : List Arrived → Nat → List (Word × Bool)}
    (hn : (v.lanes.map (·.2.1)).Nodup) (hs : ∀ x ∈ v.lanes, s.hasThread x.2.1 = true) :
    (∀ x ∈ v.lanes, (completeInstance s team v c d res).thread x.2.1 = (s.thread x.2.1).rejoins c (d.zip (res v.arrived x.1)) s.cycle) ∧
      ∀ n, (completeInstance s team v c d res).byte n = s.byte n := by
  generalize hs1 : s.setTeam { s.team team with rdvs := (s.team team).rdvs.filter (fun x => !(x.group == v.group && x.addr == v.addr && x.mask == v.mask)) } = s1
  have e : completeInstance s team v c d res =
      v.lanes.foldl (fun s x => s.setThread ((s.thread x.2.1).rejoins c (d.zip (res v.arrived x.1)) s.cycle)) s1 := by
    rw [← hs1]; rfl
  have hth : ∀ n, s1.thread n = s.thread n := by rw [← hs1]; exact fun _ => rfl
  have hcy : s1.cycle = s.cycle := by rw [← hs1]; rfl
  have hmem : s1.mem = s.mem := by rw [← hs1]; rfl
  obtain ⟨h1, h2, -⟩ := foldl_setThread (key := fun x : Nat × Nat × Word × Bool × Word => x.2.1)
    (g := fun x n t => t.rejoins c (d.zip (res v.arrived x.1)) n) (fun x n t => rejoins_uid ..) hn (s := s1) (by
      rw [← hs1]; exact fun x hx => hs x hx)
  rw [e]
  refine ⟨fun x hx => by rw [h1 x hx, hth, hcy], fun n => ?_⟩
  have hm := congrArg State.mem h2
  unfold State.byte
  rw [hm]
  exact congrArg (tget unlisted · n) hmem

end Sys2Proof.Machine
end

section
/-! PROOF. The cross-lane instructions (R26-R28, R331, R356, R437, R446, R450, R471): an arrival, the completion by the last
one, and the obligation. -/
namespace Sys2Proof.Machine
open Sys2Proof

/-! ### An arrival (R27) -/

/-- The thread of a lane is found whatever the counters of the arriving thread are. -/
theorem laneThread_raised {s : State} {th : Thread} {is : Option Issue} {r : LaunchRec} {g k : Nat} {x : Thread}
    (h : laneThread (s.setThread th) th r g k = some x) (hx : x.status ≠ .exited) :
    ∃ y, laneThread (s.setThread (th.raised is)) (th.raised is) r g k = some y ∧ y.status ≠ .exited := by
  have hset : ∀ x ∈ (s.setThread th).threads, x.uid = th.uid → x = th := by
    intro x hm hu
    obtain ⟨z, -, hz⟩ := List.mem_map.mp hm
    by_cases hzu : z.uid = th.uid
    · simpa [hzu] using hz.symm
    · simp only [beq_iff_eq, hzu, ↓reduceIte] at hz
      exact absurd (hz ▸ hu) hzu
  have htwice : s.setThread (th.raised is) = (s.setThread th).setThread (th.raised is) :=
    (State.setThread_setThread s th _ (th.raised_uid is).symm).symm
  have e : laneThread (s.setThread (th.raised is)) (th.raised is) r g k =
      (laneThread (s.setThread th) th r g k).map fun x => if x.uid == (th.raised is).uid then th.raised is else x := by
    rw [htwice]
    refine (List.find?_map ..).trans (congrArg _ (List.find?_congr fun x hm => ?_))
    simp only [Function.comp, Thread.raised_uid, beq_iff_eq]
    split
    case isTrue hu =>
      rw [hset x hm hu, Thread.raised_eq]
      rfl
    case isFalse => rw [Thread.raised_eq]
  refine ⟨_, e.trans (congrArg _ h), ?_⟩
  simp only [Thread.raised_uid, beq_iff_eq]
  split
  case isTrue hu =>
    rw [Thread.raised_eq]
    exact hset x (List.mem_of_find?_eq_some h) hu ▸ hx
  case isFalse => exact hx

/-- The rendezvous that an arrival at this address with this mask joins (R27). -/
def waitingRdv (s : State) (th : Thread) (a mask : DWord) : Rdv :=
  ((s.teamOf th).rdvs.find? fun v => v.group == groupOf th (s.launchOfThread th).rcd && v.addr == a && v.mask == mask).getD
    ⟨groupOf th (s.launchOfThread th).rcd, a, mask, []⟩

/-- The rendezvous with the thread's arrival. -/
def joinedRdv (s : State) (th : Thread) (a mask : DWord) (x : Word × Bool) (y : Word) : Rdv :=
  { waitingRdv s th a mask with
    lanes := (waitingRdv s th a mask).lanes ++ [(laneOf th (s.launchOfThread th).rcd, th.uid, x.1, x.2, y)] }

/-- An arrival that passes its checks waits in its rendezvous, or completes it (R27). -/
theorem crossOp_arrives {s : State} {u : Nat} {c : Cur} {th : Thread} (h : Runs s u c th) {is : Issue} (hc : CounterFree th is)
    {d : List Nat} {a m : Reg} {b : Option Reg} {pp : Bool} {res : Nat → List Arrived → Nat → List (Word × Bool)}
    (he : Exist th (d ++ [a.toNat] ++ b.toList.map (·.toNat) ++ pairRegs m))
    (hr : ∀ n ∈ (if pp then [] else [a.toNat]) ++ b.toList.map (·.toNat) ++ (if (s.launchOfThread th).rcd.width ≤ 32 then [m.toNat] else pairRegs m),
      (th.reg n).2 = false) :
    let r := (s.launchOfThread th).rcd
    let mask := readMask th r.width m
    let all := joinedRdv s th c.addr mask (th.reg a.toNat) (match b with | some r => th.val r | none => 0)
    let s1 := waitIn (s.setThread (th.raised (some is))) (th.raised (some is)) .rendezvous
    maskOk mask r.width (laneOf th r) = true →
    (∀ v ∈ (s.teamOf th).rdvs, conflictRow v (groupOf th r) c.addr mask (laneOf th r) = none) →
    (∀ k ∈ maskLanes mask, ∃ x, laneThread (s.setThread th) th r (groupOf th r) k = some x ∧ x.status ≠ .exited) →
    crossOp s false d a m b pp is res = .next (
      if all.lanes.length = (maskLanes mask).length then completeInstance s1 (s.teamOf th).uid all c d (res r.width)
      else s1.setTeam { s1.team (s.teamOf th).uid with
        rdvs := ((s1.team (s.teamOf th).uid).rdvs.filter fun x => !(x.group == groupOf th r && x.addr == c.addr && x.mask == mask)) ++ [all] }) := by
  intro r mask all s1 hok hconf hlanes
  have hbad : (s.teamOf th).rdvs.filterMap (fun v => (conflictRow v (groupOf th r) c.addr mask (laneOf th r)).map fun row => (v, row)) = [] := by
    rw [List.filterMap_eq_nil_iff]
    intro v hv
    rw [hconf v hv]
    rfl
  have hchk := regChecks_none (c := c) (t := th.raised (some is)) (fun r hr' => by rw [Thread.raised_regs]; exact he r hr')
    (fun r hr' => by rw [Thread.raised_reg]; exact hr r hr')
  unfold crossOp threadOp
  rw [withCur_eq h]
  simp only [h.who]
  rw [onThread_eq h (some is) (by simpa using hc), endsScout_none (by simpa using h.scout)]
  have hl : (s.setThread (th.raised (some is))).launchOfThread (th.raised (some is)) = s.launchOfThread th := by rw [Thread.raised_eq]; rfl
  have htm : (s.setThread (th.raised (some is))).teamOf (th.raised (some is)) = s.teamOf th := by rw [Thread.raised_eq]; rfl
  have hm : readMask (th.raised (some is)) r.width m = mask := by rw [Thread.raised_eq]; rfl
  have hla : laneOf (th.raised (some is)) r = laneOf th r := by rw [Thread.raised_eq]; rfl
  have hg : groupOf (th.raised (some is)) r = groupOf th r := by rw [Thread.raised_eq]; rfl
  have hv : ∀ r, (th.raised (some is)).val r = th.val r := by intro r; rw [Thread.raised_eq]; rfl
  simp only [checked, hl, hchk, htm, hm, hla, hg, hok, hbad, hv, Thread.raised_reg, Thread.raised_uid, r]
  rw [if_neg (by decide), if_neg (by decide), if_neg ?present]
  case present =>
    rw [Bool.not_eq_true, List.any_eq_false]
    intro k hk
    obtain ⟨x, hx, hne⟩ := hlanes k hk
    obtain ⟨y, hy, hne⟩ := laneThread_raised (is := some is) hx hne
    simp only [r] at hy
    simp only [hy]
    simpa using hne
  simp only [beq_iff_eq]
  rfl

/-! ### A member with its results -/

theorem nodup_zip_keys {α β : Type} {d : List α} (h : d.Nodup) (l : List β) : ((d.zip l).map (·.1)).Nodup := by
  induction d generalizing l with
  | nil => exact List.nodup_nil
  | cons x d ih =>
    obtain ⟨hx, hd⟩ := List.nodup_cons.mp h
    cases l with
    | nil => exact List.nodup_nil
    | cons y l =>
      refine List.nodup_cons.mpr ⟨fun hm => hx ?_, ih hd l⟩
      obtain ⟨z, hz, e⟩ := List.mem_map.mp hm
      exact (show z.1 = x from e) ▸ (List.of_mem_zip hz).1

/-- A thread lands what another of the same registers, counters and results in flight lands. -/
structure Thread.LandsAs (t old : Thread) : Prop where
  regs : (landAll t).regs = (landAll old).regs
  pois : (landAll t).pois = (landAll old).pois
  sb : (landAll t).lower.sb = (landAll old).lower.sb

/-- A member of a completed rendezvous: ready after the instruction, with its earlier results and then its own, its counter fallen
(R27, R436). -/
theorem rejoins_spec {t old : Thread} (h : t.LandsAs old) {c : Cur} {d : List Nat} (hd : d.Nodup) (l : List (Word × Bool)) (now : Nat) :
    let x := t.rejoins c (d.zip l) now
    x.status = .ready ∧ x.pc = c.next ∧ x.mid = none ∧ x.sb = (landAll old).lower.sb ∧
      (∀ n, n ∉ d → x.reg n = (landAll old).reg n) ∧
      (old.pois.length = old.regs.length → Exist old d → ∀ y ∈ d.zip l, x.reg y.1 = y.2) := by
  have hreg : ∀ n, (t.rejoins c (d.zip l) now).reg n = (writeNow (landAll t) (d.zip l) false).reg n := fun n => by
    simp [Thread.rejoins, Thread.reg]
  have hold : ∀ n, (landAll t).reg n = (landAll old).reg n := fun n => by unfold Thread.reg; rw [h.regs, h.pois]
  have hn := nodup_zip_keys hd l
  obtain ⟨-, -, hsb, hup, -⟩ := writeNow_parts (landAll t) (d.zip l)
  refine ⟨rfl, rfl, rfl, (lower_sb_congr hsb hup).trans h.sb, fun n hnd => ?_, fun hlen hex y hy => ?_⟩
  · rw [hreg, writeNow_reg_other hn, hold]
    intro hm
    obtain ⟨z, hz, e⟩ := List.mem_map.mp hm
    exact hnd (e ▸ (List.of_mem_zip hz).1)
  · have hlt := hex y.1 (List.of_mem_zip hy).1
    obtain ⟨hr, hp⟩ := Prod.ext_iff.mp (landAll_lengths old)
    rw [hreg, writeNow_reg_same hn hy]
    · rw [h.regs]
      exact hlt.trans_eq hr.symm
    · rw [h.pois]
      exact (hlt.trans_eq hlen.symm).trans_eq hp.symm

/-- A thread that waits lands what it would have landed. -/
theorem landsAs_wait {t old : Thread} {is : Option Issue} {w : Wait} (h : t.unstamped = ((old.raised is).inWait w).unstamped) : t.LandsAs old := by
  have e := Thread.eq_of_unstamped h
  obtain ⟨h1, h2, h3⟩ := landAll_congr (x := t) (y := old.raised is) (by rw [e]; rfl) (by rw [e]; rfl)
  have hl := landAll_raised old is
  refine ⟨h1.trans ?_, h2.trans ?_, h3.trans (congrArg Thread.sb hl)⟩
  · simpa using congrArg Thread.regs hl
  · simpa using congrArg Thread.pois hl

theorem landsAs_unstamped {t old : Thread} (h : t.unstamped = old.unstamped) : t.LandsAs old := by
  have e := Thread.eq_of_unstamped h
  obtain ⟨h1, h2, h3⟩ := landAll_congr (x := t) (y := old) (by rw [e]; rfl) (by rw [e])
  exact ⟨h1, h2, h3⟩

/-- The thread waits at its arrival, every other one as it was. -/
theorem Runs.arrived {s : State} {u : Nat} {c : Cur} {th : Thread} (h : Runs s u c th) (is : Option Issue) (w : Wait) :
    let t := waitIn (s.setThread (th.raised is)) (th.raised is) w
    (t.thread u).unstamped = ((th.raised is).inWait w).unstamped ∧ OnlyThread s t u := by
  have hu : (th.raised is).uid = u := (th.raised_uid is).trans h.uid
  obtain ⟨h1, h2⟩ := leaveClause_set_spec (s := s.setThread (th.raised is)) (t := th.raised is) (t' := (th.raised is).inWait w) hu (by simpa using h.has)
  exact ⟨h1, OnlyThread.of_set hu h2⟩

/-! ### The obligation -/

section
variable {s : State} {u : Nat} {c : Cur} {th : Thread} (h : Runs s u c th)
include h

/-- The last arrival: every member goes on with its result, and memory does not change. -/
theorem completed_spec {is : Option Issue} {v : Rdv} {d : List Nat} {res : List Arrived → Nat → List (Word × Bool)} (team : Nat) (hd : d.Nodup)
    (hn : (v.lanes.map (·.2.1)).Nodup) (hs : ∀ x ∈ v.lanes, s.hasThread x.2.1 = true) :
    let t := completeInstance (waitIn (s.setThread (th.raised is)) (th.raised is) .rendezvous) team v c d res
    (∀ n, t.byte n = s.byte n) ∧ ∀ x ∈ v.lanes, let old := if x.2.1 = u then th else s.thread x.2.1
      (t.thread x.2.1).status = .ready ∧ (t.thread x.2.1).pc = c.next ∧ (t.thread x.2.1).mid = none ∧
      (t.thread x.2.1).sb = (landAll old).lower.sb ∧
      (∀ n, n ∉ d → (t.thread x.2.1).reg n = (landAll old).reg n) ∧
      (old.pois.length = old.regs.length → Exist old d → ∀ y ∈ d.zip (res v.arrived x.1), (t.thread x.2.1).reg y.1 = y.2) := by
  obtain ⟨hu, honly⟩ := h.arrived is .rendezvous
  obtain ⟨hth, hbyte⟩ := completeInstance_spec (s := waitIn (s.setThread (th.raised is)) (th.raised is) .rendezvous) (team := team)
    (c := c) (d := d) (res := res) hn fun x hx => by
      rw [waitIn_eq, leaveClause_hasThread]
      simpa using hs x hx
  refine ⟨fun n => (hbyte n).trans (honly.memory n), fun x hx => ?_⟩
  rw [hth x hx]
  split
  case isTrue e => exact rejoins_spec (e ▸ landsAs_wait hu) hd _ _
  case isFalse e => exact rejoins_spec (landsAs_unstamped (honly.others _ e)) hd _ _

/-- An arrival with others missing waits in its rendezvous. -/
theorem joined_spec {is : Option Issue} {w : Wait} {v : Rdv} (old : Rdv → Bool) (ht : s.hasTeam th.team = true) :
    let s1 := waitIn (s.setThread (th.raised is)) (th.raised is) w
    let t := s1.setTeam { s1.team (s.teamOf th).uid with rdvs := ((s1.team (s.teamOf th).uid).rdvs.filter old) ++ [v] }
    (∀ n, t.byte n = s.byte n) ∧ (t.thread u).status = .waiting w ∧ (t.thread u).pc = th.pc ∧ v ∈ (t.teamOf th).rdvs := by
  obtain ⟨hu, honly⟩ := h.arrived is w
  have hu := Thread.eq_of_unstamped hu
  have huid : (s.teamOf th).uid = th.team := State.team_uid ht
  have ht1 : (waitIn (s.setThread (th.raised is)) (th.raised is) w).hasTeam th.team = true := by
    unfold State.hasTeam
    rw [waitIn_eq, leaveClause_teams]
    exact ht
  refine ⟨honly.memory, (congrArg Thread.status hu :), (congrArg Thread.pc hu).trans ?_, ?_⟩
  · rw [Thread.raised_eq]
    rfl
  · rw [huid]
    unfold State.teamOf
    rw [State.team_setTeam, if_pos ⟨(State.team_uid ht1).symm, ht1⟩]
    exact List.mem_append_right _ List.mem_cons_self

end

section
variable (s : State) (k : BitVec 2) (op : BitVec 3) (ty : BitVec 2) (ex : Bool) (d a b m : Reg) (is : Issue)

theorem exec_shfl : exec (.shfl k d a b m is) s =
    crossOp s (!(Instr.wf (.shfl k d a b m is))) [d.toNat] a m (some b) true is fun w l n => [shflRes k.toNat w l n] := rfl
theorem exec_elect : exec (.elect d a m is) s =
    crossOp s (!(Instr.wf (.elect d a m is))) [d.toNat] a m none false is fun _ l n => [(electRes l n, false)] := rfl
theorem exec_ballot : exec (.ballot d a m is) s = crossOp s (!(Instr.wf (.ballot d a m is))) (pairRegs d) a m none false is
    fun _ l _ => [((ballotRes l).extractLsb' 0 32, false), ((ballotRes l).extractLsb' 32 32, false)] := rfl
theorem exec_vote : exec (.vote k d a m is) s =
    crossOp s (!(Instr.wf (.vote k d a m is))) [d.toNat] a m none false is fun _ l _ => [(voteRes k.toNat l, false)] := rfl
theorem exec_redl : exec (.redl op ty d a m is) s = crossOp s (!(Instr.wf (.redl op ty d a m is))) [d.toNat] a m none false is
    fun _ l _ => [(reduce op.toNat ty.toNat (l.map (·.2.1)), false)] := rfl
theorem exec_scanl : exec (.scanl op ex ty d a m is) s = crossOp s (!(Instr.wf (.scanl op ex ty d a m is))) [d.toNat] a m none false is
    fun _ l n => [(scanRes op.toNat ty.toNat ex l n, false)] := rfl

end

/-- The cross-lane instructions with their destinations, whether they read a second operand and pass poison on, and what they compute
of the arrivals in a group of w lanes. -/
def crossRows (w : Nat) (d : Reg) (k : BitVec 2) (op : BitVec 3) (ty : BitVec 2) (ex : Bool) (a b m : Reg) (is : Issue) :
    List (Instr × List Nat × Bool × (List Arrived → Nat → List (Word × Bool))) :=
  [(.shfl k d a b m is, [d.toNat], true, fun (l : List Arrived) (n : Nat) => [shflRes k.toNat w l n]),
    (.elect d a m is, [d.toNat], false, fun (l : List Arrived) (n : Nat) => [(electRes l n, false)])] ++
    (if evenReg d then [(Instr.ballot d a m is, pairRegs d, false, fun (l : List Arrived) (_ : Nat) => [((ballotRes l).extractLsb' 0 32, false), ((ballotRes l).extractLsb' 32 32, false)])] else []) ++
    (if k ≠ 3 then [(Instr.vote k d a m is, [d.toNat], false, fun (l : List Arrived) (_ : Nat) => [(voteRes k.toNat l, false)])] else []) ++
    (if redlOk op ty then [(Instr.redl op ty d a m is, [d.toNat], false, fun (l : List Arrived) (_ : Nat) => [(reduce op.toNat ty.toNat (l.map (·.2.1)), false)]),
      (Instr.scanl op ex ty d a m is, [d.toNat], false, fun (l : List Arrived) (n : Nat) => [(scanRes op.toNat ty.toNat ex l n, false)])] else [])

theorem crossRows_exec {w : Nat} {a b m : Reg} {is : Issue} (his : is.ok = true) (hm : evenReg m = true) {d : Reg} {k : BitVec 2}
    {op : BitVec 3} {ty : BitVec 2} {ex : Bool} {i : Instr} {dst : List Nat} {sel : Bool} {res : List Arrived → Nat → List (Word × Bool)}
    (h : (i, dst, sel, res) ∈ crossRows w d k op ty ex a b m is) (s : State) :
    dst.Nodup ∧ i.wf = true ∧ ∃ f, f w = res ∧ exec i s = crossOp s (!i.wf) dst a m (if sel then some b else none) sel is f := by
  simp only [crossRows, List.mem_append, List.mem_cons, List.not_mem_nil, or_false, List.mem_ite_nil_right, Prod.mk.injEq] at h
  rcases h with ((((⟨rfl, rfl, rfl, rfl⟩ | ⟨rfl, rfl, rfl, rfl⟩) | ⟨hd, rfl, rfl, rfl, rfl⟩) | ⟨hk, rfl, rfl, rfl, rfl⟩) |
    ⟨ho, ⟨rfl, rfl, rfl, rfl⟩ | ⟨rfl, rfl, rfl, rfl⟩⟩)
  · exact ⟨List.nodup_singleton _, by simp [Instr.wf, hm, his], _, rfl, exec_shfl s k d a b m is⟩
  · exact ⟨List.nodup_singleton _, by simp [Instr.wf, hm, his], _, rfl, exec_elect s d a m is⟩
  · exact ⟨by simp [pairRegs], by simp [Instr.wf, hm, his, hd], _, rfl, exec_ballot s d a m is⟩
  · exact ⟨List.nodup_singleton _, by simpa [Instr.wf, hm, his] using hk, _, rfl, exec_vote s k d a m is⟩
  · exact ⟨List.nodup_singleton _, by simp [Instr.wf, hm, his, ho], _, rfl, exec_redl s op ty d a m is⟩
  · exact ⟨List.nodup_singleton _, by simp [Instr.wf, hm, his, ho], _, rfl, exec_scanl s op ty ex d a m is⟩

/-- A cross-lane instruction whose operands exist and are unpoisoned, whose mask is good and whose rendezvous conflicts with none waits
in its rendezvous or completes it. -/
theorem crossRows_arrive {s : State} {u : Nat} {c : Cur} {th : Thread} (h : Runs s u c th) {a b m : Reg} {is : Issue} (hc : CounterFree th is)
    (his : is.ok = true) (hm : evenReg m = true) (hbm : Readable th [b.toNat, m.toNat]) (ham : Exist th [a.toNat, m.toNat + 1])
    (hwide : 32 < (s.launchOfThread th).rcd.width → Readable th [m.toNat + 1]) {d : Reg} {k : BitVec 2}
    {op : BitVec 3} {ty : BitVec 2} {ex : Bool} {i : Instr} {dst : List Nat} {sel : Bool} {res : List Arrived → Nat → List (Word × Bool)}
    (hrow : (i, dst, sel, res) ∈ crossRows (s.launchOfThread th).rcd.width d k op ty ex a b m is)
    (hdst : Exist th dst) (hpois : sel = false → (th.reg a.toNat).2 = false) :
    let r := (s.launchOfThread th).rcd
    let mask := readMask th r.width m
    let all := joinedRdv s th c.addr mask (th.reg a.toNat) (if sel then th.val b else 0)
    let s1 := waitIn (s.setThread (th.raised (some is))) (th.raised (some is)) .rendezvous
    maskOk mask r.width (laneOf th r) = true →
    (∀ v ∈ (s.teamOf th).rdvs, conflictRow v (groupOf th r) c.addr mask (laneOf th r) = none) →
    (∀ k ∈ maskLanes mask, ∃ x, laneThread (s.setThread th) th r (groupOf th r) k = some x ∧ x.status ≠ .exited) →
    dst.Nodup ∧ exec i s = .next (
      if all.lanes.length = (maskLanes mask).length then completeInstance s1 (s.teamOf th).uid all c dst res
      else s1.setTeam { s1.team (s.teamOf th).uid with
        rdvs := ((s1.team (s.teamOf th).uid).rdvs.filter fun x => !(x.group == groupOf th r && x.addr == c.addr && x.mask == mask)) ++ [all] }) := by
  intro r mask all s1 hok hconf hlanes
  obtain ⟨hn, hwf, f, rfl, e⟩ := crossRows_exec his hm hrow s
  refine ⟨hn, e.trans ?_⟩
  have hb := (hbm b.toNat (by simp))
  have hmr := (hbm m.toNat (by simp))
  rw [hwf]
  refine (crossOp_arrives h hc ?_ ?_ hok hconf hlanes).trans ?_
  · intro n hx
    simp only [List.mem_append, pairRegs, List.mem_cons, List.not_mem_nil, or_false] at hx
    rcases hx with (((hx | rfl) | hx) | (rfl | rfl))
    · exact hdst n hx
    · exact ham _ (by simp)
    · cases sel
      · simp at hx
      · simp only [↓reduceIte, Option.toList_some, List.map_cons, List.map_nil, List.mem_singleton] at hx
        exact hx ▸ hb.1
    · exact hmr.1
    · exact ham _ (by simp)
  · intro n hx
    simp only [List.mem_append] at hx
    rcases hx with (hx | hx) | hx
    · cases sel
      · simp only [Bool.false_eq_true, ↓reduceIte, List.mem_singleton] at hx
        exact hx ▸ hpois rfl
      · simp at hx
    · cases sel
      · simp at hx
      · simp only [↓reduceIte, Option.toList_some, List.map_cons, List.map_nil, List.mem_singleton] at hx
        exact hx ▸ hb.2
    · split at hx
      case isTrue => exact List.mem_singleton.mp hx ▸ hmr.2
      case isFalse hw =>
        simp only [pairRegs, List.mem_cons, List.not_mem_nil, or_false] at hx
        rcases hx with rfl | rfl
        · exact hmr.2
        · exact (hwide (by omega) _ List.mem_cons_self).2
  · cases sel <;> rfl

end Sys2Proof.Machine
end

section
/-! PROOF. The obligation on the cross-lane instructions, from their arrivals and what their operations compute. -/
namespace Sys2Proof.Machine
open Sys2Proof

/-- The values of members in ascending lane order, lane by lane (R331, R356, R446, R450, R471). -/
theorem crossResults {l : List Arrived} (hs : (l.map (·.1)).Pairwise (· < ·)) :
      (∀ k < 64, (ballotRes l).getLsbD k = l.any fun x => x.1 == k && x.2.1 != 0) ∧
      (∀ x ∈ l, electRes l x.1 = if x.2.1 ≠ 0 ∧ ∀ y ∈ l, y.2.1 ≠ 0 → x.1 ≤ y.1 then 1 else 0) ∧
      (∀ x ∈ l, ∀ w, 0 < w → shflRes 0 w l x.1 =
        match l.find? (fun y => y.1 == x.2.2.2.toNat % w) with
        | some y => (y.2.1, y.2.2.1)
        | none => (x.2.1, x.2.2.1)) ∧
      (∀ x ∈ l, ∀ w ∈ [8, 16, 32, 64], let n := 2 ^ min (x.2.2.2.toNat % 8) (Nat.log2 w)
        let from_ := fun q : Nat => match l.find? (fun y => y.1 == q) with | some y => (y.2.1, y.2.2.1) | none => (x.2.1, x.2.2.1)
        shflRes 2 w l x.1 = from_ (x.1 / n * n + x.2.2.2.toNat / 256 % 256 % n) ∧ shflRes 3 w l x.1 = from_ (x.1 / n * n + (n - 1 - x.1 % n))) := by
  refine ⟨fun k hk => ballotRes_getLsbD l hk, fun x hx => electRes_eq hs hx, fun x hx w _ => shflRes_eq hs hx 0 w, fun x hx w _ => ?_⟩
  obtain ⟨h2, h3⟩ := shflSource_span w l x.1 x.2.2.2
  exact ⟨(shflRes_eq hs hx 2 w).trans (h2 ▸ rfl), (shflRes_eq hs hx 3 w).trans (h3 ▸ rfl)⟩

/-- The integer reductions by value (R437). -/
theorem reduce_integer (p : List Word) {ty : Nat} (hty : ty ≤ 1) :
    reduce 0 ty p = BitVec.ofNat 32 (p.map (·.toNat)).sum ∧
      ∀ k < 32, (reduce 3 ty p).getLsbD k = p.all (fun y => y.getLsbD k) ∧ (reduce 4 ty p).getLsbD k = p.any (fun y => y.getLsbD k) ∧
        (reduce 5 ty p).getLsbD k = decide ((p.filter fun y => y.getLsbD k).length % 2 = 1) := by
  have hty : ty = 0 ∨ ty = 1 := by omega
  rcases hty with rfl | rfl <;>
    exact ⟨foldl_add_words p, fun k hk => ⟨foldl_and_getLsbD p hk, foldl_or_getLsbD p k, foldl_xor_getLsbD p k⟩⟩

/-- The least and the greatest number of a list, -0 below +0 (R437). -/
theorem reduce_fp_bounds {p : List Word} {y : Word} (hy : y ∈ p) (hn : IsNum y) :
    (fcmpHolds 3 (reduce 1 2 p) y = true ∧ (y = 0x80000000 → reduce 1 2 p ≠ 0)) ∧
      (fcmpHolds 3 y (reduce 2 2 p) = true ∧ (y = 0 → reduce 2 2 p ≠ 0x80000000)) := by
  obtain ⟨hmin, -, hle⟩ := (reduce_fmin p).number hy hn
  obtain ⟨hmax, -, hge⟩ := (reduce_fmax p).number hy hn
  refine ⟨⟨fcmp_le_of_rank hmin hn hle, fun e e0 => ?_⟩, fcmp_le_of_rank hn hmax hge, fun e e0 => ?_⟩
  · rw [e, e0] at hle
    exact absurd rank_negZero_lt (not_lt.mpr hle)
  · rw [e, e0] at hge
    exact absurd rank_negZero_lt (not_lt.mpr hge)

/-- The sum of numbers: an infinity that is there alone, else the exact sum rounded once, a zero sum with its sign (R437). -/
theorem reduce_fp_sum {p : List Word} (hnum : ∀ y ∈ p, valOf fp32 y.toNat ≠ .nan) :
    (0x7F800000 ∈ p → 0xFF800000 ∉ p → reduce 0 2 p = 0x7F800000) ∧ (0xFF800000 ∈ p → 0x7F800000 ∉ p → reduce 0 2 p = 0xFF800000) ∧
      (0x7F800000 ∉ p → 0xFF800000 ∉ p →
        let sum : Int := (p.map fun y => (valOf fp32 y.toNat).onGrid (-149)).sum
        reduce 0 2 p = if sum ≠ 0 then BitVec.ofNat 32 (roundTo fp32 .rne false (.fin (decide (sum < 0)) sum.natAbs (-149))).1
          else if ∀ y ∈ p, y = 0x80000000 then 0x80000000 else 0) := by
  have hno : ¬ ∃ y ∈ p, valOf fp32 y.toNat = .nan := fun ⟨y, hy, e⟩ => hnum y hy e
  refine ⟨fun h1 h2 => ?_, fun h1 h2 => ?_, fun h1 h2 => ?_⟩
  · exact (sumFp_eq p).trans ((if_neg fun h => h.elim hno fun h => h2 h.1).trans (if_pos h1))
  · exact (sumFp_eq p).trans ((if_neg fun h => h.elim hno fun h => h2 h.2).trans ((if_neg h2).trans (if_pos h1)))
  · refine (sumFp_eq p).trans ((if_neg fun h => h.elim hno fun h => h1 h.2).trans ((if_neg h1).trans ((if_neg h2).trans ?_)))
    exact (ite_not ..).symm

/-- Settles O19: an arrival that completes and one that waits, the operations over members in lane order, and the reductions. -/
theorem crossLaneInstructions : Obligations.CrossLaneInstructions := by
  refine ⟨?_, fun l hs h64 _ => ?_, fun p hp => ?_⟩
  · intro s u c th a b m is h hc his hm hbm ham hwide s0 r g lane mask here waiting hok hconf hlanes d k op ty ex i dst sel res rows hrow hdst hpois all
    obtain ⟨hn, e⟩ := crossRows_arrive h hc his hm hbm ham hwide hrow hdst hpois hok hconf hlanes
    have hall : joinedRdv s th c.addr mask (th.reg a.toNat) (if sel then th.val b else 0) = all := by
      simp only [all, ← h.uid]
      rfl
    rw [hall] at e
    refine ⟨fun hlen hnd hhas => ?_, fun hlen ht => ?_⟩
    · rw [if_pos hlen] at e
      refine ⟨_, e, completed_spec h _ hn hnd fun x hx => ?_⟩
      rcases List.mem_append.mp hx with hx | hx
      · exact hhas x hx
      · rw [List.mem_singleton.mp hx]
        exact h.has
    · rw [if_neg (Nat.ne_of_lt hlen)] at e
      exact ⟨_, e, joined_spec h _ ht⟩
  · obtain ⟨h1, h2, h3, h4⟩ := crossResults hs
    refine ⟨h1, h2, h3, h4, fun p hp w => shflRes_rot hs hp w, fun y => voteTest_iff l y, fun k => voteRes_fields hs h64 k,
      fun op ty x hx => ⟨scanRes_inclusive hx op ty, fun hlt => scanRes_exclusive hlt op ty, fun hle v hv => ?_⟩⟩
    exact (scanRes_lowest hle op ty).trans (scanIdentity_mem hv)
  · refine ⟨fun ty hty => reduce_integer p hty, fun ty hty hnum => reduce_minmax_mem hty hnum, fun y hy => ⟨(reduce_min_signed p).2 y hy,
      neg_le_neg_iff.mp ((reduce_max_signed p).2 y hy), Int.ofNat_le.mp ((reduce_min_unsigned p).2 y hy),
      Int.ofNat_le.mp (neg_le_neg_iff.mp ((reduce_max_unsigned p).2 y hy))⟩, fun y hy hn => reduce_fp_bounds hy hn,
      fun hall => ⟨(reduce_fmin p).canonical fun y hy hn => hn (hall y hy), (reduce_fmax p).canonical fun y hy hn => hn (hall y hy)⟩,
      fun hnan => ?_, fun hnum => ?_⟩
    · exact (sumFp_eq p).trans (if_pos (hnan.imp_right And.symm))
    · exact reduce_fp_sum hnum

end Sys2Proof.Machine
end

section
/-! PROOF. Turns (R20, R21, R209, R240, R302, R322): what waits while nothing waits, a translation and a fetch ahead leave memory as it
is, and the obligation on the instruction a step runs. -/
namespace Sys2Proof.Machine
open Sys2Proof

/-! ### Agents that look and leave memory as it is -/

/-- Two states with the same memory, the same marks on it and the same links to it, the same interrupts pending, and threads that
differ at most in what holds them. -/
structure SameMemory (s t : State) : Prop where
  mem : t.mem = s.mem
  poison : t.poison = s.poison
  cxldn : t.hub.cxldn = s.hub.cxldn
  hipend : t.hub.hipend = s.hub.hipend
  thread : ∀ v, t.thread v = { s.thread v with hold := (t.thread v).hold }

theorem SameMemory.refl (s : State) : SameMemory s s := ⟨rfl, rfl, rfl, rfl, fun _ => rfl⟩
theorem SameMemory.trans {s t u : State} (h1 : SameMemory s t) (h2 : SameMemory t u) : SameMemory s u :=
  ⟨h2.mem.trans h1.mem, h2.poison.trans h1.poison, h2.cxldn.trans h1.cxldn, h2.hipend.trans h1.hipend, fun v => by
    rw [h2.thread v, h1.thread v]⟩

/-- A change of what holds the threads. -/
theorem thread_map_hold {f : Thread → Thread} (hf : ∀ x, f x = { x with hold := (f x).hold }) (s : State) (v : Nat) :
    ({ s with threads := s.threads.map f } : State).thread v =
      { s.thread v with hold := (({ s with threads := s.threads.map f } : State).thread v).hold } := by
  have hu : ∀ x, (f x).uid = x.uid := fun x => by rw [hf]
  unfold State.thread
  rw [find_map_uid hu]
  cases s.threads.find? (·.uid == v) with
  | none => rfl
  | some x => exact hf x

/-- A fold of steps that each leave memory as it is does so too. -/
theorem SameMemory.foldl {α : Type} {f : State → α → State} (hf : ∀ s x, SameMemory s (f s x)) (l : List α) (s : State) : SameMemory s (l.foldl f s) := by
  induction l generalizing s with
  | nil => exact .refl s
  | cons x l ih => exact (hf s x).trans (ih (f s x))

theorem fillDie_memory (s : State) (die : Nat) (x : Xlate) : SameMemory s (fillDie s die x) := ⟨rfl, rfl, rfl, rfl, fun _ => rfl⟩

theorem keepXlate_memory (s : State) (core ctx va : Nat) (x : Xlate) : SameMemory s (keepXlate s core ctx va x) := by
  unfold keepXlate
  split <;> exact ⟨rfl, rfl, rfl, rfl, fun _ => rfl⟩

theorem demandFault_memory (s : State) (ctx : Nat) (va : DWord) (agent kind level flags : Nat) (src launch : Word) :
    SameMemory s (demandFault s ctx va agent kind level flags src launch) := by
  unfold demandFault
  split <;> exact ⟨rfl, rfl, rfl, rfl, fun _ => rfl⟩

theorem walkFault_memory (s : State) (w : Walk) (meets : WalkReq → Bool) (kind level : Nat) : SameMemory s (walkFault s w meets kind level) := by
  unfold walkFault
  split
  · exact demandFault_memory ..
  · exact .refl s

/-- A table entry whose walk goes no further, or on with the next level (R88, R89). -/
def entryWalk (s : State) (level e : Nat) (next : WalkEnd) : WalkEnd :=
  if e % 2 == 0 then .bad 0 level none
  else match leafFrame e level with
    | some f => if leafMalformed e level then .bad 2 level none else .leaf f level (e / 4 % 2 == 1)
    | none => if tableMalformed s e level then .bad 2 level none else next

theorem walkAt_zero (s : State) (va base : Nat) : walkAt s va 0 base =
    if s.anyPoison (base + 8 * walkIndex va 0) 8 || lost s (base + 8 * walkIndex va 0) then .bad 2 0 (some (base + 8 * walkIndex va 0))
    else entryWalk s 0 (s.num (base + 8 * walkIndex va 0) 8) (.bad 2 0 none) := by
  delta walkAt
  dsimp only [Nat.brecOn, Nat.brecOn.go, walkAt._f]
  rfl

theorem walkAt_succ (s : State) (va l base : Nat) : walkAt s va (l + 1) base =
    if s.anyPoison (base + 8 * walkIndex va (l + 1)) 8 || lost s (base + 8 * walkIndex va (l + 1)) then .bad 2 (l + 1) (some (base + 8 * walkIndex va (l + 1)))
    else entryWalk s (l + 1) (s.num (base + 8 * walkIndex va (l + 1)) 8) (walkAt s va l (offOf (s.num (base + 8 * walkIndex va (l + 1)) 8 / 256 * 4096))) := by
  delta walkAt
  dsimp only [Nat.brecOn, Nat.brecOn.go, walkAt._f]
  rfl

/-- Poison of a table entry is found at the entry, or on the way from the table it names. -/
theorem entryWalk_bad {s : State} {level e : Nat} {next : WalkEnd} {k l : Nat} {p : Option Nat} (h : entryWalk s level e next = .bad k l p) :
    p = none ∨ next = .bad k l p := by
  unfold entryWalk at h
  split at h
  · cases h; exact .inl rfl
  split at h
  · split at h <;> cases h
    exact .inl rfl
  · split at h
    · cases h; exact .inl rfl
    · exact .inr h

/-- A walk over tables without poison and behind no link that is down finds none (R89, R269, R284). -/
theorem walk_unpoisoned {s : State} (hp : s.poison = []) (hc : s.hub.cxldn = []) {ctx va kind level : Nat} {pois : Option Nat}
    (h : walk s ctx va = .bad kind level pois) : pois = none := by
  have clean : ∀ a, (s.anyPoison a 8 || lost s a) = false := by simp [State.anyPoison, State.poisoned, hp, nmem, lost_eq_false hc]
  have key : ∀ level base, ∀ {k l p}, walkAt s va level base = .bad k l p → p = none := by
    intro level
    induction level with
    | zero =>
      intro base k l p hw
      rw [walkAt_zero, clean, if_neg Bool.false_ne_true] at hw
      rcases entryWalk_bad hw with hn | hn
      · exact hn
      · cases hn; rfl
    | succ n ih =>
      intro base k l p hw
      rw [walkAt_succ, clean, if_neg Bool.false_ne_true] at hw
      exact (entryWalk_bad hw).elim id (ih _)
  exact key _ _ h

/-- A walk's result changes caches and counts, where no table entry is poisoned. -/
theorem walkCheck_none (s : State) (die : Nat) : walkCheck s die none = s := rfl

theorem walked_memory (s : State) (die ctx page : Nat) (faults readOnly : Bool) :
    SameMemory s { s with threads := s.threads.map (Thread.walked die ctx page faults readOnly) } :=
  ⟨rfl, rfl, rfl, rfl, thread_map_hold (fun x => by
    unfold Thread.walked
    split
    · split <;> rfl
    · rfl) s⟩

theorem endWalk_memory {s : State} (hp : s.poison = []) (hc : s.hub.cxldn = []) (w : Walk) : SameMemory s (endWalk s w) := by
  have h0 : SameMemory s { s with walks := s.walks.filter fun x => !(x.is w.die w.ctx w.page) } := ⟨rfl, rfl, rfl, rfl, fun _ => rfl⟩
  unfold endWalk
  simp only
  split
  case h_1 f level wr hw =>
    have h1 : ∀ t : State, SameMemory t (if wr then t else walkFault t w (fun q => q.flags % 2 == 1) 1 level) := by
      intro t
      split
      · exact .refl t
      · exact walkFault_memory ..
    exact ((h0.trans (fillDie_memory _ _ _)).trans (h1 _)).trans ((SameMemory.foldl (fun s core => keepXlate_memory s core _ _ _) _ _).trans (walked_memory ..))
  case h_2 kind level pois hw =>
    rw [walk_unpoisoned (s := { s with walks := s.walks.filter fun x => !(x.is w.die w.ctx w.page) }) hp hc hw, walkCheck_none]
    exact (h0.trans (walkFault_memory _ w _ kind level)).trans (walked_memory ..)

theorem walker_memory {s t : State} (hp : s.poison = []) (hc : s.hub.cxldn = []) {die ctx page : Nat} (h : walker s die ctx page = some t) : SameMemory s t := by
  unfold walker at h
  simp only at h
  split at h
  · cases h
    exact endWalk_memory hp hc _
  · split at h
    · cases h
    · cases h
      exact .refl s

theorem walkNow_memory {s : State} (hp : s.poison = []) (hc : s.hub.cxldn = []) (die ctx : Nat) (va : DWord) (write : Bool) :
    SameMemory s (walkNow s die ctx va write).1 := by
  unfold walkNow
  simp only
  split
  · exact .refl s
  next s0 hw =>
    have h0 := walker_memory hp hc hw
    split
    next kind level pois hb =>
      rw [walk_unpoisoned (h0.poison.trans hp) (h0.cxldn.trans hc) hb, walkCheck_none]
      exact h0
    · exact h0.trans (fillDie_memory _ _ _)

/-- A translation for the hub's agents leaves memory as it is, where nothing is poisoned and every CXL link is up (R90, R269, R284). -/
theorem translateNow_memory {s : State} (hp : s.poison = []) (hc : s.hub.cxldn = []) (die ctx : Nat) (va : DWord) (write : Bool) :
    SameMemory s (translateNow s die ctx va write).1 := by
  unfold translateNow
  split
  · exact .refl s
  · split
    · exact .refl s
    · exact walkNow_memory hp hc die ctx va write

theorem cohere_memory (s : State) (offs : List Nat) : SameMemory s (cohere s offs).1 := by
  unfold cohere
  simp only
  split
  · exact ⟨rfl, rfl, rfl, rfl, fun _ => rfl⟩
  · split <;> exact ⟨rfl, rfl, rfl, rfl, fun _ => rfl⟩

theorem agentWaits_memory (s : State) (off n : Nat) (write : Bool) : SameMemory s (agentWaits s off n write).1 := by
  obtain ⟨cores, e⟩ := agentHeld_eq s off n write
  have h0 : SameMemory s (agentHeld s off n write).1 := by rw [e]; exact ⟨rfl, rfl, rfl, rfl, fun _ => rfl⟩
  unfold agentWaits
  split
  next s1 hx => exact (congrArg Prod.fst hx : _ = s1) ▸ h0
  next s1 hx => exact ((congrArg Prod.fst hx : _ = s1) ▸ h0).trans (cohere_memory s1 _)

/-- Fetching ahead leaves memory as it is (R242). -/
theorem fetchAhead_memory (c n : Nat) {s : State} (hp : s.poison = []) (hc : s.hub.cxldn = []) (l : List DWord) : SameMemory s (fetchAhead c n s l) := by
  induction l generalizing s with
  | nil => exact .refl s
  | cons va l ih =>
    unfold fetchAhead
    split
    · exact ih hp hc
    split
    · exact .refl s
    have h1 := translateNow_memory hp hc 0 c va false
    split
    next s1 phys ht =>
      rw [ht] at h1
      split
      next off hs =>
        have h2 := agentWaits_memory s1 off 4 false
        split
        next s2 hw =>
          rw [hw] at h2
          exact h1.trans h2
        next s2 hw =>
          rw [hw] at h2
          have h2 := h1.trans h2
          split
          · exact h2
          · refine h2.trans (.trans ?_ (ih (s := keepFetched s2 c n va _) (h2.poison.trans hp) (h2.cxldn.trans hc)))
            exact ⟨rfl, rfl, rfl, rfl, fun _ => rfl⟩
      · exact h1
    next s1 _ ht =>
      rw [ht] at h1
      exact h1

end Sys2Proof.Machine
end

section
/-! PROOF. The obligation on the instruction a step runs (R20, R21, R209, R240, R302, R322). -/
namespace Sys2Proof.Machine
open Sys2Proof

/-- A turn of the agenda, on a machine that is not frozen. -/
theorem step_turn {s : State} (hf : s.frozen = false) {t : Turn} {rest : List Turn} (ha : s.agenda = t :: rest) :
    step s = runAct (settle { s with agenda := rest, cur := none, cycle := s.cycle + t.cycles, htime := s.htime + t.ns }) t.act := by
  unfold step nextTurn
  rw [ha]
  simp only [runTurn, hf, Bool.false_eq_true, ↓reduceIte]

/-- The state in which an agent acts: time has passed, and what waits has been looked at again. -/
def turnState (s : State) (rest : List Turn) (cyc ns : Nat) : State :=
  settle { s with agenda := rest, cur := none, cycle := s.cycle + cyc, htime := s.htime + ns }

section
variable {s : State} {cyc ns : Nat} {rest : List Turn} (hf : s.frozen = false)
include hf

theorem step_picker {core p k : Nat} (ha : s.agenda = ⟨cyc, ns, .picker core p k⟩ :: rest) : step s = runPicker (turnState s rest cyc ns) core p k :=
  (step_turn hf ha).trans rfl

theorem step_script {k : Nat} (ha : s.agenda = ⟨cyc, ns, .script k⟩ :: rest) : step s = runScript (turnState s rest cyc ns) k :=
  (step_turn hf ha).trans rfl

theorem step_stream {c n ahead : Nat} (ha : s.agenda = ⟨cyc, ns, .stream c n ahead⟩ :: rest) : step s = runStream (turnState s rest cyc ns) c n ahead :=
  (step_turn hf ha).trans rfl

end

/-- A bundle with members that have not executed its instruction stays at it. -/
theorem Bundle.advance_todo (s : State) (f : Nat) {b : Bundle} (h : b.todo ≠ []) : b.advance s f = b := by
  cases f with
  | zero => rfl
  | succ f => simp [Bundle.advance, h]

/-- A picker's turn with one member left to execute. -/
theorem runPicker_single {s : State} {core p k u : Nat} {b : Bundle} (hb : (if p = 0 then (s.core core).pick0 else (s.core core).pick1) = some b)
    (ht : b.todo = [u]) :
    runPicker s core p k =
      runThread (s.setCore core (if p = 0 then { s.core core with pick0 := some b } else { s.core core with pick1 := some b })) b u := by
  unfold runPicker
  simp only [beq_iff_eq, hb, Bundle.advance_todo s 16 (b := b) (by simp [ht]), ht]
  generalize (match b.decoded with | .ok i => if laneOrder i then 0 else k | .error _ => k) = m
  simp [Nat.mod_one]

/-- A thread of a bundle at words that decode, or do not, and may stand there (R302, R322). -/
theorem runThread_ok {s : State} {b : Bundle} {u : Nat} {i : Instr} (hd : b.decoded = .ok i)
    (hl : (b.cur s u).last = true ∨ isTransfer (fOp b.word) = false ∧ mustEnd (fOp b.word) = false) :
    runThread s b u = exec i { s with cur := some (b.cur s u) } := by
  unfold runThread
  rcases hl with hl | ⟨h1, h2⟩
  · simp [hl, hd]
  · simp [h1, h2, hd]

theorem runThread_error {s : State} {b : Bundle} {u : Nat} {e : DecodeErr} (hd : b.decoded = .error e) (h1 : isTransfer (fOp b.word) = false)
    (h2 : mustEnd (fOp b.word) = false) (hs : (s.thread u).scout = none) :
    runThread s b u = .next (takeTrap s u 0x01 (b.cur s u).addr b.word (b.cur s u).addr) := by
  unfold runThread
  simp only [h1, h2, hd, Bool.and_false, Bool.false_eq_true, ↓reduceIte, trapOr_none hs]
  rfl

theorem scriptReady_idle {s : State} {k : Nat} (hr : (s.script k).running = true) (hw : (s.script k).wait = none) : scriptReady s k = true := by
  simp [scriptReady, hr, hw]

/-- The turn of a script that is due and stands in a clause (R207, R209). -/
theorem runScript_due {s : State} {k : Nat} {base : DWord} (hr : (s.script k).running = true) (hw : (s.script k).wait = none)
    (hd : scriptDue s k = true) (hh : (s.script k).header = some base) :
    runScript s k = runScriptWord (pastScript (s.setScript k (s.script k)) k) k (s.script k) base := by
  have hsc : ({ s.script k with wait := none } : Script) = s.script k := by rw [← hw]
  unfold runScript
  simp only [hw, scriptReady_idle hr hw, hd, Bool.and_self, ↓reduceIte]
  show (match (s.script k).header with
    | some h => runScriptWord (pastScript (s.setScript k { s.script k with wait := none }) k) k (s.script k) h
    | none => _) = _
  rw [hsc, hh]

/-- An instruction that must come last in its clause is cut short only where it does not. -/
theorem not_cut {n m : Nat} {b : Bool} (h : n ≤ m ∨ b = false) : ¬ (!decide (n ≤ m) && b) = true := by
  rcases h with h | h <;> simp [h]

/-- The instruction of a script in its clause, as the step's current one. -/
def Script.cur (sc : Script) (k : Nat) (base : DWord) : Cur :=
  { who := .script k, addr := base + BitVec.ofNat 64 (4 * sc.pos), word := sc.words.getD sc.pos 0
    next := base + BitVec.ofNat 64 (4 * sc.pos) + BitVec.ofNat 64 (4 * (1 + contRun (sc.words.headD 0) sc.pos)), hdr := base
    last := hdrN (sc.words.headD 0) ≤ sc.pos + contRun (sc.words.headD 0) sc.pos, pos := 0, exe := 0 }

/-- A script at words that decode, or do not, and may stand there (R209, R322). -/
theorem runScriptWord_ok {s : State} {k : Nat} {sc : Script} {base : DWord} {i : Instr}
    (hd : decode .bellows (sc.words.getD sc.pos 0) ((sc.words.drop (sc.pos + 1)).take (contRun (sc.words.headD 0) sc.pos)) = .ok i)
    (hend : hdrN (sc.words.headD 0) ≤ sc.pos + contRun (sc.words.headD 0) sc.pos ∨ isScriptTransfer (fOp (sc.words.getD sc.pos 0)) = false) :
    runScriptWord s k sc base = exec i { s with cur := some (sc.cur k base) } := by
  unfold runScriptWord
  simp only [hd]
  exact if_neg (not_cut hend)

theorem runScriptWord_error {s : State} {k : Nat} {sc : Script} {base : DWord} {e : DecodeErr}
    (hd : decode .bellows (sc.words.getD sc.pos 0) ((sc.words.drop (sc.pos + 1)).take (contRun (sc.words.headD 0) sc.pos)) = .error e)
    (hend : hdrN (sc.words.headD 0) ≤ sc.pos + contRun (sc.words.headD 0) sc.pos ∨ isScriptTransfer (fOp (sc.words.getD sc.pos 0)) = false) :
    runScriptWord s k sc base = .next (endScript s k 0x01) := by
  unfold runScriptWord
  simp only [hd]
  exact if_neg (not_cut hend)

/-- The turn of a stream that is due at a packet with its header (R240, R241). -/
theorem streamTurn_due {s : State} {c n ahead : Nat} {h : Word} (ha : (s.ctx c).active = true) (he : (s.stream c n).en = true)
    (hw : (s.stream c n).wait = none) (hb : (s.stream c n).badTail = false) (hh : (s.stream c n).headDue = false) (hd : streamDue s c n = true)
    (hdr : ((s.stream c n).bufs.headD {}).hdr = some h) : streamTurn s c n ahead = streamPacket (pastStream s c n) c n ahead h := by
  unfold streamTurn standing
  simp only [ha, he, hw, hb, hh, hd, hdr]
  rfl

/-- The packet of a stream at word p of its clause, as the step's current instruction. -/
def Stream.cur (st : Stream) (c n p : Nat) (h w : Word) : Cur :=
  { who := .stream c n, addr := st.wordVa p, word := w, next := st.wordVa (p + 1 + contRun h p), hdr := st.wordVa 0
    last := hdrN h ≤ p + contRun h p, pos := 0, exe := 0 }

/-- A stream at a packet whose words have been fetched: the packet begins. -/
def packetBegun (s : State) (c n : Nat) (st : Stream) (p : Nat) (h w : Word) : State :=
  let s2 := s.setStream c n { s.stream c n with pkt := some (st.wordVa p, st.wordVa (p + 1 + contRun h p), fOp w), wait := none }
  s2.setStream c n { s2.stream c n with began := some ((s2.stream c n).began.getD s2.htime) }

/-- A stream at a packet whose words are there, in no skip (R240, R241). -/
theorem streamPacket_eq {s s1 : State} {c n ahead : Nat} {h w : Word} {ks : List Word} {st : Stream} {p : Nat} (hst : s.stream c n = st)
    (hpos : (st.bufs.headD {}).word = p) (hk : st.skip = none)
    (hw : streamWords c n (s.setStream c n { st with pkt := some (st.wordVa p, st.wordVa (p + 1 + contRun h p), 0) })
      ((from_ p (contRun h p + 1)).map st.wordVa) = (s1, some (w :: ks)))
    (hend : hearthMustEnd (fOp w) = false ∨ hdrN h ≤ p + contRun h p) :
    streamPacket s c n ahead h =
      match decode .hearth w ks with
      | .error _ => .stop (packetError (packetBegun s1 c n st p h w) c n 0x0001)
      | .ok i =>
        if !(streamRoom (packetBegun s1 c n st p h w) c) then .stop (packetBegun s1 c n st p h w)
        else .go (fetchAhead c n (packetBegun s1 c n st p h w) (aheadOf st ahead)) i (st.cur c n p h w) := by
  subst hst hpos
  unfold streamPacket
  simp only
  rw [hw]
  dsimp only
  rw [hk]
  exact if_neg (by rw [Bool.and_comm]; exact not_cut hend.symm)

/-! ### Nothing waits -/

theorem foldl_fixed {α β : Type} {f : β → α → β} {b : β} {l : List α} (h : ∀ x ∈ l, f b x = b) : l.foldl f b = b := by
  induction l with
  | nil => rfl
  | cons x l ih =>
    rw [List.foldl_cons, h x List.mem_cons_self]
    exact ih fun y hy => h y (List.mem_cons_of_mem _ hy)

/-- Where nothing waits, looking again changes nothing. -/
theorem settle_idle {s : State} (hl : ∀ l ∈ s.launches, l.abort = none) (he : ∀ t ∈ s.threads, t.inEpisode = false) (hq : s.hubq = [])
    (hh : s.hostq = []) (hs : s.served = []) (hc : s.commitq = []) (hf : ∀ f ∈ s.faults, f.retry = false)
    (hp : ∀ t ∈ s.threads, ∀ i, t.status ≠ .parked i) (hg : ∀ t ∈ s.teams, ∀ g, spillGroup s (s.team t.uid) g = s) (hw : s.cwords = []) :
    settle s = s := by
  have h1 : (s.launches.filter (·.abort.isSome)) = [] := List.filter_eq_nil_iff.mpr fun l hm => by simp [hl l hm]
  have h2 : scoutsAsk s = s := by
    unfold scoutsAsk
    rw [List.filter_eq_nil_iff.mpr fun t hm => by simp [he t hm]]
    rfl
  have h3 : serveHost s = s := by unfold serveHost; rw [hh]
  have h4 : serveLanes s = s := by
    unfold serveLanes flushCommits
    rw [hs, List.foldl_nil, hc, List.foldl_nil, ← hc]
  have h5 : retryReplays s = s := by
    unfold retryReplays
    rw [List.filter_eq_nil_iff.mpr fun f hm => by simp [hf f hm]]
    rfl
  have h6 : retryAnswers s = s := foldl_fixed fun t hm => by
    split
    next i hst _ => exact absurd hst (hp t hm _)
    · rfl
  have h7 : retryCalls s = s := foldl_fixed fun t hm => by
    split
    next hst => exact absurd hst (hp t hm _)
    · rfl
  have h8 : spillAll s = s := foldl_fixed fun t hm => by
    split
    · exact foldl_fixed fun g _ => hg t hm g
    · rfl
  have h9 : flushWords s = s := by
    unfold flushWords
    rw [hw, List.foldl_nil, ← hw]
  have h10 : flushHub (s.hubq.length + 1) s = s := by
    have hd : hubDue s = (s, false) := by unfold hubDue; rw [hq]
    unfold flushHub
    rw [hd]
  unfold settle
  simp only [h1, List.foldl_nil, h2, h3, h4, h5, h6, h7, h8, h9, h10]

/-- Settles O56: a picker's, a script's and a stream's turn, the looking again, and the turns that are one event. -/
theorem stepRunsTheDecodedInstruction : Obligations.StepRunsTheDecodedInstruction := by
  refine ⟨?_, ?_, ?_, fun s => settle_idle, ?_⟩
  · intro s cyc ns core p k u rest b hf ha s0 c s1 at_ w ks hb ht
    have e : step s = runPicker s0 core p k := step_picker hf ha
    have e : step s = runThread s1 b u := e.trans (runPicker_single hb ht)
    refine ⟨fun i hd hl => ⟨e.trans (runThread_ok hd hl), rfl, rfl, rfl, rfl⟩, ?_⟩
    exact fun _ hd h1 h2 hs => e.trans (runThread_error hd h1 h2 hs)
  · intro s cyc ns k rest base hf ha s0 sc s1 h w ks hr hw hdue hh hend
    have e : step s = runScript s0 k := step_script hf ha
    clear_value s0
    have e : step s = runScriptWord s1 k sc base := e.trans (runScript_due hr hw hdue hh)
    refine ⟨fun i hd => ?_, fun _ hd => e.trans (runScriptWord_error (sc := sc) hd hend)⟩
    have e : step s = exec i { s1 with cur := some (sc.cur k base) } := e.trans (runScriptWord_ok (sc := sc) hd hend)
    exact ⟨sc.cur k base, e, rfl, rfl, rfl⟩
  · intro s s1 cyc ns c n rest h w ks hf ha s0 st pos run at_ hact hen hwait hbad hhead hskip hdue hdr hw s2 s3 hend
    have e : step s = runStream s0 c n 0 := step_stream hf ha
    clear_value s0
    have hst : (pastStream s0 c n).stream c n = st := by
      unfold pastStream
      split <;> rfl
    have hpkt := streamPacket_eq (s := pastStream s0 c n) (ahead := 0) (p := pos) hst rfl hskip hw hend
    have e : step s = match streamPacket (pastStream s0 c n) c n 0 h with
        | .stop s1 => .next s1
        | .go s1 i cur => exec i { s1 with cur := some cur } := by
      rw [e, ← streamTurn_due hact hen hwait hbad hhead hdue hdr]
      rfl
    refine ⟨fun _ hd => ?_, fun i hd => ⟨fun hr => ?_, fun hr => ⟨fetchAhead c n s3 (aheadOf st 0), st.cur c n pos h w, ?_, rfl, rfl, rfl, fun hp hc => (fetchAhead_memory c n hp hc _).mem⟩⟩⟩
    · rw [e, hpkt, hd]
      rfl
    · rw [e, hpkt, hd]
      have hr : streamRoom (packetBegun s1 c n st pos h w) c = false := hr
      dsimp only
      rw [hr]
      rfl
    · rw [e, hpkt, hd]
      have hr : streamRoom (packetBegun s1 c n st pos h w) c = true := hr
      dsimp only
      rw [hr]
      rfl
  · intro s cyc ns rest hf s0
    exact ⟨fun _ ha => step_turn hf ha, fun _ ha => step_turn hf ha, fun _ ha => step_turn hf ha, fun _ _ ha => step_turn hf ha⟩

end Sys2Proof.Machine
end

section
/-! PROOF. Pickers and bundles (R18, R20, R23, R100): what a fetch of a clause leaves as it is, how a clause is issued, and the
obligation. -/
namespace Sys2Proof.Machine
open Sys2Proof

/-! ### Fetching changes no thread and no team (R93, R112, R304) -/

/-- Two states with the same threads, teams and launches, and the same cores excluded. -/
structure SameThreads (s t : State) : Prop where
  threads : t.threads = s.threads
  teams : t.teams = s.teams
  launches : t.launches = s.launches
  cexcl : t.hub.cexcl = s.hub.cexcl

theorem SameThreads.refl (s : State) : SameThreads s s := ⟨rfl, rfl, rfl, rfl⟩
theorem SameThreads.trans {s t u : State} (h1 : SameThreads s t) (h2 : SameThreads t u) : SameThreads s u :=
  ⟨h2.threads.trans h1.threads, h2.teams.trans h1.teams, h2.launches.trans h1.launches, h2.cexcl.trans h1.cexcl⟩

theorem poke_threads (s : State) (off : Nat) (l : List Byte) (p : Bool) : SameThreads s (s.poke off l p) := by
  unfold State.poke
  split <;> exact ⟨rfl, rfl, rfl, rfl⟩

theorem raise_threads (s : State) (v : Nat) : SameThreads s (raise s v) := by
  unfold raise
  dsimp only
  split <;> exact ⟨rfl, rfl, rfl, rfl⟩

theorem mcRecord_threads (s : State) (sev kind uclass unit : Nat) (launch : Word) (addr : Nat) :
    SameThreads s (mcRecord s sev kind uclass unit launch addr) := by
  unfold mcRecord putCheck
  split
  · exact .refl s
  · split
    · refine .trans ?_ (raise_threads _ 64)
      exact ⟨(poke_threads s _ _ _).threads, (poke_threads s _ _ _).teams, (poke_threads s _ _ _).launches, rfl⟩
    · exact ⟨rfl, rfl, rfl, rfl⟩

theorem recordLost_threads (s : State) (off : Nat) (ls : List Nat) : SameThreads s (recordLost s off ls) := by
  unfold recordLost
  induction ls generalizing s with
  | nil => exact .refl s
  | cons l ls ih => exact (mcRecord_threads s ..).trans (ih _)

theorem read_threads (s : State) (off n : Nat) : SameThreads s (s.read off n).1 := by
  unfold State.read
  split
  · exact .refl s
  · exact recordLost_threads s off _

theorem cohere_threads (s : State) (offs : List Nat) : SameThreads s (cohere s offs).1 := by
  unfold cohere
  dsimp only
  split
  · exact ⟨rfl, rfl, rfl, rfl⟩
  · split <;> exact ⟨rfl, rfl, rfl, rfl⟩

theorem startWalk_threads (s : State) (t : Thread) (l : Launch) (va : DWord) (flags : Nat) : SameThreads s (startWalk s t l va flags) := by
  unfold startWalk
  dsimp only
  split
  · exact .refl s
  · split <;> exact ⟨rfl, rfl, rfl, rfl⟩

theorem demandFault_threads (s : State) (ctx : Nat) (va : DWord) (agent kind level flags : Nat) (src launch : Word) :
    SameThreads s (demandFault s ctx va agent kind level flags src launch) := by
  unfold demandFault
  split <;> exact ⟨rfl, rfl, rfl, rfl⟩

theorem keepXlate_threads (s : State) (core ctx va : Nat) (x : Xlate) : SameThreads s (keepXlate s core ctx va x) := by
  unfold keepXlate
  split <;> exact ⟨rfl, rfl, rfl, rfl⟩

theorem locate_threads (s : State) (t : Thread) (a : Acc) (va : DWord) (n : Nat) : SameThreads s (locate s t a va n).1 := by
  unfold locate
  dsimp only
  cases findXlate s t.core (s.launchOfThread t).ctx (vaKey va) with
  | none =>
    dsimp only
    iterate 5 refine (iteInduction (motive := fun x : State × Look => SameThreads s x.1) (fun _ => .refl s) fun _ => ?_)
    exact startWalk_threads ..
  | some x =>
    dsimp only
    iterate 4 refine (iteInduction (motive := fun x : State × Look => SameThreads s x.1) (fun _ => .refl s) fun _ => ?_)
    split
    · exact demandFault_threads ..
    · split <;> exact keepXlate_threads ..

theorem fetchWord_threads (s : State) (t : Thread) (fresh : Bool) (a : DWord) : SameThreads s (fetchWord s t fresh false a).1 := by
  unfold fetchWord
  dsimp only
  generalize (if fresh = true then none else (s.core t.core).icache.find? fun e => e.1 == (s.launchOfThread t).ctx && e.2.1 == a &&& ~~~(15 : DWord)) = hit
  cases hit with
  | some e => exact .refl s
  | none =>
    simp only
    split
    · exact .refl s
    have h1 : SameThreads s (fetchSpot s t false a).1 := locate_threads ..
    split
    next s1 off hl =>
      rw [hl] at h1
      simp only [Bool.false_eq_true, ↓reduceIte]
      split
      · exact h1
      have h2 := cohere_threads s1 [off / 16 * 16]
      split
      next s2 hc =>
        rw [hc] at h2
        exact h1.trans h2
      next s2 hc =>
        rw [hc] at h2
        have h3 := (h1.trans h2).trans (read_threads s2 (off / 16 * 16) 16)
        split
        · exact h3
        · exact h3.trans ⟨rfl, rfl, rfl, rfl⟩
    next s1 _ _ hl =>
      rw [hl] at h1
      exact h1
    next s1 _ hl =>
      rw [hl] at h1
      exact h1
    next s1 _ _ _ hl =>
      rw [hl] at h1
      exact h1

theorem fetchWords_threads (t : Thread) (fresh : Bool) (n : Nat) (s : State) (a : DWord) : SameThreads s (fetchWords t fresh false n s a).1 := by
  induction n generalizing s a with
  | zero => exact .refl s
  | succ n ih =>
    unfold fetchWords
    have h1 := fetchWord_threads s t fresh a
    split
    next s1 w hw =>
      rw [hw] at h1
      have h2 := h1.trans (ih s1 (a + 4))
      split
      next s2 ws hws =>
        rw [hws] at h2
        exact h2
      · exact h2
    · exact h1

/-- A clause fetched for a thread outside scout: the threads and teams are as they were. -/
theorem fetchClause_threads (s : State) (t : Thread) (fresh : Bool) (h : DWord) : SameThreads s (fetchClause s t fresh false h).1 := by
  unfold fetchClause
  have h1 := fetchWord_threads s t fresh h
  split
  next s1 hd hw =>
    rw [hw] at h1
    split
    · exact h1
    have h2 := h1.trans (fetchWords_threads t fresh (hdrN hd) s1 (h + 4))
    split
    next s2 ws hws =>
      rw [hws] at h2
      split <;> exact h2
    · exact h2
  · exact h1

end Sys2Proof.Machine
end

section
/-! PROOF. Forming, chaining and leaving bundles (R20, R23, R100), and the obligation. -/
namespace Sys2Proof.Machine
open Sys2Proof

theorem mem_orderIn {α : Type} {le : α → α → Bool} {x y : α} {l : List α} : y ∈ orderIn le x l ↔ y = x ∨ y ∈ l := by
  induction l with
  | nil => simp [orderIn]
  | cons z l ih =>
    unfold orderIn
    split
    · simp
    · simp only [List.mem_cons, ih]
      tauto

theorem mem_ordered {α : Type} {le : α → α → Bool} {y : α} {l : List α} : y ∈ ordered l le ↔ y ∈ l := by
  induction l with
  | nil => simp [ordered]
  | cons z l ih =>
    rw [show ordered (z :: l) le = orderIn le z (ordered l le) from rfl, mem_orderIn, ih, List.mem_cons]

/-! ### The pickers of a core -/

theorem Core.pick_setPick (c : Core) {p q : Nat} (hp : p < 2) (hq : q < 2) (b : Option Bundle) :
    (c.setPick p b).pick q = if q = p then b else c.pick q := by
  have h : (p = 0 ∨ p = 1) ∧ (q = 0 ∨ q = 1) := by omega
  obtain ⟨rfl | rfl, rfl | rfl⟩ := h <;> rfl

@[simp] theorem Core.setPick_out (c : Core) (p : Nat) (b : Option Bundle) : (c.setPick p b).out = c.out := by
  unfold Core.setPick
  split <;> rfl

/-! ### A clause is issued at its header (R20, R314) -/

/-- The bundle that executes a clause from its first word. -/
def headerBundle (s : State) (core : Nat) (x : Thread) (ts : List Thread) (h : Word) (ws : List Word) (n : Nat) : Bundle :=
  { threads := ts.map (·.uid), addr := x.pc, hdr := h, words := ws, pos := 1, exe := ((s.core core).exes + 1) * 512 + core
    ipos := ((List.range 1).filter fun i => 1 ≤ i && !(contAt h i)).length
    todo := (ordered ts fun x y => x.slot ≤ y.slot).map (·.uid), chain := n, scouting := x.inEpisode }

/-- A member of the bundle stands inside the clause, at its first instruction. -/
def Thread.entered (t : Thread) (b : Bundle) : Thread :=
  { t with mid := some b.addr, pc := b.addr + BitVec.ofNat 64 (4 * 1), ipos := b.ipos, exe := if t.mid.isSome && t.exe != 0 then t.exe else b.exe }

theorem issueClause_eq {s : State} {core p : Nat} {x : Thread} (hm : x.mid = none) (ts : List Thread) (h : Word) (ws : List Word) (n : Nat) :
    let b := headerBundle s core x ts h ws n
    issueClause s core p x ts h ws n =
      { s.setCore core ({ s.core core with exes := (s.core core).exes + 1, issued := s.cycle }.setPick p (some b)) with
        threads := modWhere (fun t => b.threads.contains t.uid) (fun t => t.entered b) s.threads } := by
  unfold issueClause
  simp only [hm, Option.getD_none, Option.isSome_none, Bool.false_and, Bool.false_eq_true, ↓reduceIte]
  rfl

/-- The bundle stands at the picker, and each of its members at the clause's first instruction. -/
theorem issueClause_spec {s : State} {core p : Nat} (hp : p < 2) {x : Thread} (hm : x.mid = none) (ts : List Thread) (h : Word) (ws : List Word) (n : Nat) :
    let t := issueClause s core p x ts h ws n
    let b := headerBundle s core x ts h ws n
    (t.core core).pick p = some b ∧ t.mem = s.mem ∧
      ∀ v ∈ b.threads, s.hasThread v = true → (t.thread v).pc = x.pc + 4 ∧ (t.thread v).mid = some x.pc := by
  intro t b
  have e : t = _ := issueClause_eq hm ts h ws n
  refine ⟨?_, (congrArg State.mem e :), fun v hv hs => ?_⟩
  · have hc : t.core core = { s.core core with exes := (s.core core).exes + 1, issued := s.cycle }.setPick p (some b) := by
      rw [e]
      exact (State.core_setCore s core core _).trans (if_pos rfl)
    rw [hc, Core.pick_setPick _ hp hp, if_pos rfl]
  · have ht : t.thread v = (s.thread v).entered b := by
      rw [e]
      unfold modWhere
      refine (thread_map (s := s.setCore core _) (f := fun t => if b.threads.contains t.uid = true then t.entered b else t)
        (fun y => by split <;> rfl) hs).trans (if_pos ?_)
      show b.threads.contains (s.thread v).uid = true
      rw [State.thread_uid hs]
      exact List.contains_iff_mem.mpr hv
    rw [ht]
    exact ⟨rfl, rfl⟩

/-! ### A picker without a clause in progress (R20) -/

/-- A picker that may pick: picker 0, or picker 1 while picker 0 executes a clause. -/
def PicksFirst (s : State) (core p : Nat) : Prop := p = 0 ∨ atBoundary s core 0 = false

theorem bundlePick_eq {s : State} {core p : Nat} (hf : PicksFirst s core p) (hn : (s.core core).pick p = none) (fresh : Bool) :
    exec (.bundlePick core p fresh) s = .next (pickOn s core p fresh) := by
  have hb : atBoundary s core p = true := by simp [atBoundary, hn]
  have hq : (p != 0 && atBoundary s core 0) = false := by rcases hf with rfl | h <;> simp [*]
  show execBundlePick core p fresh s = _
  unfold execBundlePick
  rw [hb, hq]
  rfl

theorem bundlePick_busy {s : State} {core p : Nat} {b : Bundle} (hb : (s.core core).pick p = some b) (hf : b.finished s = false) (fresh : Bool) :
    exec (.bundlePick core p fresh) s = .next s := by
  show execBundlePick core p fresh s = _
  simp [execBundlePick, atBoundary, hb, hf]

theorem clauseChain_busy {s : State} {core p : Nat} {b : Bundle} (hb : (s.core core).pick p = some b)
    (h : b.finished s = false ∨ hdrYld b.hdr = true ∨ b.yields = true ∨ 4 ≤ b.chain) (fresh : Bool) : exec (.clauseChain core p fresh) s = .next s := by
  show execClauseChain core p fresh s = _
  unfold execClauseChain
  simp only [hb]
  rcases h with h | h | h | h <;> simp [h]

/-- The members of a new bundle are the leader and the threads that join it (R20). -/
def members (s : State) (h : Word) (x : Thread) (all : List Thread) : List Thread := (x :: all.filter fun t => t.uid != x.uid && joins s h x t).take 64

theorem pickFrom_leader {s s1 : State} {core p : Nat} {fresh : Bool} {x : Thread} {xs all : List Thread} {h : Word} {ws : List Word}
    (hm : x.mid = none) (hsc : x.scout = none) (hf : fetchClause s x fresh false x.pc = (s1, .ok (h :: ws))) (hw : waitsMet h x = true) :
    pickFrom core p fresh all s (x :: xs) = issueClause s1 core p x (members s1 h x all) h ws 1 := by
  have hin : x.inEpisode = false := by simp [Thread.inEpisode, hsc]
  have hi : mayIssue h x = true := by simp [mayIssue, hw]
  unfold pickFrom
  rw [hin, hm]
  simp only [Option.getD_none, hf, hi]
  rfl

/-- With no bundle to return, a picker forms one. -/
theorem pickOn_forms {s : State} {core p : Nat} (hr : returning (s.setCore core ((s.core core).setPick p none)) core = none) (fresh : Bool) :
    pickOn s core p fresh = pickFrom core p fresh (candidates s core) (s.setCore core ((s.core core).setPick p none)) (candidates s core) := by
  unfold pickOn
  simp only [hr]

/-- A bundle whose eldest thread is older than every thread that may issue returns to the picker as it was (R100). -/
theorem pickOn_returns {s : State} {core p : Nat} (hp : p < 2) {b : Bundle} (ho : (s.core core).out = [b])
    (hh : ∀ u ∈ b.todo, stillHeld s (s.thread u) = false)
    (ha : ∀ x ∈ candidates s core, readyNow (s.setCore core ((s.core core).setPick p none)) x = true →
      older (b.eldest (s.setCore core ((s.core core).setPick p none))) x = true) (fresh : Bool) :
    let t := pickOn s core p fresh
    t = { s with cores := t.cores } ∧ (t.core core).pick p = some b ∧ (t.core core).out = [] := by
  generalize hs0 : s.setCore core ((s.core core).setPick p none) = s0 at ha
  have hc0 : s0.core core = (s.core core).setPick p none := by rw [← hs0]; exact (State.core_setCore ..).trans (if_pos rfl)
  have hr : returning s0 core = some b := by
    have hall : (b.todo.all fun u => !(stillHeld s0 (s0.thread u))) = true := by
      rw [List.all_eq_true]
      intro u hu
      rw [← hs0]
      exact Bool.not_eq_true' _ ▸ hh u hu
    unfold returning
    rw [hc0, Core.setPick_out, ho]
    simp only [List.filter_cons, hall, ↓reduceIte, List.filter_nil, List.foldl_cons, List.foldl_nil]
  have hany : ((candidates s core).filter (readyNow s0)).any (fun x => !(older (b.eldest s0) x)) = false := by
    rw [List.any_eq_false]
    intro x hx
    obtain ⟨hx, hready⟩ := List.mem_filter.mp hx
    simp [ha x hx hready]
  have e : pickOn s core p fresh =
      s0.setCore core ({ s0.core core with out := (s0.core core).out.filter fun x => x.exe != b.exe }.setPick p (some b)) := by
    unfold pickOn
    simp only [hs0, hr, hany]
    rfl
  have hc : (pickOn s core p fresh).core core = { s0.core core with out := (s0.core core).out.filter fun x => x.exe != b.exe }.setPick p (some b) := by
    rw [e]
    exact (State.core_setCore ..).trans (if_pos rfl)
  refine ⟨?_, ?_, ?_⟩
  · rw [e, ← hs0]
    rfl
  · rw [hc, Core.pick_setPick _ hp hp, if_pos rfl]
  · rw [hc, Core.setPick_out]
    show (s0.core core).out.filter _ = []
    rw [hc0, Core.setPick_out, ho]
    simp

/-- A thread of a bundle to be: ready on the core at the leader's address, of the leader's launch. -/
def Joined (s : State) (core : Nat) (x y : Thread) : Prop :=
  y ∈ s.threads ∧ y.pc = x.pc ∧ y.core = core ∧ y.status = .ready ∧ (s.teamOf y).launch = (s.teamOf x).launch

theorem pickable_parts {s : State} {core : Nat} {busy : List Nat} {t : Thread} (h : pickable s core busy t = true) : t.core = core ∧ t.status = .ready := by
  unfold pickable at h
  simp only [Bool.and_eq_true, beq_iff_eq] at h
  tauto

theorem candidates_parts {s : State} {core : Nat} {t : Thread} (h : t ∈ candidates s core) : t ∈ s.threads ∧ t.core = core ∧ t.status = .ready := by
  obtain ⟨hm, hp⟩ := List.mem_filter.mp (mem_ordered.mp h)
  exact ⟨hm, pickable_parts hp⟩

theorem candidate_joins {s s1 : State} (hs : SameThreads s s1) {core : Nat} {h : Word} {x t : Thread} (hc : t ∈ candidates s core) (hj : joins s1 h x t = true) :
    Joined s core x t := by
  obtain ⟨hm, hcore, hst⟩ := candidates_parts hc
  have hteam : ∀ y, s1.teamOf y = s.teamOf y := fun y => by unfold State.teamOf State.team; rw [hs.teams]
  unfold joins at hj
  simp only [Bool.and_eq_true, beq_iff_eq, hteam] at hj
  obtain ⟨⟨⟨⟨hl, hpc⟩, -⟩, -⟩, -⟩ := hj
  exact ⟨hm, hpc, hcore, hst, hl⟩

/-- A clause fetched for a leader and issued to it and the threads that join it (R20, R23). -/
theorem issued_spec {s s0 s1 : State} {core p n : Nat} (hp : p < 2) {x : Thread} (hm : x.mid = none) (hs0 : SameThreads s s0) (hs1 : SameThreads s0 s1)
    {ts : List Thread} {h : Word} {ws : List Word} (hx : x ∈ ts) (hlen : ts.length ≤ 64) (hts : ∀ y ∈ ts, Joined s core x y) :
    let t := issueClause s1 core p x ts h ws n
    let b := headerBundle s1 core x ts h ws n
    (t.core core).pick p = some b ∧ t.mem = s1.mem ∧ b.addr = x.pc ∧ b.hdr = h ∧ b.words = ws ∧ b.pos = 1 ∧ b.chain = n ∧ x.uid ∈ b.threads ∧
      b.threads.length ≤ 64 ∧ (∀ v ∈ b.threads, ∃ y ∈ s.threads, y.uid = v ∧ y.pc = x.pc ∧ y.core = core ∧ y.status = .ready ∧ (s.teamOf y).launch = (s.teamOf x).launch) ∧
      ∀ v ∈ b.threads, (t.thread v).pc = x.pc + 4 ∧ (t.thread v).mid = some x.pc := by
  intro t b
  obtain ⟨hpick, hmem, hin⟩ := issueClause_spec (s := s1) (core := core) hp hm ts h ws n
  have hmem' : ∀ v ∈ b.threads, ∃ y ∈ s.threads, y.uid = v ∧ y.pc = x.pc ∧ y.core = core ∧ y.status = .ready ∧ (s.teamOf y).launch = (s.teamOf x).launch := by
    intro v hv
    obtain ⟨y, hy, rfl⟩ := List.mem_map.mp hv
    obtain ⟨h1, h2, h3, h4, h5⟩ := hts y hy
    exact ⟨y, h1, rfl, h2, h3, h4, h5⟩
  refine ⟨hpick, hmem, rfl, rfl, rfl, rfl, rfl, List.mem_map_of_mem hx, (List.length_map ..).trans_le hlen, hmem', fun v hv => hin v hv ?_⟩
  obtain ⟨y, hy, hyv, -⟩ := hmem' v hv
  unfold State.hasThread
  rw [hs1.threads, hs0.threads]
  exact List.any_eq_true.mpr ⟨y, hy, by simp [hyv]⟩

/-- The threads that a chained bundle goes on with: its own, and those that join it (R23). -/
def chained (s s1 : State) (core : Nat) (b : Bundle) (h : Word) (x : Thread) : List Thread :=
  (b.threads.map s.thread ++ (candidates s core).filter fun t => !(b.threads.contains t.uid) && joins s1 h x t).take 64

section
variable {s : State} {core p : Nat} {b : Bundle} {u : Nat} {us : List Nat} {h : Word}
  (hready : ∀ v ∈ b.threads, pickable s core (taken s core) (s.thread v) = true ∧ s.hasThread v = true ∧ (s.thread v).pc = (s.thread u).pc ∧
    (s.thread v).mid = none ∧ (s.thread v).inEpisode = false ∧ waitsMet h (s.thread v) = true)
include hready

/-- A bundle that ended its clause goes on with the next one, which its members may issue (R23). -/
theorem clauseChain_eq {s1 : State} {ws : List Word} {fresh : Bool} (hb : (s.core core).pick p = some b)
    (hf : b.finished s = true) (hy : hdrYld b.hdr = false) (hyl : b.yields = false) (hch : b.chain < 4) (hth : b.threads = u :: us)
    (hold : ∀ y ∈ candidates s core, readyNow s y = true → s.cycle < y.stamp + 1024)
    (hfetch : fetchClause (s.setCore core ((s.core core).setPick p none)) (s.thread u) fresh false (s.thread u).pc = (s1, .ok (h :: ws))) :
    exec (.clauseChain core p fresh) s = .next (issueClause s1 core p (s.thread u) (chained s s1 core b h (s.thread u)) h ws (b.chain + 1)) := by
  have hx : (b.threads.map s.thread).headD {} = s.thread u := by rw [hth]; rfl
  have hne : (b.threads.map s.thread == []) = false := by rw [hth]; rfl
  have hin : (s.thread u).inEpisode = false := (hready u (by rw [hth]; exact List.mem_cons_self)).2.2.2.2.1
  have hall : ((b.threads.map s.thread).all fun t => pickable s core (taken s core) t && t.pc == (s.thread u).pc && t.mid.isNone && t.inEpisode == false) = true := by
    rw [List.all_map, List.all_eq_true]
    intro v hv
    obtain ⟨h1, -, h3, h4, h5, -⟩ := hready v hv
    simp [h1, h3, h4, h5]
  have hany : ((candidates s core).any fun t => readyNow s t && t.stamp + 1024 ≤ s.cycle) = false := by
    rw [List.any_eq_false]
    intro y hy
    cases hr : readyNow s y with
    | false => simp
    | true => simpa using hold y hy hr
  have hw : ((b.threads.map s.thread).all (waitsMet h)) = true := by
    rw [List.all_map, List.all_eq_true]
    exact fun v hv => (hready v hv).2.2.2.2.2
  show execClauseChain core p fresh s = _
  unfold execClauseChain
  simp only [hb, hx, hne, hall, hany, hf, hy, hyl, Nat.not_le.mpr hch, decide_false, Bool.not_true, Bool.or_self, Bool.false_eq_true, ↓reduceIte, hin, hfetch, hw]
  rfl

theorem chained_joined {s1 : State} (hs1 : SameThreads s s1)
    (hl : ∀ v ∈ b.threads, (s.teamOf (s.thread v)).launch = (s.teamOf (s.thread u)).launch) :
    ∀ y ∈ chained s s1 core b h (s.thread u), Joined s core (s.thread u) y := by
  intro y hy
  rcases List.mem_append.mp (List.mem_of_mem_take hy) with hy | hy
  · obtain ⟨v, hv, rfl⟩ := List.mem_map.mp hy
    obtain ⟨h1, h2, h3, -⟩ := hready v hv
    obtain ⟨hcore, hst⟩ := pickable_parts h1
    exact ⟨State.thread_mem h2, h3, hcore, hst, hl v hv⟩
  · obtain ⟨hc, hj⟩ := List.mem_filter.mp hy
    exact candidate_joins hs1 hc (Bool.and_eq_true _ _ ▸ hj).2

omit hready in
theorem mem_chained (s1 : State) (hlen : b.threads.length ≤ 64) {v : Nat} (hv : v ∈ b.threads) (x : Thread) : s.thread v ∈ chained s s1 core b h x := by
  unfold chained
  rw [List.take_append]
  refine List.mem_append_left _ ?_
  rw [List.take_of_length_le (by simpa using hlen)]
  exact List.mem_map_of_mem hv

end

/-- Leaving the picker: a bundle with a member that a long wait holds does, another stays (R100). -/
theorem bundleLeavePicker_eq {s : State} {core p : Nat} {b : Bundle} (hb : (s.core core).pick p = some b) :
    exec (.bundleLeavePicker core p) s = .next (
      if b.todo.any fun u => (s.thread u).hold.any Hold.leaves then s.setCore core ({ s.core core with out := (s.core core).out ++ [b] }.setPick p none) else s) := by
  show execBundleLeavePicker core p s = _
  unfold execBundleLeavePicker
  simp only [hb]

/-- Settles O36: a busy picker, a new bundle, a returning one, a chained one, and one that leaves. -/
theorem pickersFormBundles : Obligations.PickersFormBundles := by
  intro s core p fresh hp at_ s0 first issued
  have hs0 : SameThreads s s0 := ⟨rfl, rfl, rfl, rfl⟩
  refine ⟨fun b hb hf => ⟨bundlePick_busy hb hf fresh, clauseChain_busy hb (.inl hf) fresh⟩, ?_, ?_, ?_,
    fun b hb hf h => clauseChain_busy hb (.inr h) fresh, ?_⟩
  · intro x xs h ws s1 hfirst hn hr hcs hm hsc hfetch hw
    have hs1 : SameThreads s0 s1 := by
      have h1 := fetchClause_threads s0 x fresh x.pc
      rw [hfetch] at h1
      exact h1
    have e : exec (.bundlePick core p fresh) s = .next (issueClause s1 core p x (members s1 h x (x :: xs)) h ws 1) := by
      rw [bundlePick_eq hfirst hn, pickOn_forms hr, hcs, pickFrom_leader hm hsc hfetch hw]
    have hxc : x ∈ candidates s core := by rw [hcs]; exact List.mem_cons_self
    refine ⟨_, headerBundle s1 core x (members s1 h x (x :: xs)) h ws 1, e,
      issued_spec hp hm hs0 hs1 (List.mem_cons_self (l := List.take 63 _)) (List.length_take_le _ _) fun y hy => ?_⟩
    rcases List.mem_cons.mp (List.mem_of_mem_take hy) with rfl | hy
    · obtain ⟨h1, h2, h3⟩ := candidates_parts hxc
      exact ⟨h1, rfl, h2, h3, rfl⟩
    · obtain ⟨hy, hj⟩ := List.mem_filter.mp hy
      rw [← hcs] at hy
      exact candidate_joins (hs0.trans hs1) hy (Bool.and_eq_true _ _ ▸ hj).2
  · intro b hfirst hn ho hh ha
    exact ⟨_, bundlePick_eq hfirst hn fresh, pickOn_returns hp ho hh ha fresh⟩
  · intro b u us h ws s1 hb hf hy hyl hch hth hlen hl hready hold hsc hfetch
    have hu : u ∈ b.threads := by rw [hth]; exact List.mem_cons_self
    have hs1 : SameThreads s0 s1 := by
      have h1 := fetchClause_threads s0 (s.thread u) fresh (s.thread u).pc
      rw [hfetch] at h1
      exact h1
    have hin := fun v (hv : v ∈ b.threads) => mem_chained (s := s) (core := core) (h := h) s1 hlen hv (s.thread u)
    refine ⟨_, headerBundle s1 core (s.thread u) (chained s s1 core b h (s.thread u)) h ws (b.chain + 1),
      clauseChain_eq hready hb hf hy hyl hch hth hold hfetch,
      issued_spec hp (hready u hu).2.2.2.1 hs0 hs1 (hin u hu) (List.length_take_le _ _) (chained_joined hready (hs0.trans hs1) hl), fun v hv => ?_⟩
    have := List.mem_map_of_mem (f := Thread.uid) (hin v hv)
    rwa [State.thread_uid (hready v hv).2.1] at this
  · intro b hb leaves
    have hleaves : ∀ u, (s.thread u).hold.any Hold.leaves = leaves u := by
      intro u
      simp only [leaves]
      rcases (s.thread u).hold with _ | hold
      · rfl
      · cases hold <;> rfl
    refine ⟨fun ⟨u, hu, hlv⟩ => ?_, fun hstay => ?_⟩
    · have hany : (b.todo.any fun u => (s.thread u).hold.any Hold.leaves) = true := List.any_eq_true.mpr ⟨u, hu, (hleaves u).trans hlv⟩
      refine ⟨_, (bundleLeavePicker_eq hb).trans (congrArg _ (if_pos hany)), rfl, ?_⟩
      rw [State.core_setCore, if_pos rfl, Core.pick_setPick _ hp hp, if_pos rfl, Core.setPick_out]
      exact ⟨rfl, rfl⟩
    · have hany : ¬ (b.todo.any fun u => (s.thread u).hold.any Hold.leaves) = true := by
        rw [Bool.not_eq_true, List.any_eq_false]
        intro u hu
        rw [hleaves, hstay u hu]
        exact Bool.false_ne_true
      exact (bundleLeavePicker_eq hb).trans (congrArg _ (if_neg hany))

end Sys2Proof.Machine
end

section
/-! PROOF. Service calls and breakpoints (R251, R252, R336, R460): reaching the service area, writing the entry, parking, and the
obligation. -/
namespace Sys2Proof.Machine
open Sys2Proof

/-! ### Writes where nothing is poisoned and every link is up (R269, R284) -/

theorem markGranules_nil (off n : Nat) : markGranules [] off n false = [] := by
  unfold markGranules
  generalize List.range ((off + n + 15) / 16 - off / 16) = l
  refine (foldl_fixed fun i _ => ?_)
  simp [ndel]

/-- A write of memory that is not poisoned nor behind a link that is down changes bytes, and notes what it must. -/
theorem write_clean {s : State} (hp : s.poison = []) (hc : s.hub.cxldn = []) (off : Nat) (l : List Byte) :
    ∃ dirty noted, s.write off l false = { s with mem := putBytes s.mem off l, dirty, noted } := by
  rw [State.write_eq_poke hc]
  unfold State.poke
  rw [lost_eq_false hc]
  simp only [hp, markGranules_nil]
  exact ⟨_, _, by rw [← hp]; rfl⟩

/-! ### Reaching the service area (R251, R252) -/

section
variable {s : State}

/-- Nothing holds an agent's access: no lock, no copy that waits, no logged store. -/
structure Unlocked (s : State) : Prop where
  log : ∀ x ∈ s.teams, x.log = []
  holders : lockHolders s = []
  far : s.farLocks = []
  waiting : waitingSnapshots s = []

theorem Unlocked.agentHeld (h : Unlocked s) {off n : Nat} (h1 : flipping s off = false) (h2 : flipping s (off + n - 1) = false) (write : Bool) :
    agentHeld s off n write = (s, false) := by
  have hlog : loggedOver s off n = false := by
    unfold loggedOver
    rw [List.any_eq_false]
    intro t ht
    rw [h.log t ht]
    simp
  have hlock : ∀ ls, locksHit s ls write = none := by
    intro ls
    unfold locksHit snapshotHit
    simp only [h.holders, h.far, h.waiting, List.findSome?_nil, Option.map_none, ite_self]
    exact List.findSome?_eq_none_iff.mpr fun _ _ => rfl
  unfold Machine.agentHeld
  simp only [h1, h2, hlog, Bool.or_self, Bool.false_eq_true, ↓reduceIte, lockWait, hlock]

theorem cohere_device {offs : List Nat} (h : ∀ o ∈ offs, hostBias s o = false) : cohere s offs = (s, true) := by
  have hf : offs.filter (hostBias s) = [] := List.filter_eq_nil_iff.mpr fun o ho => by simp [h o ho]
  unfold cohere
  simp [hf]

theorem Unlocked.agentWaits (h : Unlocked s) {off n : Nat} (h1 : flipping s off = false) (h2 : flipping s (off + n - 1) = false)
    (h3 : hostBias s off = false) (h4 : hostBias s (off + n - 1) = false) (write : Bool) : agentWaits s off n write = (s, false) := by
  unfold Machine.agentWaits
  simp only [h.agentHeld h1 h2, cohere_device (s := s) (offs := [off, off + n - 1]) (by simp [h3, h4])]
  rfl

/-- A place of n bytes at an address of a context, mapped for writing for a die, in memory of device bias without a flip. -/
def Reaches (s : State) (die ctx : Nat) (va : DWord) (off n : Nat) : Prop :=
  canonical va = true ∧ flipping s off = false ∧ flipping s (off + n - 1) = false ∧ hostBias s off = false ∧ hostBias s (off + n - 1) = false ∧
    ∃ x, findDie s die ctx (vaKey va) = some x ∧ x.w = true ∧ spotOf s (x.phys (vaKey va)) = some (.mem off)

theorem Unlocked.reachService (h : Unlocked s) {t : Thread} (ht : t.hold = none) {va : DWord} {off n : Nat}
    (hr : Reaches s (dieOf t.core) (s.launchOfThread t).ctx va off n) : reachService s t va n = (s, .ok off) := by
  obtain ⟨hva, h1, h2, h3, h4, x, hx, hw, hs⟩ := hr
  have hlog : (logged s (s.launchOfThread t).ctx (faultPage va) != []) = false := by
    have : logged s (s.launchOfThread t).ctx (faultPage va) = [] := by
      unfold logged
      rw [List.flatMap_eq_nil_iff]
      intro y hy
      rw [h.log y hy]
      rfl
    simp [this]
  have htr : translateNow s (dieOf t.core) (s.launchOfThread t).ctx va true = (s, .ok (x.phys (vaKey va))) := by
    unfold translateNow
    simp [hlog, hx, hw]
  unfold Machine.reachService
  simp only [hva, ht, htr, hs, h.agentWaits h1 h2 h3 h4]
  rfl

/-- A call with its ring full changes nothing. -/
theorem Unlocked.callService_full (h : Unlocked s) {t : Thread} (ht : t.hold = none) {off : Nat}
    (hr : Reaches s (dieOf t.core) (s.launchOfThread t).ctx (serviceCounts (s.launchOfThread t).rcd) off 8)
    (hfull : 2 ^ (s.launchOfThread t).rcd.svlog ≤ (s.num off 4 + 2 ^ 32 - s.num (off + 4) 4) % 2 ^ 32) (pc : DWord) :
    callService s t pc = (s, .full) := by
  unfold callService
  simp only [h.reachService ht hr, hfull, ↓reduceIte]

/-- The state in which an entry of the ring has been written and the producer has grown. -/
def calledState (s : State) (t : Thread) (pc : DWord) (off eo : Nat) : State :=
  raise ((s.write eo (serviceEntry t (s.teamOf t) (s.launchOfThread t) pc) false).write off (bytesOf ((s.num off 4 + 1) % 2 ^ 32) 4) false)
    (4 * (s.launchOfThread t).ctx + 1)

theorem Unlocked.callService_entry (h : Unlocked s) {t : Thread} (ht : t.hold = none) {off eo : Nat}
    (hr : Reaches s (dieOf t.core) (s.launchOfThread t).ctx (serviceCounts (s.launchOfThread t).rcd) off 8)
    (he : Reaches s (dieOf t.core) (s.launchOfThread t).ctx (serviceAt (s.launchOfThread t).rcd (s.num off 4)) eo 128)
    (hroom : (s.num off 4 + 2 ^ 32 - s.num (off + 4) 4) % 2 ^ 32 < 2 ^ (s.launchOfThread t).rcd.svlog) (pc : DWord) :
    callService s t pc = (calledState s t pc off eo, .entry (s.num off 4 % 2 ^ (s.launchOfThread t).rcd.svlog)) := by
  unfold callService
  simp only [h.reachService ht hr, h.reachService ht he, Nat.not_le.mpr hroom, ↓reduceIte]
  rfl

end

theorem bytesOf_length (v n : Nat) : (bytesOf v n).length = n := by simp [bytesOf]

theorem serviceEntry_length (t : Thread) (tm : Team) (l : Launch) (pc : DWord) : (serviceEntry t tm l pc).length = 128 := by
  simp [serviceEntry, bytesOf, from_]
  rfl

theorem getLsbD_pending (p : BitVec 128) {v : Nat} (hv : v < 128) : (p ||| (1#128 <<< v)).getLsbD v = true := by
  simp [hv]

/-- An interrupt that is raised is pending; nothing else changes but what is sent to the host. -/
theorem raise_eq (s : State) (v : Nat) : ∃ sent, raise s v = { s with hub := { s.hub with hipend := s.hub.hipend ||| (1#128 <<< v) }, sent } := by
  unfold raise
  dsimp only
  split <;> exact ⟨_, rfl⟩

/-- The bytes, the marks and the interrupts after a call that wrote its entry. -/
theorem calledState_spec {s : State} (hp : s.poison = []) (hc : s.hub.cxldn = []) (t : Thread) (pc : DWord) (off eo : Nat) :
    let s1 := calledState s t pc off eo
    s1.poison = [] ∧ s1.hub.cxldn = [] ∧ s1.threads = s.threads ∧ s1.teams = s.teams ∧ s1.launches = s.launches ∧
      (4 * (s.launchOfThread t).ctx + 1 < 128 → s1.hub.hipend.getLsbD (4 * (s.launchOfThread t).ctx + 1) = true) ∧
      ∀ k, s1.byte k = if off ≤ k ∧ k < off + 4 then (bytesOf ((s.num off 4 + 1) % 2 ^ 32) 4).getD (k - off) 0
        else if eo ≤ k ∧ k < eo + 128 then (serviceEntry t (s.teamOf t) (s.launchOfThread t) pc).getD (k - eo) 0 else s.byte k := by
  intro s1
  have e : s1 = calledState s t pc off eo := rfl
  clear_value s1
  unfold calledState at e
  obtain ⟨d1, n1, e1⟩ := write_clean hp hc eo (serviceEntry t (s.teamOf t) (s.launchOfThread t) pc)
  rw [e1] at e
  obtain ⟨d2, n2, e2⟩ := write_clean (s := { s with mem := putBytes s.mem eo _, dirty := d1, noted := n1 }) hp hc off
    (bytesOf ((s.num off 4 + 1) % 2 ^ 32) 4)
  rw [e2] at e
  obtain ⟨sent, e3⟩ := raise_eq _ (4 * (s.launchOfThread t).ctx + 1)
  rw [e3] at e
  subst e
  refine ⟨hp, hc, rfl, rfl, rfl, fun hv => ?_, fun k => ?_⟩
  · exact getLsbD_pending _ hv
  · unfold State.byte
    simp only
    rw [tget_putBytes, tget_putBytes, serviceEntry_length, bytesOf_length]

/-! ### A thread parks (R19, R252) -/

theorem reachPages_memory (die ctx agent : Nat) (src launch : Word) (l : List DWord) {s : State} (hp : s.poison = []) (hc : s.hub.cxldn = []) :
    SameMemory s (reachPages s die ctx agent src launch l).1 := by
  induction l generalizing s with
  | nil => exact .refl s
  | cons v l ih =>
    unfold reachPages
    have h1 := translateNow_memory hp hc die ctx v true
    split
    next s1 _ ht =>
      rw [ht] at h1
      exact h1.trans (ih (h1.poison.trans hp) (h1.cxldn.trans hc))
    next s1 ht =>
      rw [ht] at h1
      exact h1
    next s1 kind level ht =>
      rw [ht] at h1
      exact h1.trans (demandFault_memory ..)

theorem reachPages_same {die ctx agent : Nat} {src launch : Word} {l : List DWord} {s s1 : State} {ok : Bool} (hp : s.poison = []) (hc : s.hub.cxldn = [])
    (h : reachPages s die ctx agent src launch l = (s1, ok)) : SameMemory s s1 := by
  have h1 := reachPages_memory die ctx agent src launch l hp hc
  rwa [h] at h1

/-- A thread after a change of every thread: changed, or none that is there. -/
theorem thread_map_or {f : Thread → Thread} (hu : ∀ x, (f x).uid = x.uid) (s : State) (v : Nat) :
    ({ s with threads := s.threads.map f } : State).thread v = f (s.thread v) ∨ ({ s with threads := s.threads.map f } : State).thread v = s.thread v := by
  unfold State.thread
  rw [find_map_uid hu]
  cases s.threads.find? (·.uid == v) with
  | none => exact .inr rfl
  | some x => exact .inl rfl

/-- Spilling a group, or finding that it must wait, leaves memory and interrupts, and of each thread all but its hold and whether it
is spilled. -/
theorem spillGroup_spec {s : State} (hp : s.poison = []) (hc : s.hub.cxldn = []) (tm : Team) (g : Nat) :
    let t := spillGroup s tm g
    t.mem = s.mem ∧ t.hub.hipend = s.hub.hipend ∧ ∀ v, t.thread v = { s.thread v with hold := (t.thread v).hold, spilled := (t.thread v).spilled } := by
  unfold spillGroup
  dsimp only
  split
  · split
    next s1 hr =>
      have h1 := reachPages_same hp hc hr
      refine ⟨h1.mem, h1.hipend, fun v => ?_⟩
      unfold modWhere
      have e0 : (s1.setTeam { s1.team tm.uid with spilled := tm.spilled ++ [g] }).thread v = s1.thread v := rfl
      rcases thread_map_or (f := fun t : Thread => if (t.team == tm.uid && groupOf t (s.launchOf tm.launch).rcd == g) = true then { t with spilled := true } else t)
        (fun x => by split <;> rfl) (s1.setTeam { s1.team tm.uid with spilled := tm.spilled ++ [g] }) v with e | e
      all_goals
        rw [e, e0, h1.thread v]
      split <;> rfl
    next s1 hr =>
      have h1 := reachPages_same hp hc hr
      exact ⟨h1.mem, h1.hipend, fun v => by rw [h1.thread v]⟩
  · exact ⟨rfl, rfl, fun _ => rfl⟩

/-- A thread that parks waits at its program counter; memory and interrupts stay (R19, R252). -/
theorem parkThread_spec {s : State} (hp : s.poison = []) (hc : s.hub.cxldn = []) {u : Nat} (hu : s.hasThread u = true) (entry : Option Nat) :
    let t := parkThread s u entry
    t.mem = s.mem ∧ t.hub.hipend = s.hub.hipend ∧ (t.thread u).status = .parked entry ∧ (t.thread u).pc = (s.thread u).pc ∧
      (t.thread u).mid = (s.thread u).mid ∧ (t.thread u).brk = (s.thread u).brk := by
  obtain ⟨h1, -⟩ := leaveClause_set_spec (s := s) (t := s.thread u) (t' := { s.thread u with status := .parked entry, hold := none, part := none })
    (State.thread_uid hu) hu
  have h1 := Thread.eq_of_unstamped h1
  obtain ⟨hmem, hpend, hth⟩ := spillGroup_spec (s := leaveClause (s.setThread { s.thread u with status := .parked entry, hold := none, part := none }) (s.thread u))
    (by rw [leaveClause_eq]; exact hp) (by rw [leaveClause_hub]; exact hc)
    ((leaveClause (s.setThread { s.thread u with status := .parked entry, hold := none, part := none }) (s.thread u)).teamOf (s.thread u))
    (groupOf (s.thread u) ((leaveClause (s.setThread { s.thread u with status := .parked entry, hold := none, part := none }) (s.thread u)).launchOfThread (s.thread u)).rcd)
  have hu := hth u
  rw [h1] at hu
  refine ⟨hmem.trans (leaveClause_mem ..), hpend.trans (congrArg Hub.hipend (leaveClause_hub ..)), (congrArg Thread.status hu :), (congrArg Thread.pc hu :),
    (congrArg Thread.mid hu :), (congrArg Thread.brk hu :)⟩

/-! ### The obligation -/

section
variable {s : State} {u : Nat} {c : Cur} {th : Thread} (h : Runs s u c th)
include h

theorem svc_eq : exec .svc s = .next (serviceCall (s.setThread th) th c c.addr) := by
  refine (threadOp_eq h _).trans ?_
  rw [endsScout_none h.scout]

theorem bkpt_eq : exec .bkpt s =
    .next (if (s.launchOfThread th).rcd.svlog = 0 then retireAt (s.setThread th) th c c.next true else serviceCall (s.setThread th) th c (c.addr + 1)) := by
  refine (threadOp_eq h _).trans ?_
  rw [endsScout_none h.scout]
  simp only [beq_iff_eq]
  rfl

omit h in
/-- A call of a launch without a service area ends it (R251). -/
theorem serviceCall_none (hr : Readable th (from_ 1 8)) (hl : (s.launchOfThread th).rcd.svlog = 0) (pc : DWord) :
    serviceCall (s.setThread th) th c pc = abortLaunch (stopForGood (s.setThread th) th) (s.launchOfThread th).uid 0x25 0 := by
  unfold serviceCall
  dsimp only
  rw [regChecks_none (fun r hx => (hr r hx).1) (fun r hx => (hr r hx).2)]
  exact if_pos (beq_iff_eq.mpr hl)

/-- A call with a service area, with no host store outstanding, whose entry has been written or whose ring is full (R251). -/
theorem serviceCall_made (hr : Readable th (from_ 1 8)) (hl : (s.launchOfThread th).rcd.svlog ≠ 0) (ho : th.hostOut = 0) (hlog : ∀ x ∈ s.teams, x.log = [])
    {pc : DWord} {s1 : State} :
    (∀ i, callService (s.setThread th) th pc = (s1, .entry i) →
      serviceCall (s.setThread th) th c pc = parkThread (s1.setThread { s1.thread u with pc := c.next, mid := none }) u (some i)) ∧
    (callService (s.setThread th) th pc = (s1, .full) →
      serviceCall (s.setThread th) th c pc = parkThread (s1.setThread { s1.thread u with pc := c.addr, mid := none, brk := pc != c.addr }) u none) := by
  have hpend : hostPending (s.setThread th) th = false := by
    have hteam : (s.team th.team).log = [] := by
      unfold State.team
      cases hf : s.teams.find? (·.uid == th.team) with
      | none => rfl
      | some x => exact hlog x (List.mem_of_find?_eq_some hf)
    unfold hostPending ownLogged
    rw [ho]
    show (false || (s.team th.team).log.any _) = false
    rw [hteam]
    rfl
  have hl : ((s.launchOfThread th).rcd.svlog == 0) = false := beq_eq_false_iff_ne.mpr hl
  have hchk := regChecks_none (c := c) (fun r hx => (hr r hx).1) (fun r hx => (hr r hx).2)
  refine ⟨fun i hcall => ?_, fun hcall => ?_⟩
  all_goals
    unfold serviceCall
    simp only [hchk, checked, hpend, hcall, h.uid]
    exact if_neg (by rw [show ((s.setThread th).launchOfThread th).rcd.svlog = (s.launchOfThread th).rcd.svlog from rfl, hl]; exact Bool.false_ne_true)

/-- BKPT without a service area goes on (R336). -/
theorem bkpt_passes (hl : (s.launchOfThread th).rcd.svlog = 0) :
    ∃ t, exec .bkpt s = .next t ∧ OnlyThread s t u ∧ (t.thread u).unstamped = (th.jumped c.next).unstamped := by
  obtain ⟨h1, h2⟩ := retireAt_spec (s := s.setThread th) (c := c) (pc := c.next) (tr := true) h.uid (by simpa using h.has) h.scout
  refine ⟨_, (bkpt_eq h).trans (congrArg _ (if_pos hl)), OnlyThread.of_set h.uid h2, h1.trans ?_⟩
  simp [Thread.goneTo, Thread.jumped]

/-- SVC, and BKPT in a launch with a service area, are the service call at their program counter. -/
theorem call_exec (hl : (s.launchOfThread th).rcd.svlog ≠ 0) {i : Instr} {pc : DWord}
    (hi : (i, pc) ∈ ([(.svc, c.addr), (.bkpt, c.addr + 1)] : List (Instr × DWord))) :
    exec i s = .next (serviceCall (s.setThread th) th c pc) := by
  simp only [List.mem_cons, Prod.mk.injEq, List.not_mem_nil, or_false] at hi
  rcases hi with ⟨rfl, rfl⟩ | ⟨rfl, rfl⟩
  · exact svc_eq h
  · exact (bkpt_eq h).trans (congrArg _ (if_neg hl))

/-- The thread parks as a change of it has left it. -/
theorem parked_spec {s1 : State} (hp : s1.poison = []) (hc : s1.hub.cxldn = []) (hs : s1.threads = (s.setThread th).threads) {t' : Thread} (ht : t'.uid = u)
    (entry : Option Nat) :
    let t := parkThread (s1.setThread t') u entry
    t.mem = s1.mem ∧ t.hub.hipend = s1.hub.hipend ∧ (t.thread u).status = .parked entry ∧ (t.thread u).pc = t'.pc ∧ (t.thread u).mid = t'.mid ∧
      (t.thread u).brk = t'.brk := by
  have hhas : s1.hasThread u = true := by
    unfold State.hasThread
    rw [hs]
    exact (State.hasThread_setThread s th u).trans h.has
  have hset : (s1.setThread t').thread u = t' := State.thread_setThread_same ht hhas
  obtain ⟨h1, h2, h3, h4, h5, h6⟩ := parkThread_spec (s := s1.setThread t') hp hc ((State.hasThread_setThread ..).trans hhas) entry
  rw [hset] at h4 h5 h6
  exact ⟨h1, h2, h3, h4, h5, h6⟩

end

/-- Settles O38: without a service area, with the ring full, and with room in it. -/
theorem serviceCallsAndBreakpoints : Obligations.ServiceCallsAndBreakpoints := by
  intro s u c th h l die reach
  refine ⟨fun hl => ⟨bkpt_passes h hl, fun hr => (svc_eq h).trans (congrArg _ (serviceCall_none hr hl _))⟩, ?_⟩
  intro hl hr hout hhold hlog hc hp hhold' hfar hwait off eo hoff prod cons heo i pc hi
  have hun : Unlocked (s.setThread th) := ⟨hlog, hhold', hfar, hwait⟩
  have e := call_exec h hl hi
  refine ⟨fun hfull => ?_, fun hroom => ?_⟩
  · have hcall := hun.callService_full hhold hoff hfull pc
    obtain ⟨hmem, -, hst, hpc, hmid, hbrk⟩ := parked_spec h (s1 := s.setThread th) hp hc rfl
      (t' := { (s.setThread th).thread u with pc := c.addr, mid := none, brk := pc != c.addr }) (by rw [h.thread_set]; exact h.uid) none
    refine ⟨_, e.trans (congrArg _ ((serviceCall_made h hr hl hout hlog).2 hcall)), fun k => ?_, hst, hpc, hmid, hbrk⟩
    exact congrArg (tget unlisted · k) hmem
  · have hcall := hun.callService_entry hhold hoff heo hroom pc
    obtain ⟨hp1, hc1, hth1, -, -, hpend1, hbyte1⟩ := calledState_spec (s := s.setThread th) hp hc th pc off eo
    have hth : (calledState (s.setThread th) th pc off eo).thread u = th := by
      unfold State.thread
      rw [hth1]
      exact h.thread_set
    obtain ⟨hmem, hpend, hst, hpc, hmid, -⟩ := parked_spec h hp1 hc1 hth1
      (t' := { (calledState (s.setThread th) th pc off eo).thread u with pc := c.next, mid := none }) (by rw [hth]; exact h.uid)
      (some (prod % 2 ^ l.rcd.svlog))
    refine ⟨_, e.trans (congrArg _ ((serviceCall_made h hr hl hout hlog).1 _ hcall)), hst, hpc, hmid, fun hv => ?_, fun k => ?_⟩
    · exact (congrArg (BitVec.getLsbD · _) hpend).trans (hpend1 hv)
    · exact (congrArg (tget unlisted · k) hmem).trans (hbyte1 k)

end Sys2Proof.Machine
end

section
/-! PROOF. The end of teams and launches (R17, R248, R260), cores that hang (R274, R275), and the obligation. -/
namespace Sys2Proof.Machine
open Sys2Proof

/-! ### What only ends threads and launches -/

/-- Every thread of a number has exited. -/
def AllExited (s : State) (v : Nat) : Prop := ∀ y ∈ s.threads, y.uid = v → y.status = .exited
/-- Every launch of a number is aborted. -/
def AllAborted (s : State) (u : Nat) : Prop := ∀ l ∈ s.launches, l.uid = u → l.abort ≠ none

/-- What has ended stays so, and the same cores are excluded. -/
structure Ends (s t : State) : Prop where
  exited : ∀ v, AllExited s v → AllExited t v
  aborted : ∀ u, AllAborted s u → AllAborted t u
  cexcl : t.hub.cexcl = s.hub.cexcl

theorem Ends.refl (s : State) : Ends s s := ⟨fun _ h => h, fun _ h => h, rfl⟩
theorem Ends.trans {s t u : State} (h1 : Ends s t) (h2 : Ends t u) : Ends s u :=
  ⟨fun v h => h2.exited v (h1.exited v h), fun v h => h2.aborted v (h1.aborted v h), h2.cexcl.trans h1.cexcl⟩
theorem Ends.foldl {α : Type} {f : State → α → State} (hf : ∀ s x, Ends s (f s x)) (l : List α) (s : State) : Ends s (l.foldl f s) := by
  induction l generalizing s with
  | nil => exact .refl s
  | cons x l ih => exact (hf s x).trans (ih (f s x))

theorem SameThreads.ends {s t : State} (h : SameThreads s t) : Ends s t :=
  ⟨fun _ hv y hy => hv y (h.threads ▸ hy), fun _ hu l hl => hu l (h.launches ▸ hl), h.cexcl⟩

/-- A change of threads that keeps their numbers and lets none that has exited go on. -/
theorem ends_map {s : State} {f : Thread → Thread} (hu : ∀ x, (f x).uid = x.uid) (hf : ∀ x, x.status = .exited → (f x).status = .exited) :
    Ends s { s with threads := s.threads.map f } := by
  refine ⟨fun v hv y hy hyv => ?_, fun _ h => h, rfl⟩
  obtain ⟨x, hx, rfl⟩ := List.mem_map.mp hy
  exact hf x (hv x hx ((hu x).symm.trans hyv))

theorem setExited_ends (s : State) {t : Thread} (ht : t.status = .exited) : Ends s (s.setThread t) := by
  refine ends_map (f := fun x => if x.uid == t.uid then t else x) (fun x => ?_) fun x hx => ?_
  · split
    case isTrue h => exact (beq_iff_eq.mp h).symm
    case isFalse => rfl
  · split
    · exact ht
    · exact hx

theorem stampEnd_ends (s : State) (b : Bundle) : Ends s (stampEnd s b) := by
  unfold stampEnd
  split
  · exact ends_map (fun x => by split <;> rfl) fun x hx => by split <;> exact hx
  · exact .refl s

theorem unbundle_ends (s : State) (t : Thread) : Ends s (unbundle s t) := by
  have h : Ends s (leaveClause s t) := Ends.trans (t := s.setCore t.core _) ⟨fun _ h => h, fun _ h => h, rfl⟩ (Ends.foldl stampEnd_ends _ _)
  exact h.trans ⟨fun _ h => h, fun _ h => h, rfl⟩

/-- The number of a thread as it stops is its own, and it has exited (R260). -/
theorem stopForGood_ends (s : State) (t : Thread) : Ends s (stopForGood s t) := by
  unfold stopForGood
  have h1 : Ends s (if t.scouting then scoutCount s t 0x50 else s) := by
    split
    · exact ⟨fun _ h => h, fun _ h => h, rfl⟩
    · exact .refl s
  exact (h1.trans (setExited_ends _ rfl)).trans (unbundle_ends ..)

theorem stopForGood_exits (s : State) (t : Thread) : AllExited (stopForGood s t) t.uid := by
  unfold stopForGood
  refine (unbundle_ends _ t).exited _ fun y hy hyu => ?_
  obtain ⟨x, -, hx⟩ := List.mem_map.mp hy
  split at hx
  · rw [← hx]
  next hne =>
    rw [hx] at hne
    exact absurd (beq_iff_eq.mpr hyu) hne

theorem SameThreads.foldl {α : Type} {f : State → α → State} (hf : ∀ s x, SameThreads s (f s x)) (l : List α) (s : State) : SameThreads s (l.foldl f s) := by
  induction l generalizing s with
  | nil => exact .refl s
  | cons x l ih => exact (hf s x).trans (ih (f s x))

theorem write_threads (s : State) (off : Nat) (l : List Byte) (p : Bool) : SameThreads s (s.write off l p) := by
  unfold State.write
  split
  · exact poke_threads ..
  · exact (SameThreads.foldl (fun _ _ => poke_threads ..) _ s).trans (recordLost_threads ..)

theorem leaveSlots_threads (s : State) (tm : Team) : SameThreads s (leaveSlots s tm) := by
  unfold leaveSlots
  split
  · exact SameThreads.foldl (fun _ _ => (write_threads ..).trans (write_threads ..)) _ s
  · exact .refl s

theorem removeTeam_ends (s : State) (u : Nat) : Ends s (removeTeam s u) :=
  (leaveSlots_threads s (s.team u)).ends.trans
    ⟨fun _ h y hy => h y (List.mem_of_mem_filter hy), fun _ h => h, rfl⟩

theorem launchEnd_ends (s : State) (l : Launch) (status detail : Nat) : Ends s (launchEnd s l status detail) :=
  ⟨fun _ h => h, fun _ h y hy => h y (List.mem_of_mem_filter hy), rfl⟩

theorem abortStep_ends (s : State) (u : Nat) : Ends s (abortStep s u) := by
  unfold abortStep
  dsimp only
  split
  · exact .refl s
  next status detail _ =>
    have h1 := Ends.foldl (fun (s : State) (t : Thread) => stopForGood_ends s (s.thread t.uid))
    split
    · exact h1 _ s
    · exact ((h1 _ s).trans (Ends.foldl removeTeam_ends _ _)).trans (launchEnd_ends ..)

/-- The launch of a number, where there is one. -/
theorem State.launchOf_uid {s : State} {u : Nat} (h : (s.launches.any fun l => l.uid == u) = true) : (s.launchOf u).uid = u := by
  unfold State.launchOf
  cases hx : s.launches.find? (·.uid == u) with
  | some x => simpa using List.find?_some hx
  | none =>
    obtain ⟨x, hm, hv⟩ := List.any_eq_true.mp h
    exact absurd hv (List.find?_eq_none.mp hx x hm)

/-- What an abort discards at once: the launch is aborted, and no thread goes on that has ended (R260). -/
theorem setAborted_ends (s : State) {l : Launch} (hl : l.abort ≠ none) : Ends s (s.setLaunch l) ∧ AllAborted (s.setLaunch l) l.uid := by
  refine ⟨⟨fun _ h => h, fun u h y hy hyu => ?_, rfl⟩, fun y hy hyu => ?_⟩
  all_goals
    obtain ⟨x, hx, e⟩ := List.mem_map.mp hy
    split at e
  · exact e ▸ hl
  · exact h y (e ▸ hx) hyu
  · exact e ▸ hl
  next hne =>
    rw [e] at hne
    exact absurd (beq_iff_eq.mpr hyu) hne

theorem lose_status (toks : List Nat) (t : Thread) : (t.lose toks).status = t.status ∧ (t.lose toks).uid = t.uid := ⟨rfl, rfl⟩

/-- An aborted launch is aborted or gone. -/
theorem abortLaunch_ends (s : State) (u status detail : Nat) :
    Ends s (abortLaunch s u status detail) ∧ AllAborted (abortLaunch s u status detail) u := by
  unfold abortLaunch
  split
  case isTrue h =>
    have hany : (s.launches.any fun l => l.uid == u) = true := by
      obtain ⟨l, hl, hp⟩ := List.any_eq_true.mp h
      exact List.any_eq_true.mpr ⟨l, hl, (Bool.and_eq_true _ _ ▸ hp).1⟩
    have hset := setAborted_ends s (l := { s.launchOf u with abort := some (status, detail) }) (by simp)
    rw [show ({ s.launchOf u with abort := some (status, detail) } : Launch).uid = u from State.launchOf_uid hany] at hset
    obtain ⟨h1, h2⟩ := hset
    generalize s.setLaunch { s.launchOf u with abort := some (status, detail) } = s1 at h1 h2
    have h3 : ∀ (cores cwords gang teams p toks), Ends s1 { s1 with cores := cores, cwords := cwords, gang := gang, teams := teams
                                                                    threads := modWhere p (Thread.lose toks) s1.threads } :=
      fun cores cwords gang teams p toks => by
        have h := ends_map (s := { s1 with cores := cores, cwords := cwords, gang := gang, teams := teams }) (f := fun x => if p x = true then x.lose toks else x)
          (fun x => by split <;> rfl) fun x hx => by split <;> exact hx
        exact ⟨h.exited, h.aborted, h.cexcl⟩
    suffices h4 : Ends s1 (abortStep _ u) from ⟨h1.trans h4, h4.aborted u h2⟩
    exact (h3 _ _ _ _ _ _).trans (abortStep_ends _ u)
  case isFalse h =>
    refine ⟨.refl s, fun l hl hlu hab => h (List.any_eq_true.mpr ⟨l, hl, ?_⟩)⟩
    simp [hlu, hab]

/-! ### A core that hangs (R274, R275) -/

/-- Stopping the thread of a number leaves none of that number that has not exited. -/
theorem stop_exits (s : State) (v : Nat) : AllExited (stopForGood s (s.thread v)) v := by
  by_cases h : s.hasThread v = true
  · have hx := stopForGood_exits s (s.thread v)
    rwa [State.thread_uid h] at hx
  · exact (stopForGood_ends ..).exited v fun y hy hyv => absurd (List.any_eq_true.mpr ⟨y, hy, by simp [hyv]⟩) h

/-- A fold of steps that only end threads and launches reaches what each of its steps reaches. -/
theorem foldl_reaches {α : Type} {f : State → α → State} {P : State → α → Prop} (hf : ∀ s x, Ends s (f s x)) (hP : ∀ s x, P (f s x) x)
    (hk : ∀ {s t x}, Ends s t → P s x → P t x) (l : List α) (s : State) : ∀ x ∈ l, P (l.foldl f s) x := by
  induction l generalizing s with
  | nil => simp
  | cons y l ih =>
    intro x hx
    rcases List.mem_cons.mp hx with rfl | hx
    · exact hk (Ends.foldl hf l (f s x)) (hP s x)
    · exact ih (f s y) x hx

theorem drawBytes_threads (n : Nat) (s : State) : SameThreads s (drawBytes n s).1 := by
  induction n generalizing s with
  | zero => exact .refl s
  | succ n ih => exact SameThreads.trans (t := (draw s).1) ⟨rfl, rfl, rfl, rfl⟩ (ih _)

/-- A hang of a core as it is recorded: the record's words are free, and the core is excluded (R274, R275). -/
def hangRecorded (s : State) (core : Nat) (launch : Word) : State :=
  let r := drawBytes 8 (draw s).1
  let s2 := mcRecord r.1 1 4 0 core launch (natOf r.2)
  { s2 with hub := { s2.hub with cexcl := nins s2.hub.cexcl core } }

theorem hangRecorded_excludes (s : State) (core : Nat) (launch : Word) : nmem (hangRecorded s core launch).hub.cexcl core = true := by
  show nmem (nins _ core) core = true
  rw [nmem_nins]
  simp

/-- A core whose hang counts: its threads that hang stop, and their launches are aborted. -/
theorem coreHang_eq {s : State} {core : Nat} (hs : s.threads.filter (hangs s core) ≠ []) (hc : (s.core core).issued + 2 ^ 24 ≤ s.cycle) :
    ∃ status launch, exec (.coreHang core) s = .next (
      ((s.threads.filter (hangs s core)).map fun t => (s.teamOf t).launch).eraseDups.foldl (fun s l => abortLaunch s l status 0)
        ((s.threads.filter (hangs s core)).foldl (fun s t => stopForGood s (s.thread t.uid)) (hangRecorded s core launch))) := by
  have hcut : ¬ (s.threads.filter (hangs s core) == [] || decide (s.cycle < (s.core core).issued + 2 ^ 24)) = true := by
    simpa [hs] using hc
  exact ⟨_, _, congrArg Host.Outcome.next (if_neg hcut)⟩

/-- Its threads that hang have exited, their launches are aborted or gone, and it is excluded. -/
theorem coreHang_ends {s : State} {core : Nat} (hs : s.threads.filter (hangs s core) ≠ []) (hc : (s.core core).issued + 2 ^ 24 ≤ s.cycle) :
    ∃ t, exec (.coreHang core) s = .next t ∧ nmem t.hub.cexcl core = true ∧
      ∀ x ∈ s.threads.filter (hangs s core), AllExited t x.uid ∧ AllAborted t (s.teamOf x).launch := by
  obtain ⟨status, launch, e⟩ := coreHang_eq hs hc
  have hstop := fun (s : State) (t : Thread) => stopForGood_ends s (s.thread t.uid)
  have habort := fun (s : State) (l : Nat) => (abortLaunch_ends s l status 0).1
  refine ⟨_, e, ?_, fun x hx => ⟨?_, ?_⟩⟩
  · rw [((Ends.foldl hstop _ _).trans (Ends.foldl habort _ _)).cexcl]
    exact hangRecorded_excludes s core launch
  · exact (Ends.foldl habort _ _).exited _
      (foldl_reaches (P := fun s (t : Thread) => AllExited s t.uid) hstop (fun s t => stop_exits s t.uid) (fun h => h.exited _) _ _ x hx)
  · exact foldl_reaches (P := AllAborted) habort (fun s l => (abortLaunch_ends s l status 0).2) (fun h => h.aborted _) _ _ _
      (List.mem_eraseDups.mpr (List.mem_map_of_mem hx))

/-- Before that, nothing happens. -/
theorem coreHang_idle {s : State} {core : Nat} (h : s.threads.filter (hangs s core) = [] ∨ s.cycle < (s.core core).issued + 2 ^ 24) :
    exec (.coreHang core) s = .next s :=
  congrArg Host.Outcome.next (if_pos (by simpa only [Bool.or_eq_true, beq_iff_eq, decide_eq_true_eq] using h))

/-! ### A team completes (R17, R130, R248) -/

/-- A resident team whose threads have exited and whose work is done, of a launch that is not aborted. -/
def Completes (s : State) (team : Nat) : Prop :=
  (s.team team).place = .resident ∧ (s.launchOf (s.team team).launch).abort = none ∧ (∀ x ∈ s.threads, x.team = team → x.status = .exited) ∧
    teamIdle s (s.team team) = true

/-- A deferred remote error of the team that no thread has read. -/
def unreadIn (s : State) (team : Nat) : Bool := s.threads.any fun x => x.team == team && x.remerr.msb

/-- The launch with the team counted. -/
def counted (s : State) (team : Nat) : Launch :=
  let l := s.launchOf (s.team team).launch
  { l with done := l.done + 1, remErr := l.remErr || (s.team team).remErr || unreadIn s team }

theorem teamComplete_eq {s : State} {team : Nat} (ht : s.hasTeam team = true) [Decidable (Completes s team)] :
    exec (.teamComplete team) s = .next (
      if Completes s team then
        if (counted s team).rcd.total ≤ (counted s team).done then
          launchEnd ((removeTeam s team).setLaunch (counted s team)) (counted s team) (if (counted s team).remErr then 0x23 else 0) 0
        else (removeTeam s team).setLaunch (counted s team)
      else s) := by
  have hdec : (s.hasTeam team && (s.team team).place == .resident && (s.launchOf (s.team team).launch).abort.isNone &&
      s.threads.all (fun t => t.team != team || t.status == .exited) && teamIdle s (s.team team)) = true ↔ Completes s team := by
    simp only [ht, Bool.true_and, Bool.and_eq_true, beq_iff_eq, Option.isNone_iff_eq_none, List.all_eq_true, Bool.or_eq_true, bne_iff_ne, ne_eq, Completes]
    refine ⟨fun ⟨⟨⟨h1, h2⟩, h3⟩, h4⟩ => ⟨h1, h2, fun x hx hxt => (h3 x hx).resolve_left fun h => h hxt, h4⟩,
      fun ⟨h1, h2, h3, h4⟩ => ⟨⟨⟨h1, h2⟩, fun x hx => ?_⟩, h4⟩⟩
    by_cases hxt : x.team = team
    · exact .inr (h3 x hx hxt)
    · exact .inl hxt
  refine congrArg Host.Outcome.next ?_
  by_cases h : Completes s team
  · rw [if_pos h]
    exact if_pos (hdec.mpr h)
  · rw [if_neg h]
    exact if_neg fun hc => h (hdec.mp hc)

/-- A resident team is removed with its threads; memory, contexts and launches stay (R17). -/
theorem removeTeam_resident {s : State} {u : Nat} (h : (s.team u).place = .resident) :
    ∃ cores cwords, removeTeam s u =
      { s with threads := s.threads.filter (·.team != u), teams := s.teams.filter (·.uid != u), cores, cwords } := by
  have hl : leaveSlots s (s.team u) = s := by
    unfold leaveSlots
    rw [h]
  unfold removeTeam
  rw [hl]
  exact ⟨_, _, rfl⟩

theorem State.launchOf_setLaunch {s : State} {l : Launch} (h : (s.launches.any fun x => x.uid == l.uid) = true) : (s.setLaunch l).launchOf l.uid = l := by
  unfold State.launchOf State.setLaunch modWhere
  rw [List.find?_map]
  obtain ⟨x, hx, hxu⟩ := List.any_eq_true.mp h
  have hp : ((fun x : Launch => x.uid == l.uid) ∘ fun x => if (x.uid == l.uid) = true then l else x) = fun x => x.uid == l.uid := by
    funext y
    simp only [Function.comp]
    split
    case isTrue hy => rw [hy]; simp
    case isFalse => rfl
  rw [hp]
  cases hf : s.launches.find? fun x => x.uid == l.uid with
  | none => exact absurd hxu (List.find?_eq_none.mp hf x hx)
  | some y =>
    have hy := List.find?_some hf
    simp only [beq_iff_eq] at hy
    simp [hy]

theorem launchEnd_ctx (s : State) (l : Launch) (status detail : Nat) :
    ((launchEnd s l status detail).ctx l.ctx).jqueue = (s.ctx l.ctx).jqueue ++
      [{ seq := (s.ctx l.ctx).seq, addr := BitVec.ofNat 64 l.seq, kind := 1, stream := l.stream, level := l.level, opc := 1, detail := detail
         status := status, time := s.htime, sem := if l.rcd.cse then some l.rcd.csem else none }] := by
  have hc : (launchEnd s l status detail).ctx l.ctx = _ := (State.ctx_setCtx _ l.ctx l.ctx _).trans (if_pos rfl)
  rw [hc]
  rfl

/-- The team's resources are free, and its launch counts it or ends (R17, R248). -/
theorem teamComplete_done {s : State} {team : Nat} (ht : s.hasTeam team = true) (hl : (s.launches.any fun l => l.uid == (s.team team).launch) = true)
    (h : Completes s team) :
    let l := s.launchOf (s.team team).launch
    ∃ t, exec (.teamComplete team) s = .next t ∧ (∀ k, t.byte k = s.byte k) ∧ t.hasTeam team = false ∧ (∀ x ∈ t.threads, x.team ≠ team) ∧
      (l.done + 1 < l.rcd.total → (t.launchOf l.uid).done = l.done + 1 ∧ (t.ctx l.ctx).jqueue = (s.ctx l.ctx).jqueue) ∧
      (l.rcd.total ≤ l.done + 1 → (∀ x ∈ t.launches, x.uid ≠ l.uid) ∧ (t.ctx l.ctx).jqueue = (s.ctx l.ctx).jqueue ++
        [{ seq := (s.ctx l.ctx).seq, addr := BitVec.ofNat 64 l.seq, kind := 1, stream := l.stream, level := l.level, opc := 1, detail := 0
           status := if l.remErr || (s.team team).remErr || unreadIn s team then 0x23 else 0, time := s.htime
           sem := if l.rcd.cse then some l.rcd.csem else none }]) := by
  intro l
  have : Decidable (Completes s team) := .isTrue h
  have e := (teamComplete_eq ht).trans (congrArg _ (if_pos h))
  obtain ⟨cores, cwords, hrem⟩ := removeTeam_resident h.1
  rw [hrem] at e
  have hteam : ∀ l : List Team, (l.filter (·.uid != team)).any (·.uid == team) = false := fun l => by simp
  have hthr : ∀ x ∈ s.threads.filter (·.team != team), x.team ≠ team := fun x hx => by simpa using List.of_mem_filter hx
  have hlu : (counted s team).uid = l.uid := rfl
  by_cases hlast : l.rcd.total ≤ l.done + 1
  · refine ⟨_, e.trans (congrArg _ (if_pos hlast)), fun _ => rfl, hteam _, hthr, fun hn => absurd hlast (Nat.not_le.mpr hn),
      fun _ => ⟨fun x hx => by simpa [hlu] using List.of_mem_filter hx, launchEnd_ctx _ (counted s team) _ 0⟩⟩
  · refine ⟨_, e.trans (congrArg _ (if_neg hlast)), fun _ => rfl, hteam _, hthr, fun _ => ⟨?_, rfl⟩, fun hn => absurd hn hlast⟩
    have hlo := State.launchOf_setLaunch (s := { s with threads := s.threads.filter (·.team != team), teams := s.teams.filter (·.uid != team), cores, cwords })
      (l := counted s team) (by rw [hlu, State.launchOf_uid hl]; exact hl)
    exact congrArg Launch.done hlo

/-- Settles O39: the end of a team and of its launch, and a core that hangs. -/
theorem teamsEndAndCoresHang : Obligations.TeamsEndAndCoresHang := by
  refine ⟨?_, ?_⟩
  · intro s team ht hl tm l idle unread
    refine ⟨fun hn => ?_, fun hi => teamComplete_done ht hl hi⟩
    have : Decidable (Completes s team) := .isFalse hn
    exact (teamComplete_eq ht).trans (congrArg _ (if_neg hn))
  · intro s core stuck
    refine ⟨coreHang_idle, fun hs hc => ?_⟩
    obtain ⟨t, e, hex, hall⟩ := coreHang_ends hs hc
    exact ⟨t, e, hex, hall⟩

end Sys2Proof.Machine
end

section
/-! PROOF. Placing teams (R18, R36, R39-R42, R48): a placed team, dispatch, gangs and ageing. -/
namespace Sys2Proof.Machine
open Sys2Proof

/-! ### A placed team (R18, R48, R58) -/

theorem repartition_eq (s : State) (r : LaunchRec) (core : Nat) : ∃ cores, repartition s r core = { s with cores } := by
  unfold repartition
  dsimp only
  split <;> exact ⟨_, rfl⟩

/-- The team that is placed next, and its threads. -/
def nextTeam (s s1 : State) (l : Launch) (core : Nat) (place : Place) : Team :=
  { uid := s.nextUid, launch := l.uid, n := l.next, core := core, pos := freePos s1 [] l.rcd.pair core [], place := place, born := s.cycle }

/-- A new thread of a launch's next team: at its entry, ready, with the argument address in v0:v1. -/
structure Fresh (s : State) (l : Launch) (core : Nat) (x : Thread) : Prop where
  team : x.team = s.nextUid
  uid : s.nextUid ≤ x.uid
  pc : x.pc = l.rcd.entry
  status : x.status = .ready
  stamp : x.stamp = s.cycle
  mid : x.mid = none
  tid : x.tid < l.rcd.nthr
  core : x.core = coreOf l.rcd core x.tid
  budget : x.scoutBud = l.rcd.scout
  args : x.reg 0 = (loWord l.rcd.args, false) ∧ x.reg 1 = (hiWord l.rcd.args, false)
  zero : ∀ n, 2 ≤ n → x.reg n = (0, false)

theorem newThread_fresh (s : State) (l : Launch) (core slot : Nat) {i : Nat} (hi : i < l.rcd.nthr) {s1 : State} (hc : s1.cycle = s.cycle) :
    Fresh s l core (newThread s1 l s.nextUid (s.nextUid + 1 + i) (coreOf l.rcd core i) slot i) := by
  have hp : ∀ n, (List.replicate l.rcd.nreg false).getD n false = false := fun n => by
    simp [List.getD_eq_getElem?_getD, List.getElem?_replicate]
    split <;> rfl
  refine ⟨rfl, by show _ ≤ _ + 1 + i; omega, rfl, rfl, hc, rfl, hi, rfl, rfl, ⟨Prod.ext rfl (hp 0), Prod.ext rfl (hp 1)⟩, fun n hn => Prod.ext ?_ (hp n)⟩
  obtain ⟨k, rfl⟩ := Nat.exists_eq_add_of_le' hn
  show (List.replicate (l.rcd.nreg - 2) (0 : Word)).getD k 0 = 0
  simp [List.getD_eq_getElem?_getD, List.getElem?_replicate]
  split <;> rfl

/-- The next team of a launch placed on a core: the team, its threads, and the launch's count. -/
theorem placeTeam_eq (s : State) (l : Launch) (core : Nat) (place : Place) :
    ∃ (s1 : State) (cores : Tab Core) (ts : List Thread), ts.length = l.rcd.nthr ∧ (∀ x ∈ ts, Fresh s l core x) ∧
      placeTeam s l core place =
        ({ s with cores, teams := s.teams ++ [nextTeam s s1 l core place], threads := s.threads ++ ts, nextUid := s.nextUid + 1 + l.rcd.nthr } : State).setLaunch
          { l with next := l.next + 1 } := by
  obtain ⟨c1, e1⟩ := repartition_eq s l.rcd core
  obtain ⟨c2, e2⟩ := repartition_eq (repartition s l.rcd core) l.rcd (core + 1)
  obtain ⟨cores, e⟩ : ∃ cores, (if l.rcd.pair then repartition (repartition s l.rcd core) l.rcd (core + 1) else repartition s l.rcd core) = { s with cores } := by
    split
    · exact ⟨c2, by rw [e2, e1]⟩
    · exact ⟨c1, e1⟩
  unfold placeTeam
  dsimp only
  rw [e]
  refine ⟨{ s with cores }, cores, _, ?_, fun x hx => ?_, rfl⟩
  · simp
  · obtain ⟨i, hi, rfl⟩ := List.mem_map.mp hx
    exact newThread_fresh s l core _ (List.mem_range.mp hi) rfl

/-- A launch of a number is there. -/
def State.hasLaunch (s : State) (u : Nat) : Prop := (s.launches.any fun l => l.uid == u) = true

theorem State.hasLaunch_setLaunch {s : State} {u : Nat} (h : s.hasLaunch u) (l : Launch) : (s.setLaunch l).hasLaunch u := by
  obtain ⟨x, hx, hxu⟩ := List.any_eq_true.mp h
  refine List.any_eq_true.mpr ⟨_, List.mem_map_of_mem hx, ?_⟩
  split
  case isTrue hl => exact beq_iff_eq.mpr ((beq_iff_eq.mp hl).symm.trans (beq_iff_eq.mp hxu))
  case isFalse => exact hxu

/-- The head unit of a launch has been placed: its next team counts on. -/
theorem nextUnit_next {s : State} {u : Nat} (h : s.hasLaunch u) : ((nextUnit s u).launchOf u).next = (s.launchOf u).next := by
  have hu := State.launchOf_uid h
  have e := State.launchOf_setLaunch (s := s) (l := { s.launchOf u with since := s.cycle, aged := none })
    ((congrArg (fun v => s.launches.any fun l => l.uid == v) hu).trans h)
  rw [show ({ s.launchOf u with since := s.cycle, aged := none } : Launch).uid = u from hu] at e
  exact (congrArg Launch.next e :)

theorem setNext_next {s : State} {u : Nat} (h : s.hasLaunch u) :
    ((s.setLaunch { s.launchOf u with next := (s.launchOf u).next + 1 }).launchOf u).next = (s.launchOf u).next + 1 := by
  have hu := State.launchOf_uid h
  have e := State.launchOf_setLaunch (s := s) (l := { s.launchOf u with next := (s.launchOf u).next + 1 })
    ((congrArg (fun v => s.launches.any fun l => l.uid == v) hu).trans h)
  rw [show ({ s.launchOf u with next := (s.launchOf u).next + 1 } : Launch).uid = u from hu] at e
  exact (congrArg Launch.next e :)

/-- The next team of a launch stands behind the others in a state, with its threads behind theirs. -/
def Placed (s : State) (u : Nat) (t : State) (core : Nat) (tm : Team) (first : Nat) : Prop :=
  let l := s.launchOf u
  let r := l.rcd
  t.teams.getLast? = some tm ∧ t.teams.length = s.teams.length + 1 ∧
    tm.launch = u ∧ tm.n = l.next ∧ tm.core = core ∧ tm.scratch = [] ∧ tm.acc = [] ∧ (t.launchOf u).next = l.next + 1 ∧
    (t.threads.drop s.threads.length).length = r.nthr ∧ ∀ x ∈ t.threads.drop s.threads.length, x.team = tm.uid ∧ first ≤ x.uid ∧ x.pc = r.entry ∧
      x.status = .ready ∧ x.stamp = s.cycle ∧ x.mid = none ∧ x.tid < r.nthr ∧ x.core = coreOf r core x.tid ∧ x.scoutBud = r.scout ∧
      x.reg 0 = (loWord r.args, false) ∧ x.reg 1 = (hiWord r.args, false) ∧ ∀ n, 2 ≤ n → x.reg n = (0, false)

/-- A team is placed where only its place and the stamps of threads may have changed since. -/
theorem placed_of {s t : State} {u core : Nat} (hl : s.hasLaunch u) {s1 : State} {place : Place} {f : Team → Team} {g : Thread → Thread} {ts : List Thread}
    (hf : ∀ x, f x = { x with place := (f x).place, born := (f x).born }) (hg : ∀ x, x.stamp = s.cycle → g x = x) (hlen : ts.length = (s.launchOf u).rcd.nthr)
    (hts : ∀ x ∈ ts, Fresh s (s.launchOf u) core x) (hteams : t.teams = (s.teams ++ [nextTeam s s1 (s.launchOf u) core place]).map f)
    (hthreads : t.threads = (s.threads ++ ts).map g) (hnext : (t.launchOf u).next = (s.launchOf u).next + 1) :
    Placed s u t core (f (nextTeam s s1 (s.launchOf u) core place)) s.nextUid := by
  have hdrop : t.threads.drop s.threads.length = ts := by
    have hmap : ts.map g = ts := (List.map_congr_left fun x hx => hg x (hts x hx).stamp).trans (List.map_id ts)
    rw [hthreads, List.map_append, hmap, List.drop_left' (List.length_map ..)]
  unfold Placed
  rw [hdrop, hteams, hf (nextTeam s s1 (s.launchOf u) core place)]
  refine ⟨?_, by simp, State.launchOf_uid hl, rfl, rfl, rfl, rfl, hnext, hlen, fun x hx => ?_⟩
  · rw [List.map_append, List.map_cons, List.map_nil, List.getLast?_concat, ← hf]
  · obtain ⟨h1, h2, h3, h4, h5, h6, h7, h8, h9, h10, h11⟩ := hts x hx
    exact ⟨h1, h2, h3, h4, h5, h6, h7, h8, h9, h10.1, h10.2, h11⟩

/-! ### Dispatch, gangs and ageing (R36, R39-R41) -/

/-- A team that is placed leaves memory and the pointers, and its launch counts it. -/
theorem placeTeam_keeps {s : State} {u : Nat} (hl : s.hasLaunch u) (core : Nat) (place : Place) :
    (placeTeam s (s.launchOf u) core place).hasLaunch u ∧ ((placeTeam s (s.launchOf u) core place).launchOf u).next = (s.launchOf u).next + 1 ∧
      (placeTeam s (s.launchOf u) core place).mem = s.mem := by
  obtain ⟨s1, cores, ts, -, -, e⟩ := placeTeam_eq s (s.launchOf u) core place
  rw [e]
  generalize hb : ({ s with cores, teams := s.teams ++ [nextTeam s s1 (s.launchOf u) core place], threads := s.threads ++ ts, nextUid := s.nextUid + 1 + (s.launchOf u).rcd.nthr } : State) = b
  have hlaunch : b.launches = s.launches := by rw [← hb]
  have hlo : s.launchOf u = b.launchOf u := by unfold State.launchOf; rw [hlaunch]
  have hbl : b.hasLaunch u := by unfold State.hasLaunch; rw [hlaunch]; exact hl
  refine ⟨State.hasLaunch_setLaunch hbl _, ?_, ?_⟩
  · rw [hlo]
    exact setNext_next hbl
  · rw [← hb]
    rfl

section
variable {s : State} {u : Nat} (hl : s.hasLaunch u)
include hl

/-- The slot that the search gives a launch's next team. -/
def slotFor (s : State) (l : Launch) : Option Nat := (searchFrom l.rcd.pair (tget 0 s.hub.rr l.prio)).find? (openTo s l)

theorem teamDispatch_eq : exec (.teamDispatch u) s = .next (
    if headWaits s (s.launchOf u) = false ∨ gangSize (s.launchOf u).rcd ≠ 1 then s
    else match slotFor s (s.launchOf u) with
      | none => s
      | some c => pointPast (nextUnit (placeTeam s (s.launchOf u) c .resident) u) (s.launchOf u) c) := by
  have hl : (s.launches.any fun l => l.uid == u) = true := hl
  show execTeamDispatch u s = _
  unfold execTeamDispatch
  simp only [hl]
  by_cases h : headWaits s (s.launchOf u) = false ∨ gangSize (s.launchOf u).rcd ≠ 1
  · rw [if_pos h]
    refine congrArg _ (if_pos ?_)
    rcases h with h | h <;> simp [h]
  · rw [if_neg h]
    rw [not_or, Bool.not_eq_false, not_not] at h
    refine congrArg _ ((if_neg ?_).trans rfl)
    simp [h.1, h.2]

/-- TEAM_DISPATCH places the next team, resident, where the search says (R36, R41). -/
theorem teamDispatch_places {core : Nat} (hw : headWaits s (s.launchOf u) = true) (hg : gangSize (s.launchOf u).rcd = 1)
    (hs : slotFor s (s.launchOf u) = some core) :
    ∃ t tm, exec (.teamDispatch u) s = .next t ∧ Placed s u t core tm s.nextUid ∧ tm.place = .resident ∧
      tget 0 t.hub.rr (s.launchOf u).prio = (core + if (s.launchOf u).rcd.pair then 2 else 1) % 384 ∧ t.mem = s.mem := by
  obtain ⟨hp1, hp2, hp3⟩ := placeTeam_keeps hl core .resident
  obtain ⟨s1, cores, ts, hlen, hts, e⟩ := placeTeam_eq s (s.launchOf u) core .resident
  have hx : exec (.teamDispatch u) s = .next (pointPast (nextUnit (placeTeam s (s.launchOf u) core .resident) u) (s.launchOf u) core) := by
    rw [teamDispatch_eq hl, if_neg (by simp [hw, hg]), hs]
  refine ⟨_, nextTeam s s1 (s.launchOf u) core .resident, hx, ?_, rfl, tget_tset_same .., hp3⟩
  refine placed_of hl (f := id) (g := id) (fun _ => rfl) (fun _ _ => rfl) hlen hts ?_ ?_ ((nextUnit_next hp1).trans hp2)
  · rw [List.map_id]
    exact congrArg State.teams e
  · rw [List.map_id]
    exact congrArg State.threads e

end

/-- The next team of a launch lies in the gang that is placed. -/
theorem next_in_gang {r : LaunchRec} {n : Nat} (hn : n < r.total) : (gangAt r n).1 ≤ n ∧ n < (gangAt r n).1 + (gangAt r n).2 := by
  have hpos : 0 < gangSize r := by
    unfold gangSize
    split <;> omega
  have h1 := Nat.div_mul_le_self n (gangSize r)
  have h2 := Nat.lt_div_mul_add (a := n) hpos
  unfold gangAt
  simp only
  omega

/-- The reserved teams of a gang. -/
def inGang (u first n : Nat) (t : Team) : Bool := t.launch == u && first ≤ t.n && t.n < first + n && t.place == .reserved

/-- A gang whose every team holds a slot starts. -/
def gangStarted (s : State) (u first n : Nat) : State :=
  nextUnit
    { s with teams := modWhere (inGang u first n) (fun t => { t with place := .resident, born := s.cycle }) s.teams
             threads := modWhere (fun t => ((s.teams.filter (inGang u first n)).map (·.uid)).contains t.team) (fun t => { t with stamp := s.cycle }) s.threads
             gang := none } u

theorem startGang_eq (s : State) (u first n : Nat) :
    startGang s u first n = if (s.teams.filter (inGang u first n)).length = n then gangStarted s u first n else s := by
  split
  case isTrue h => exact if_pos (beq_iff_eq.mpr h)
  case isFalse h => exact if_neg fun hc => h (beq_iff_eq.mp hc)

section
variable {s : State} {u : Nat} (hl : s.hasLaunch u) {core : Nat}
include hl

/-- The state in which the reserving gang has its next slot. -/
def reservedState (s : State) (u core : Nat) : State :=
  pointPast { placeTeam s (s.launchOf u) core .reserved with gang := some u } (s.launchOf u) core

theorem reservedState_parts (core : Nat) :
    ∃ (s1 : State) (ts : List Thread), ts.length = (s.launchOf u).rcd.nthr ∧ (∀ x ∈ ts, Fresh s (s.launchOf u) core x) ∧
      (reservedState s u core).teams = s.teams ++ [nextTeam s s1 (s.launchOf u) core .reserved] ∧ (reservedState s u core).threads = s.threads ++ ts ∧
      (reservedState s u core).cycle = s.cycle ∧ (reservedState s u core).hasLaunch u ∧ ((reservedState s u core).launchOf u).next = (s.launchOf u).next + 1 ∧
      (reservedState s u core).mem = s.mem ∧ (reservedState s u core).gang = some u ∧
      tget 0 (reservedState s u core).hub.rr (s.launchOf u).prio = (core + if (s.launchOf u).rcd.pair then 2 else 1) % 384 := by
  obtain ⟨hp1, hp2, hp3⟩ := placeTeam_keeps hl core .reserved
  obtain ⟨s1, cores, ts, hlen, hts, e⟩ := placeTeam_eq s (s.launchOf u) core .reserved
  exact ⟨s1, ts, hlen, hts, (congrArg State.teams e :), (congrArg State.threads e :), (congrArg State.cycle e :), hp1, hp2, hp3, rfl, tget_tset_same ..⟩

omit hl in
theorem gangReserve_eq (hr : reservingGang s = some u) (hn : (s.launchOf u).next < (s.launchOf u).rcd.total) (ha : (s.launchOf u).abort = none)
    (hs : slotFor s (s.launchOf u) = some core) :
    exec (.gangReserve core) s = .next (startGang (reservedState s u core) u (gangAt (s.launchOf u).rcd (s.launchOf u).next).1
      (gangAt (s.launchOf u).rcd (s.launchOf u).next).2) := by
  show execGangReserve core s = _
  unfold execGangReserve
  unfold slotFor at hs
  simp only [hr, hn, ha, hs]
  exact congrArg _ (if_pos (by simp))

/-- GANG_RESERVE places the reserving gang's next team, which starts with its gang when the last one has its slot (R39). -/
theorem gangReserve_places (hr : reservingGang s = some u) (hn : (s.launchOf u).next < (s.launchOf u).rcd.total) (ha : (s.launchOf u).abort = none)
    (hs : slotFor s (s.launchOf u) = some core) :
    let g := gangAt (s.launchOf u).rcd (s.launchOf u).next
    let held := (s.teams.filter (inGang u g.1 g.2)).length
    ∃ t tm, exec (.gangReserve core) s = .next t ∧ Placed s u t core tm s.nextUid ∧
      tget 0 t.hub.rr (s.launchOf u).prio = (core + if (s.launchOf u).rcd.pair then 2 else 1) % 384 ∧ t.mem = s.mem ∧
      (held + 1 < g.2 → tm.place = .reserved ∧ t.gang = some u) ∧ (held + 1 = g.2 → tm.place = .resident ∧ t.gang = none) := by
  intro g held
  obtain ⟨s1, ts, hlen, hts, hteams, hthreads, hcy, hhas, hnext, hmem, hgang, hptr⟩ := reservedState_parts hl core
  have hin : inGang u g.1 g.2 (nextTeam s s1 (s.launchOf u) core .reserved) = true := by
    obtain ⟨h1, h2⟩ := next_in_gang hn
    have hu := State.launchOf_uid hl
    simpa [inGang, nextTeam, hu] using ⟨h1, h2⟩
  have hcount : ((reservedState s u core).teams.filter (inGang u g.1 g.2)).length = held + 1 := by
    rw [hteams, List.filter_append, List.length_append, List.filter_cons, if_pos hin]
    rfl
  have e := (gangReserve_eq hr hn ha hs).trans (congrArg _ (startGang_eq ..))
  rw [hcount] at e
  by_cases hlast : held + 1 = g.2
  · rw [if_pos hlast] at e
    refine ⟨_, _, e, placed_of hl (s1 := s1) (place := .reserved)
      (f := fun t => if inGang u g.1 g.2 t = true then { t with place := .resident, born := (reservedState s u core).cycle } else t)
      (g := fun t => if ((((reservedState s u core).teams.filter (inGang u g.1 g.2)).map (·.uid)).contains t.team) = true then { t with stamp := (reservedState s u core).cycle } else t)
      ?_ ?_ hlen hts (congrArg _ hteams) (congrArg _ hthreads) ?_, hptr, hmem, fun h => absurd hlast (Nat.ne_of_lt h), fun _ => ⟨?_, rfl⟩⟩
    · intro x
      split <;> rfl
    · intro x hx
      split
      · rw [hcy, ← hx]
      · rfl
    · exact (nextUnit_next hhas).trans hnext
    · rw [if_pos hin]
  · rw [if_neg hlast] at e
    refine ⟨_, _, e, placed_of hl (s1 := s1) (place := .reserved) (f := id) (g := id) (fun _ => rfl) (fun _ _ => rfl) hlen hts ?_ ?_ hnext, hptr, hmem,
      fun _ => ⟨rfl, hgang⟩, fun h => absurd h hlast⟩
    · rw [List.map_id]
      exact hteams
    · rw [List.map_id]
      exact hthreads

/-- PLACEMENT_AGING (R40). -/
theorem placementAging_eq : exec (.placementAging u) s = .next (
    if (s.launchOf u).next < (s.launchOf u).rcd.total ∧ (s.launchOf u).aged = none ∧ (s.launchOf u).since + 65536 ≤ s.cycle
    then s.setLaunch { s.launchOf u with aged := some s.cycle } else s) := by
  have hl : (s.launches.any fun l => l.uid == u) = true := hl
  show execPlacementAging u s = _
  unfold execPlacementAging
  simp only [hl, Bool.true_and, Bool.and_eq_true, decide_eq_true_eq, Option.isNone_iff_eq_none, and_assoc]

end

end Sys2Proof.Machine
end

section
/-! PROOF. Spilled groups return (R18, R252): a translation keeps the threads' places and the teams, the threads of a group take slots
again, and the obligation on placement. -/
namespace Sys2Proof.Machine
open Sys2Proof

/-! ### A translation for the hub's agents keeps who is there (R90) -/

/-- Two states at one cycle with the same teams and the same threads, as far as their identities go. -/
structure SameCrew (s t : State) : Prop where
  uids : t.threads.map (·.uid) = s.threads.map (·.uid)
  teams : t.teams = s.teams
  cycle : t.cycle = s.cycle

theorem SameCrew.refl (s : State) : SameCrew s s := ⟨rfl, rfl, rfl⟩
theorem SameCrew.trans {s t u : State} (h1 : SameCrew s t) (h2 : SameCrew t u) : SameCrew s u :=
  ⟨h2.uids.trans h1.uids, h2.teams.trans h1.teams, h2.cycle.trans h1.cycle⟩
theorem SameCrew.foldl {α : Type} {f : State → α → State} (hf : ∀ s x, SameCrew s (f s x)) (l : List α) (s : State) : SameCrew s (l.foldl f s) := by
  induction l generalizing s with
  | nil => exact .refl s
  | cons x l ih => exact (hf s x).trans (ih (f s x))

theorem SameThreads.crew {s t : State} (h : SameThreads s t) (hc : t.cycle = s.cycle) : SameCrew s t := ⟨by rw [h.threads], h.teams, hc⟩

/-- A change of every thread that keeps their identities. -/
theorem mapped_crew {f : Thread → Thread} (hf : ∀ x, (f x).uid = x.uid) (s : State) : SameCrew s { s with threads := s.threads.map f } :=
  ⟨by simp [hf], rfl, rfl⟩

theorem poke_cycle (s : State) (off : Nat) (l : List Byte) (p : Bool) : (s.poke off l p).cycle = s.cycle := by
  unfold State.poke
  split <;> rfl

theorem raise_cycle (s : State) (v : Nat) : (raise s v).cycle = s.cycle := by
  unfold raise
  dsimp only
  split <;> rfl

theorem mcRecord_crew (s : State) (sev kind uclass unit : Nat) (launch : Word) (addr : Nat) : SameCrew s (mcRecord s sev kind uclass unit launch addr) := by
  refine (mcRecord_threads ..).crew ?_
  unfold mcRecord putCheck
  split
  · rfl
  · split
    · rw [raise_cycle]
      exact poke_cycle ..
    · rfl

theorem walkCheck_crew (s : State) (die : Nat) (pois : Option Nat) : SameCrew s (walkCheck s die pois) := by
  unfold walkCheck
  split
  · exact (SameCrew.foldl (fun s x => mcRecord_crew ..) _ s).trans (mcRecord_crew ..)
  · exact .refl s

theorem demandFault_crew (s : State) (ctx : Nat) (va : DWord) (agent kind level flags : Nat) (src launch : Word) :
    SameCrew s (demandFault s ctx va agent kind level flags src launch) := by
  unfold demandFault
  split <;> exact ⟨rfl, rfl, rfl⟩

theorem keepXlate_crew (s : State) (core ctx va : Nat) (x : Xlate) : SameCrew s (keepXlate s core ctx va x) := by
  unfold keepXlate
  split <;> exact ⟨rfl, rfl, rfl⟩

theorem walkFault_crew (s : State) (w : Walk) (meets : WalkReq → Bool) (kind level : Nat) : SameCrew s (walkFault s w meets kind level) := by
  unfold walkFault
  split
  · exact demandFault_crew ..
  · exact .refl s

theorem walked_uid (die ctx page : Nat) (faults readOnly : Bool) (t : Thread) : (Thread.walked die ctx page faults readOnly t).uid = t.uid := by
  unfold Thread.walked
  split
  · split <;> rfl
  · rfl

theorem endWalk_crew (s : State) (w : Walk) : SameCrew s (endWalk s w) := by
  unfold endWalk
  simp only
  split
  case h_1 f level wr _ =>
    refine .trans ?_ (mapped_crew (fun x => walked_uid _ _ _ _ _ x) _)
    refine .trans ?_ (SameCrew.foldl (fun s core => keepXlate_crew s core _ _ _) _ _)
    split
    · exact ⟨rfl, rfl, rfl⟩
    · refine .trans ?_ (walkFault_crew ..)
      exact ⟨rfl, rfl, rfl⟩
  case h_2 kind level pois _ =>
    refine .trans ?_ (mapped_crew (fun x => walked_uid _ _ _ _ _ x) _)
    refine .trans (.trans ?_ (walkCheck_crew ..)) (walkFault_crew ..)
    exact ⟨rfl, rfl, rfl⟩

theorem translateNow_crew (s : State) (die ctx : Nat) (va : DWord) (write : Bool) : SameCrew s (translateNow s die ctx va write).1 := by
  unfold translateNow
  split
  · exact .refl s
  split
  · exact .refl s
  unfold walkNow
  simp only
  split
  · exact .refl s
  next s0 hw =>
    have h0 : SameCrew s s0 := by
      unfold walker at hw
      simp only at hw
      split at hw
      · cases hw
        exact endWalk_crew ..
      · split at hw
        · cases hw
        · cases hw
          exact .refl s
    split
    · exact h0.trans (walkCheck_crew ..)
    · exact h0.trans ⟨rfl, rfl, rfl⟩

theorem reachPages_crew (die ctx agent : Nat) (src launch : Word) (l : List DWord) (s : State) :
    SameCrew s (reachPages s die ctx agent src launch l).1 := by
  induction l generalizing s with
  | nil => exact .refl s
  | cons v l ih =>
    unfold reachPages
    have h1 := translateNow_crew s die ctx v true
    split
    next s1 _ ht =>
      rw [ht] at h1
      exact h1.trans (ih s1)
    next s1 ht =>
      rw [ht] at h1
      exact h1
    next s1 kind level ht =>
      rw [ht] at h1
      exact h1.trans (demandFault_crew ..)

theorem hasThread_of_crew {s t : State} (h : SameCrew s t) (u : Nat) : t.hasThread u = s.hasThread u := by
  have hany : ∀ x : State, x.hasThread u = (x.threads.map (·.uid)).any (· == u) := fun x => by simp [State.hasThread, List.any_map, Function.comp_def]
  rw [hany, hany, h.uids]

/-! ### The threads of a group take slots again (R18, R252) -/

/-- A thread of a spilled group takes a slot again. -/
def takeSlot (slots : List Nat) (s : State) (x : Thread × Nat) : State :=
  s.setThread ({ s.thread x.1.uid with spilled := false, stamp := s.cycle }.atSlot (slots.getD x.2 0))

/-- A thread that has come back in this cycle. -/
def Returned (s : State) (u : Nat) : Prop := (s.thread u).spilled = false ∧ (s.thread u).stamp = s.cycle

theorem atSlot_fields (t : Thread) (slot : Nat) : (t.atSlot slot).uid = t.uid ∧ (t.atSlot slot).spilled = t.spilled ∧ (t.atSlot slot).stamp = t.stamp := by
  unfold Thread.atSlot
  split <;> exact ⟨rfl, rfl, rfl⟩

theorem takeSlot_same {slots : List Nat} {s : State} {x : Thread × Nat} (h : s.hasThread x.1.uid = true) : Returned (takeSlot slots s x) x.1.uid := by
  obtain ⟨h1, h2, h3⟩ := atSlot_fields { s.thread x.1.uid with spilled := false, stamp := s.cycle } (slots.getD x.2 0)
  unfold Returned takeSlot
  rw [State.thread_setThread_same (h1.trans (State.thread_uid h)) h]
  exact ⟨h2, h3⟩

theorem takeSlot_returned {slots : List Nat} {s : State} {x : Thread × Nat} {u : Nat} (hx : s.hasThread x.1.uid = true) (h : Returned s u) :
    Returned (takeSlot slots s x) u := by
  by_cases e : u = x.1.uid
  · exact e ▸ takeSlot_same hx
  · obtain ⟨h1, -, -⟩ := atSlot_fields { s.thread x.1.uid with spilled := false, stamp := s.cycle } (slots.getD x.2 0)
    unfold Returned takeSlot
    rw [State.thread_setThread_other fun hu => e (hu.trans (h1.trans (State.thread_uid hx)))]
    exact h

/-- Every thread of the list comes back, and no team changes. -/
theorem takeSlots_spec (slots : List Nat) (l : List (Thread × Nat)) {s : State} (hl : ∀ x ∈ l, s.hasThread x.1.uid = true) :
    (l.foldl (takeSlot slots) s).teams = s.teams ∧ (l.foldl (takeSlot slots) s).cycle = s.cycle ∧
      ∀ u, Returned s u ∨ (∃ x ∈ l, x.1.uid = u) → Returned (l.foldl (takeSlot slots) s) u := by
  induction l generalizing s with
  | nil => exact ⟨rfl, rfl, fun u h => h.elim id fun ⟨x, hx, _⟩ => absurd hx (List.not_mem_nil)⟩
  | cons x l ih =>
    have hx := hl x (List.mem_cons_self ..)
    obtain ⟨h1, h2, h3⟩ := ih (s := takeSlot slots s x) fun y hy => (State.hasThread_setThread ..).trans (hl y (List.mem_cons_of_mem _ hy))
    refine ⟨h1, h2, fun u h => h3 u ?_⟩
    rcases h with h | ⟨y, hy, rfl⟩
    · exact .inl (takeSlot_returned hx h)
    · rcases List.mem_cons.mp hy with rfl | hy
      · exact .inl (takeSlot_same hx)
      · exact .inr ⟨y, hy, rfl⟩

/-- The threads of a group, in the order of their numbers. -/
def groupThreads (s : State) (team g : Nat) : List Thread :=
  ordered (s.threads.filter fun t => t.team == team && t.tid / (s.launchOf (s.team team).launch).rcd.width == g) fun x y => x.tid ≤ y.tid

/-- What GROUP_RETURN comes to where the group's area is reached (R18, R252). -/
theorem groupReturn_eq {s s1 : State} {team g : Nat} (ht : s.hasTeam team = true) (hg : g ∈ (s.team team).spilled) (hp : (s.team team).place = .resident)
    (ha : (s.launchOf (s.team team).launch).abort = none)
    (hr : ∃ x ∈ s.threads, (x.team = team ∧ x.tid / (s.launchOf (s.team team).launch).rcd.width = g) ∧ x.status = .ready)
    (hf : fitsCore s [team] (s.launchOf (s.team team).launch).rcd ((s.team team).spilled.filter (· != g)) (groupHalf (s.launchOf (s.team team).launch).rcd g)
      ((s.team team).core + groupHalf (s.launchOf (s.team team).launch).rcd g) = true)
    (h1 : reachPages s (dieOf ((s.team team).core + groupHalf (s.launchOf (s.team team).launch).rcd g)) (s.launchOf (s.team team).launch).ctx 3 0xFFFFFFFF 0
      (pagesOf (parkVa (s.launchOf (s.team team).launch).rcd ((s.team team).core + groupHalf (s.launchOf (s.team team).launch).rcd g) (s.team team).pos g)
        (groupBytes (s.launchOf (s.team team).launch).rcd)) = (s1, true)) :
    exec (.groupReturn team g) s = .next ((groupThreads s team g).zipIdx.foldl
      (takeSlot (freeSlots s1 [] ((s.team team).core + groupHalf (s.launchOf (s.team team).launch).rcd g) (groupThreads s team g).length))
      (s1.setTeam { s1.team team with spilled := (s.team team).spilled.filter (· != g) })) := by
  obtain ⟨x, hx, ⟨hxt, hxg⟩, hxr⟩ := hr
  have hm : x ∈ groupThreads s team g := mem_ordered.mpr (List.mem_filter.mpr ⟨hx, by simp [hxt, hxg]⟩)
  show execGroupReturn team g s = _
  unfold execGroupReturn
  simp only [h1]
  refine congrArg _ ((if_neg ?_).trans rfl)
  unfold groupThreads at hm
  rw [ht, hp, ha, hf, List.contains_iff_mem.mpr hg, List.any_eq_true.mpr ⟨x, hm, by rw [hxr]⟩]
  decide

/-- A group that is not spilled stays as it is. -/
theorem groupReturn_idle {s : State} {team g : Nat} (hg : g ∉ (s.team team).spilled) : exec (.groupReturn team g) s = .next s := by
  show execGroupReturn team g s = _
  unfold execGroupReturn
  exact congrArg _ (if_pos (by simp [hg]))

/-- A group that returns is spilled no longer, and its threads are ready as of now (R20). -/
theorem groupReturn_returns {s s1 : State} {team g : Nat} (ht : s.hasTeam team = true) {slots : List Nat} (hc : SameCrew s s1) :
    let t := (groupThreads s team g).zipIdx.foldl (takeSlot slots) (s1.setTeam { s1.team team with spilled := (s.team team).spilled.filter (· != g) })
    g ∉ (t.team team).spilled ∧ ∀ x ∈ s.threads, x.team = team ∧ x.tid / (s.launchOf (s.team team).launch).rcd.width = g →
      (t.thread x.uid).spilled = false ∧ (t.thread x.uid).stamp = s.cycle := by
  intro t
  have hteam : s1.hasTeam team = true := (congrArg (fun l : List Team => l.any (·.uid == team)) hc.teams).trans ht
  have hu := State.team_uid hteam
  have hhas : ∀ x ∈ (groupThreads s team g).zipIdx,
      (s1.setTeam { s1.team team with spilled := (s.team team).spilled.filter (· != g) }).hasThread x.1.uid = true := by
    intro x hx
    obtain ⟨-, -, hx⟩ := List.mem_zipIdx hx
    have hm := List.mem_of_mem_filter (mem_ordered.mp (hx ▸ List.getElem_mem _))
    rw [State.setTeam_hasThread_at, hasThread_of_crew hc]
    exact List.any_eq_true.mpr ⟨_, hm, beq_self_eq_true _⟩
  obtain ⟨hteams, hcy, hret⟩ := takeSlots_spec slots _ hhas
  refine ⟨?_, fun x hx hm => ?_⟩
  · have h := State.team_setTeam_same (s := s1) (t := { s1.team team with spilled := (s.team team).spilled.filter (· != g) }) (by rw [hu]; exact hteam)
    have e : t.team team = (s1.setTeam { s1.team team with spilled := (s.team team).spilled.filter (· != g) }).team team :=
      congrArg (fun l : List Team => (l.find? fun x : Team => x.uid == team).getD {}) hteams
    rw [e]
    rw [hu] at h
    rw [h]
    simp
  · obtain ⟨h1, h2⟩ := hret x.uid (.inr (by
      have hmem : x ∈ groupThreads s team g := mem_ordered.mpr (List.mem_filter.mpr ⟨hx, by simp [hm]⟩)
      obtain ⟨i, hi, e⟩ := List.getElem_of_mem hmem
      exact ⟨(x, i), by rw [← e]; simp [List.mem_zipIdx_iff_getElem?], rfl⟩))
    exact ⟨h1, h2.trans (hcy.trans hc.cycle)⟩

/-- Settles O40: teams are placed, units age and spilled groups return. -/
theorem teamsArePlaced : Obligations.TeamsArePlaced := by
  refine ⟨?_, ?_⟩
  · intro s u hl l r slot past placed
    refine ⟨fun h => ?_, fun core hw hg hs => ?_, fun core hr hn ha hs _ => ?_, fun h1 h2 h3 => ?_, fun h => ?_⟩
    · rw [teamDispatch_eq hl]
      by_cases hw : headWaits s l = false ∨ gangSize r ≠ 1
      · exact congrArg _ (if_pos hw)
      · have hn : slotFor s l = none := (h.resolve_left fun h => hw (.inl h)).resolve_left fun h => hw (.inr h)
        rw [if_neg hw, hn]
    · have e : past = (core + if (s.launchOf u).rcd.pair then 2 else 1) % 384 := by rw [← Option.getD_some (a := core) (b := 0), ← hs]
      rw [e]
      exact teamDispatch_places hl hw hg hs
    · have e : past = (core + if (s.launchOf u).rcd.pair then 2 else 1) % 384 := by rw [← Option.getD_some (a := core) (b := 0), ← hs]
      rw [e]
      exact gangReserve_places hl hr hn ha hs
    · rw [placementAging_eq hl]
      exact congrArg _ (if_pos ⟨h1, h2, h3⟩)
    · rw [placementAging_eq hl]
      exact congrArg _ (if_neg fun ⟨_, h2, h3⟩ => h.elim (Nat.not_lt.mpr h3) (absurd h2))
  · intro s team g s1 ht tm l half mine size
    refine ⟨fun hg => ?_, fun hg hp ha hr hf h1 => ?_⟩
    · exact groupReturn_idle hg
    · have hc : SameCrew s s1 := by
        have h2 := reachPages_crew (dieOf (tm.core + half)) l.ctx 3 0xFFFFFFFF 0 (pagesOf (parkVa l.rcd (tm.core + half) tm.pos g) size) s
        rwa [h1] at h2
      obtain ⟨hsp, hth⟩ := groupReturn_returns ht hc
      exact ⟨_, groupReturn_eq ht hg hp ha hr hf h1, hsp, fun _ => hth⟩

end Sys2Proof.Machine
end

section
/-! PROOF. Pre-emption and return (R43-R45, R261-R266): a thread's record and what a thread restored from it is, what a save writes,
what a resumption keeps, and the obligation. -/
namespace Sys2Proof.Machine
open Sys2Proof

/-! ### A thread's record (R265) -/

theorem natOf_bytesOf (x n : Nat) : natOf (bytesOf x n) = x % 256 ^ n := by
  induction n generalizing x with
  | zero => simp [bytesOf, natOf, Nat.mod_one]
  | succ n ih =>
    have e : bytesOf x (n + 1) = BitVec.ofNat 8 x :: bytesOf (x / 256) n := by
      unfold bytesOf
      rw [List.range_succ_eq_map, List.map_cons, List.map_map]
      refine congrArg₂ _ rfl (List.map_congr_left fun i _ => ?_)
      simp only [Function.comp_def, Nat.shiftRight_eq_div_pow, Nat.div_div_eq_div_mul]
      rw [show 2 ^ (8 * i.succ) = 256 * 2 ^ (8 * i) by rw [Nat.mul_succ, Nat.pow_add]; omega]
    rw [e, natOf, ih, BitVec.toNat_ofNat, pow_succ' 256 n, Nat.mod_mul]

/-- Numbers one after the other, each in its bytes. -/
def numBytes (l : List (Nat × Nat)) : List Byte := l.flatMap fun x => bytesOf x.1 x.2

theorem numBytes_length (l : List (Nat × Nat)) : (numBytes l).length = (l.map (·.2)).sum := by simp [numBytes, List.length_flatMap, bytesOf_length]

/-- Each number is read back at its place. -/
theorem natOf_numBytes {l : List (Nat × Nat)} (i : Nat) {x n : Nat} (h : l[i]? = some (x, n)) :
    natOf (((numBytes l).drop ((l.take i).map (·.2)).sum).take n) = x % 256 ^ n := by
  obtain ⟨hi, e⟩ := List.getElem?_eq_some_iff.mp h
  have hl : numBytes l = numBytes (l.take i) ++ (bytesOf x n ++ numBytes (l.drop (i + 1))) := by
    conv_lhs => rw [← List.take_append_drop i l, List.drop_eq_getElem_cons hi, e]
    simp [numBytes, List.flatMap_append]
  rw [hl, ← numBytes_length, List.drop_left, List.take_append_of_le_length (by rw [bytesOf_length]), List.take_of_length_le (by rw [bytesOf_length]), natOf_bytesOf]

/-- What a thread's record holds, with the lengths in bytes. -/
def recordFields (t : Thread) : List (Nat × Nat) :=
  [(t.keptPc.toNat, 8), (stateCode t * 2 ^ 61 + one t.hnd * 2 ^ 60 + one (t.defer != []) * 2 ^ 59 + sbBits t, 8), (t.epc.toNat, 8), (t.eaddr.toNat, 8),
    (t.ecode.toNat, 4), (t.einfo.toNat, 4), ((scoutWord t).toNat, 4), (t.policy.toNat, 4), (t.fstat.toNat, 4), (t.remerr.toNat, 4), (t.tid, 4), (0, 4)]

theorem threadRecord_numBytes (t : Thread) : threadRecord t = numBytes (recordFields t) := by
  simp [threadRecord, numBytes, recordFields]

theorem threadRecord_length (t : Thread) : (threadRecord t).length = 64 := by
  rw [threadRecord_numBytes, numBytes_length]
  rfl

theorem bits_eq (x lo n : Nat) : bits x lo n = x / 2 ^ lo % 2 ^ n := by rw [bits, Nat.shiftRight_eq_div_pow]

theorem two_pow_six (i : Nat) : 2 ^ (6 * (i + 1)) = 64 * 2 ^ (6 * i) := by
  rw [Nat.mul_succ, pow_add, Nat.mul_comm]
  rfl

/-- Counters of 6 bits one after the other are the digits of a number. -/
theorem ofDigits_six {l : List Nat} (h : ∀ x ∈ l, x < 64) :
    ((List.range l.length).map fun i => l.getD i 0 % 64 * 2 ^ (6 * i)).sum = Nat.ofDigits 64 l := by
  induction l with
  | nil => rfl
  | cons x l ih =>
    rw [List.forall_mem_cons] at h
    rw [Nat.ofDigits_cons, ← ih h.2, ← List.sum_map_mul_left, List.length_cons, List.range_succ_eq_map, List.map_cons, List.map_map, List.sum_cons]
    refine congrArg₂ _ (by simp [Nat.mod_eq_of_lt h.1]) (congrArg _ (List.map_congr_left fun i _ => ?_))
    simp only [Function.comp_def, Nat.succ_eq_add_one, two_pow_six, List.getD_cons_succ]
    exact Nat.mul_left_comm ..

/-- The digits are read back, whatever stands above them. -/
theorem bits_ofDigits {l : List Nat} (h : ∀ x ∈ l, x < 64) (m : Nat) :
    (List.range l.length).map (fun i => bits (Nat.ofDigits 64 l + 64 ^ l.length * m) (6 * i) 6) = l := by
  induction l with
  | nil => rfl
  | cons x l ih =>
    rw [List.forall_mem_cons] at h
    have e : Nat.ofDigits 64 (x :: l) + 64 ^ (x :: l).length * m = x + 64 * (Nat.ofDigits 64 l + 64 ^ l.length * m) := by
      rw [Nat.ofDigits_cons, List.length_cons, pow_succ', Nat.mul_add, Nat.mul_assoc, Nat.add_assoc]
    rw [e, List.length_cons, List.range_succ_eq_map, List.map_cons, List.map_map]
    refine congrArg₂ _ ?_ ((List.map_congr_left fun i _ => ?_).trans (ih h.2))
    · rw [bits_eq, Nat.mul_zero, pow_zero, Nat.div_one]
      exact (Nat.add_mul_mod_self_left ..).trans (Nat.mod_eq_of_lt h.1)
    · simp only [Function.comp_def, Nat.succ_eq_add_one, bits_eq, two_pow_six]
      rw [← Nat.div_div_eq_div_mul, Nat.add_mul_div_left _ _ (by decide), Nat.div_eq_of_lt h.1, Nat.zero_add]

theorem stateCode_le (t : Thread) : stateCode t ≤ 4 := by
  unfold stateCode
  split <;> try split
  all_goals decide

/-- A word of four parts: three that a bit each, or three bits, hold, and one of 36 bits. -/
theorem bits_parts {k h d l : Nat} (hk : k < 8) (hh : h < 2) (hd : d < 2) (hl : l < 2 ^ 36) :
    let st := (k * 2 ^ 61 + h * 2 ^ 60 + d * 2 ^ 59 + l) % 256 ^ 8
    bits st 61 3 = k ∧ bits st 60 1 = h ∧ bits st 59 1 = d ∧ ∃ m, st = l + 2 ^ 36 * m := by
  have e : (k * 2 ^ 61 + h * 2 ^ 60 + d * 2 ^ 59 + l) % 256 ^ 8 = k * 2 ^ 61 + h * 2 ^ 60 + d * 2 ^ 59 + l := by omega
  simp only [e, bits_eq]
  refine ⟨by omega, by omega, by omega, k * 2 ^ 25 + h * 2 ^ 24 + d * 2 ^ 23, by omega⟩

theorem sbBits_spec {t : Thread} (hl : t.sb.length = 6) (hb : ∀ x ∈ t.sb, x < 64) :
    sbBits t < 2 ^ 36 ∧ ∀ m, (List.range 6).map (fun i => bits (sbBits t + 2 ^ 36 * m) (6 * i) 6) = t.sb := by
  have e : sbBits t = Nat.ofDigits 64 t.sb := by
    rw [← ofDigits_six hb, hl]
    rfl
  have h6 : 64 ^ t.sb.length = 2 ^ 36 := by rw [hl]; rfl
  rw [e, ← h6]
  refine ⟨Nat.ofDigits_lt_base_pow_length (by decide) hb, fun m => ?_⟩
  have := bits_ofDigits hb m
  rwa [hl] at this ⊢

theorem scoutWord_toNat {t : Thread} (h : t.scoutBud ≤ 256) :
    (scoutWord t).toNat = one t.scoutEn * 2 ^ 31 + t.scoutBud * 2 ^ 16 + t.scoutEpi.toNat := by
  have he := t.scoutEpi.isLt
  unfold scoutWord one
  rw [BitVec.toNat_ofNat]
  split <;> omega

theorem scoutWord_bits {t : Thread} (h : t.scoutBud ≤ 256) :
    (bits (scoutWord t).toNat 31 1 == 1) = t.scoutEn ∧ min 256 (bits (scoutWord t).toNat 16 9) = t.scoutBud ∧
      BitVec.ofNat 16 (scoutWord t).toNat = t.scoutEpi := by
  have he := t.scoutEpi.isLt
  have h1 : ∀ b, one b < 2 := by decide
  have h2 := h1 t.scoutEn
  rw [scoutWord_toNat h]
  simp only [bits_eq]
  refine ⟨?_, by omega, BitVec.eq_of_toNat_eq ?_⟩
  · rw [show (one t.scoutEn * 2 ^ 31 + t.scoutBud * 2 ^ 16 + t.scoutEpi.toNat) / 2 ^ 31 % 2 ^ 1 = one t.scoutEn by omega]
    cases t.scoutEn <;> rfl
  · rw [BitVec.toNat_ofNat]
    omega

/-- A field of a record is read back (R265). -/
theorem record_field (t : Thread) (i : Nat) {x n : Nat} (h : (recordFields t)[i]? = some (x, n)) :
    natOf (((threadRecord t).drop (((recordFields t).take i).map (·.2)).sum).take n) = x % 256 ^ n := by
  rw [threadRecord_numBytes, natOf_numBytes i h]

theorem ofNat_toNat_mod {w n : Nat} (x : BitVec w) (h : 2 ^ w ≤ 256 ^ n) : BitVec.ofNat w (x.toNat % 256 ^ n) = x := by
  rw [Nat.mod_eq_of_lt (Nat.lt_of_lt_of_le x.isLt h), BitVec.ofNat_toNat, BitVec.setWidth_eq]

theorem mergeErr_zero {x : Word} (h : x.msb = false → x = 0) : mergeErr x 0 = x := by
  unfold mergeErr
  cases hx : x.msb with
  | false => simp [h hx]
  | true => simp

theorem policy_kept {x : Word} (h : x &&& 0xFF = 0) : x &&& 0xFFFFFF00 = x := by
  have e : (x &&& 0xFF) ||| (x &&& 0xFFFFFF00) = x := by
    rw [← BitVec.and_or_distrib_left]
    exact BitVec.and_allOnes
  rw [h] at e
  exact (BitVec.zero_or).symm.trans e

/-- Trying a wait again changes the state and the reply alone. -/
theorem again_eq (t : Thread) : ∃ status reply, t.again = { t with status, reply } ∧
    ∀ remerr kept keptSb, ({ t with remerr, kept, keptSb } : Thread).again = { t with remerr, kept, keptSb, status, reply } := by
  unfold Thread.again
  cases hs : t.status with
  | waiting w =>
    cases w with
    | monw | racq _ _ _ => exact ⟨.ready, none, rfl, fun _ _ _ => rfl⟩
    | _ => exact ⟨t.status, t.reply, rfl, fun _ _ _ => by rw [hs]⟩
  | _ => exact ⟨t.status, t.reply, rfl, fun _ _ _ => by rw [hs]⟩

/-- What a thread takes from a record whose state, PC and counters software left as they were (R265). -/
def takenFrom (t : Thread) (b : List Byte) (free : Nat → Word) : Thread :=
  let w := fun o n => natOf ((b.drop o).take n)
  { t with
    hnd := bits (w 8 8) 60 1 == 1
    defer := if bits (w 8 8) 59 1 == 0 then [] else if t.defer != [] then t.defer else [(pairOf (free 0) (free 1), fields [(1, 8), (bits (free 2).toNat 4 3, 5), (bits (free 2).toNat 0 4, 0)])]
    epc := BitVec.ofNat 64 (w 0x10 8), eaddr := BitVec.ofNat 64 (w 0x18 8), ecode := BitVec.ofNat 8 (w 0x20 4), einfo := BitVec.ofNat 32 (w 0x24 4)
    scoutEn := bits (w 0x28 4) 31 1 == 1, scoutBud := min 256 (bits (w 0x28 4) 16 9), scoutEpi := BitVec.ofNat 16 (w 0x28 4)
    policy := BitVec.ofNat 32 (w 0x2C 4) &&& 0xFFFFFF00, fstat := BitVec.ofNat 5 (w 0x30 4), tid := w 0x38 4 % 2048 }

theorem restoreThread_kept {t : Thread} {b : List Byte} (regs : List Word) (slot core now : Nat) (free : Nat → Word)
    (hc : bits (natOf ((b.drop 8).take 8)) 61 3 = t.kept) (hp : BitVec.ofNat 64 (natOf ((b.drop 0).take 8)) = t.keptPc)
    (hs : (List.range 6).map (fun i => bits (natOf ((b.drop 8).take 8)) (6 * i) 6) = t.keptSb) :
    restoreThread t b regs slot core now free =
      { takenFrom t.again.newLane b free with
        remerr := mergeErr (BitVec.ofNat 32 (natOf ((b.drop 0x34).take 4))) t.remerr
        regs := if t.spilled then t.regs else regs, slot := slot, core := core, stamp := now } := by
  unfold restoreThread takenFrom
  simp only [hc, hp, hs, beq_self_eq_true, ↓reduceIte]
  rfl

/-- A thread restored from its own record is as it was, but for its place and its lane, and tries its wait again (R265, R266). -/
theorem restoreThread_record {th : Thread} (slot core now : Nat) (free : Nat → Word) (hl : th.sb.length = 6) (hb : ∀ x ∈ th.sb, x < 64)
    (hs : th.scoutBud ≤ 256) (ht : th.tid < 2048) (he : th.remerr.msb = false → th.remerr = 0) (hp : th.policy &&& 0xFF = 0) :
    restoreThread { th with remerr := 0, kept := stateCode th, keptSb := th.sb } (threadRecord th) th.regs slot core now free =
      { th.again with kept := stateCode th, keptSb := th.sb, slot := slot, core := core, stamp := now, paths := th.paths.map fun x => (x.1, changedPath) } := by
  have f0 : natOf (((threadRecord th).drop 0).take 8) = _ := record_field th 0 rfl
  have f1 : natOf (((threadRecord th).drop 8).take 8) = _ := record_field th 1 rfl
  have f2 : natOf (((threadRecord th).drop 0x10).take 8) = _ := record_field th 2 rfl
  have f3 : natOf (((threadRecord th).drop 0x18).take 8) = _ := record_field th 3 rfl
  have f4 : natOf (((threadRecord th).drop 0x20).take 4) = _ := record_field th 4 rfl
  have f5 : natOf (((threadRecord th).drop 0x24).take 4) = _ := record_field th 5 rfl
  have f6 : natOf (((threadRecord th).drop 0x28).take 4) = _ := record_field th 6 rfl
  have f7 : natOf (((threadRecord th).drop 0x2C).take 4) = _ := record_field th 7 rfl
  have f8 : natOf (((threadRecord th).drop 0x30).take 4) = _ := record_field th 8 rfl
  have f9 : natOf (((threadRecord th).drop 0x34).take 4) = _ := record_field th 9 rfl
  have f10 : natOf (((threadRecord th).drop 0x38).take 4) = _ := record_field th 10 rfl
  have h1 : ∀ b, one b < 2 := by decide
  obtain ⟨hlt, hsb⟩ := sbBits_spec hl hb
  obtain ⟨b1, b2, b3, m, b4⟩ := bits_parts (Nat.lt_of_le_of_lt (stateCode_le th) (by decide)) (h1 th.hnd) (h1 (th.defer != [])) hlt
  obtain ⟨c1, c2, c3⟩ := scoutWord_bits hs
  have hsb := hsb m
  rw [← b4] at hsb
  have hdef : (bits ((stateCode th * 2 ^ 61 + one th.hnd * 2 ^ 60 + one (th.defer != []) * 2 ^ 59 + sbBits th) % 256 ^ 8) 59 1 == 0) = (th.defer == []) := by
    rw [b3]
    cases th.defer <;> rfl
  have hhnd : (bits ((stateCode th * 2 ^ 61 + one th.hnd * 2 ^ 60 + one (th.defer != []) * 2 ^ 59 + sbBits th) % 256 ^ 8) 60 1 == 1) = th.hnd := by
    rw [b2]
    cases th.hnd <;> rfl
  obtain ⟨status, reply, ha, ha'⟩ := again_eq th
  have hpc : BitVec.ofNat 64 (natOf (((threadRecord th).drop 0).take 8)) = th.keptPc := by rw [f0, ofNat_toNat_mod _ (Nat.le_refl _)]
  have h := restoreThread_kept (t := { th with remerr := 0, kept := stateCode th, keptSb := th.sb }) (b := threadRecord th) th.regs slot core now free
    (by rw [f1]; exact b1) hpc (by rw [f1]; exact hsb)
  rw [h, ha, ha']
  unfold takenFrom Thread.newLane
  have hd : ∀ y, (if (th.defer == []) = true then [] else if (th.defer != []) = true then th.defer else y) = th.defer := by
    intro y
    cases th.defer <;> rfl
  have ht : th.tid % 256 ^ 4 % 2048 = th.tid := by rw [Nat.mod_eq_of_lt (Nat.lt_trans ht (by decide)), Nat.mod_eq_of_lt ht]
  simp only [f1, f2, f3, f4, f5, f6, f7, f8, f9, f10, hdef, hhnd, hd, ht, Nat.mod_eq_of_lt (show (scoutWord th).toNat < 256 ^ 4 from (scoutWord th).isLt), c1, c2, c3,
    ofNat_toNat_mod th.epc (n := 8) (Nat.le_refl _), ofNat_toNat_mod th.eaddr (n := 8) (Nat.le_refl _), ofNat_toNat_mod th.ecode (n := 4) (by decide),
    ofNat_toNat_mod th.einfo (n := 4) (Nat.le_refl _), ofNat_toNat_mod th.policy (n := 4) (Nat.le_refl _), ofNat_toNat_mod th.fstat (n := 4) (by decide),
    ofNat_toNat_mod th.remerr (n := 4) (Nat.le_refl _), mergeErr_zero he, policy_kept hp, ite_self]

end Sys2Proof.Machine
end

section
/-! PROOF. Resumption (R45, R265, R266): what it keeps of the threads, the launches, the teams' places and the cores' queues. -/
namespace Sys2Proof.Machine
open Sys2Proof

/-! ### Who is where -/

/-- Two states with the same threads and teams, as far as their identities go, every team in its place, and the same launches. -/
structure SamePlaces (s t : State) : Prop where
  uids : t.threads.map (·.uid) = s.threads.map (·.uid)
  launches : t.launches = s.launches
  teams : ∀ v, t.hasTeam v = s.hasTeam v ∧ (t.team v).place = (s.team v).place ∧ (t.team v).core = (s.team v).core

theorem SamePlaces.refl (s : State) : SamePlaces s s := ⟨rfl, rfl, fun _ => ⟨rfl, rfl, rfl⟩⟩
theorem SamePlaces.trans {s t u : State} (h1 : SamePlaces s t) (h2 : SamePlaces t u) : SamePlaces s u :=
  ⟨h2.uids.trans h1.uids, h2.launches.trans h1.launches, fun v => by
    obtain ⟨a1, b1, c1⟩ := h1.teams v
    obtain ⟨a2, b2, c2⟩ := h2.teams v
    exact ⟨a2.trans a1, b2.trans b1, c2.trans c1⟩⟩

theorem SamePlaces.of_teams {s t : State} (h1 : t.threads.map (·.uid) = s.threads.map (·.uid)) (h2 : t.launches = s.launches) (h3 : t.teams = s.teams) :
    SamePlaces s t :=
  ⟨h1, h2, fun v => by
    have e : t.team v = s.team v := congrArg (fun l : List Team => (l.find? fun x : Team => x.uid == v).getD {}) h3
    exact ⟨congrArg (fun l : List Team => l.any (·.uid == v)) h3, by rw [e], by rw [e]⟩⟩

theorem setThread_places (s : State) (t : Thread) : SamePlaces s (s.setThread t) :=
  .of_teams (by
    unfold State.setThread modWhere
    rw [List.map_map]
    refine List.map_congr_left fun x _ => ?_
    simp only [Function.comp_apply]
    split
    case isTrue h => exact (beq_iff_eq.mp h).symm
    case isFalse => rfl) rfl rfl

theorem setTeam_places {s : State} {t : Team} (h1 : t.place = (s.team t.uid).place) (h2 : t.core = (s.team t.uid).core) : SamePlaces s (s.setTeam t) :=
  ⟨rfl, rfl, fun v => by
    rw [State.hasTeam_setTeam, State.team_setTeam]
    split
    case isTrue h => exact ⟨rfl, by rw [h1, h.1], by rw [h2, h.1]⟩
    case isFalse => exact ⟨rfl, rfl, rfl⟩⟩

/-- Two states with everyone in place and the same items in the cores' matrix queues. -/
structure SameSeats (s t : State) : Prop extends SamePlaces s t where
  anvil : ∀ c, (t.core c).anvil = (s.core c).anvil

theorem SameSeats.refl (s : State) : SameSeats s s := ⟨.refl s, fun _ => rfl⟩
theorem SameSeats.trans {s t u : State} (h1 : SameSeats s t) (h2 : SameSeats t u) : SameSeats s u :=
  ⟨h1.toSamePlaces.trans h2.toSamePlaces, fun c => (h2.anvil c).trans (h1.anvil c)⟩
theorem SameSeats.foldl {α : Type} {f : State → α → State} (hf : ∀ s x, SameSeats s (f s x)) (l : List α) (s : State) : SameSeats s (l.foldl f s) := by
  induction l generalizing s with
  | nil => exact .refl s
  | cons x l ih => exact (hf s x).trans (ih (f s x))

theorem setThread_seats (s : State) (t : Thread) : SameSeats s (s.setThread t) := ⟨setThread_places s t, fun _ => rfl⟩
theorem setCore_seats {s : State} {c : Nat} {x : Core} (h : x.anvil = (s.core c).anvil) : SameSeats s (s.setCore c x) :=
  ⟨.of_teams rfl rfl rfl, fun v => by
    rw [State.core_setCore]
    split
    case isTrue e => rw [h, e]
    case isFalse => rfl⟩
theorem setTeam_seats {s : State} {t : Team} (h1 : t.place = (s.team t.uid).place) (h2 : t.core = (s.team t.uid).core) : SameSeats s (s.setTeam t) :=
  ⟨setTeam_places h1 h2, fun _ => rfl⟩

/-! ### Writes of memory leave the cores as they are -/

theorem poke_cores (s : State) (off : Nat) (l : List Byte) (p : Bool) : (s.poke off l p).cores = s.cores := by
  unfold State.poke
  split <;> rfl

theorem raise_cores (s : State) (v : Nat) : (raise s v).cores = s.cores := by
  unfold raise
  dsimp only
  split <;> rfl

theorem mcRecord_cores (s : State) (sev kind uclass unit : Nat) (launch : Word) (addr : Nat) : (mcRecord s sev kind uclass unit launch addr).cores = s.cores := by
  unfold mcRecord putCheck
  split
  · rfl
  · split
    · rw [raise_cores]
      exact poke_cores ..
    · rfl

theorem foldl_cores {α : Type} {f : State → α → State} (hf : ∀ s x, (f s x).cores = s.cores) (l : List α) (s : State) : (l.foldl f s).cores = s.cores := by
  induction l generalizing s with
  | nil => rfl
  | cons x l ih => exact (ih (f s x)).trans (hf s x)

theorem write_cores (s : State) (off : Nat) (l : List Byte) (p : Bool) : (s.write off l p).cores = s.cores := by
  unfold State.write
  split
  · exact poke_cores ..
  · exact (foldl_cores (fun _ _ => mcRecord_cores ..) _ _).trans (foldl_cores (fun _ _ => poke_cores ..) _ _)

theorem write_seats (s : State) (off : Nat) (l : List Byte) (p : Bool) : SameSeats s (s.write off l p) := by
  have h := write_threads s off l p
  exact ⟨.of_teams (by rw [h.threads]) h.launches h.teams, fun c => by unfold State.core; rw [write_cores]⟩

theorem leaveSlots_seats (s : State) (tm : Team) : SameSeats s (leaveSlots s tm) := by
  unfold leaveSlots
  split
  · exact SameSeats.foldl (fun _ _ => (write_seats ..).trans (write_seats ..)) _ s
  · exact .refl s

/-! ### A resumed team takes its places (R18, R38, R45, R54) -/

theorem repartition_seats (s : State) (r : LaunchRec) (core : Nat) : SameSeats s (repartition s r core) := by
  unfold repartition
  simp only
  split
  · exact .refl s
  · exact setCore_seats rfl

theorem emptyL1_seats (s : State) (core : Nat) : SameSeats s (emptyL1 s core) := setCore_seats rfl
theorem restartCount_seats (s : State) (core : Nat) : SameSeats s (restartCount s core) := setCore_seats rfl

theorem seatHalf_seats (s : State) (tm : Team) (core half : Nat) : SameSeats s (seatHalf s tm core half) :=
  SameSeats.foldl (fun _ _ => setThread_seats ..) _ s

theorem restoreHalf_seats {s : State} {old : Team} (h : s.hasTeam old.uid = true) (half : Nat) : SameSeats s (restoreHalf old half s) := by
  unfold restoreHalf
  extract_lets tm l r base d half free first nthr ts s1 scr acc f bar conv src tm1 tm2 c s2 n
  have hu : tm.uid = old.uid := State.team_uid h
  have h1 : SameSeats s s1 := SameSeats.foldl (fun _ _ => setThread_seats ..) _ s
  have h2 : SameSeats s1 s2 := setCore_seats rfl
  have h3 : SameSeats s2 (s2.setCore (tm.core + half) { n with tags := tagsBack tm (d 0x30 8) c.tags n.tags }) := setCore_seats rfl
  have e : tm2.uid = (s1.team tm.uid).uid ∧ tm2.place = (s1.team tm.uid).place ∧ tm2.core = (s1.team tm.uid).core := by
    simp only [tm2]
    split <;> exact ⟨rfl, rfl, rfl⟩
  have hu2 : tm2.uid = tm.uid := e.1.trans (State.team_uid (by rw [(h1.teams _).1, hu]; exact h))
  have h23 := h2.trans h3
  generalize s2.setCore (tm.core + half) { n with tags := tagsBack tm (d 0x30 8) c.tags n.tags } = s3 at h3 h23 ⊢
  refine (h1.trans h23).trans (setTeam_seats ?_ ?_)
  · rw [(h23.teams _).2.1, hu2, e.2.1]
  · rw [(h23.teams _).2.2, hu2, e.2.2]

theorem drain_idle {s : State} {core : Nat} (h : (s.core core).anvil = []) : drain s core = s := by
  unfold drain
  rw [h]
  rfl

/-- A resumed team lies on its core again, and nothing else moved (R45). -/
theorem resumeTeam_spec {s : State} {u core : Nat} (ht : s.hasTeam u = true) (ha : (s.team u).anvil = []) (h1 : (s.core core).anvil = [])
    (h2 : (s.core (core + 1)).anvil = []) :
    ((resumeTeam s u core).team u).place = .resident ∧ ((resumeTeam s u core).team u).core = core ∧ (resumeTeam s u core).launches = s.launches ∧
      (resumeTeam s u core).threads.map (·.uid) = s.threads.map (·.uid) := by
  have hu := State.team_uid ht
  unfold resumeTeam
  extract_lets tm r halves s1 s2 s3 s4
  have a1 : SameSeats s s1 := SameSeats.foldl (fun _ _ => ((repartition_seats ..).trans (emptyL1_seats ..)).trans (seatHalf_seats ..)) _ s
  have e2 : s2 = s1.setTeam { tm with core := core, place := .resident, anvil := [], image := [] } := rfl
  have ht1 : s1.hasTeam tm.uid = true := by rw [(a1.teams _).1, hu]; exact ht
  have t2 : s2.team u = { tm with core := core, place := .resident, anvil := [], image := [] } := by
    rw [e2, ← hu]
    exact State.team_setTeam_same ht1
  have ht2 : s2.hasTeam tm.uid = true := by rw [e2, State.hasTeam_setTeam]; exact ht1
  have a3 : SameSeats s2 s3 := by
    have key : ∀ (l : List Nat) (s : State), s.hasTeam tm.uid = true → SameSeats s (l.foldl (fun s h => restoreHalf tm h s) s) := by
      intro l
      induction l with
      | nil => exact fun s _ => .refl s
      | cons h l ih => exact fun s hs => (restoreHalf_seats hs h).trans (ih _ ((((restoreHalf_seats hs h).teams _).1).trans hs))
    exact key halves s2 ht2
  have a4 : SameSeats s3 s4 := by
    have e4 : s4 = leaveSlots (coresAt r core |>.foldl restartCount s3) tm := by
      simp only [s4, tm, ha]
      rfl
    rw [e4]
    exact (SameSeats.foldl restartCount_seats _ s3).trans (leaveSlots_seats ..)
  have a24 := a3.trans a4
  have hd : ∀ c, (s.core c).anvil = [] → (({ s4 with draws := s4.draws + 2 ^ 29 } : State).core c).anvil = [] := fun c hc =>
    (a24.anvil c).trans ((congrArg Core.anvil (by rw [e2]; rfl)).trans ((a1.anvil c).trans hc))
  rw [drain_idle (hd core h1), drain_idle (hd (core + 1) h2)]
  refine ⟨?_, ?_, ?_, ?_⟩
  · exact ((a24.teams u).2.1).trans (congrArg Team.place t2)
  · exact ((a24.teams u).2.2).trans (congrArg Team.core t2)
  · exact a24.launches.trans a1.launches
  · exact a24.uids.trans a1.uids

/-! ### TEAM_RESUME (R45, R266) -/

theorem slotsWait_idle {s : State} (hf : s.flips = []) (hb : s.bias = []) (tm : Team) (n : Nat) : slotsWait s tm n = (s, false) := by
  have hflip : ∀ off, flipping s off = false := fun off => by simp [flipping, hf]
  have hbias : ∀ off, hostBias s off = false := fun off => by simp [hostBias, hb, nmem]
  unfold slotsWait
  simp only
  rw [if_neg (by simp [hflip]), cohere_device fun o _ => hbias o]
  rfl

theorem filter_uid_eq_singleton {l : List Team} {x : Team} (hx : x ∈ l) (hn : (l.map (·.uid)).Nodup) : l.filter (·.uid == x.uid) = [x] := by
  induction l with
  | nil => exact absurd hx List.not_mem_nil
  | cons y l ih =>
    rw [List.map_cons, List.nodup_cons] at hn
    rcases List.mem_cons.mp hx with rfl | hx
    · have h : l.filter (·.uid == x.uid) = [] :=
        List.filter_eq_nil_iff.mpr fun z hz hzx => hn.1 (List.mem_map.mpr ⟨z, hz, beq_iff_eq.mp hzx⟩)
      rw [List.filter_cons, if_pos (beq_self_eq_true _), h]
    · have h : ¬ (y.uid == x.uid) = true := fun hyx => hn.1 (List.mem_map.mpr ⟨x, hx, (beq_iff_eq.mp hyx).symm⟩)
      rw [List.filter_cons, if_neg h, ih hx hn.2]

theorem State.team_mem {s : State} {u : Nat} (h : s.hasTeam u = true) : s.team u ∈ s.teams := by
  unfold State.team
  cases hx : s.teams.find? (·.uid == u) with
  | some x => exact List.mem_of_find?_eq_some hx
  | none =>
    obtain ⟨x, hm, hv⟩ := List.any_eq_true.mp h
    exact absurd hv (List.find?_eq_none.mp hx x hm)

section
variable {s : State} {team : Nat} (ht : s.hasTeam team = true)
include ht

/-- A team of a launch without gangs is a unit of its own (R40). -/
theorem unitOf_alone (hg : gangSize (s.launchOf (s.team team).launch).rcd = 1) (hn : (s.teams.map (·.uid)).Nodup) : unitOf s (s.team team) = [s.team team] := by
  rw [← filter_uid_eq_singleton (State.team_mem ht) hn]
  refine List.filter_congr fun y _ => ?_
  have h : gangMates s y (s.team team) = false := by
    unfold gangMates
    by_cases hy : y.launch = (s.team team).launch
    · simp [hy, hg]
    · simp [hy]
  rw [h, Bool.or_false]

theorem teamResume_idle (h : (s.team team).isSaved = false ∨ (s.launchOf (s.team team).launch).abort ≠ none) : exec (.teamResume team) s = .next s := by
  show execTeamResume team s = _
  unfold execTeamResume
  refine congrArg _ (if_pos ?_)
  rcases h with h | h
  · have hm : s.team team ∈ unitOf s (s.team team) := List.mem_filter.mpr ⟨State.team_mem ht, by simp⟩
    have hall : (unitOf s (s.team team)).all Team.isSaved = false := List.all_eq_false.mpr ⟨_, hm, by simp [h]⟩
    simp [hall]
  · simp [Option.isSome_iff_ne_none.mpr h]

/-- What TEAM_RESUME of a saved team without a gang comes to (R45, R266). -/
theorem teamResume_eq (hs : (s.team team).isSaved = true) (ha : (s.launchOf (s.team team).launch).abort = none)
    (hg : gangSize (s.launchOf (s.team team).launch).rcd = 1) (hn : (s.teams.map (·.uid)).Nodup) :
    exec (.teamResume team) s = .next (
      if brokenSlots s (s.team team) ≠ [] then
        (slotLaunches s (s.team team) (brokenSlots s (s.team team))).foldl (fun s l => abortLaunch s l 0x27 0) s
      else if entriesHold s (s.team team) = false then s
      else match resumeCore s (s.team team) with
        | some c =>
          let w := slotsWait s (s.team team) (3 * (s.team team).core + (s.launchOf (s.team team).launch).prio)
          if w.2 then w.1 else resumeTeam w.1 team c
        | none => s) := by
  have hu := State.team_uid ht
  show execTeamResume team s = _
  unfold execTeamResume
  simp only [unitOf_alone ht hg hn, ht, ha, hs, List.all_cons, List.all_nil]
  refine congrArg _ ((if_neg (by decide)).trans ?_)
  by_cases hb : brokenSlots s (s.team team) = []
  · have hf : [s.team team].find? (fun t => brokenSlots s t != []) = none := by simp [hb]
    rw [hf, if_neg (not_not.mpr hb)]
    cases he : entriesHold s (s.team team) with
    | false => rfl
    | true =>
      have hr : resumeCores s (s.team team) [s.team team] = (resumeCore s (s.team team)).map ([·]) := by
        unfold resumeCores resumeCore homeCores
        split <;> rename_i e <;> rw [e] <;> rfl
      rw [hr]
      cases resumeCore s (s.team team) with
      | none => rfl
      | some c =>
        simp only [Option.map_some, List.foldl_cons, List.foldl_nil, List.zip_cons_cons, List.zip_nil_right, hu]
        rfl
  · have hf : [s.team team].find? (fun t => brokenSlots s t != []) = some (s.team team) := by simp [hb]
    rw [hf, if_pos hb]

end

/-- A slot that does not match aborts every launch in it (R266). -/
theorem abortLaunches_aborted (us : List Nat) (s : State) : ∀ u ∈ us, AllAborted (us.foldl (fun s l => abortLaunch s l 0x27 0) s) u :=
  foldl_reaches (P := AllAborted) (fun s l => (abortLaunch_ends s l 0x27 0).1) (fun s l => (abortLaunch_ends s l 0x27 0).2) (fun h => h.aborted _) us s

end Sys2Proof.Machine
end

section
/-! PROOF. Pre-emption (R43, R44, R261-R265): what stopping and saving a team leave as they are, what the save slot holds then, and the
obligation. -/
namespace Sys2Proof.Machine
open Sys2Proof

/-! ### A team stops (R44, R262) -/

/-- Two states with the same memory, teams, launches and contexts, the same CXL links down, and the same threads, as far as their
identities go. -/
structure SameBooks (s t : State) : Prop where
  mem : t.mem = s.mem
  teams : t.teams = s.teams
  launches : t.launches = s.launches
  ctxs : t.ctxs = s.ctxs
  cxldn : t.hub.cxldn = s.hub.cxldn
  uids : t.threads.map (·.uid) = s.threads.map (·.uid)

theorem SameBooks.refl (s : State) : SameBooks s s := ⟨rfl, rfl, rfl, rfl, rfl, rfl⟩
theorem SameBooks.trans {s t u : State} (h1 : SameBooks s t) (h2 : SameBooks t u) : SameBooks s u :=
  ⟨h2.mem.trans h1.mem, h2.teams.trans h1.teams, h2.launches.trans h1.launches, h2.ctxs.trans h1.ctxs, h2.cxldn.trans h1.cxldn, h2.uids.trans h1.uids⟩
theorem SameBooks.foldl {α : Type} {f : State → α → State} (hf : ∀ s x, SameBooks s (f s x)) (l : List α) (s : State) : SameBooks s (l.foldl f s) := by
  induction l generalizing s with
  | nil => exact .refl s
  | cons x l ih => exact (hf s x).trans (ih (f s x))
theorem SameBooks.places {s t : State} (h : SameBooks s t) : SamePlaces s t := .of_teams h.uids h.launches h.teams

theorem setThread_books (s : State) (t : Thread) : SameBooks s (s.setThread t) := ⟨rfl, rfl, rfl, rfl, rfl, (setThread_places s t).uids⟩
theorem setCore_books (s : State) (c : Nat) (x : Core) : SameBooks s (s.setCore c x) := ⟨rfl, rfl, rfl, rfl, rfl, rfl⟩

theorem stampEnd_books (s : State) (b : Bundle) : SameBooks s (stampEnd s b) := by
  unfold stampEnd
  split
  · refine ⟨rfl, rfl, rfl, rfl, rfl, ?_⟩
    unfold modWhere
    rw [List.map_map]
    refine List.map_congr_left fun x _ => ?_
    simp only [Function.comp_apply]
    split <;> rfl
  · exact .refl s

theorem unbundle_books (s : State) (t : Thread) : SameBooks s (unbundle s t) := by
  have h : SameBooks s (leaveClause s t) := SameBooks.trans (t := s.setCore t.core _) (setCore_books ..) (SameBooks.foldl stampEnd_books _ _)
  exact h.trans (setCore_books ..)

theorem stopThread_books (s : State) (u : Nat) : SameBooks s (stopThread s u) := by
  unfold stopThread
  extract_lets t ctx s0 s1 t1 t2 pc
  have h0 : SameBooks s s0 := by
    simp only [s0]
    split
    · exact ⟨rfl, rfl, rfl, rfl, rfl, rfl⟩
    · exact .refl s
  have h1 : SameBooks s s1 := by
    simp only [s1]
    split
    · exact h0.trans (setThread_books ..)
    · exact .refl s
  exact (h1.trans (setThread_books ..)).trans (unbundle_books ..)

theorem SameBooks.team {s t : State} (h : SameBooks s t) (v : Nat) : t.team v = s.team v :=
  congrArg (fun l : List Team => (l.find? fun x : Team => x.uid == v).getD {}) h.teams
theorem SameBooks.hasTeam {s t : State} (h : SameBooks s t) (v : Nat) : t.hasTeam v = s.hasTeam v :=
  congrArg (fun l : List Team => l.any (·.uid == v)) h.teams

/-- A team that has stopped is changed in its queue items alone. -/
theorem stopTeam_eq (s : State) (tm : Team) : ∃ s1 items, SameBooks s s1 ∧ s1.threads = s.threads ∧
    stopTeam s tm = s1.setTeam { s.team tm.uid with anvil := items } := by
  unfold stopTeam
  extract_lets mine items s1
  have h1 : SameBooks s s1 := SameBooks.foldl (fun _ _ => setCore_books ..) _ s
  exact ⟨s1, items, h1, rfl, congrArg (fun y : Team => s1.setTeam { y with anvil := items }) (h1.team _)⟩

/-! ### The other teams of a save slot (R261) -/

theorem slotMates_books {s t : State} (h : SameBooks s t) (tm : Team) (n : Nat) : slotMates t tm n = slotMates s tm n := by
  unfold slotMates slotTeams State.launchOf
  rw [h.teams, h.launches]

/-- A saved team's entry in a slot (R261). -/
def slotEntry (s : State) (ctx n : Nat) (t : Team) : Option (Team × Nat) :=
  match t.place with
  | .saved m => if (s.launchOf t.launch).ctx != ctx then none else if m == n then some (t, 0) else if (s.launchOf t.launch).rcd.pair && m + 3 == n then some (t, 1) else none
  | _ => none

theorem slotTeams_eq (s : State) (ctx n : Nat) : slotTeams s ctx n = s.teams.filterMap (slotEntry s ctx n) := rfl

theorem slotEntry_team {s : State} {ctx n : Nat} {t : Team} {z : Team × Nat} (h : slotEntry s ctx n t = some z) : z.1 = t := by
  unfold slotEntry at h
  split at h
  · split at h
    · cases h
    · split at h
      · cases h; rfl
      · split at h <;> cases h
        rfl
  · cases h

/-- The other teams of a slot do not depend on what the team itself is. -/
theorem slotMates_setTeam (s : State) {x tm : Team} (n : Nat) (h : x.uid = tm.uid) : slotMates (s.setTeam x) tm n = slotMates s tm n := by
  have own : ∀ y : Team, y.uid = tm.uid → ∀ g : Team × Nat → Option (Team × LaunchRec × Nat × Nat),
      ((slotEntry s (s.launchOf tm.launch).ctx n y).bind fun z => if z.1.uid == tm.uid then none else g z) = none := fun y hy g => by
    cases hz : slotEntry s (s.launchOf tm.launch).ctx n y with
    | none => rfl
    | some z => exact if_pos (beq_iff_eq.mpr ((congrArg Team.uid (slotEntry_team hz)).trans hy))
  unfold slotMates
  rw [slotTeams_eq, slotTeams_eq, List.filterMap_filterMap, List.filterMap_filterMap]
  show (s.teams.map fun y => if (y.uid == x.uid) = true then x else y).filterMap _ = _
  rw [List.filterMap_map]
  refine List.filterMap_congr fun y _ => ?_
  simp only [Function.comp_apply]
  split
  case isTrue hy => exact (own x h _).trans (own y ((beq_iff_eq.mp hy).trans h) _).symm
  case isFalse => rfl

/-! ### What a save writes (R262-R265) -/

/-- A change of memory that leaves the bytes of a set as they are, and the CXL links. -/
structure Leaves (P : Nat → Prop) (s t : State) : Prop where
  cxldn : t.hub.cxldn = s.hub.cxldn
  bytes : ∀ k, P k → t.byte k = s.byte k

theorem Leaves.refl {P : Nat → Prop} (s : State) : Leaves P s s := ⟨rfl, fun _ _ => rfl⟩
theorem Leaves.trans {P : Nat → Prop} {s t u : State} (h1 : Leaves P s t) (h2 : Leaves P t u) : Leaves P s u :=
  ⟨h2.cxldn.trans h1.cxldn, fun k hk => (h2.bytes k hk).trans (h1.bytes k hk)⟩
theorem Leaves.foldl {α : Type} {P : Nat → Prop} {f : State → α → State} (hf : ∀ s x, s.hub.cxldn = [] → Leaves P s (f s x)) (l : List α) {s : State}
    (hc : s.hub.cxldn = []) : Leaves P s (l.foldl f s) := by
  induction l generalizing s with
  | nil => exact .refl s
  | cons x l ih => exact (hf s x hc).trans (ih ((hf s x hc).cxldn.trans hc))

theorem write_byte {s : State} (hc : s.hub.cxldn = []) (off : Nat) (l : List Byte) (p : Bool) (k : Nat) :
    (s.write off l p).byte k = if off ≤ k ∧ k < off + l.length then l.getD (k - off) 0 else s.byte k := by
  obtain ⟨poison, dirty, noted, e⟩ := State.poke_eq (lost_eq_false hc off) l p
  rw [State.write_eq_poke hc, e]
  exact tget_putBytes ..

theorem write_leaves {P : Nat → Prop} {s : State} (hc : s.hub.cxldn = []) {off : Nat} {l : List Byte} {p : Bool} (h : ∀ k, P k → k < off ∨ off + l.length ≤ k) :
    Leaves P s (s.write off l p) := by
  refine ⟨?_, fun k hk => ?_⟩
  · obtain ⟨poison, dirty, noted, e⟩ := State.poke_eq (lost_eq_false hc off) l p
    rw [State.write_eq_poke hc, e]
  · rw [write_byte hc, if_neg]
    have := h k hk
    omega

/-- What a write put somewhere, read back in parts. -/
theorem bytes_part {s : State} {off : Nat} {l : List Byte} (h : ∀ i < l.length, s.byte (off + i) = l.getD i 0) {a n : Nat} (ha : a + n ≤ l.length) :
    s.bytes (off + a) n = (l.drop a).take n := by
  refine List.ext_getElem (by simp [State.bytes]; omega) fun i h1 h2 => ?_
  have hi : i < n := by simpa [State.bytes] using h1
  have e : l.getD (a + i) 0 = l[a + i]'(by omega) := by rw [List.getD_eq_getElem?_getD, List.getElem?_eq_getElem (by omega), Option.getD_some]
  simp only [State.bytes, List.getElem_map, List.getElem_range, List.getElem_take, List.getElem_drop]
  rw [Nat.add_assoc, h _ (by omega), e]

/-- The record of a thread is written at its place. -/
def saveRecord (base first : Nat) (s : State) (x : Thread × Nat) : State := s.write (base + 64 * (first + x.2)) (threadRecord x.1) false

theorem saveRecord_leaves (base first : Nat) {s : State} (hc : s.hub.cxldn = []) (x : Thread × Nat) :
    Leaves (· < base + 64 * (first + x.2)) s (saveRecord base first s x) := by
  unfold saveRecord
  exact write_leaves hc fun _ h => .inl h

theorem saveRecords_leave (base first : Nat) (ts : List Thread) (k : Nat) {s : State} (hc : s.hub.cxldn = []) :
    Leaves (· < base + 64 * (first + k)) s ((ts.zipIdx k).foldl (saveRecord base first) s) := by
  induction ts generalizing s k with
  | nil => exact .refl s
  | cons x ts ih =>
    have h0 := saveRecord_leaves base first hc (x, k)
    have h1 := ih (k + 1) (h0.cxldn.trans hc)
    rw [List.zipIdx_cons, List.foldl_cons]
    exact h0.trans ⟨h1.cxldn, fun a ha => h1.bytes a (Nat.lt_of_lt_of_le ha (by omega))⟩

theorem saveRecords_bytes (base first : Nat) (ts : List Thread) (k : Nat) {s : State} (hc : s.hub.cxldn = []) {j : Nat} {x : Thread} (hx : ts[j]? = some x) :
    ((ts.zipIdx k).foldl (saveRecord base first) s).bytes (base + 64 * (first + (k + j))) 64 = threadRecord x := by
  induction ts generalizing s k j with
  | nil => simp at hx
  | cons y ts ih =>
    have hc1 : (saveRecord base first s (y, k)).hub.cxldn = [] := (saveRecord_leaves base first hc (y, k)).cxldn.trans hc
    rw [List.zipIdx_cons, List.foldl_cons]
    cases j with
    | zero =>
      rw [List.getElem?_cons_zero, Option.some.injEq] at hx
      subst hx
      have hl := threadRecord_length y
      have h := bytes_part (s := (ts.zipIdx (k + 1)).foldl (saveRecord base first) (saveRecord base first s (y, k))) (off := base + 64 * (first + k)) (l := threadRecord y)
        (fun i hi => by
          rw [(saveRecords_leave base first ts (k + 1) hc1).bytes _ (by omega)]
          unfold saveRecord
          rw [write_byte hc, if_pos (by simp only [threadRecord_length]; omega), Nat.add_sub_cancel_left]) (a := 0) (n := 64) (by omega)
      rw [List.drop_zero, List.take_of_length_le (by omega)] at h
      exact h
    | succ j =>
      rw [List.getElem?_cons_succ] at hx
      rw [show k + (j + 1) = k + 1 + j by omega]
      exact ih (k + 1) hc1 hx

theorem drawBytes_eq (n : Nat) (s : State) : ∃ draws, (drawBytes n s).1 = { s with draws } := by
  induction n generalizing s with
  | zero => exact ⟨_, rfl⟩
  | succ n ih =>
    obtain ⟨draws, e⟩ := ih (draw s).1
    exact ⟨draws, e⟩

theorem write_places (s : State) (off : Nat) (l : List Byte) (p : Bool) : SamePlaces s (s.write off l p) := (write_seats s off l p).toSamePlaces

theorem SamePlaces.foldl {α : Type} {f : State → α → State} (hf : ∀ s x, SamePlaces s (f s x)) (l : List α) (s : State) : SamePlaces s (l.foldl f s) := by
  induction l generalizing s with
  | nil => exact .refl s
  | cons x l ih => exact (hf s x).trans (ih (f s x))

/-- The entries of a slot that no team of it has are cleared. -/
def clearEntries (base : Nat) (ps : List Nat) (s : State) : State := ps.foldl (fun s p => s.write (base + 0x100 + 256 * p + 4) (bytesOf 0 4) false) s

/-- What a save writes into a slot: its header, the hidden region, the directory entry, the pool and the threads' records. -/
def slotWritten (base pos pool first : Nat) (head hidden dir image : List Byte) (ts : List Thread) (s : State) : State :=
  ts.zipIdx.foldl (saveRecord (base + 0x8000) first)
    ((((s.write base head false).write (base + 0x28000) hidden false).write (base + 0x100 + 256 * pos) dir false).write (base + pool) image false)

theorem firstFit_nil (base n : Nat) : firstFit [] base n = base := by simp [firstFit]

/-- What saving a half of a team comes to. -/
theorem saveHalf_eq (tm0 : Team) (half : Nat) (s : State) :
    let tm := s.team tm0.uid
    let l := s.launchOf tm.launch
    let base := slotBase s l.ctx (3 * (tm.core + half) + l.prio)
    let mates := slotMates s tm (3 * (tm.core + half) + l.prio)
    ∃ s1 s4 ps pool first rest hidden dir pool' image, SameBooks s s1 ∧ s1.threads = s.threads ∧ (mates = [] → first = 0 ∧ pool = 0x80000) ∧
      s4 = slotWritten base tm.pos pool first (bytesOf (mates.length + 1) 4 ++ (bytesOf (tm.core + half) 4 ++ rest)) hidden dir pool' (halfThreads s tm half) (clearEntries base ps s1) ∧
      saveHalf tm0 half s = s4.setTeam { s4.team tm.uid with image := image } := by
  -- The number of hidden bytes becomes a variable while `saveHalf` is still a function, so that nothing draws them one by one.
  obtain ⟨F, hF⟩ : ∃ F, F = saveHalf := ⟨_, rfl⟩
  rw [← hF]
  delta saveHalf at hF
  generalize 0x58000 = N at hF
  subst hF
  beta_reduce
  have hd := drawBytes_eq N s
  generalize drawBytes N s = d at hd ⊢
  obtain ⟨s1, hidden⟩ := d
  obtain ⟨draws, e⟩ := hd
  have h1 : SameBooks s s1 ∧ s1.threads = s.threads := by
    rw [show s1 = _ from e]
    exact ⟨⟨rfl, rfl, rfl, rfl, rfl, rfl⟩, rfl⟩
  clear e
  intro tm l base mates
  extract_lets r core n base' mates' first pool ts used
  dsimp -zeta only
  extract_lets crc c head s2 s2' s3 s4 src
  have hfit : mates = [] → first = 0 ∧ pool = 0x80000 := fun h => by
    have h' : mates' = [] := h
    simp only [first, pool, h', List.map_nil, firstFit_nil, and_self]
  refine ⟨s2, s4, (List.range 64).filter fun p => !(used.contains p), pool, first, bytesOf crc.toNat 8 ++ bytesOf (pbWord c).toNat 4 ++ List.replicate 236 0, hidden, dirEntry s tm l half first pool,
    poolImage tm r ts half, tm.image ++ [(first, pool)], h1.1.trans (setCore_books ..), h1.2, hfit, ?_, rfl⟩
  simp only [s4, s3, s2', head, List.append_assoc]
  rfl

/-- A saved half keeps everyone in place. -/
theorem saveHalf_places {s : State} {tm0 : Team} (h : s.hasTeam tm0.uid = true) (half : Nat) : SamePlaces s (saveHalf tm0 half s) := by
  obtain ⟨s1, s4, ps, pool, first, rest, hidden, dir, pool', image, h1, -, -, h4, e⟩ := saveHalf_eq tm0 half s
  have h14 : SamePlaces s s4 := by
    rw [h4]
    exact (((((h1.places.trans (SamePlaces.foldl (fun _ _ => write_places ..) _ _)).trans (write_places ..)).trans (write_places ..)).trans (write_places ..)).trans
      (write_places ..)).trans (SamePlaces.foldl (fun _ _ => write_places ..) _ _)
  have hu : (s4.team (s.team tm0.uid).uid).uid = (s.team tm0.uid).uid := State.team_uid (by rw [(h14.teams _).1, State.team_uid h]; exact h)
  rw [e]
  refine h14.trans (setTeam_places ?_ ?_)
  · exact congrArg (fun v => (s4.team v).place) hu.symm
  · exact congrArg (fun v => (s4.team v).core) hu.symm

theorem bytes_num {s : State} {off n x : Nat} (h : s.bytes off n = bytesOf x n) : s.num off n = x % 256 ^ n := by
  unfold State.num
  rw [h, natOf_bytesOf]

/-- The slot of a team that is alone there: its header counts one team and names its core, and its records follow (R263, R265). -/
theorem slotWritten_bytes {s : State} (hc : s.hub.cxldn = []) (base pos core : Nat) (rest hidden dir image : List Byte) (ts : List Thread) :
    let t := slotWritten base pos 0x80000 0 (bytesOf 1 4 ++ (bytesOf core 4 ++ rest)) hidden dir image ts s
    t.num base 4 = 1 ∧ t.num (base + 4) 4 = core % 2 ^ 32 ∧ ∀ i x, ts[i]? = some x → t.bytes (base + 0x8000 + 64 * i) 64 = threadRecord x := by
  obtain ⟨head, hhead⟩ : ∃ head, bytesOf 1 4 ++ (bytesOf core 4 ++ rest) = head := ⟨_, rfl⟩
  rw [hhead]
  intro t
  have frame : ∀ {s : State}, s.hub.cxldn = [] → ∀ off (l : List Byte), base + 8 ≤ off → Leaves (· < base + 8) s (s.write off l false) :=
    fun hc off l h => write_leaves hc fun k hk => .inl (Nat.lt_of_lt_of_le hk h)
  have hlen : head.length = 8 + rest.length := by simp [← hhead, bytesOf_length]; omega
  have c1 : (s.write base head false).hub.cxldn = [] := (write_leaves hc (P := fun _ => False) (by simp)).cxldn.trans hc
  have w2 := frame c1 (base + 0x28000) hidden (by omega)
  have w3 := frame (w2.cxldn.trans c1) (base + 0x100 + 256 * pos) dir (by omega)
  have w4 := frame (w3.cxldn.trans (w2.cxldn.trans c1)) (base + 0x80000) image (by omega)
  have w24 := w2.trans (w3.trans w4)
  have c4 := w24.cxldn.trans c1
  have w5 := saveRecords_leave (base + 0x8000) 0 ts 0 c4
  have hb : ∀ i < (head.take 8).length, t.byte (base + i) = (head.take 8).getD i 0 := fun i hi => by
    have hi : i < 8 := by simp [hlen] at hi; omega
    rw [show t.byte (base + i) = _ from w5.bytes _ (by show _ < _; omega), w24.bytes _ (by show _ < _; omega), write_byte hc, if_pos (by omega), Nat.add_sub_cancel_left]
    simp [List.getD_eq_getElem?_getD, hi]
  have h8 : head.take 8 = bytesOf 1 4 ++ bytesOf core 4 := by
    rw [← hhead, ← List.append_assoc, List.take_append_of_le_length (by simp [bytesOf_length]), List.take_of_length_le (by simp [bytesOf_length])]
  have hl8 : (head.take 8).length = 8 := by simp [hlen]
  rw [h8] at hb hl8
  have b0 := bytes_part hb (a := 0) (n := 4) (by omega)
  have b4 := bytes_part hb (a := 4) (n := 4) (by omega)
  refine ⟨bytes_num (x := 1) (b0.trans ?_), bytes_num (b4.trans ?_), fun i x hx => ?_⟩
  · rw [List.drop_zero, List.take_append_of_le_length (by simp [bytesOf_length]), List.take_of_length_le (by simp [bytesOf_length])]
  · rw [List.drop_append_of_le_length (by simp [bytesOf_length]), List.drop_of_length_le (by simp [bytesOf_length]), List.nil_append,
      List.take_of_length_le (by simp [bytesOf_length])]
  · have h := saveRecords_bytes (base + 0x8000) 0 ts 0 c4 hx
    rwa [Nat.zero_add, Nat.zero_add] at h

/-- A team without a pair, alone in its slot and stopped: what the slot holds once it is saved (R263, R265). -/
theorem saveHalf_bytes {s : State} (hc : s.hub.cxldn = []) (tm0 : Team) (hm : slotMates s (s.team tm0.uid) (3 * (s.team tm0.uid).core + (s.launchOf (s.team tm0.uid).launch).prio) = []) :
    let tm := s.team tm0.uid
    let l := s.launchOf tm.launch
    let base := slotBase s l.ctx (3 * tm.core + l.prio)
    (saveHalf tm0 0 s).num base 4 = 1 ∧ (saveHalf tm0 0 s).num (base + 4) 4 = tm.core % 2 ^ 32 ∧
      ∀ i x, (halfThreads s tm 0)[i]? = some x → (saveHalf tm0 0 s).bytes (base + 0x8000 + 64 * i) 64 = threadRecord x := by
  intro tm l base
  obtain ⟨s1, s4, ps, pool, first, rest, hidden, dir, pool', image, h1, -, hfit, h4, e⟩ := saveHalf_eq tm0 0 s
  have hm' : slotMates s (s.team tm0.uid) (3 * ((s.team tm0.uid).core + 0) + (s.launchOf (s.team tm0.uid).launch).prio) = [] := hm
  obtain ⟨rfl, rfl⟩ := hfit hm'
  rw [hm'] at h4
  have hclear := Leaves.foldl (P := fun _ => False) (f := fun (s : State) p => s.write (base + 0x100 + 256 * p + 4) (bytesOf 0 4) false)
    (fun s p hc => write_leaves hc (by simp)) ps (h1.cxldn.trans hc)
  have h := slotWritten_bytes (hclear.cxldn.trans (h1.cxldn.trans hc)) base tm.pos tm.core rest hidden dir pool' (halfThreads s tm 0)
  have hmem : (saveHalf tm0 0 s).mem = s4.mem := by rw [e]; rfl
  have hbytes : ∀ off n, (saveHalf tm0 0 s).bytes off n = s4.bytes off n := fun off n => by
    unfold State.bytes State.byte
    rw [hmem]
  have hs4 : s4 = slotWritten base tm.pos 0x80000 0 (bytesOf 1 4 ++ (bytesOf tm.core 4 ++ rest)) hidden dir pool' (halfThreads s tm 0) (clearEntries base ps s1) := h4
  unfold State.num
  simp only [hbytes]
  rw [hs4]
  exact h

/-- The state in which a stopped team is saved. -/
def stoppedState (s : State) (tm : Team) (us : List Nat) : State :=
  (stopTeam (us.foldl stopThread s) tm).setTeam { (stopTeam (us.foldl stopThread s) tm).team tm.uid with image := [] }

/-- A team is changed but for its place. -/
theorem setTeam_inPlace {s : State} {u : Nat} (ht : s.hasTeam u = true) {x : Team} (hu : x.uid = u) (hp : x.place = (s.team u).place) (hc : x.core = (s.team u).core) :
    SamePlaces s (s.setTeam x) ∧ (s.setTeam x).team u = x ∧ ∀ tm n, tm.uid = u → slotMates (s.setTeam x) tm n = slotMates s tm n := by
  subst hu
  exact ⟨setTeam_places hp hc, State.team_setTeam_same ht, fun tm n h => slotMates_setTeam s n h.symm⟩

theorem stoppedState_spec {s : State} {u : Nat} (ht : s.hasTeam u = true) (us : List Nat) :
    let t := stoppedState s (s.team u) us
    SamePlaces s t ∧ t.mem = s.mem ∧ t.hub.cxldn = s.hub.cxldn ∧ t.ctxs = s.ctxs ∧ t.threads = (us.foldl stopThread s).threads ∧
      (t.team u).launch = (s.team u).launch ∧ ∀ tm n, tm.uid = u → slotMates t tm n = slotMates s tm n := by
  have h0 : SameBooks s (us.foldl stopThread s) := SameBooks.foldl stopThread_books us s
  unfold stoppedState
  obtain ⟨s1, items, h1, hth, e⟩ := stopTeam_eq (us.foldl stopThread s) (s.team u)
  rw [e, State.team_uid ht]
  have h01 := h0.trans h1
  have ht1 : s1.hasTeam u = true := (h01.hasTeam u).trans ht
  have e0 : (us.foldl stopThread s).team u = s1.team u := (h1.team u).symm
  obtain ⟨p1, e1, m1⟩ := setTeam_inPlace ht1 (x := { s1.team u with anvil := items }) (State.team_uid ht1) rfl rfl
  rw [e0, e1]
  obtain ⟨p2, e2, m2⟩ := setTeam_inPlace (s := s1.setTeam { s1.team u with anvil := items }) (((p1.teams u).1).trans ht1)
    (x := { ({ s1.team u with anvil := items } : Team) with image := [] }) (State.team_uid ht1) (p1.teams u).2.1.symm (p1.teams u).2.2.symm
  refine ⟨(h01.places.trans p1).trans p2, h01.mem, h01.cxldn, h01.ctxs, hth, ?_, fun tm n htm => ?_⟩
  · rw [e2]
    exact (congrArg Team.launch (h01.team u) :)
  · rw [m2 tm n htm, m1 tm n htm, slotMates_books h01]

theorem restartCounts_eq (l : List Nat) (s : State) : ∃ cores, l.foldl restartCount s = { s with cores } := by
  induction l generalizing s with
  | nil => exact ⟨_, rfl⟩
  | cons c l ih =>
    obtain ⟨cores, e⟩ := ih (restartCount s c)
    exact ⟨cores, e⟩

/-- What saving a team comes to, from the state in which its halves are saved. -/
theorem saveTeam_eq (s : State) (tm : Team) (us : List Nat) :
    let s2 := saveHalf tm 0 (stoppedState s tm us)
    let s3 := if (s.launchOf tm.launch).rcd.pair then saveHalf tm 1 s2 else s2
    ∃ cores threads, threads.map (·.uid) = s3.threads.map (·.uid) ∧
      saveTeam s tm us = { s3.setTeam { s3.team tm.uid with place := .saved (3 * tm.core + (s.launchOf tm.launch).prio), gone := s3.nextUid } with
        cores, threads, nextUid := s3.nextUid + 1 } := by
  unfold saveTeam
  generalize saveHalf = save
  intro a2 a3
  extract_lets l s1 src s2 s3 src3 s4 s5
  obtain ⟨cores, e⟩ := restartCounts_eq (coresAt l.rcd tm.core) s4
  have e5 : s5 = { s4 with cores } := e
  refine ⟨cores, modWhere (·.team == tm.uid) (fun t => { t with remerr := 0, kept := stateCode t, keptSb := t.sb }) a3.threads, ?_, ?_⟩
  · unfold modWhere
    rw [List.map_map]
    refine List.map_congr_left fun x _ => ?_
    simp only [Function.comp_apply]
    split <;> rfl
  · rw [e5]
    rfl

/-- A saved team is in its slot, and nobody else moved (R44, R262). -/
theorem saveTeam_places {s : State} {u : Nat} (ht : s.hasTeam u = true) (us : List Nat) :
    ((saveTeam s (s.team u) us).team u).place = .saved (3 * (s.team u).core + (s.launchOf (s.team u).launch).prio) ∧
      (saveTeam s (s.team u) us).launches = s.launches ∧ (saveTeam s (s.team u) us).threads.map (·.uid) = s.threads.map (·.uid) := by
  obtain ⟨cores, threads, hth, e⟩ := saveTeam_eq s (s.team u) us
  obtain ⟨p1, -⟩ := stoppedState_spec ht us
  have hu := State.team_uid ht
  have h1 : (stoppedState s (s.team u) us).hasTeam (s.team u).uid = true := by rw [(p1.teams _).1, hu]; exact ht
  have p2 := saveHalf_places h1 0
  have h2 : (saveHalf (s.team u) 0 (stoppedState s (s.team u) us)).hasTeam (s.team u).uid = true := ((p2.teams _).1).trans h1
  generalize hs3 : (if (s.launchOf (s.team u).launch).rcd.pair = true then saveHalf (s.team u) 1 (saveHalf (s.team u) 0 (stoppedState s (s.team u) us))
    else saveHalf (s.team u) 0 (stoppedState s (s.team u) us)) = s3 at hth e
  have p3 : SamePlaces s s3 := by
    rw [← hs3]
    split
    · exact (p1.trans p2).trans (saveHalf_places h2 1)
    · exact p1.trans p2
  have h3 : s3.hasTeam u = true := ((p3.teams u).1).trans ht
  rw [e, hu]
  refine ⟨?_, p3.launches, hth.trans p3.uids⟩
  have h := State.team_setTeam_same (s := s3) (t := { s3.team u with place := .saved (3 * (s.team u).core + (s.launchOf (s.team u).launch).prio), gone := s3.nextUid })
    (by rw [show Team.uid _ = u from State.team_uid h3]; exact h3)
  rw [show ({ s3.team u with place := .saved (3 * (s.team u).core + (s.launchOf (s.team u).launch).prio), gone := s3.nextUid } : Team).uid = u from State.team_uid h3] at h
  exact congrArg Team.place h

/-- Alone in its slot and without a pair, its image counts one team and names its core, and its records follow (R263, R265). -/
theorem saveTeam_bytes {s : State} {u : Nat} (ht : s.hasTeam u = true) (us : List Nat) (hpair : (s.launchOf (s.team u).launch).rcd.pair = false)
    (hm : slotMates s (s.team u) (3 * (s.team u).core + (s.launchOf (s.team u).launch).prio) = []) (hc : s.hub.cxldn = []) :
    let tm := s.team u
    let l := s.launchOf tm.launch
    let base := slotBase s l.ctx (3 * tm.core + l.prio)
    let t := saveTeam s tm us
    t.num base 4 = 1 ∧ t.num (base + 4) 4 = tm.core % 2 ^ 32 ∧
      ∀ i x, (halfThreads (us.foldl stopThread s) tm 0)[i]? = some x → t.bytes (base + 0x8000 + 64 * i) 64 = threadRecord x := by
  intro tm l base t
  obtain ⟨cores, threads, -, e⟩ := saveTeam_eq s (s.team u) us
  obtain ⟨p1, -, hcx, hctx, hthr, hlaunch, hmates⟩ := stoppedState_spec ht us
  have hmem : (saveTeam s (s.team u) us).mem = (saveHalf (s.team u) 0 (stoppedState s (s.team u) us)).mem := by
    generalize hs3 : (if (s.launchOf (s.team u).launch).rcd.pair = true then saveHalf (s.team u) 1 (saveHalf (s.team u) 0 (stoppedState s (s.team u) us))
      else saveHalf (s.team u) 0 (stoppedState s (s.team u) us)) = s3 at e
    rw [if_neg (by rw [hpair]; decide)] at hs3
    rw [hs3]
    exact (congrArg State.mem e :)
  have hbytes : ∀ off n, (saveTeam s (s.team u) us).bytes off n = (saveHalf (s.team u) 0 (stoppedState s (s.team u) us)).bytes off n := fun off n => by
    unfold State.bytes State.byte
    rw [hmem]
  have hnum : ∀ off n, (saveTeam s (s.team u) us).num off n = (saveHalf (s.team u) 0 (stoppedState s (s.team u) us)).num off n := fun off n =>
    congrArg natOf (hbytes off n)
  obtain ⟨h1, -, hcore⟩ := p1.teams u
  have hu := State.team_uid ht
  have huS : ((stoppedState s (s.team u) us).team u).uid = u := State.team_uid (h1.trans ht)
  have hl : (stoppedState s (s.team u) us).launchOf (s.team u).launch = s.launchOf (s.team u).launch :=
    congrArg (fun ls : List Launch => (ls.find? fun x : Launch => x.uid == (s.team u).launch).getD {}) p1.launches
  have hbase : ∀ n, slotBase (stoppedState s (s.team u) us) l.ctx n = slotBase s l.ctx n := fun n =>
    congrArg (fun c : Tab Ctx => (tget {} c l.ctx).save % 2 ^ 47 + n * 0x380000) hctx
  have hhalf : halfThreads (stoppedState s (s.team u) us) ((stoppedState s (s.team u) us).team u) 0 = halfThreads (us.foldl stopThread s) (s.team u) 0 := by
    unfold halfThreads
    rw [hthr, hcore, huS, hu]
  have hm' : ∀ n, slotMates (stoppedState s (s.team u) us) ((stoppedState s (s.team u) us).team u) n = slotMates s (s.team u) n := fun n => by
    rw [hmates _ _ huS]
    unfold slotMates
    rw [hlaunch, huS, hu]
  have h := saveHalf_bytes (hcx.trans hc) (s.team u) (by rw [hu, hm', hlaunch, hl, hcore]; exact hm)
  rw [hu] at h
  simp only [hhalf] at h
  rw [hlaunch, hl, hcore, hbase] at h
  obtain ⟨b1, b2, b3⟩ := h
  exact ⟨(hnum ..).trans b1, (hnum ..).trans b2, fun i x hx => (hbytes ..).trans (b3 i x hx)⟩

/-! ### TEAM_PREEMPT (R43, R44) -/

/-- A resident victim of a launch that is not aborted, whose threads have stopped and whose matrix work is quiet. -/
def Saves (s : State) (team : Nat) : Prop :=
  (s.team team).place = .resident ∧ isVictim s (s.team team) = true ∧ (s.launchOf (s.team team).launch).abort = none ∧
    (s.threads.filter (·.team == team)).all (stopped s) = true ∧ quiet s (s.team team) ((s.threads.filter (·.team == team)).map (·.uid)) = true

theorem teamPreempt_eq {s : State} {team : Nat} (ht : s.hasTeam team = true) [Decidable (Saves s team)] : exec (.teamPreempt team) s = .next (
    if Saves s team then
      let w := slotsWait s (s.team team) (3 * (s.team team).core + (s.launchOf (s.team team).launch).prio)
      if w.2 then w.1 else saveTeam w.1 (s.team team) ((s.threads.filter (·.team == team)).map (·.uid))
    else s) := by
  show execTeamPreempt team s = _
  unfold execTeamPreempt
  refine congrArg _ ?_
  by_cases h : Saves s team
  · rw [if_pos h]
    obtain ⟨h1, h2, h3, h4, h5⟩ := h
    refine (if_pos ?_).trans ?_
    · simp only [ht, h1, h2, h3, h4, h5]
      decide
    · generalize slotsWait s (s.team team) (3 * (s.team team).core + (s.launchOf (s.team team).launch).prio) = w
      obtain ⟨s1, b⟩ := w
      cases b <;> rfl
  · rw [if_neg h]
    refine if_neg fun hc => h ?_
    simp only [Bool.and_eq_true, beq_iff_eq, Option.isNone_iff_eq_none] at hc
    obtain ⟨⟨⟨⟨⟨-, h1⟩, h2⟩, h3⟩, h4⟩, h5⟩ := hc
    exact ⟨h1, h2, h3, h4, h5⟩

/-- Settles O41: pre-emption and return of a team, and the record of a thread. -/
theorem preemptionAndReturn : Obligations.PreemptionAndReturn := by
  refine ⟨?_, ?_⟩
  · intro s team ht tm l ts saves base
    refine ⟨fun hn => ?_, fun hs hf hb => ?_, teamResume_idle ht, fun hs ha hg hn => ⟨fun hb => ?_, fun hb he => ?_, fun core hb he hf hbi hr h0 h1 h2 => ?_, fun hb he hr => ?_⟩⟩
    · have : Decidable (Saves s team) := .isFalse hn
      exact (teamPreempt_eq ht).trans (congrArg _ (if_neg hn))
    · have : Decidable (Saves s team) := .isTrue hs
      have e := (teamPreempt_eq ht).trans (congrArg _ (if_pos hs))
      rw [slotsWait_idle hf hb] at e
      obtain ⟨h1, h2, h3⟩ := saveTeam_places ht (ts.map (·.uid))
      refine ⟨_, e, h1, h2, h3, fun hpair hm _ hc => ?_⟩
      obtain ⟨b1, b2, b3⟩ := saveTeam_bytes ht (ts.map (·.uid)) hpair hm hc
      exact ⟨b1, b2, fun i x _ => b3 i x⟩
    · exact ⟨_, (teamResume_eq ht hs ha hg hn).trans (congrArg _ (if_pos hb)), fun u hu x hx hxu => abortLaunches_aborted _ s u hu x hx hxu⟩
    · exact (teamResume_eq ht hs ha hg hn).trans (congrArg _ ((if_neg (not_not.mpr hb)).trans (if_pos he)))
    · have e := (teamResume_eq ht hs ha hg hn).trans (congrArg _ ((if_neg (not_not.mpr hb)).trans (if_neg (by rw [he]; decide))))
      rw [hr, slotsWait_idle hf hbi] at e
      exact ⟨_, e, resumeTeam_spec ht h0 h1 h2⟩
    · have e := (teamResume_eq ht hs ha hg hn).trans (congrArg _ ((if_neg (not_not.mpr hb)).trans (if_neg (by rw [he]; decide))))
      rw [hr] at e
      exact e
  · intro th slot core now free hl hb hs ht he hp again
    exact (restoreThread_record slot core now free hl hb hs ht he hp).trans rfl

end Sys2Proof.Machine
end

section
/-! PROOF. Pairs, moves and selection (R47, R269, R381, R390, R400, R410, R444, R447): what the 64-bit operations are on numbers, and
the obligation. -/
namespace Sys2Proof.Machine
open Sys2Proof

/-! ### The 64-bit operations on numbers -/

theorem loWord_eq (x : DWord) : loWord x = x.extractLsb' 0 32 := by
  apply BitVec.eq_of_getLsbD_eq
  intro i hi
  simp [loWord, hi]

theorem hiWord_eq (x : DWord) : hiWord x = x.extractLsb' 32 32 := by
  apply BitVec.eq_of_getLsbD_eq
  intro i hi
  simp [hiWord, hi]

/-- A word as a doubleword, by zeros or by its sign (R390, R400). -/
theorem extended_eq (u : Bool) (a : Word) :
    (if u then a.setWidth 64 else a.signExtend 64) = if u then BitVec.ofNat 64 a.toNat else BitVec.ofInt 64 a.toInt := by
  cases u
  · rfl
  · exact (BitVec.ofNat_toNat ..).symm

theorem prod64_eq (u : Bool) (a b : Word) :
    prod64 u a b = (if u then BitVec.ofNat 64 a.toNat else BitVec.ofInt 64 a.toInt) * (if u then BitVec.ofNat 64 b.toNat else BitVec.ofInt 64 b.toInt) := by
  rw [← extended_eq, ← extended_eq]
  cases u <;> rfl

theorem shiftLeft_eq_ofNat (a : DWord) (n : Nat) : a <<< n = BitVec.ofNat 64 (a.toNat * 2 ^ n) := by
  apply BitVec.eq_of_toNat_eq
  rw [BitVec.toNat_shiftLeft, BitVec.toNat_ofNat, Nat.shiftLeft_eq]

theorem leaSum_eq (u : Bool) (sh : BitVec 3) (a : DWord) (x : Word) :
    leaSum u sh a x = a + (if u then BitVec.ofNat 64 x.toNat else BitVec.ofInt 64 x.toInt) * BitVec.ofNat 64 (2 ^ sh.toNat) := by
  unfold leaSum
  rw [extended_eq, shiftLeft_eq_ofNat, BitVec.ofNat_mul, BitVec.ofNat_toNat, BitVec.setWidth_eq]

theorem shlD_eq (a : DWord) (x : Word) : shlD a x = BitVec.ofNat 64 (a.toNat * 2 ^ min x.toNat 64) := by
  unfold shlD
  split
  case isTrue h => rw [shiftLeft_eq_ofNat, Nat.min_eq_left (by omega)]
  case isFalse h =>
    rw [Nat.min_eq_right (by omega)]
    apply BitVec.eq_of_toNat_eq
    rw [BitVec.toNat_ofNat, Nat.mul_mod_left]
    rfl

theorem shrD_eq (a : DWord) (x : Word) : shrD a x = BitVec.ofNat 64 (a.toNat / 2 ^ min x.toNat 64) := by
  have ha := a.isLt
  unfold shrD
  apply BitVec.eq_of_toNat_eq
  split
  case isTrue h =>
    rw [Nat.min_eq_left (by omega), BitVec.toNat_ushiftRight, BitVec.toNat_ofNat, Nat.shiftRight_eq_div_pow,
      Nat.mod_eq_of_lt (Nat.lt_of_le_of_lt (Nat.div_le_self ..) ha)]
  case isFalse h =>
    rw [Nat.min_eq_right (by omega), Nat.div_eq_of_lt ha]
    rfl

/-! ### Selection (R447) -/

/-- A register instruction without flags does its work for threads and scripts. -/
theorem computesInt_of_regOp {i : Instr} {o : RegOp} {srcs : List Nat} {f : (Reg → Word) → (Reg → DWord) → List Word}
    (h : ∀ s, exec i s = regOp s o) (hill : o.ill = false) (his : o.is = none) (hscript : o.script = true)
    (huses : ∀ r ∈ o.uses, r ∈ srcs ++ o.dst) (hhot : ∀ r ∈ o.hot, r ∈ srcs)
    (ht : ∀ t : Thread, Readable t srcs → o.run (o.srcs.map t.reg) = (clean (f t.val t.pair), 0))
    (hs : ∀ k : Script, o.run (o.srcs.map fun r => (k.regs.getD r 0, false)) = (clean (f k.val k.pair), 0)) :
    ComputesInt i srcs o.dst f := by
  refine ⟨fun s u c th hr hread hex => ?_, fun s k c hc hw hlt => ?_⟩
  · rw [h]
    exact regOp_now hr hill his
      (fun r hr' => (List.mem_append.mp (huses r hr')).elim (fun hm => (hread r hm).1) (hex r))
      (fun r hr' => (hread r (hhot r hr')).2) (ht th hread)
  · rw [h]
    exact regOp_script hc hw hill hscript (fun r hr' => hlt r (huses r hr')) (hs _)

/-- A selected operand is one of the two. -/
theorem ite_ne_zero (w : Word) {α : Type} (x y : α) : (if (w != 0) = true then x else y) = if w = 0 then y else x := by
  by_cases h : w = 0 <;> simp [h]

theorem sel_reg (d a b e : Reg) :
    ComputesInt (.sel d a (.reg b) e) [e.toNat, a.toNat, b.toNat] [d.toNat] (fun v _ => [if v e = 0 then v b else v a]) := by
  have hreg : ∀ (t : Thread) (r : Reg), (t.reg r.toNat).2 = false → t.reg r.toNat = (t.val r, false) := fun t r h => Prod.ext rfl h
  refine computesInt_of_regOp (o := ⟨false, [d.toNat, a.toNat] ++ srcRegs (.reg b) ++ [e.toNat], [e.toNat], [e.toNat, a.toNat] ++ srcRegs (.reg b),
    [d.toNat], none, true, _⟩) (fun s => rfl) rfl rfl rfl (by simp [srcRegs]) (by simp) (fun t hr => ?_) fun k => ?_
  · have ha := hreg t a (hr _ (by simp)).2
    have hb := hreg t b (hr _ (by simp)).2
    simp only [srcRegs, List.cons_append, List.nil_append, List.map_cons, List.map_nil, opd, List.getD_cons_zero, List.getD_cons_succ, ite_ne_zero,
      ha, hb, Thread.reg_fst, clean]
    split <;> rfl
  · simp only [srcRegs, List.cons_append, List.nil_append, List.map_cons, List.map_nil, opd, List.getD_cons_zero, List.getD_cons_succ, ite_ne_zero, clean]
    by_cases h : k.regs.getD e.toNat 0 = 0
    · rw [if_pos h, if_pos (show k.val e = 0 from h)]
      rfl
    · rw [if_neg h, if_neg (show ¬ k.val e = 0 from h)]
      rfl

theorem sel_literal (d a e : Reg) (x : Word) :
    ComputesInt (.sel d a (.lit x) e) [e.toNat, a.toNat] [d.toNat] (fun v _ => [if v e = 0 then x else v a]) := by
  refine computesInt_of_regOp (o := ⟨false, [d.toNat, a.toNat] ++ srcRegs (.lit x) ++ [e.toNat], [e.toNat], [e.toNat, a.toNat] ++ srcRegs (.lit x),
    [d.toNat], none, true, _⟩) (fun s => rfl) rfl rfl rfl (by simp [srcRegs]) (by simp) (fun t hr => ?_) fun k => ?_
  · have ha : t.reg a.toNat = (t.val a, false) := Prod.ext rfl (hr _ (by simp)).2
    simp only [srcRegs, List.append_nil, List.map_cons, List.map_nil, opd, List.getD_cons_zero, List.getD_cons_succ, ite_ne_zero,
      ha, Thread.reg_fst, clean]
    split <;> rfl
  · simp only [srcRegs, List.append_nil, List.map_cons, List.map_nil, opd, List.getD_cons_zero, List.getD_cons_succ, ite_ne_zero, clean]
    by_cases h : k.regs.getD e.toNat 0 = 0
    · rw [if_pos h, if_pos (show k.val e = 0 from h)]
    · rw [if_neg h, if_neg (show ¬ k.val e = 0 from h)]
      rfl

/-- SEL passes the mark of the operand it selects; the other's does not matter (R269, R447). -/
theorem sel_poison {s : State} {u : Nat} {c : Cur} {th : Thread} (h : Runs s u c th) (d a b e : Reg)
    (hx : Exist th [d.toNat, a.toNat, b.toNat, e.toNat]) (he : (th.reg e.toNat).2 = false) :
    let v := if th.val e = 0 then th.reg b.toNat else th.reg a.toNat
    ∃ t, exec (.sel d a (.reg b) e) s = .next t ∧ Advanced s t u c
      { th with window := discardFor th.window [d.toNat], regs := th.regs.set d.toNat v.1, pois := th.pois.set d.toNat v.2 } := by
  intro v
  refine ⟨retire (s.setThread th) (writeNow th [(d.toNat, v)] false) c, ?_, ?_⟩
  · have hchecks : regChecks th c false ([d.toNat, a.toNat] ++ srcRegs (.reg b) ++ [e.toNat]) [e.toNat] = none :=
      regChecks_none (fun r hr => hx r (by simpa [srcRegs] using hr)) (by simpa using he)
    have hsave : scoutSave th [d.toNat] = some th := by simp [scoutSave, h.scout]
    have hinv : ([e.toNat, a.toNat] ++ srcRegs (.reg b)).any th.invalid = false := List.any_eq_false.mpr fun r _ => by
      simp [Thread.invalid_none h.scout]
    have hv : (if opd (([e.toNat, a.toNat] ++ srcRegs (.reg b)).map th.reg) 0 != 0 then (([e.toNat, a.toNat] ++ srcRegs (.reg b)).map th.reg).getD 1 (0, false)
        else (([e.toNat, a.toNat] ++ srcRegs (.reg b)).map th.reg).getD 2 (0, false)) = v := ite_ne_zero (th.val e) _ _
    show regOp s _ = _
    simp only [regOp, withCur_eq h, h.who]
    rw [onThread_eq h none (by simp), Thread.raised_none]
    unfold regThread
    simp only [hchecks, hsave, hinv, hv]
    show Host.Outcome.next (retire _ ((writeNow th [(d.toNat, v)] false).flag 0) c) = _
    rw [Thread.flag_eq (show (writeNow th [(d.toNat, v)] false).scout = none by simp [writeNow, Thread.put, h.scout])]
    simp [Thread.raising]
  · have e : writeNow th [(d.toNat, v)] false = { th with
        window := discardFor th.window [d.toNat], regs := th.regs.set d.toNat v.1, pois := th.pois.set d.toNat v.2 } := by
      simp [writeNow, Thread.put, Thread.discard, h.scout, lset]
    rw [e]
    exact retire_advanced h.uid h.uid h.has h.scout

/-! ### The obligation -/

/-- A pair instruction whose limits are met. -/
theorem exec_pair {i : Instr} {d : Reg} {srcs : List Nat} {g : List (Word × Bool) → DWord} (hwf : Instr.wf i = true)
    (h : ∀ s, exec i s = pairOp s (!(Instr.wf i)) d srcs g) (s : State) : exec i s = pairOp s false d srcs g := by
  rw [h, hwf]
  rfl

/-- A pair instruction gives the halves of its doubleword, low half first (R47). -/
theorem computesInt_pair {i : Instr} {d : Reg} {srcs : List Nat} {g : List (Word × Bool) → DWord} (y : (Reg → Word) → (Reg → DWord) → DWord)
    (hwf : Instr.wf i = true) (h : ∀ s, exec i s = pairOp s (!(Instr.wf i)) d srcs g)
    (ht : ∀ t : Thread, g (srcs.map t.reg) = y t.val t.pair) (hs : ∀ k : Script, g (srcs.map fun r => (k.regs.getD r 0, false)) = y k.val k.pair) :
    ComputesInt i srcs (pairRegs d) (fun v p => [(y v p).extractLsb' 0 32, (y v p).extractLsb' 32 32]) :=
  computesInt_of_pairOp (exec_pair hwf h) (fun t => by rw [ht, loWord_eq, hiWord_eq]) (fun k => by rw [hs, loWord_eq, hiWord_eq])

/-- Settles O4: the 64-bit integer instructions, XOR, MOVI and SEL. -/
theorem integerPairsMovesAndSelection : Obligations.IntegerPairsMovesAndSelection := by
  refine ⟨?_, fun d a b e x imm => ⟨?_, ?_, ?_, ?_, sel_reg d a b e, sel_literal d a e x, fun s u c th h _ hx he => sel_poison h d a b e hx he⟩⟩
  intro d a b x u sh hd two wide
  refine ⟨?_, ?_, fun ha hb => ?_, fun ha => ⟨?_, ?_, ?_, ?_, ?_, ?_⟩⟩
  · exact computesInt_pair _ hd (fun _ => rfl) (fun t => prod64_eq u (t.val a) (t.val b)) fun k => prod64_eq u (k.val a) (k.val b)
  · exact computesInt_pair _ hd (fun _ => rfl) (fun t => prod64_eq u (t.val a) x) fun k => prod64_eq u (k.val a) x
  · exact computesInt_pair (fun _ p => p a + p b) (by simp [Instr.wf, hd, ha, hb]) (fun _ => rfl) (fun _ => rfl) fun _ => rfl
  · exact computesInt_pair _ (by simp [Instr.wf, hd, ha]) (fun _ => rfl) (fun t => leaSum_eq u sh (t.pair a) (t.val b)) fun k => leaSum_eq u sh (k.pair a) (k.val b)
  · exact computesInt_pair _ (by simp [Instr.wf, hd, ha]) (fun _ => rfl) (fun t => leaSum_eq u sh (t.pair a) x) fun k => leaSum_eq u sh (k.pair a) x
  · exact computesInt_pair _ (by simp [Instr.wf, hd, ha]) (fun _ => rfl) (fun t => shlD_eq (t.pair a) (t.val b)) fun k => shlD_eq (k.pair a) (k.val b)
  · exact computesInt_pair _ (by simp [Instr.wf, hd, ha]) (fun _ => rfl) (fun t => shlD_eq (t.pair a) x) fun k => shlD_eq (k.pair a) x
  · exact computesInt_pair _ (by simp [Instr.wf, hd, ha]) (fun _ => rfl) (fun t => shrD_eq (t.pair a) (t.val b)) fun k => shrD_eq (k.pair a) (k.val b)
  · exact computesInt_pair _ (by simp [Instr.wf, hd, ha]) (fun _ => rfl) (fun t => shrD_eq (t.pair a) x) fun k => shrD_eq (k.pair a) x
  · exact computesInt_of_intOp (fun _ => rfl) (fun _ => rfl) fun _ => rfl
  · exact computesInt_of_intOp (fun _ => rfl) (fun _ => rfl) fun _ => rfl
  · exact computesInt_of_intOp (g := fun _ => imm.signExtend 32) (fun _ => rfl) (fun _ => rfl) fun _ => rfl
  · exact computesInt_of_intOp (g := fun _ => x) (fun _ => rfl) (fun _ => rfl) fun _ => rfl

end Sys2Proof.Machine
end

section
/-! PROOF. The special registers (R55-R60, R457, R461): what SRD reads and SWR writes, and the obligation. -/
namespace Sys2Proof.Machine
open Sys2Proof

section
variable {s : State} {u : Nat} {c : Cur} {th : Thread} (h : Runs s u c th)
include h

/-! ### SRD (R457) -/

/-- SRD writes the low word, and into a pair the high word too, of what it reads. -/
theorem srd_reads {d : Reg} {n : Byte} (hwf : Instr.wf (.srd d n) = true) (hx : Exist th (sregRegs d n)) :
    ∃ t, exec (.srd d n) s = .next t ∧ Advanced s t u c (Thread.writes th ((sregRegs d n).zip
      [loWord (readSpecial (s.setThread th) th n.toNat), hiWord (readSpecial (s.setThread th) th n.toNat)])) := by
  let v := readSpecial (s.setThread th) th n.toNat
  let o : RegOp := ⟨!(Instr.wf (.srd d n)), sregRegs d n, [], [], sregRegs d n, none, false, fun _ => (clean [loWord v, hiWord v], 0)⟩
  have e : exec (.srd d n) s = regOp s o := by
    show execSrd d n s = _
    simp only [execSrd, regOp, withCur_eq h, h.who]
    rw [onThread_eq h none (by simp), onThread_eq h o.is (by simp [o]), Thread.raised_none]
  obtain ⟨t, ht, hadv⟩ := regOp_now (o := o) h (by simp [o, hwf]) rfl hx (by simp [o]) rfl
  refine ⟨t, e.trans ht, ?_⟩
  rwa [show ∀ x : Thread, x.raising 0 = x from fun x => by simp [Thread.raising]] at hadv

theorem srd_illegal {d : Reg} {n : Byte} (hwf : Instr.wf (.srd d n) = false) : Traps s u th (.srd d n) 0x01 c.addr c.word c.addr := by
  show execSrd d n s = _
  simp only [execSrd, withCur_eq h, h.who, hwf]
  rw [onThread_eq h none (by simp), Thread.raised_none]
  unfold regThread
  simp only [Bool.not_false, regChecks_ill, h.uid]
  rw [trapOr_none (by rw [h.thread_set]; exact h.scout)]

/-- What the 32-bit special registers read (R56). -/
theorem readSpecial_words : ∀ x ∈ ([(0, BitVec.ofNat 32 th.tid), (1, BitVec.ofNat 32 (th.tid % (s.launchOfThread th).rcd.width)),
      (2, BitVec.ofNat 32 (th.tid / (s.launchOfThread th).rcd.width)), (3, BitVec.ofNat 32 (s.launchOfThread th).rcd.width),
      (4, BitVec.ofNat 32 ((s.teamOf th).n % (s.launchOfThread th).rcd.x)),
      (5, BitVec.ofNat 32 ((s.teamOf th).n / (s.launchOfThread th).rcd.x % (s.launchOfThread th).rcd.y)),
      (6, BitVec.ofNat 32 ((s.teamOf th).n / ((s.launchOfThread th).rcd.x * (s.launchOfThread th).rcd.y))), (7, (s.launchOfThread th).id),
      (8, BitVec.ofNat 32 th.core), (9, BitVec.ofNat 32 (th.core / 2)), (10, BitVec.ofNat 32 s.hub.chip),
      (11, BitVec.ofNat 32 (s.launchOfThread th).rcd.nthr), (14, th.fstat.setWidth 32), (16, scoutWord th), (18, th.ecode.setWidth 32), (20, th.einfo),
      (21, pbWord (s.core th.core)), (22, th.policy), (23, rsvWord (s.launchOfThread th).rcd)] : List (Nat × Word)),
    loWord (readSpecial (s.setThread th) th x.1) = x.2 ∧ sregListed (BitVec.ofNat 8 x.1) = true ∧ sregWide (BitVec.ofNat 8 x.1) = false := by
  have hnat : ∀ x : Nat, (BitVec.ofNat 64 x).setWidth 32 = BitVec.ofNat 32 x := fun x => BitVec.setWidth_ofNat_of_le (by decide) x
  have hword : ∀ w : Word, (w.setWidth 64).setWidth 32 = w := fun w => by simp
  have hfl : (th.flagsNow.setWidth 64).setWidth 32 = th.fstat.setWidth 32 := by simp [Thread.flagsNow, h.scout]
  have hec : (th.ecode.setWidth 64).setWidth 32 = th.ecode.setWidth 32 := by simp
  simp only [List.forall_mem_cons, List.not_mem_nil, false_imp_iff, implies_true, and_true, loWord, readSpecial, hnat, hword, hfl, hec]
  have hl : (s.setThread th).launchOfThread th = s.launchOfThread th := rfl
  have ht : (s.setThread th).teamOf th = s.teamOf th := rfl
  simp only [hl, ht, State.setThread_hub, State.setThread_core_at, sregListed, sregWide, true_and]
  decide

omit h in
/-- What the 64-bit special registers read (R56). -/
theorem readSpecial_pairs : ∀ x ∈ ([(12, tagMask s (s.teamOf th) (·.done)), (13, tagMask s (s.teamOf th) fun x => x.done && x.err), (15, BitVec.ofNat 64 s.cycle),
      (17, th.epc), (19, th.eaddr)] : List (Nat × DWord)),
    readSpecial (s.setThread th) th x.1 = x.2 ∧ sregListed (BitVec.ofNat 8 x.1) = true ∧ sregWide (BitVec.ofNat 8 x.1) = true := by
  simp only [List.forall_mem_cons, List.not_mem_nil, false_imp_iff, implies_true, and_true]
  exact ⟨⟨rfl, rfl, rfl⟩, ⟨rfl, rfl, rfl⟩, ⟨rfl, rfl, rfl⟩, ⟨rfl, rfl, rfl⟩, ⟨rfl, rfl, rfl⟩⟩

/-! ### SWR (R461) -/

omit h in
theorem writeSpecial_keeps (t : Thread) (n : Nat) (v : DWord) : (writeSpecial t n v).uid = t.uid ∧ (writeSpecial t n v).scout = t.scout := by
  unfold writeSpecial
  split <;> exact ⟨rfl, rfl⟩

/-- SWR writes the value of its register or pair (R55, R461). -/
theorem swr_writes {a : Reg} {n : Byte} (hwf : Instr.wf (.swr a n) = true) (hr : Readable th (sregRegs a n)) :
    ∃ t, exec (.swr a n) s = .next t ∧
      Advanced s t u c (writeSpecial th n.toNat (if sregWide n then th.pair a else (th.val a).setWidth 64)) := by
  generalize hv : (if sregWide n then th.pair a else (th.val a).setWidth 64) = v
  obtain ⟨huid, hsc⟩ := writeSpecial_keeps th n.toNat v
  refine ⟨retire (s.setThread th) (writeSpecial th n.toNat v) c, ?_, retire_advanced (huid.trans h.uid) h.uid h.has (hsc.trans h.scout)⟩
  show execSwr a n s = _
  have hchecks : regChecks th c (!(Instr.wf (.swr a n))) (sregRegs a n) (sregRegs a n) = none := by
    rw [hwf]
    exact regChecks_none (fun r hm => (hr r hm).1) fun r hm => (hr r hm).2
  unfold execSwr
  rw [threadOp_eq h, hv]
  simp only [checked, hchecks, skipsScout, h.scout]

theorem swr_illegal {a : Reg} {n : Byte} (hwf : Instr.wf (.swr a n) = false) : Traps s u th (.swr a n) 0x01 c.addr c.word c.addr := by
  show execSwr a n s = _
  unfold execSwr
  rw [threadOp_eq h, hwf]
  exact congrArg _ (h.checked_some (regChecks_ill ..) _)

end

/-- A number from 0x18 names no special register (R56). -/
theorem sregListed_eq_false {n : Byte} (h : 0x18 ≤ n.toNat) : sregListed n = false := by
  simp only [sregListed, decide_eq_false_iff_not]
  omega

/-- Settles O15: SRD of every special register, SWR of the writable ones, and the numbers that name none. -/
theorem specialRegisterReadsAndWrites : Obligations.SpecialRegisterReadsAndWrites := by
  intro s u c th h l r tm
  have hteam := h.team
  have hl : s.launchOfThread (s.thread u) = s.launchOfThread th := by unfold State.launchOfThread; rw [hteam]
  have htm : s.teamOf (s.thread u) = s.teamOf th := by unfold State.teamOf; rw [hteam]
  have hnum : ∀ {n : Byte} {k : Nat}, n.toNat = k → n = BitVec.ofNat 8 k := fun {n k} hk => by rw [← hk, BitVec.ofNat_toNat, BitVec.setWidth_eq]
  refine ⟨fun d n v hm hx => ?_, fun d n v hm hd hx => ?_, fun a hr => ?_, fun a ha hr => ?_, fun a n hn => ?_⟩
  · simp only [tm, r, l, hl, htm] at hm
    obtain ⟨hv, hlist, hwide⟩ := readSpecial_words h _ hm
    rw [← hnum rfl] at hlist hwide
    have hregs : sregRegs d n = [d.toNat] := by simp [sregRegs, hwide]
    have := srd_reads h (d := d) (n := n) (by simp [Instr.wf, hlist, hwide]) (by rwa [hregs])
    rwa [hregs, hv] at this
  · simp only [tm, htm] at hm
    obtain ⟨hv, hlist, hwide⟩ := readSpecial_pairs _ hm
    rw [← hnum rfl] at hlist hwide
    have hregs : sregRegs d n = pairRegs d := by simp [sregRegs, hwide]
    have := srd_reads h (d := d) (n := n) (by simp [Instr.wf, hlist, hwide, hd]) (by rwa [hregs])
    rwa [hregs, hv, loWord_eq, hiWord_eq] at this
  · intro v
    have hw : ∀ n : Byte, sregListed n = true → sregWide n = false →
        ∃ t, exec (.swr a n) s = .next t ∧ Advanced s t u c (writeSpecial th n.toNat ((th.val a).setWidth 64)) := fun n hlist hwide => by
      have := swr_writes h (a := a) (n := n) (by simp [Instr.wf, hlist, hwide]) (by simpa [sregRegs, hwide] using hr)
      simpa only [hwide, Bool.false_eq_true, if_false] using this
    have h5 : ((th.val a).setWidth 64).setWidth 5 = v.extractLsb' 0 5 := by simp [v, ← BitVec.setWidth_eq_extractLsb']
    have h8 : ((th.val a).setWidth 64).setWidth 8 = v.extractLsb' 0 8 := by simp [v, ← BitVec.setWidth_eq_extractLsb']
    have h32 : ((th.val a).setWidth 64).setWidth 32 = v := by simp [v]
    refine ⟨?_, ?_, ?_, ?_, ?_, ?_⟩
    · rw [← h5]; exact hw 0x0E rfl rfl
    · have hbit : ((th.val a).setWidth 64).getLsbD 31 = v.getLsbD 31 := by simp [v]
      have hbud : bits ((th.val a).setWidth 64).toNat 16 9 = v.toNat / 2 ^ 16 % 2 ^ 9 := by
        have hlt : (th.val a).toNat < 2 ^ 64 := Nat.lt_trans v.isLt (by decide)
        simp only [v, bits, Nat.shiftRight_eq_div_pow, BitVec.toNat_setWidth, Nat.mod_eq_of_lt hlt]
      rw [← hbit, ← hbud]
      exact hw 0x10 rfl rfl
    · rw [← h8]; exact hw 0x12 rfl rfl
    · have := hw 0x14 rfl rfl
      simp only [writeSpecial, h32] at this
      exact this
    · have := hw 0x16 rfl rfl
      simp only [writeSpecial, h32] at this
      exact this
    · simp only [List.forall_mem_cons, List.not_mem_nil, false_imp_iff, implies_true, and_true]
      exact ⟨hw 0 rfl rfl, hw 1 rfl rfl, hw 2 rfl rfl, hw 3 rfl rfl, hw 4 rfl rfl, hw 5 rfl rfl, hw 6 rfl rfl, hw 7 rfl rfl, hw 8 rfl rfl, hw 9 rfl rfl,
        hw 0xA rfl rfl, hw 0xB rfl rfl, hw 0x15 rfl rfl, hw 0x17 rfl rfl⟩
  · have hw : ∀ n : Byte, sregListed n = true → sregWide n = true →
        ∃ t, exec (.swr a n) s = .next t ∧ Advanced s t u c (writeSpecial th n.toNat (th.pair a)) := fun n hlist hwide => by
      have := swr_writes h (a := a) (n := n) (by simp [Instr.wf, hlist, ha]) (by simpa [sregRegs, hwide] using hr)
      simpa only [hwide, if_true] using this
    refine ⟨hw 0x11 rfl rfl, hw 0x13 rfl rfl, ?_⟩
    simp only [List.forall_mem_cons, List.not_mem_nil, false_imp_iff, implies_true, and_true]
    exact ⟨hw 0xC rfl rfl, hw 0xD rfl rfl, hw 0xF rfl rfl⟩
  · have hlist := sregListed_eq_false hn
    exact ⟨srd_illegal h (by simp [Instr.wf, hlist]), swr_illegal h (by simp [Instr.wf, hlist])⟩

end Sys2Proof.Machine
end

section
/-! PROOF. Results under their windows (R57, R312, R313, R316): what landing one of them does outside scout, and the obligation. -/
namespace Sys2Proof.Machine
open Sys2Proof

/-! ### Registers put one after another -/

section
variable {β : Type} (v : β → Word) (p : β → Bool)

theorem foldl_put (l : List (Nat × β)) (t : Thread) : l.foldl (fun (t : Thread) x => t.put x.1 (v x.2) (p x.2)) t =
    { t with regs := l.foldl (fun r x => r.set x.1 (v x.2)) t.regs, pois := l.foldl (fun r x => r.set x.1 (p x.2)) t.pois } := by
  induction l generalizing t with
  | nil => rfl
  | cons x l ih => exact ih (t.put x.1 (v x.2) (p x.2))

theorem foldl_put_reg_same {l : List (Nat × β)} (hn : (l.map (·.1)).Nodup) {t : Thread} {x : Nat × β} (hx : x ∈ l) (hr : x.1 < t.regs.length)
    (hp : x.1 < t.pois.length) : (l.foldl (fun (t : Thread) x => t.put x.1 (v x.2) (p x.2)) t).reg x.1 = (v x.2, p x.2) := by
  rw [foldl_put]
  exact Prod.ext ((foldl_set_getD hn 0 t.regs x.1).2 x hx hr) ((foldl_set_getD hn false t.pois x.1).2 x hx hp)

theorem foldl_put_reg_other {l : List (Nat × β)} (hn : (l.map (·.1)).Nodup) (t : Thread) {r : Nat} (hr : ∀ x ∈ l, x.1 ≠ r) :
    (l.foldl (fun (t : Thread) x => t.put x.1 (v x.2) (p x.2)) t).reg r = t.reg r := by
  have hm : r ∉ l.map (·.1) := fun h => by
    obtain ⟨x, hx, e⟩ := List.mem_map.mp h
    exact hr x hx e
  rw [foldl_put]
  exact Prod.ext ((foldl_set_getD hn 0 t.regs r).1 hm) ((foldl_set_getD hn false t.pois r).1 hm)

end

/-! ### One result lands (R312) -/

/-- The registers of a result as they land outside scout. -/
def Thread.putAll (t : Thread) (l : List (Nat × Word × Bool × Bool)) : Thread :=
  l.foldl (fun (t : Thread) x => t.put x.1 x.2.1 x.2.2.1) t

theorem Thread.putAll_eq (t : Thread) (l : List (Nat × Word × Bool × Bool)) :
    t.putAll l = { t with regs := (t.putAll l).regs, pois := (t.putAll l).pois } := by
  unfold Thread.putAll
  rw [foldl_put (fun x : Word × Bool × Bool => x.1) (fun x => x.2.1)]

/-- A fold that outside scout puts each register puts them all. -/
theorem foldl_eq_putAll {f : Thread → Nat × Word × Bool × Bool → Thread} (hf : ∀ t x, t.scout = none → f t x = t.put x.1 x.2.1 x.2.2.1)
    {l : List (Nat × Word × Bool × Bool)} {t : Thread} (h : t.scout = none) : l.foldl f t = t.putAll l := by
  induction l generalizing t with
  | nil => rfl
  | cons x l ih =>
    rw [List.foldl_cons, hf t x h]
    exact ih (t := t.put x.1 x.2.1 x.2.2.1) h

/-- Outside scout a result puts its registers, raises its flags and lowers its counter (R57, R316). -/
theorem landOne_eq {t : Thread} (h : t.scout = none) (p : Pending) :
    landOne t p = { t.putAll p.regs with fstat := t.fstat ||| p.fl, sb := (t.sbDown p.sb).sb } := by
  unfold landOne
  rw [foldl_eq_putAll (fun t x ht => by simp [ht]) h, Thread.putAll_eq]
  simp only [Thread.flag, h, ite_self]
  unfold Thread.sbDown
  split <;> rfl

/-- Results that are not picked wait on. -/
theorem landWhere_skip {pick : Pending → Bool} {l : List Pending} (hl : ∀ q ∈ l, pick q = false) (t : Thread) (older rest : List Pending) :
    landWhere.go pick t older (l ++ rest) = landWhere.go pick t (older ++ l) rest := by
  induction l generalizing older with
  | nil => simp
  | cons q l ih =>
    rw [List.cons_append, landWhere.go, if_neg (by simp [hl q List.mem_cons_self]), ih (fun x hx => hl x (List.mem_cons_of_mem _ hx))]
    simp

/-- Of a window, outside scout, one result that is there lands alone: the older ones lose its registers (R312). -/
theorem landWhere_one {t : Thread} (h : t.scout = none) {p : Pending} {w1 w2 : List Pending} (hw : t.window = w1 ++ p :: w2) (h1 : p ∉ w1)
    (h2 : p ∉ w2) (hr : p.ready = true) : landWhere t (fun q => decide (q = p)) =
      { landOne t p with window := discardFor w1 (p.regs.map (·.1)) ++ w2 } := by
  have skip : ∀ {w : List Pending}, p ∉ w → ∀ q ∈ w, decide (q = p) = false := fun hp q hq => decide_eq_false fun e => hp (e ▸ hq)
  have hd : (if p.prov then t.discard (p.regs.map (·.1)) w1 else discardFor w1 (p.regs.map (·.1))) = discardFor w1 (p.regs.map (·.1)) := by
    simp [Thread.discard, h]
  unfold landWhere
  rw [hw, landWhere_skip (skip h1), List.nil_append, landWhere.go, if_pos (by simp [hr]), hd]
  have := landWhere_skip (skip h2) (landOne t p) (discardFor w1 (p.regs.map (·.1))) []
  rw [List.append_nil] at this
  rw [this]
  rfl

/-! ### The obligation -/

/-- A thread whose counters have fallen differs from it at most in its ready stamp (R20). -/
theorem renew_eq (s : State) (old new : Thread) : renew s old new = { new with stamp := (renew s old new).stamp } := by
  unfold renew
  split
  · split <;> rfl
  · rfl

/-- INSTRUCTION_RESULT_WRITE of a result of the window. -/
theorem instructionResultWrite_eq {s : State} {u : Nat} {p : Pending} {w1 w2 : List Pending} (hw : (s.thread u).window = w1 ++ p :: w2) :
    exec (.instructionResultWrite u w1.length) s = .next (
      if (s.teamOf (s.thread u)).place = .resident ∧ ((s.thread u).mid = none ∨ p.exe ≠ (s.thread u).exe ∨ p.la + p.pos < (s.thread u).ipos) then
        s.setThread (renew s (s.thread u) (landWhere (s.thread u) fun q => decide (q = p)))
      else s) := by
  show execInstructionResultWrite u w1.length s = _
  unfold execInstructionResultWrite
  have hp : (s.thread u).window[w1.length]? = some p := by rw [hw]; simp
  simp only [hp]
  refine congrArg _ (if_congr ?_ rfl rfl)
  simp [visibleAt]

/-- Settles O37: a result lands under its window. -/
theorem windowsLandInOrder : Obligations.WindowsLandInOrder := by
  intro s u p w1 w2 hu hsc hw h1 h2 hready hnodup hlen passed
  refine ⟨fun hn => (instructionResultWrite_eq hw).trans (congrArg _ (if_neg hn)), fun hp => ⟨_, (instructionResultWrite_eq hw).trans (congrArg _ (if_pos hp)), ?_⟩⟩
  rw [landWhere_one hsc hw h1 h2 hready, landOne_eq hsc, renew_eq]
  generalize (renew s (s.thread u) _).stamp = now
  have huid : ((s.thread u).putAll p.regs).uid = u := by rw [Thread.putAll_eq]; exact State.thread_uid hu
  rw [State.thread_setThread_same (by exact huid) hu]
  refine ⟨rfl, fun x hx => ?_, fun r hr => ?_, rfl, rfl, rfl, fun v hv => ?_, fun n hn => ?_⟩
  · exact foldl_put_reg_same (fun x : Word × Bool × Bool => x.1) (fun x => x.2.1) hnodup hx (hlen x hx).1 (hlen x hx).2
  · exact foldl_put_reg_other (fun x : Word × Bool × Bool => x.1) (fun x => x.2.1) hnodup (s.thread u) hr
  · exact State.thread_setThread_other (by rw [← huid] at hv; exact hv)
  · show execInstructionResultWrite u n s = _
    unfold execInstructionResultWrite
    simp only [List.getElem?_eq_none hn]

end Sys2Proof.Machine
end

section
/-! PROOF. What an instruction of a thread outside scout leaves of how far its access has come (R256, R257, R315, R316): going on, a
result under its window and a trap overwrite it alike. -/
namespace Sys2Proof.Machine
open Sys2Proof

/-! ### What going on and traps overwrite -/

/-- A thread without what holds it, how far its access has come and what it has been answered. -/
def Thread.unstarted (t : Thread) : Thread := { t with hold := none, part := none, reply := none, plain := false, polls := false }

theorem sbDown_unstarted (t : Thread) (k : Nat) : t.unstarted.sbDown k = (t.sbDown k).unstarted := by
  unfold Thread.sbDown
  split <;> rfl

theorem lower_unstarted (t : Thread) : t.unstarted.lower = t.lower.unstarted := by
  cases h : t.up with
  | none => rw [Thread.lower_none h, Thread.lower_none (t := t.unstarted) h]
  | some k =>
    simp only [Thread.lower, show t.unstarted.up = some k from h, h, sbDown_unstarted]
    rfl

theorem goneOn_unstarted (t : Thread) (c : Cur) : t.unstarted.goneOn c = t.goneOn c := by
  unfold Thread.goneOn
  rw [lower_unstarted]
  rfl

/-- A thread goes on alike however far its access has come (R302). -/
theorem goneOn_congr {x y : Thread} (h : x.unstarted = y.unstarted) (c : Cur) : x.goneOn c = y.goneOn c := by
  rw [← goneOn_unstarted x, h, goneOn_unstarted]

theorem charge_unstarted (t : Thread) (k : Nat) : t.unstarted.charge k = (t.charge k).unstarted := by
  cases h : t.up with
  | none =>
    simp only [Thread.charge, show t.unstarted.up = none from h, h, Thread.sbUp]
    split <;> rfl
  | some j =>
    simp only [Thread.charge, show t.unstarted.up = some j from h, h]
    rfl

theorem issued_unstarted (t : Thread) (c : Cur) (is : Issue) (rs : List (Nat × Word × Bool × Bool)) (ready : Bool) (tok : Nat) (fl : BitVec 5) :
    t.unstarted.issued c is rs ready tok fl = (t.issued c is rs ready tok fl).unstarted := by
  simp only [Thread.issued, charge_unstarted, show t.unstarted.inEpisode = t.inEpisode from rfl, show t.unstarted.scout = t.scout from rfl]
  rfl

/-- What a thread issues does not hang on how far its access has come. -/
theorem issued_goneOn_congr {x y : Thread} (h : x.unstarted = y.unstarted) (c : Cur) (is : Issue) (rs : List (Nat × Word × Bool × Bool)) (ready : Bool)
    (tok : Nat) (fl : BitVec 5) : (x.issued c is rs ready tok fl).goneOn c = (y.issued c is rs ready tok fl).goneOn c :=
  goneOn_congr (by rw [← issued_unstarted, h, issued_unstarted]) c

/-! ### Results under a window, the counter risen (R311, R315) -/

theorem raised_issued {th : Thread} (h : th.scout = none) (c : Cur) (is : Issue) (rs : List (Nat × Word × Bool × Bool)) (ready : Bool) (tok : Nat)
    (fl : BitVec 5) : (th.raised (some is)).issued c is rs ready tok fl =
      { th.counted is with window := th.window ++ [⟨c.pos, c.exe, is.la.toNat, rs, is.sb.toNat, ready, tok, false, fl⟩] } := by
  have h1 : (th.raised (some is)).inEpisode = false := by simp [Thread.inEpisode, h]
  have h2 : (th.raised (some is)).scout.isSome = false := by simp [h]
  simp only [Thread.issued, h1, h2, Thread.raised_charge, Bool.false_eq_true, if_false]
  rfl

/-- A load's results wait under its window as `Thread.loads` says. -/
theorem raised_loads {th : Thread} (h : th.scout = none) (c : Cur) (is : Issue) (rs : List (Nat × Word)) (p : Bool) :
    (th.raised (some is)).issued c is (rs.map fun x => (x.1, x.2, p, false)) true 0 0 = th.loads c is rs p := raised_issued h ..

/-- Before its counter rises or after, what a thread awaits is the same. -/
theorem raised_await {th : Thread} (h : th.scout = none) (c : Cur) (is : Issue) (tok : Nat) (dst : List Nat) :
    (th.raised (some is)).await c is tok dst = th.await c is tok dst := by
  have hc : th.charge is.sb.toNat = th.counted is := by
    cases hu : th.up with
    | none =>
      simp only [Thread.charge, Thread.counted, hu, Thread.sbUp, and_true]
      by_cases h6 : is.sb.toNat < 6
      · simp only [h6, if_true, lset]
      · simp only [h6, if_false]
        cases th
        simp only at hu
        rw [hu]
    | some k => simp [Thread.charge, Thread.counted, hu]
  unfold Thread.await
  rw [raised_issued h]
  simp only [Thread.issued, Thread.inEpisode, h, hc, Bool.false_eq_true, if_false]
  rfl

theorem unstarted_raised {th t : Thread} {is : Option Issue} (h : t.unstarted = (th.raised is).unstarted) : t.uid = th.uid ∧ t.scout = th.scout :=
  ⟨(congrArg Thread.uid h :).trans (Thread.raised_uid th is), (congrArg Thread.scout h :).trans (Thread.raised_scout th is)⟩

/-- Going on outside scout, wherever the access of the thread has come (R257, R302). -/
theorem retire_spec {s : State} {t : Thread} {u : Nat} {c : Cur} (hu : t.uid = u) (hs : s.hasThread u = true) (hsc : t.scout = none) :
    ((retire s t c).thread u).unstamped = (t.goneOn c).unstamped ∧ OnlyThread s (retire s t c) u := by
  obtain ⟨h1, h2⟩ := retireAt_spec (pc := c.next) (tr := false) (c := c) hu hs hsc
  refine ⟨?_, h2⟩
  rwa [show t.goneTo c c.next false = t.goneOn c by simp [Thread.goneTo, Thread.goneOn]] at h1

/-- A thread that has gone on after a counter rose goes on as if none had: nothing it issued counts on (R316). -/
theorem goneOn_raised (th : Thread) (is : Option Issue) (c : Cur) : (th.raised is).goneOn c = th.goneOn c := by
  have e := Thread.raised_lower th is
  unfold Thread.goneOn
  rw [e]

/-! ### Traps -/

theorem unstarted_eq_onto (t : Thread) : t.unstarted = t.onto t.unstarted := rfl

theorem landAll_unstarted (t : Thread) : landAll t.unstarted = (landAll t).unstarted := by
  have h1 : landAll (t.onto t) = (landAll t).onto t := landAll_onto t t
  have h2 : landAll (t.onto t.unstarted) = (landAll t).onto t.unstarted := landAll_onto t t.unstarted
  rw [unstarted_eq_onto t, h2]
  conv => rhs; rw [show t = t.onto t from rfl, h1]
  rfl

/-- A thread stops for good alike however far its access has come (R260). -/
theorem stopForGood_unstarted (s : State) (t : Thread) : stopForGood (s.setThread t.unstarted) t.unstarted = stopForGood (s.setThread t) t := by
  have hset : ∀ x y : Thread, x.uid = y.uid → (scoutCount (s.setThread x) x 0x50).setThread y = (scoutCount s x 0x50).setThread y := fun x y h =>
    State.setThread_setThread (scoutCount s x 0x50) x y h
  unfold stopForGood
  rw [show t.unstarted.scouting = t.scouting from rfl]
  split
  · dsimp only
    rw [hset, hset] <;> rfl
  · dsimp only
    rw [State.setThread_setThread, State.setThread_setThread] <;> rfl

theorem takeTrap_unstarted {s : State} {u : Nat} {t : Thread} (hu : t.uid = u) (hs : s.hasThread u = true) (code : Nat) (addr : DWord) (info : Word)
    (epc : DWord) : takeTrap (s.setThread t.unstarted) u code addr info epc = takeTrap (s.setThread t) u code addr info epc := by
  have h1 : (s.setThread t.unstarted).thread u = t.unstarted := State.thread_setThread_same hu hs
  have h2 : (s.setThread t).thread u = t := State.thread_setThread_same hu hs
  have hland : (landAll t.unstarted).lower = (landAll t).lower.unstarted := by rw [landAll_unstarted, lower_unstarted]
  have huid : (landAll t).lower.uid = t.uid := (Thread.lower_uid _).trans (landAll_uid t)
  unfold takeTrap
  simp only [h1, h2, hland, State.hasThread_setThread, hs]
  generalize (landAll t).lower = l at huid
  rw [State.setThread_setThread s t.unstarted l.unstarted huid.symm, State.setThread_setThread s t l huid.symm, stopForGood_unstarted,
    State.setThread_setThread s t.unstarted, State.setThread_setThread s t]
  · rfl
  all_goals exact huid.symm

/-- A trap is the same however far the access of its instruction has come, and whether its counter has risen (R257, R315). -/
theorem takeTrap_started {s : State} {u : Nat} {th t : Thread} {is : Option Issue} (hu : th.uid = u) (hs : s.hasThread u = true)
    (h : t.unstarted = (th.raised is).unstarted) (code : Nat) (addr : DWord) (info : Word) (epc : DWord) :
    takeTrap (s.setThread t) u code addr info epc = takeTrap (s.setThread th) u code addr info epc := by
  have htu : t.uid = u := (unstarted_raised h).1.trans hu
  rw [← takeTrap_unstarted htu hs, h, takeTrap_unstarted ((Thread.raised_uid th is).trans hu) hs, takeTrap_raised hu hs]

/-! ### Memory instructions of a thread outside scout -/

section
variable {s : State} {u : Nat} {c : Cur} {th : Thread} (h : Runs s u c th) {is : Issue} (hc : CounterFree th is)
include h hc

theorem memOp_eq (f : State → Nat → State) (k : State → Thread → Cur → State) :
    memOp s (some is) f k = .next (k (s.setThread (th.raised (some is))) (th.raised (some is)) c) := by
  simp only [memOp, withCur_eq h, h.who]
  rw [onThread_eq h _ fun i hi => Option.some.inj hi ▸ hc]

theorem threadOp_late (k : State → Thread → Cur → State) :
    threadOp s (some is) k = .next (k (s.setThread (th.raised (some is))) (th.raised (some is)) c) := by
  simp only [threadOp, withCur_eq h, h.who]
  rw [onThread_eq h _ fun i hi => Option.some.inj hi ▸ hc]

end

/-- A thread as its instruction begins is in place. -/
theorem Runs.raised_set {s : State} {u : Nat} {c : Cur} {th : Thread} (h : Runs s u c th) (is : Option Issue) :
    (s.setThread (th.raised is)).thread u = th.raised is :=
  State.thread_setThread_same ((Thread.raised_uid th is).trans h.uid) h.has

/-- A failed check of an instruction with an X word is its trap (R256). -/
theorem Runs.checked_late {s : State} {u : Nat} {c : Cur} {th : Thread} (h : Runs s u c th) (is : Option Issue) {bad : Option (Nat × DWord × Word)}
    {code : Nat} {a : DWord} {i : Word} (hb : bad = some (code, a, i)) (k : State) :
    checked (s.setThread (th.raised is)) (th.raised is) c bad k = takeTrap (s.setThread th) u code a i c.addr := by
  simp only [checked, hb, Thread.raised_uid, h.uid]
  rw [trapOr_none (by rw [h.raised_set]; exact (Thread.raised_scout th is).trans h.scout), takeTrap_raised h.uid h.has]

theorem checked_none {s : State} {t : Thread} {c : Cur} {bad : Option (Nat × DWord × Word)} (hb : bad = none) (k : State) : checked s t c bad k = k := by
  rw [hb]
  rfl

/-- The register checks of a thread whose counter has risen are those of the thread. -/
theorem regChecks_raised (th : Thread) (is : Option Issue) (c : Cur) (ill : Bool) (uses hot : List Nat) :
    regChecks (th.raised is) c ill uses hot = regChecks th c ill uses hot := by
  have hinv : ∀ r, (th.raised is).invalid r = th.invalid r := fun r => by unfold Thread.invalid; rw [Thread.raised_scout]
  unfold regChecks
  simp only [Thread.raised_regs, Thread.raised_reg, hinv]

@[simp] theorem Thread.raised_val (t : Thread) (is : Option Issue) (r : Reg) : (t.raised is).val r = t.val r := by simp [Thread.val]
@[simp] theorem Thread.raised_pair (t : Thread) (is : Option Issue) (r : Reg) : (t.raised is).pair r = t.pair r := by simp [Thread.pair]
@[simp] theorem Thread.raised_core (t : Thread) (is : Option Issue) : (t.raised is).core = t.core := by rw [Thread.raised_eq]
@[simp] theorem Thread.raised_team (t : Thread) (is : Option Issue) : (t.raised is).team = t.team := by rw [Thread.raised_eq]
@[simp] theorem Thread.raised_hold (t : Thread) (is : Option Issue) : (t.raised is).hold = t.hold := by rw [Thread.raised_eq]
@[simp] theorem Thread.raised_part (t : Thread) (is : Option Issue) : (t.raised is).part = t.part := by rw [Thread.raised_eq]
@[simp] theorem Thread.raised_plain (t : Thread) (is : Option Issue) : (t.raised is).plain = t.plain := by rw [Thread.raised_eq]
@[simp] theorem Thread.raised_rerun (t : Thread) (is : Option Issue) : (t.raised is).rerun = t.rerun := by rw [Thread.raised_eq]
@[simp] theorem Thread.raised_scoutEn (t : Thread) (is : Option Issue) : (t.raised is).scoutEn = t.scoutEn := by rw [Thread.raised_eq]
@[simp] theorem Thread.raised_scoutBud (t : Thread) (is : Option Issue) : (t.raised is).scoutBud = t.scoutBud := by rw [Thread.raised_eq]
@[simp] theorem memAddr_raised (m : Mem) (t : Thread) (is : Option Issue) (a : Reg) : memAddr m (t.raised is) a = memAddr m t a := by simp [memAddr]
@[simp] theorem regBytes_raised (t : Thread) (is : Option Issue) (rs : List Nat) (n : Nat) : regBytes (t.raised is) rs n = regBytes t rs n := by
  simp [regBytes]

theorem inEpisode_none {t : Thread} (h : t.scout = none) : t.inEpisode = false := by simp [Thread.inEpisode, h]
theorem provisional_none {t : Thread} (h : t.scout = none) : t.provisional = false := by simp [Thread.provisional, h]
theorem any_invalid_none {t : Thread} (h : t.scout = none) (rs : List Nat) : rs.any t.invalid = false :=
  List.any_eq_false.mpr fun r _ => by simp [Thread.invalid_none h]
theorem skipsScout_none {s : State} {t : Thread} (h : t.scout = none) (c : Cur) (k : State) : skipsScout s t c k = k := by simp [skipsScout, h]

end Sys2Proof.Machine
end

section
/-! PROOF. A turn of a thread's access that nothing stands in the way of: what it meets, what is performed, and what follows (R86, R90,
R113, R114, R117). -/
namespace Sys2Proof.Machine
open Sys2Proof

/-! ### What only the caches show (R90, R95, R98) -/

/-- Two states alike but for what the caches hold. -/
def SameButCaches (s t : State) : Prop := ∃ cores draws l2 dirty, t = { s with cores, draws, l2, dirty }

theorem SameButCaches.refl (s : State) : SameButCaches s s := ⟨_, _, _, _, rfl⟩
theorem SameButCaches.trans {s t u : State} (h1 : SameButCaches s t) (h2 : SameButCaches t u) : SameButCaches s u := by
  obtain ⟨_, _, _, _, rfl⟩ := h1
  obtain ⟨_, _, _, _, rfl⟩ := h2
  exact ⟨_, _, _, _, rfl⟩
theorem SameButCaches.foldl {α : Type} {f : State → α → State} (hf : ∀ s x, s.hub.cxldn = [] → SameButCaches s (f s x)) (l : List α) {s : State}
    (h : s.hub.cxldn = []) : SameButCaches s (l.foldl f s) := by
  induction l generalizing s with
  | nil => exact .refl s
  | cons x l ih =>
    have h1 := hf s x h
    refine h1.trans (ih ?_)
    obtain ⟨_, _, _, _, e⟩ := h1
    rw [e]
    exact h

section
variable {s t : State} (h : SameButCaches s t)
include h

theorem SameButCaches.hub : t.hub = s.hub := by obtain ⟨_, _, _, _, rfl⟩ := h; rfl
theorem SameButCaches.threads : t.threads = s.threads := by obtain ⟨_, _, _, _, rfl⟩ := h; rfl
theorem SameButCaches.teams : t.teams = s.teams := by obtain ⟨_, _, _, _, rfl⟩ := h; rfl
theorem SameButCaches.mem : t.mem = s.mem := by obtain ⟨_, _, _, _, rfl⟩ := h; rfl
theorem SameButCaches.poison : t.poison = s.poison := by obtain ⟨_, _, _, _, rfl⟩ := h; rfl
theorem SameButCaches.thread (u : Nat) : t.thread u = s.thread u := by obtain ⟨_, _, _, _, rfl⟩ := h; rfl
theorem SameButCaches.hasThread (u : Nat) : t.hasThread u = s.hasThread u := by obtain ⟨_, _, _, _, rfl⟩ := h; rfl
theorem SameButCaches.byte (k : Nat) : t.byte k = s.byte k := by obtain ⟨_, _, _, _, rfl⟩ := h; rfl
theorem SameButCaches.bytes (k n : Nat) : t.bytes k n = s.bytes k n := by obtain ⟨_, _, _, _, rfl⟩ := h; rfl
theorem SameButCaches.anyPoison (k n : Nat) : t.anyPoison k n = s.anyPoison k n := by obtain ⟨_, _, _, _, rfl⟩ := h; rfl

end

theorem keepXlate_caches (s : State) (core ctx va : Nat) (x : Xlate) : SameButCaches s (keepXlate s core ctx va x) := by
  unfold keepXlate
  split
  · exact .refl s
  · exact ⟨_, _, _, _, rfl⟩

theorem writeBack_caches (s : State) (line : Nat) (h : s.hub.cxldn = []) : SameButCaches s (writeBack s line) := by
  have hl : lost { s with dirty := ndel s.dirty line } (line * 128) = false := lost_eq_false h _
  unfold writeBack
  split
  · simp only [hl, Bool.false_eq_true, if_false]
    exact ⟨_, _, _, _, rfl⟩
  · exact .refl s

theorem touchL2_caches {s : State} (h : s.hub.cxldn = []) (off : Nat) (cl : EClass) : SameButCaches s (touchL2 s off cl) := by
  unfold touchL2
  simp only [lost_eq_false h, Bool.false_eq_true, if_false]
  refine SameButCaches.trans (t := { s with l2 := tset [] s.l2 (l2Key off) (touchSet 16 (tget [] s.l2 (l2Key off)) (off / 128) cl) }) ⟨_, _, _, _, rfl⟩ ?_
  exact SameButCaches.foldl (f := fun s (e : Nat × EClass) => writeBack s e.1) (fun s x => writeBack_caches s x.1) _ h

/-- With every CXL link up an access's line changes nothing but caches. -/
theorem touch_caches {s : State} (h : s.hub.cxldn = []) (core off : Nat) (cl : EClass) : SameButCaches s (touch s core off cl) := by
  have h1 : SameButCaches s (if inL1 s core off then s else touchL2 s off cl) := by
    split
    · exact .refl s
    · exact touchL2_caches h off cl
  unfold touch
  split
  · exact .refl s
  · dsimp only
    generalize (if inL1 s core off then s else touchL2 s off cl) = s1 at h1 ⊢
    split
    · exact h1.trans ⟨_, _, _, _, rfl⟩
    · exact h1

/-! ### Locks that hold nothing (R117, R119) -/

theorem lockHolders_eq_nil {s : State} : lockHolders s = [] ↔ ∀ x ∈ s.cores, ∀ y ∈ x.2.tags, ∀ z, y.2.copy = some z → z.registered = false := by
  unfold lockHolders
  simp only [List.flatMap_eq_nil_iff, List.filterMap_eq_nil_iff]
  refine forall₂_congr fun x _ => forall₂_congr fun y _ => ?_
  cases y.2.copy <;> simp

theorem waitingSnapshots_eq_nil {s : State} :
    waitingSnapshots s = [] ↔ ∀ x ∈ s.cores, ∀ y ∈ x.2.tags, ∀ z, y.2.copy = some z → (z.phase == .queued && z.shape.snapshot) = false := by
  unfold waitingSnapshots
  simp only [List.flatMap_eq_nil_iff, List.filterMap_eq_nil_iff]
  refine forall₂_congr fun x _ => forall₂_congr fun y _ => ?_
  cases y.2.copy <;> simp

/-- What holds of every tag of every core holds of them when a core changes but not in its tags. -/
theorem tags_setCore {s : State} {core : Nat} {x : Core} (hx : x.tags = (s.core core).tags) {P : Nat × Tag → Prop} (h : ∀ x ∈ s.cores, ∀ y ∈ x.2.tags, P y) :
    ∀ z ∈ (s.setCore core x).cores, ∀ y ∈ z.2.tags, P y := by
  have hc : ∀ y ∈ (s.core core).tags, P y := by
    have key : ∀ l : Tab Core, (∀ x ∈ l, ∀ y ∈ x.2.tags, P y) → ∀ y ∈ (tget {} l core).tags, P y := by
      intro l hl
      induction l with
      | nil => intro y hy; cases hy
      | cons z l ih =>
        simp only [tget]
        split
        · exact hl z List.mem_cons_self
        · exact ih fun x hx => hl x (List.mem_cons_of_mem _ hx)
    exact key s.cores h
  intro z hz y hy
  have hz' : z ∈ tset {} s.cores core x := hz
  unfold tset at hz'
  split at hz'
  · exact h z (mem_tdel hz') y hy
  · rcases mem_tins hz' with rfl | hz'
    · exact hc y (hx ▸ hy)
    · exact h z hz' y hy

theorem keepXlate_holders {s : State} (h : lockHolders s = []) (core ctx va : Nat) (x : Xlate) : lockHolders (keepXlate s core ctx va x) = [] := by
  unfold keepXlate
  split
  · exact h
  · exact lockHolders_eq_nil.mpr (tags_setCore (s := s) (by rfl) (lockHolders_eq_nil.mp h))

theorem keepXlate_waiting {s : State} (h : waitingSnapshots s = []) (core ctx va : Nat) (x : Xlate) : waitingSnapshots (keepXlate s core ctx va x) = [] := by
  unfold keepXlate
  split
  · exact h
  · exact waitingSnapshots_eq_nil.mpr (tags_setCore (s := s) (by rfl) (waitingSnapshots_eq_nil.mp h))

theorem locksHit_free {s : State} {ls : List Loc} {w : Bool} (h1 : lockHolders s = []) (h2 : ∀ f ∈ s.farLocks, ∀ l ∈ ls, farLockOf s f l w = .free)
    (h3 : w = true → waitingSnapshots s = []) : locksHit s ls w = none := by
  unfold locksHit
  refine List.findSome?_eq_none_iff.mpr fun ⟨l, i⟩ hx => ?_
  simp only [h1, List.findSome?_nil]
  split
  next hf =>
    obtain ⟨f, hf, e⟩ := List.exists_of_findSome?_eq_some hf
    rw [h2 f hf l (List.fst_mem_of_mem_zipIdx hx)] at e
    cases e
  next =>
    cases w with
    | false => rfl
    | true => simp [snapshotHit, h3 rfl]

/-! ### What a piece meets (R86, R90, R256) -/

theorem lockLook_free {s : State} {a : Acc} {locs : List Loc} {addr unit : Nat} {pois : Bool} {p : Spot} (h : locksHit s locs a.write = none)
    (ht : a.tight = true → pois = false) : lockLook s a locs addr unit pois p = (s, .go p) := by
  have hp : (a.tight && pois) = false := by cases e : a.tight <;> simp [ht, e]
  unfold lockLook
  rw [h]
  simp only [hp, Bool.false_eq_true, if_false]

/-- Scratch offsets meet no lock of another chip. -/
theorem scratch_far {s : State} {t addr n : Nat} (w : Bool) :
    ∀ f ∈ s.farLocks, ∀ l ∈ (List.range n).map (fun i => Loc.scr t (addr + i)), farLockOf s f l w = .free := by
  intro f _ l hl
  obtain ⟨i, _, rfl⟩ := List.mem_map.mp hl
  rfl

theorem lookAt_scratch {s : State} {t : Thread} {a : Acc} {x : Nat × Nat} (hs : a.scr = true) (h1 : lockHolders s = [])
    (h2 : a.write = true → waitingSnapshots s = []) (ht : a.tight = true → (s.teamOf t).anyPoison x.1 x.2 = false) :
    lookAt s t a x = (s, .go (.scratch x.1)) := by
  unfold lookAt
  simp only [hs, if_true]
  exact lockLook_free (locksHit_free h1 (scratch_far _) h2) ht

/-- A hit's translation may enter the core's cache, and its piece goes on to memory. -/
theorem locate_hit {s : State} {t : Thread} {a : Acc} {va off : Nat} (h : Hits s t a.write va off) (n : Nat) :
    ∃ x, locate s t a (BitVec.ofNat 64 va) n =
      (keepXlate s t.core (s.launchOfThread t).ctx (vaKey (BitVec.ofNat 64 va)) x, .go (.mem off)) := by
  obtain ⟨x, hx, hw, hs⟩ := h.found
  have hspot : spotOf (keepXlate s t.core (s.launchOfThread t).ctx (vaKey (BitVec.ofNat 64 va)) x) (x.phys (vaKey (BitVec.ofNat 64 va))) = some (.mem off) := by
    obtain ⟨_, _, _, _, e⟩ := keepXlate_caches s t.core (s.launchOfThread t).ctx (vaKey (BitVec.ofNat 64 va)) x
    rw [e]
    exact hs
  have hlog : (logged s (s.launchOfThread t).ctx (faultPage (BitVec.ofNat 64 va)) != []) = false := by
    have : logged s (s.launchOfThread t).ctx (faultPage (BitVec.ofNat 64 va)) = [] :=
      List.flatMap_eq_nil_iff.mpr fun y hy => by rw [h.logs y hy]; rfl
    rw [this]
    rfl
  have hwr : (a.write && !x.w) = false := by cases e : a.write <;> simp [hw, e]
  have hf := fun y z => h.free y z
  have h1 : (t.hold == some (.refused (s.launchOfThread t).ctx (faultPage (BitVec.ofNat 64 va)))) = false := beq_eq_false_iff_ne.mpr (hf _ _).1
  have h2 : (t.hold == some (.fault (s.launchOfThread t).ctx (faultPage (BitVec.ofNat 64 va)))) = false := beq_eq_false_iff_ne.mpr (hf _ _).2.1
  have h3 : (t.hold == some (.logs (s.launchOfThread t).ctx (faultPage (BitVec.ofNat 64 va)))) = false := beq_eq_false_iff_ne.mpr (hf _ _).2.2
  refine ⟨x, ?_⟩
  unfold locate
  simp only [h1, h2, h3, hx, hwr, hlog, hspot, Acc.admits, Option.isSome_none, Bool.and_false, Bool.or_false, Bool.false_eq_true, if_false, if_true]

theorem lookAt_hit {s : State} {t : Thread} {a : Acc} {x : Nat × Nat} {off : Nat} (hs : a.scr = false) (h : Hits s t a.write x.1 off)
    (ht : a.tight = true → s.anyPoison off x.2 = false) :
    ∃ s1, SameButCaches s s1 ∧ lookAt s t a x = (s1, .go (.mem off)) ∧
      ((inCore s t.core (s.launchOfThread t).ctx (vaKey (BitVec.ofNat 64 x.1))).isSome = true → s1 = s) := by
  obtain ⟨y, hy⟩ := locate_hit h x.2
  obtain ⟨lh, far, wt⟩ := h.locks
  obtain ⟨hne, hask⟩ := h.here
  have hlh := keepXlate_holders lh t.core (s.launchOfThread t).ctx (vaKey (BitVec.ofNat 64 x.1)) y
  have hwt := keepXlate_waiting wt t.core (s.launchOfThread t).ctx (vaKey (BitVec.ofNat 64 x.1)) y
  have hk := keepXlate_caches s t.core (s.launchOfThread t).ctx (vaKey (BitVec.ofNat 64 x.1)) y
  have hid : (inCore s t.core (s.launchOfThread t).ctx (vaKey (BitVec.ofNat 64 x.1))).isSome = true →
      keepXlate s t.core (s.launchOfThread t).ctx (vaKey (BitVec.ofNat 64 x.1)) y = s := fun e => by simp only [keepXlate, e, if_true]
  generalize keepXlate s t.core (s.launchOfThread t).ctx (vaKey (BitVec.ofNat 64 x.1)) y = s1 at hy hlh hwt hk hid
  have hfl : flipping s1 off = false := by obtain ⟨_, _, _, _, rfl⟩ := hk; exact h.still
  have hfar : s1.farLocks = [] := by obtain ⟨_, _, _, _, rfl⟩ := hk; exact far
  have hpo : a.tight = true → (s1.anyPoison off x.2 || lost s1 off) = false := fun e => by
    rw [hk.anyPoison, ht e, lost_eq_false (by rw [hk.hub]; exact h.up)]
    rfl
  refine ⟨s1, hk, ?_, hid⟩
  have hgo := lockLook_free (addr := x.1) (unit := 16) (p := .mem off)
    (locksHit_free (ls := (List.range x.2).map fun i => .glob (physOf s1 off + i)) (w := a.write) hlh (by simp [hfar]) fun _ => hwt) hpo
  have hh : ∀ c l n, t.hold ≠ some (.remote c l n) := fun c l n e => by simp [Thread.asking, e] at hask
  unfold lookAt
  simp only [hs, Bool.false_eq_true, if_false]
  split
  next e1 =>
    obtain ⟨rfl, rfl⟩ : s1 = _ ∧ off = _ := by simpa using hy.symm.trans e1
    simp only [hfl, Bool.false_eq_true, if_false]
    exact hgo
  next e1 => exact absurd (hy.symm.trans e1) (by simp)
  next hno _ => exact absurd hy (hno _ _)

/-- The pieces behind the first of a write stop nothing, where each hits in the core's cache (R114). -/
theorem lookAll_hits {s : State} {t : Thread} {a : Acc} {off : Nat → Nat} (hs : a.scr = false) (l : List (Nat × Nat))
    (h : ∀ y ∈ l, Hits s t a.write y.1 (off y.1) ∧ (inCore s t.core (s.launchOfThread t).ctx (vaKey (BitVec.ofNat 64 y.1))).isSome = true ∧
      (a.tight = true → s.anyPoison (off y.1) y.2 = false)) : lookAll t a s l = (s, none) := by
  induction l with
  | nil => rfl
  | cons y l ih =>
    obtain ⟨h1, h2, h3⟩ := h y List.mem_cons_self
    obtain ⟨s1, _, e, hid⟩ := lookAt_hit hs h1 h3
    rw [hid h2] at e
    unfold lookAll
    rw [e]
    exact ih fun z hz => h z (List.mem_cons_of_mem _ hz)

theorem lookAll_scratch {s : State} {t : Thread} {a : Acc} (hs : a.scr = true) (h1 : lockHolders s = [])
    (h2 : a.write = true → waitingSnapshots s = []) (l : List (Nat × Nat)) (ht : a.tight = true → ∀ y ∈ l, (s.teamOf t).anyPoison y.1 y.2 = false) :
    lookAll t a s l = (s, none) := by
  induction l with
  | nil => rfl
  | cons y l ih =>
    unfold lookAll
    rw [lookAt_scratch hs h1 h2 fun e => ht e y List.mem_cons_self]
    exact ih fun e z hz => ht e z (List.mem_cons_of_mem _ hz)

/-! ### A turn (R114) -/

theorem progress_done (t : Thread) : (t.part.map (·.done)).getD 0 = t.progress.done := by
  unfold Thread.progress
  cases t.part <;> rfl

section
variable {s : State} {t : Thread} {c : Cur} {a : Acc} {fin : Finish} {x : Nat × Nat} {rest : List (Nat × Nat)} (hx : a.ps.drop t.progress.done = x :: rest)
include hx

/-- The access is at its last piece, or has more to come. -/
theorem ps_length : a.ps.length = t.progress.done + 1 + rest.length := by
  have h := congrArg List.length hx
  simp only [List.length_drop, List.length_cons] at h
  omega

/-- A turn of an access of scratch in whose way nothing stands. -/
theorem access_scratch (hs : a.scr = true) (h1 : lockHolders s = []) (h2 : a.write = true → waitingSnapshots s = [])
    (ht : a.tight = true → ∀ y ∈ x :: rest, (s.teamOf t).anyPoison y.1 y.2 = false) {s1 : State} {b : List Byte} {p : Bool}
    (hd : scrDeed s t a x.1 x.2 (a.slice t.progress.done) = (s1, .done b p)) : access s t c a fin = pieceDone s1 t.uid a b p fin := by
  have hall : lookAll t a s (if a.write then rest else []) = (s, none) := by
    split
    · exact lookAll_scratch hs h1 h2 rest fun e y hy => ht e y (List.mem_cons_of_mem _ hy)
    · rfl
  unfold access
  simp only [progress_done, hx, lookAt_scratch hs h1 h2 fun e => ht e x List.mem_cons_self, hall, perform, hd]

/-- A turn of an access of memory that hits, with nothing in its way. -/
theorem access_memory {off : Nat → Nat} (hs : a.scr = false) (h : AllHit s t a.write off x rest)
    (ht : a.tight = true → ∀ y ∈ x :: rest, s.anyPoison (off y.1) y.2 = false) :
    ∃ s1, SameButCaches s s1 ∧ ∀ s2 b p, memDeed s1 a (off x.1) x.2 (a.slice t.progress.done) = (s2, .done b p) →
      access s t c a fin = pieceDone (touch s2 t.core (off x.1) (a.cls (BitVec.ofNat 64 x.1))) t.uid a b p fin := by
  obtain ⟨hh, hin⟩ := h
  have hx1 := hh x List.mem_cons_self
  obtain ⟨s1, hc, e, hid⟩ := lookAt_hit hs hx1 fun e => ht e x List.mem_cons_self
  have hall : lookAll t a s1 (if a.write then rest else []) = (s1, none) := by
    split
    next =>
      by_cases hr : rest = []
      · rw [hr]
        rfl
      · rw [hid (hin hr x List.mem_cons_self)]
        exact lookAll_hits hs rest fun y hy =>
          ⟨hh y (List.mem_cons_of_mem _ hy), hin hr y (List.mem_cons_of_mem _ hy), fun e => ht e y (List.mem_cons_of_mem _ hy)⟩
    next => rfl
  have hb : ∀ o ∈ [off x.1], hostBias s1 o = false := by
    intro o ho
    rw [List.mem_singleton.mp ho]
    obtain ⟨_, _, _, _, rfl⟩ := hc
    exact hx1.own
  refine ⟨s1, hc, fun s2 b p hd => ?_⟩
  unfold access
  simp only [progress_done, hx, e, hall, perform, cohere_device hb, hd]

/-- What follows a piece: the access ends, or the thread stands at its next piece. -/
theorem pieceDone_eq {u : Nat} (ht : s.thread u = t) (hsh : a.shape = false) (b : List Byte) (p : Bool) :
    pieceDone s u a b p fin = if rest = [] then fin s { t with hold := none, reply := none, part := none } (t.progress.data ++ b) (t.progress.pois || p)
      else s.setThread { t with part := some { t.progress with done := t.progress.done + 1, data := t.progress.data ++ b, pois := t.progress.pois || p }
                                hold := none, reply := none } := by
  have hl := ps_length hx
  have hq : t.part.getD ⟨0, [], false, a.shape⟩ = t.progress := by rw [hsh]; rfl
  unfold pieceDone
  rw [ht]
  simp only [hq]
  by_cases hr : rest = []
  · subst hr
    rw [if_pos (by simp only [hl, List.length_nil]; omega), if_pos rfl]
  · have := List.length_pos_iff.mpr hr
    rw [if_neg (by omega), if_neg hr]

end

/-! ### How a turn ends -/

/-- The thread stands as t, the others as in s. -/
structure Turning (s S : State) (u : Nat) (t : Thread) : Prop where
  uid : t.uid = u
  thread : S.thread u = t
  has : S.hasThread u = true
  others : OthersStand s S u

theorem Turning.of_set {s : State} {u : Nat} {t : Thread} (hs : s.hasThread u = true) (ht : t.uid = u) : Turning s (s.setThread t) u t :=
  ⟨ht, State.thread_setThread_same ht hs, (State.hasThread_setThread s t u).trans hs, fun v hv => by
    rw [State.thread_setThread_other (by rw [ht]; exact hv)]⟩

/-- Where the threads are the same it stands so too. -/
theorem Turning.of_threads {s S S' : State} {u : Nat} {t : Thread} (h : Turning s S u t) (e : S'.threads = S.threads) : Turning s S' u t := by
  have hth : ∀ v, S'.thread v = S.thread v := fun v => by unfold State.thread; rw [e]
  exact ⟨h.uid, (hth u).trans h.thread, by rw [← h.has]; unfold State.hasThread; rw [e], fun v hv => by rw [hth]; exact h.others v hv⟩

theorem Turning.put {s S : State} {u : Nat} {t t' : Thread} (h : Turning s S u t) (ht : t'.uid = u) : Turning s (S.setThread t') u t' := by
  have h1 := Turning.of_set h.has ht
  exact ⟨ht, h1.thread, h1.has, fun v hv => (h1.others v hv).trans (h.others v hv)⟩

/-- The thread goes on, and nothing else of the state changes but who is in the cores' bundles. -/
theorem Turning.retire {s S : State} {u : Nat} {t t' : Thread} {c : Cur} (h : Turning s S u t) (ht : t'.uid = u) (hsc : t'.scout = none) :
    ((retire S t' c).thread u).unstamped = (t'.goneOn c).unstamped ∧ OthersStand s (Machine.retire S t' c) u ∧ OnlyThread S (Machine.retire S t' c) u := by
  obtain ⟨h1, h2⟩ := retire_spec (s := S) (c := c) ht h.has hsc
  exact ⟨h1, fun v hv => (h2.others v hv).trans (h.others v hv), h2⟩

theorem loadFinish_eq {t : Thread} (h : t.scout = none) (c : Cur) (is : Issue) (dst : List Nat) (n : Nat) (sx : Bool) (s : State) (b : List Byte) (p : Bool) :
    loadFinish c is dst n sx s t b p = retire s (t.issued c is ((dst.zip (loadWords b n sx)).map fun x => (x.1, x.2, p, false)) true 0 0) c := by
  unfold loadFinish scoutSave
  rw [h]
  simp only [writeOut, List.zip_map_right, List.map_map]
  rfl

theorem issued_uid (t : Thread) (c : Cur) (is : Issue) (rs : List (Nat × Word × Bool × Bool)) (ready : Bool) (tok : Nat) (fl : BitVec 5) :
    (t.issued c is rs ready tok fl).uid = t.uid := Thread.charge_uid ..
theorem issued_scout {t : Thread} (h : t.scout = none) (c : Cur) (is : Issue) (rs : List (Nat × Word × Bool × Bool)) (ready : Bool) (tok : Nat) (fl : BitVec 5) :
    (t.issued c is rs ready tok fl).scout = none := (Thread.charge_scout ..).trans h

/-- A thread whose loaded words wait under its window has gone on as `Thread.loads` says, however far its access had come. -/
theorem Turning.loads {s S : State} {u : Nat} {c : Cur} {th t t' : Thread} (hr : Runs s u c th) {is : Issue} (h : Turning s S u t)
    (ht : t'.unstarted = (th.raised (some is)).unstarted) (dst : List Nat) (n : Nat) (sx : Bool) (b : List Byte) (p : Bool) :
    ((loadFinish c is dst n sx S t' b p).thread u).unstamped = ((th.loads c is (dst.zip (loadWords b n sx)) p).goneOn c).unstamped ∧
      OthersStand s (loadFinish c is dst n sx S t' b p) u ∧ OnlyThread S (loadFinish c is dst n sx S t' b p) u := by
  obtain ⟨hu, hsc⟩ := unstarted_raised ht
  have hsc' : t'.scout = none := hsc.trans hr.scout
  rw [loadFinish_eq hsc', ← raised_loads hr.scout c is, ← issued_goneOn_congr ht]
  exact h.retire ((issued_uid ..).trans (hu.trans hr.uid)) (issued_scout hsc' ..)

/-- A turn of a load. -/
theorem loadTurn_of_pieceDone {s S : State} {u : Nat} {c : Cur} {th : Thread} (hr : Runs s u c th) {is : Issue} {a : Acc} {x : Nat × Nat}
    {rest : List (Nat × Nat)} (hx : a.ps.drop th.progress.done = x :: rest) (hsh : a.shape = false) {far : Bool}
    (h : Turning s S u { th.raised (some is) with plain := far || th.plain }) (hb : ∀ k, S.byte k = s.byte k) (hp : S.poison = s.poison)
    (dst : List Nat) (n : Nat) (sx : Bool) (b : List Byte) (p : Bool) :
    LoadTurn s (pieceDone S u a b p (loadFinish c is dst n sx)) u c th is dst (fun b => loadWords b n sx) (decide (rest = [])) b p far := by
  have hq : ({ th.raised (some is) with plain := far || th.plain } : Thread).progress = th.progress := by
    unfold Thread.progress
    rw [← Thread.raised_part th (some is)]
  unfold LoadTurn
  rw [pieceDone_eq (t := { th.raised (some is) with plain := far || th.plain }) (by rw [hq]; exact hx) h.thread hsh]
  simp only [hq, decide_eq_true_eq]
  by_cases hr0 : rest = []
  · simp only [hr0, if_true]
    obtain ⟨h1, h2, h3⟩ := h.loads hr (t' := { th.raised (some is) with hold := none, part := none, reply := none, plain := far || th.plain }) (by rfl)
      dst n sx (th.progress.data ++ b) (th.progress.pois || p)
    exact ⟨h1, h2, fun k => (h3.memory k).trans (hb k), (congrArg State.poison h3.rest :).trans hp⟩
  · simp only [hr0, if_false]
    have h1 := h.put (t' := { th.raised (some is) with part := some { th.progress with done := th.progress.done + 1, data := th.progress.data ++ b, pois := th.progress.pois || p }
                                                       hold := none, reply := none, plain := far || th.plain }) h.uid
    exact ⟨h1.thread, h1.others, hb, hp⟩

/-- A turn of an instruction that writes memory and no register. -/
theorem storeTurn_of_pieceDone {s S : State} {u : Nat} {c : Cur} {th : Thread} (hr : Runs s u c th) {is : Issue} {a : Acc} {x : Nat × Nat}
    {rest : List (Nat × Nat)} (hx : a.ps.drop th.progress.done = x :: rest) (hsh : a.shape = false) (h : Turning s S u (th.raised (some is))) :
    StoreTurn s (pieceDone S u a [] false (justRetire c)) u c th is (decide (rest = [])) ∧
      (∀ k, (pieceDone S u a [] false (justRetire c)).byte k = S.byte k) ∧ (pieceDone S u a [] false (justRetire c)).poison = S.poison ∧
      (pieceDone S u a [] false (justRetire c)).teams = S.teams := by
  have hq : (th.raised (some is)).progress = th.progress := by unfold Thread.progress; rw [Thread.raised_part]
  unfold StoreTurn
  rw [pieceDone_eq (t := th.raised (some is)) (by rw [hq]; exact hx) h.thread hsh]
  simp only [hq, decide_eq_true_eq, List.append_nil, Bool.or_false]
  by_cases hr0 : rest = []
  · simp only [hr0, if_true]
    obtain ⟨h1, h2, h3⟩ := h.retire (t' := { th.raised (some is) with hold := none, part := none, reply := none }) (c := c) h.uid
      ((Thread.raised_scout th (some is)).trans hr.scout)
    rw [goneOn_congr (y := th.raised (some is)) (by rfl), goneOn_raised] at h1
    exact ⟨⟨h1, h2⟩, h3.memory, (congrArg State.poison h3.rest :), (congrArg State.teams h3.rest :)⟩
  · simp only [hr0, if_false]
    have h1 := h.put (t' := { th.raised (some is) with part := some { th.progress with done := th.progress.done + 1 }, hold := none, reply := none }) h.uid
    exact ⟨⟨h1.thread, h1.others⟩, fun _ => rfl, rfl, rfl⟩

end Sys2Proof.Machine
end

section
/-! PROOF. LD and LDT (R51, R86, R101, R113, R173, R309, R310, R396-R398), and the obligation. -/
namespace Sys2Proof.Machine
open Sys2Proof

/-! ### Addresses that pass their checks (R51, R86, R256) -/

theorem scratchBad_none {r : LaunchRec} {l : List Nat} (h : ∀ o ∈ l, o < scratchLimit r) : scratchBad r l = none := by
  unfold scratchBad
  rw [List.find?_eq_none.mpr fun o ho => by simpa using h o ho]
  rfl

theorem addrBad_scratch {r : LaunchRec} {al : Bool} (w : Bool) {addr n : Nat} (h : addr + n ≤ scratchLimit r) (ha : al = true → addr % n = 0) :
    addrBad r true al w addr n = none := by
  have hal : (al && addr % n != 0) = false := by cases e : al <;> simp [ha, e]
  have hin : scratchBad r ((List.range n).map fun i => (addr + i) % 2 ^ 32) = none := by
    refine scratchBad_none fun o ho => ?_
    obtain ⟨i, hi, rfl⟩ := List.mem_map.mp ho
    have := List.mem_range.mp hi
    exact lt_of_le_of_lt (Nat.mod_le _ _) (by omega)
  simp only [addrBad, if_true, hin, hal, Bool.false_eq_true, if_false]

theorem addrBad_memory {r : LaunchRec} {al : Bool} (w : Bool) {addr n : Nat} (ha : al = true → addr % n = 0)
    (h : ∀ y ∈ pieces addr n, canonical (BitVec.ofNat 64 y.1) = true) : addrBad r false al w addr n = none := by
  have hal : (al && addr % n != 0) = false := by cases e : al <;> simp [ha, e]
  have hin : (pieces addr n).find? (fun p => !(canonical (BitVec.ofNat 64 p.1))) = none :=
    List.find?_eq_none.mpr fun y hy => by simp [h y hy]
  simp only [addrBad, hin, hal, Bool.false_eq_true, if_false, Option.map_none]

/-! ### Hits where only the threads have changed -/

/-- A piece hits alike when threads, or what is counted of scouts, have changed. -/
theorem Hits.transport {s : State} {th t : Thread} {w : Bool} {va off : Nat} (h : Hits s th w va off) (l : List Thread) (k : Tab DWord)
    (hc : t.core = th.core) (ht : t.team = th.team) (hh : t.hold = th.hold) :
    Hits { s with threads := l, hub := { s.hub with scoutc := k } } t w va off where
  canon := h.canon
  found := by rw [hc, State.launchOfThread, ht]; exact h.found
  still := h.still
  own := h.own
  logs := h.logs
  locks := h.locks
  up := h.up
  free := by rw [hh]; exact h.free
  here := by unfold Thread.asking; rw [hh]; exact h.here

theorem AllHit.transport {s : State} {th t : Thread} {w : Bool} {off : Nat → Nat} {x : Nat × Nat} {rest : List (Nat × Nat)} (h : AllHit s th w off x rest)
    (l : List Thread) (k : Tab DWord) (hc : t.core = th.core) (ht : t.team = th.team) (hh : t.hold = th.hold) :
    AllHit { s with threads := l, hub := { s.hub with scoutc := k } } t w off x rest :=
  ⟨fun y hy => (h.1 y hy).transport l k hc ht hh, fun hr y hy => by rw [hc, State.launchOfThread, ht]; exact h.2 hr y hy⟩

/-! ### Loads of memory (R101, R173, R186) -/

/-- No team has logged anything. -/
theorem teamOf_log {s : State} (h : ∀ tm ∈ s.teams, tm.log = []) (t : Thread) : (s.teamOf t).log = [] := by
  unfold State.teamOf State.team
  cases e : s.teams.find? (·.uid == t.team) with
  | none => rfl
  | some x => exact h x (List.mem_of_find?_eq_some e)

/-- Without an entry in the side log a load takes nothing from it. -/
theorem forward_none {s : State} {t : Thread} (h : (s.teamOf t).log = []) (addr : Nat) {n : Nat} (hn : 0 < n) : forward s t addr n = none := by
  have h0 : forwardByte [] (s.launchOfThread t).ctx t.uid (BitVec.ofNat 64 addr) = none := rfl
  unfold forward
  rw [h]
  refine if_neg fun hall => ?_
  have := List.all_eq_true.mp hall _ (List.mem_map.mpr ⟨0, List.mem_range.mpr hn, rfl⟩)
  simp [h0] at this

theorem wouldCheckpoint_raised (s : State) (t : Thread) (is : Option Issue) (va : DWord) :
    wouldCheckpoint (s.setThread (t.raised is)) (t.raised is) va = wouldCheckpoint s t va := by
  unfold wouldCheckpoint headerOf State.launchOfThread Thread.unbegun
  simp only [Thread.raised_scoutEn, Thread.raised_scoutBud, Thread.raised_core, Thread.raised_team, Thread.raised_uid, Thread.raised_scout,
    Thread.raised_rerun, Thread.raised_plain, Thread.raised_part, Thread.raised_hold]
  rfl

/-- A re-executed load that hits is counted, and changes nothing else. -/
theorem countRehit_eq (s : State) (t : Thread) (va : DWord) : ∃ k, countRehit s t va = { s with hub := { s.hub with scoutc := k } } := by
  unfold countRehit
  split
  · split
    · split
      · exact ⟨_, rfl⟩
      · exact ⟨_, rfl⟩
    · exact ⟨_, rfl⟩
  · exact ⟨_, rfl⟩

/-- A global load that opens no checkpoint and finds nothing in the side log is an access of memory, and a plain one from then on. -/
theorem globalLoad_access {s : State} {t : Thread} {u : Nat} (ht : s.thread u = t) (hu : t.uid = u) (hlog : (s.teamOf t).log = []) {addr n : Nat} (hn : 0 < n)
    (hw : wouldCheckpoint s t (BitVec.ofNat 64 addr) = false) (c : Cur) (m : Mem) (dst : List Nat) :
    globalLoad s t c m dst addr n =
      access ((countRehit s t (BitVec.ofNat 64 addr)).setThread { t with plain := true }) { t with plain := true } c
        { deed := .load, scr := false, ps := pieces addr n, blocks := threadReads, windows := true, remotes := true, cls := memCls m t }
        (loadFinish c m.is dst n m.sx) := by
  have hf : (if t.part.isNone then forward s t addr n else none) = none := by
    split
    · exact forward_none hlog addr hn
    · rfl
  have hth : (countRehit s t (BitVec.ofNat 64 addr)).thread t.uid = t := by
    obtain ⟨k, hk⟩ := countRehit_eq s t (BitVec.ofNat 64 addr)
    rw [hk, hu]
    exact ht
  unfold globalLoad
  simp only [hf, hw, Bool.false_and, Bool.false_eq_true, if_false, hth]

theorem memBytes_pos (m : Mem) : 0 < memBytes m := Nat.two_pow_pos _

theorem launchOf_raised (s : State) (th : Thread) (is : Option Issue) : (s.setThread (th.raised is)).launchOfThread (th.raised is) = s.launchOfThread th := by
  rw [State.launchOfThread, Thread.raised_team]
  rfl

theorem progress_raised (th : Thread) (is : Option Issue) : (th.raised is).progress = th.progress := by
  unfold Thread.progress
  rw [Thread.raised_part]

/-- A turn of a load of scratch. -/
theorem loadTurn_scratch {s : State} {u : Nat} {c : Cur} {th : Thread} (h : Runs s u c th) {is : Issue} {ps : List (Nat × Nat)} {x : Nat × Nat}
    {rest : List (Nat × Nat)} (hx : ps.drop th.progress.done = x :: rest) (hl : lockHolders s = []) (dst : List Nat) (n : Nat) (sx : Bool) :
    LoadTurn s (access (s.setThread (th.raised (some is))) (th.raised (some is)) c { deed := .load, scr := true, ps := ps } (loadFinish c is dst n sx))
      u c th is dst (fun b => loadWords b n sx) (decide (rest = [])) ((s.team th.team).scrBytes x.1 x.2) ((s.team th.team).anyPoison x.1 x.2) false := by
  have e : (s.setThread (th.raised (some is))).teamOf (th.raised (some is)) = s.team th.team := congrArg s.team (Thread.raised_team th (some is))
  rw [access_scratch (s := s.setThread (th.raised (some is))) (s1 := s.setThread (th.raised (some is))) (b := (s.team th.team).scrBytes x.1 x.2)
    (p := (s.team th.team).anyPoison x.1 x.2) (by rw [progress_raised]; exact hx) rfl hl (by simp [Acc.write]) (by simp) (by simp only [scrDeed, e]),
    Thread.raised_uid, h.uid]
  have ep : ({ th.raised (some is) with plain := false || th.plain } : Thread) = th.raised (some is) := by
    rw [Bool.false_or, ← Thread.raised_plain th (some is)]
  have htn : Turning s (s.setThread (th.raised (some is))) u { th.raised (some is) with plain := false || th.plain } := by
    rw [ep]
    exact .of_set h.has ((Thread.raised_uid ..).trans h.uid)
  exact loadTurn_of_pieceDone (a := { deed := .load, scr := true, ps := ps }) h hx rfl htn (fun _ => rfl) rfl ..

/-- A turn of a load of memory, wherever threads and what is counted of scouts stand. -/
theorem loadTurn_memory {s : State} {u : Nat} {c : Cur} {th : Thread} (h : Runs s u c th) {is : Issue} {a : Acc} {x : Nat × Nat}
    {rest : List (Nat × Nat)} (hx : a.ps.drop th.progress.done = x :: rest) (hd : a.deed = .load) (hs : a.scr = false) (hsh : a.shape = false)
    (ht : a.tight = false) {off : Nat → Nat} (hh : AllHit s th false off x rest) (k : Tab DWord) (dst : List Nat) (n : Nat) (sx : Bool) :
    let t : Thread := { th.raised (some is) with plain := true }
    LoadTurn s (access { s.setThread t with hub := { s.hub with scoutc := k } } t c a (loadFinish c is dst n sx))
      u c th is dst (fun b => loadWords b n sx) (decide (rest = [])) (s.bytes (off x.1) x.2) (s.anyPoison (off x.1) x.2) true := by
  intro t
  have hq : t.progress = th.progress := progress_raised th (some is)
  have hw : a.write = false := by simp [Acc.write, hd]
  have htu : t.uid = u := (Thread.raised_uid ..).trans h.uid
  have hh' : AllHit { s.setThread t with hub := { s.hub with scoutc := k } } t a.write off x rest := by
    rw [hw]
    exact hh.transport _ k (Thread.raised_core ..) (Thread.raised_team ..) (Thread.raised_hold ..)
  obtain ⟨s1, hc, e⟩ := access_memory (c := c) (fin := loadFinish c is dst n sx) (by rw [hq]; exact hx) hs hh' (by simp [ht])
  have hup : s1.hub.cxldn = [] := by rw [hc.hub]; exact (hh.1 x List.mem_cons_self).up
  have hto := hc.trans (touch_caches hup t.core (off x.1) (a.cls (BitVec.ofNat 64 x.1)))
  rw [e s1 (s1.bytes (off x.1) x.2) (s1.anyPoison (off x.1) x.2) (by simp only [memDeed, hd, State.read_eq hup]), htu, hc.bytes, hc.anyPoison]
  exact loadTurn_of_pieceDone h hx hsh ((Turning.of_set h.has htu).of_threads hto.threads) hto.byte hto.poison ..

/-! ### LD -/

section
variable {s : State} {u : Nat} {c : Cur} {th : Thread} (h : Runs s u c th) {m : Mem} {d a : Reg} (hwf : Instr.wf (.ld m d a) = true)
  (hcf : CounterFree th m.is) (hr : Readable th (memAddrRegs m a)) (he : Exist th (dataRegs d (memBytes m)))
include h hwf hcf hr he

/-- LD outside scout, its registers passed: the checks of its address, then its access. -/
theorem ld_checks : exec (.ld m d a) s = .next (checked (s.setThread (th.raised (some m.is))) (th.raised (some m.is)) c
    (addrBad (s.launchOfThread th).rcd (memScr m) false false (memAddr m th a) (memBytes m))
    (if memScr m then
        access (s.setThread (th.raised (some m.is))) (th.raised (some m.is)) c { deed := .load, scr := true, ps := pieces (memAddr m th a) (memBytes m) }
          (loadFinish c m.is (dataRegs d (memBytes m)) (memBytes m) m.sx)
      else globalLoad (s.setThread (th.raised (some m.is))) (th.raised (some m.is)) c m (dataRegs d (memBytes m)) (memAddr m th a) (memBytes m))) := by
  have hsc : (th.raised (some m.is)).scout = none := (Thread.raised_scout ..).trans h.scout
  have hrc : regChecks th c (!Instr.wf (.ld m d a)) (dataRegs d (memBytes m) ++ memAddrRegs m a) (memAddrRegs m a) = none := by
    rw [hwf]
    exact regChecks_none (fun r hr' => (List.mem_append.mp hr').elim (he r) fun e => (hr r e).1) fun r e => (hr r e).2
  show execLd m d a s = _
  unfold execLd
  rw [memOp_eq h hcf]
  simp only [regChecks_raised, checked_none hrc, inEpisode_none hsc, provisional_none hsc, memAddr_raised, launchOf_raised, Bool.false_eq_true, if_false]

theorem ld_scratch {x : Nat × Nat} {rest : List (Nat × Nat)} (hx : (pieces (memAddr m th a) (memBytes m)).drop th.progress.done = x :: rest)
    (hs : memScr m = true) (hl : memAddr m th a + memBytes m ≤ scratchLimit (s.launchOfThread th).rcd) (hlk : lockHolders s = []) :
    ∃ t, exec (.ld m d a) s = .next t ∧ LoadTurn s t u c th m.is (dataRegs d (memBytes m)) (fun b => loadWords b (memBytes m) m.sx) (decide (rest = []))
      ((s.team th.team).scrBytes x.1 x.2) ((s.team th.team).anyPoison x.1 x.2) false := by
  refine ⟨_, ld_checks h hwf hcf hr he, ?_⟩
  rw [checked_none (by rw [hs]; exact addrBad_scratch false hl (by simp)), if_pos hs]
  exact loadTurn_scratch h hx hlk ..

theorem ld_memory {x : Nat × Nat} {rest : List (Nat × Nat)} (hx : (pieces (memAddr m th a) (memBytes m)).drop th.progress.done = x :: rest)
    {off : Nat → Nat} (hs : memScr m = false) (hh : AllHit s th false off x rest)
    (hcan : ∀ y ∈ pieces (memAddr m th a) (memBytes m), canonical (BitVec.ofNat 64 y.1) = true)
    (hw : wouldCheckpoint s th (BitVec.ofNat 64 (memAddr m th a)) = false) :
    ∃ t, exec (.ld m d a) s = .next t ∧ LoadTurn s t u c th m.is (dataRegs d (memBytes m)) (fun b => loadWords b (memBytes m) m.sx) (decide (rest = []))
      (s.bytes (off x.1) x.2) (s.anyPoison (off x.1) x.2) true := by
  have hx1 := hh.1 x List.mem_cons_self
  refine ⟨_, ld_checks h hwf hcf hr he, ?_⟩
  have hlog : ((s.setThread (th.raised (some m.is))).teamOf (th.raised (some m.is))).log = [] :=
    teamOf_log (s := s.setThread (th.raised (some m.is))) hx1.logs _
  obtain ⟨k, hk⟩ := countRehit_eq (s.setThread (th.raised (some m.is))) (th.raised (some m.is)) (BitVec.ofNat 64 (memAddr m th a))
  have hset : (countRehit (s.setThread (th.raised (some m.is))) (th.raised (some m.is)) (BitVec.ofNat 64 (memAddr m th a))).setThread
      { th.raised (some m.is) with plain := true } = { s.setThread { th.raised (some m.is) with plain := true } with hub := { s.hub with scoutc := k } } := by
    rw [hk]
    exact congrArg (fun z : State => { z with hub := { s.hub with scoutc := k } }) 
      (State.setThread_setThread s (th.raised (some m.is)) { th.raised (some m.is) with plain := true } rfl)
  rw [checked_none (by rw [hs]; exact addrBad_memory false (by simp) hcan), if_neg (by simp [hs]),
    globalLoad_access (h.raised_set (some m.is)) ((Thread.raised_uid ..).trans h.uid) hlog (memBytes_pos m) ((wouldCheckpoint_raised s th (some m.is) _).trans hw),
    hset]
  exact loadTurn_memory h hx rfl rfl rfl rfl hh k ..

end

/-! ### LDT -/

theorem loadWords_whole (b : List Byte) (k : Nat) : loadWords b (4 * k) false = wordsOf b k := by
  unfold loadWords
  rw [Bool.and_false, if_neg Bool.false_ne_true]
  congr 1
  omega

theorem ldt_turn {s : State} {u : Nat} {c : Cur} {th : Thread} (h : Runs s u c th) {size cnt : BitVec 3} {d a : Reg} {i : BitVec 11} {p : Reg} {is : Issue}
    (hwf : Instr.wf (.ldt size cnt d a i p is) = true) (hcf : CounterFree th is) (hr : Readable th [a.toNat, p.toNat])
    {dst : List Nat} (hd : dst = regsFrom d (4 * 2 ^ cnt.toNat * 2 ^ size.toNat / 4)) (he : Exist th dst) {at_ : Nat → Nat}
    (hat : at_ = fun e => (th.val a + i.signExtend 32 + BitVec.ofNat 32 e * th.val p).toNat)
    (hin : ∀ e < 4 * 2 ^ cnt.toNat, at_ e + 2 ^ size.toNat ≤ scratchLimit (s.launchOfThread th).rcd ∧ at_ e + 2 ^ size.toNat ≤ 2 ^ 32)
    (hl : lockHolders s = []) {x : Nat × Nat} {rest : List (Nat × Nat)}
    (hx : ((List.range (4 * 2 ^ cnt.toNat)).flatMap fun e => pieces (at_ e) (2 ^ size.toNat)).drop th.progress.done = x :: rest) :
    ∃ t, exec (.ldt size cnt d a i p is) s = .next t ∧ LoadTurn s t u c th is dst (fun b => wordsOf b dst.length) (decide (rest = []))
      ((s.team th.team).scrBytes x.1 x.2) ((s.team th.team).anyPoison x.1 x.2) false := by
  subst hat
  have hsc : (th.raised (some is)).scout = none := (Thread.raised_scout ..).trans h.scout
  have hrc : regChecks th c (!Instr.wf (.ldt size cnt d a i p is)) (dst ++ [a.toNat, p.toNat]) [a.toNat, p.toNat] = none := by
    rw [hwf]
    exact regChecks_none (fun r hr' => (List.mem_append.mp hr').elim (he r) fun e => (hr r e).1) fun r e => (hr r e).2
  have hb : scratchBad ((s.setThread (th.raised (some is))).launchOfThread (th.raised (some is))).rcd
      ((List.range (4 * 2 ^ cnt.toNat)).flatMap fun e => (List.range (2 ^ size.toNat)).map fun j => ((th.val a + i.signExtend 32 + BitVec.ofNat 32 e * th.val p).toNat + j) % 2 ^ 32) = none := by
    rw [State.launchOfThread, Thread.raised_team]
    refine scratchBad_none fun o ho => ?_
    obtain ⟨e, he', ho⟩ := List.mem_flatMap.mp ho
    obtain ⟨j, hj, rfl⟩ := List.mem_map.mp ho
    exact lt_of_lt_of_le (lt_of_le_of_lt (Nat.mod_le _ _) (Nat.add_lt_add_left (List.mem_range.mp hj) _)) (hin e (List.mem_range.mp he')).1
  have hturn := loadTurn_scratch h (is := is) hx hl dst (4 * dst.length) false
  simp only [loadWords_whole] at hturn
  refine ⟨_, ?_, hturn⟩
  show execLdt size cnt d a i p is s = _
  unfold execLdt
  rw [threadOp_late h hcf]
  simp only [regChecks_raised, checked_none hrc, Thread.raised_val, ← hd, any_invalid_none hsc, checked_none hb, inEpisode_none hsc, provisional_none hsc,
    Bool.false_eq_true, if_false]

/-! ### The obligation -/

/-- Settles O21: each turn reads the next piece where nothing is in its way; the last issues the words of all that was read. -/
theorem loadsComplete : Obligations.LoadsComplete := by
  unfold Obligations.LoadsComplete
  intro s u c th h x rest tm limit last
  refine ⟨fun m d a hwf hcf hr he hx => ?_, ?_⟩
  · intro words
    exact ⟨fun hs hl hlk => ld_scratch h hwf hcf hr he hx hs hl hlk, fun off hs hh hcan hw => ld_memory h hwf hcf hr he hx hs hh hcan hw⟩
  · intro size cnt d a i p is sz n dst at_ hwf hcf hr he hin hl hx
    exact ldt_turn h hwf hcf hr rfl he rfl hin hl hx

end Sys2Proof.Machine
end

section
/-! PROOF. ST (R51, R86, R113, R114, R269, R458, R459): what a write leaves of bytes and marks, a store's turn, and the obligation. -/
namespace Sys2Proof.Machine
open Sys2Proof

/-! ### Bytes and marks after a write (R269) -/

/-- The marks of consecutive units, set or, where they are covered whole, cleared. -/
theorem nmem_marks (p : List Nat) (a n : Nat) (pois : Bool) (whole : Nat → Bool) (g : Nat) :
    nmem ((List.range n).foldl (fun p i => if pois then nins p (a + i) else if whole (a + i) then ndel p (a + i) else p) p) g =
      if a ≤ g ∧ g < a + n then pois || (nmem p g && !(whole g)) else nmem p g := by
  induction n with
  | zero => rw [if_neg (by omega)]; rfl
  | succ n ih =>
    rw [List.range_succ, List.foldl_append, List.foldl_cons, List.foldl_nil]
    generalize (List.range n).foldl _ p = q at ih
    by_cases hg : g = a + n
    · have hq : nmem q g = nmem p g := by rw [ih, if_neg (by omega)]
      rw [if_pos (show a ≤ g ∧ g < a + (n + 1) by omega), ← hg]
      cases pois
      · cases hw : whole g <;> simp [nmem_ndel, hq]
      · simp [nmem_nins]
    · have hbeq : (g == a + n) = false := beq_eq_false_iff_ne.mpr hg
      have hsame : nmem (if pois then nins q (a + n) else if whole (a + n) then ndel q (a + n) else q) g = nmem q g := by
        cases pois
        · cases whole (a + n) <;> simp [nmem_ndel, hbeq]
        · simp [nmem_nins, hbeq]
      rw [hsame, ih]
      exact if_congr (by omega) rfl rfl

theorem nmem_markGranules (p : List Nat) (off n : Nat) (pois : Bool) (g : Nat) :
    nmem (markGranules p off n pois) g = if off / 16 ≤ g ∧ g * 16 < off + n then
      pois || (nmem p g && !(decide (off ≤ g * 16 ∧ g * 16 + 16 ≤ off + n))) else nmem p g := by
  refine (nmem_marks p (off / 16) ((off + n + 15) / 16 - off / 16) pois (fun g => decide (off ≤ g * 16) && decide (g * 16 + 16 ≤ off + n)) g).trans ?_
  rw [Bool.decide_and]
  exact if_congr (by omega) rfl rfl

theorem nmem_markWords (p : List Nat) (o n : Nat) (pois : Bool) (w : Nat) :
    nmem (markWords p o n pois) w = if o / 8 ≤ w ∧ w * 8 < o + n then
      pois || (nmem p w && !(decide (o ≤ w * 8 ∧ w * 8 + 8 ≤ o + n))) else nmem p w := by
  refine (nmem_marks p (o / 8) ((o + n + 7) / 8 - o / 8) pois (fun w => decide (o ≤ w * 8) && decide (w * 8 + 8 ≤ o + n)) w).trans ?_
  rw [Bool.decide_and]
  exact if_congr (by omega) rfl rfl

/-- A byte of scratch after a write of bytes. -/
theorem tget_putScratch (m : List Host.Cell) (o : Nat) (l : List Byte) (k : Nat) :
    tget 0 (putScratch m o l) k = if o ≤ k ∧ k < o + l.length then l.getD (k - o) 0 else tget 0 m k := by
  induction l generalizing m o with
  | nil => rw [if_neg (by simp)]; rfl
  | cons b t ih =>
    simp only [putScratch, ih, tget_tset, List.length_cons]
    by_cases h1 : k = o
    · subst h1
      simp
    · by_cases h2 : o ≤ k ∧ k < o + (t.length + 1)
      · have h3 : o + 1 ≤ k ∧ k < o + 1 + t.length := by omega
        rw [if_pos h3, if_pos h2, show k - o = (k - (o + 1)) + 1 by omega, List.getD_cons_succ]
      · have h3 : ¬ (o + 1 ≤ k ∧ k < o + 1 + t.length) := by omega
        rw [if_neg h3, if_neg h1, if_neg h2]

theorem memoryStored_poke {s s1 : State} {off : Nat} (hb : ∀ k, s1.byte k = s.byte k) (hp : s1.poison = s.poison) (hl : lost s1 off = false)
    (data : List Byte) (p : Bool) : MemoryStored s (s1.poke off data p) off data p := by
  unfold State.poke
  rw [hl]
  refine ⟨fun k => ?_, fun g => ?_⟩
  · rw [← hb]
    exact tget_putBytes ..
  · rw [← hp]
    exact nmem_markGranules ..

theorem MemoryStored.of_same {s t t' : State} {off : Nat} {data : List Byte} {p : Bool} (h : MemoryStored s t off data p) (hb : ∀ k, t'.byte k = t.byte k)
    (hp : t'.poison = t.poison) : MemoryStored s t' off data p :=
  ⟨fun k => (hb k).trans (h.1 k), fun g => by rw [hp]; exact h.2 g⟩

/-- Teams are found alike where they are the same. -/
theorem team_congr {s t : State} (h : t.teams = s.teams) : t.team = s.team := by
  funext u
  unfold State.team
  rw [h]

theorem scratchStored_write {s s1 t : State} {u : Nat} (hu : s.hasTeam u = true) (ht : s1.teams = s.teams) (o : Nat) (data : List Byte) (p : Bool)
    (e : t.teams = (s1.setTeam ((s1.team u).scrWrite o data p)).teams) (hb : ∀ k, t.byte k = s.byte k) : ScratchStored s t u o data p := by
  have h1 : s1.team = s.team := team_congr ht
  have h2 : t.team = (s.setTeam ((s.team u).scrWrite o data p)).team := team_congr <| by
    rw [e, h1]
    show modWhere _ _ s1.teams = modWhere _ _ s.teams
    rw [ht]
  have huid : ((s.team u).scrWrite o data p).uid = u := State.team_uid hu
  have h3 : t.team u = (s.team u).scrWrite o data p := by
    rw [h2, State.team_setTeam, if_pos ⟨huid.symm, hu⟩]
  refine ⟨fun k => ?_, fun w => ?_, ?_, fun v hv => ?_, hb⟩
  · rw [h3]
    exact tget_putScratch ..
  · rw [h3]
    exact nmem_markWords ..
  · rw [h3]
    rfl
  · rw [h2, State.team_setTeam, if_neg (by rw [huid]; exact fun e => hv e.1)]

/-! ### ST -/

theorem slice_store {a : Acc} (hd : a.deed = .store) {done : Nat} {x : Nat × Nat} {rest : List (Nat × Nat)} (hx : a.ps.drop done = x :: rest) :
    a.slice done = (a.data.drop ((a.ps.take done).map (·.2)).sum).take x.2 := by
  have h1 : a.ps.getD done (0, 0) = x := by
    have h0 := congrArg (fun l => l[0]?) hx
    rw [List.getElem?_drop, Nat.add_zero] at h0
    rw [List.getD_eq_getElem?_getD, h0]
    rfl
  unfold Acc.slice
  simp only [hd, h1]

theorem scrDeed_store {a : Acc} (hd : a.deed = .store) (s : State) (t : Thread) (o n : Nat) (data : List Byte) :
    scrDeed s t a o n data = (s.setTeam ((s.teamOf t).scrWrite o data a.pois), .done [] false) := by
  simp only [scrDeed, hd]

theorem memDeed_store {a : Acc} (hd : a.deed = .store) {s : State} (h : s.hub.cxldn = []) (off n : Nat) (data : List Byte) :
    memDeed s a off n data = (s.poke off data a.pois, .done [] false) := by
  simp only [memDeed, hd, State.write_eq_poke h]

theorem poke_hub {s : State} (h : s.hub.cxldn = []) (off : Nat) (data : List Byte) (p : Bool) : (s.poke off data p).hub = s.hub := by
  obtain ⟨_, _, _, e⟩ := State.poke_eq (lost_eq_false h off) data p
  rw [e]

section
variable {s : State} {u : Nat} {c : Cur} {th : Thread} (h : Runs s u c th) {is : Issue} {a : Acc} {x : Nat × Nat} {rest : List (Nat × Nat)}
  (hx : a.ps.drop th.progress.done = x :: rest) (hd : a.deed = .store) (hsh : a.shape = false) (ht : a.tight = false)
  {data : List Byte} (hdata : (a.data.drop ((a.ps.take th.progress.done).map (·.2)).sum).take x.2 = data)
include h hx hd hsh ht hdata

/-- A turn of a store to scratch. -/
theorem storeTurn_scratch (hs : a.scr = true) (hu : s.hasTeam th.team = true) (hl : lockHolders s = []) (hw : waitingSnapshots s = []) :
    let t := access (s.setThread (th.raised (some is))) (th.raised (some is)) c a (justRetire c)
    StoreTurn s t u c th is (decide (rest = [])) ∧ ScratchStored s t th.team x.1 data a.pois := by
  intro t
  have htu : (th.raised (some is)).uid = u := (Thread.raised_uid ..).trans h.uid
  have ht' : t = _ := access_scratch (s := s.setThread (th.raised (some is))) (t := th.raised (some is)) (c := c) (fin := justRetire c)
    (by rw [progress_raised]; exact hx) hs hl (fun _ => hw) (by simp [ht]) (scrDeed_store hd ..)
  rw [progress_raised, slice_store hd hx, hdata, htu] at ht'
  obtain ⟨h1, h2, _, h4⟩ := storeTurn_of_pieceDone h hx hsh ((Turning.of_set h.has htu).of_threads
    (S' := (s.setThread (th.raised (some is))).setTeam (((s.setThread (th.raised (some is))).teamOf (th.raised (some is))).scrWrite x.1 data a.pois)) rfl)
  rw [ht']
  refine ⟨h1, scratchStored_write (s1 := s.setThread (th.raised (some is))) hu rfl _ _ _ ?_ h2⟩
  rw [h4, State.teamOf, Thread.raised_team]

/-- A turn of a store to memory. -/
theorem storeTurn_memory (hs : a.scr = false) {off : Nat → Nat} (hh : AllHit s th true off x rest) :
    let t := access (s.setThread (th.raised (some is))) (th.raised (some is)) c a (justRetire c)
    StoreTurn s t u c th is (decide (rest = [])) ∧ MemoryStored s t (off x.1) data a.pois := by
  intro t
  have htu : (th.raised (some is)).uid = u := (Thread.raised_uid ..).trans h.uid
  have hh' : AllHit (s.setThread (th.raised (some is))) (th.raised (some is)) a.write off x rest := by
    rw [show a.write = true by simp [Acc.write, hd]]
    exact hh.transport _ s.hub.scoutc (Thread.raised_core ..) (Thread.raised_team ..) (Thread.raised_hold ..)
  obtain ⟨s1, hc, e⟩ := access_memory (c := c) (fin := justRetire c) (by rw [progress_raised]; exact hx) hs hh' (by simp [ht])
  have hup : s1.hub.cxldn = [] := by rw [hc.hub]; exact (hh.1 x List.mem_cons_self).up
  have ht' : t = _ := e _ _ _ (memDeed_store hd hup ..)
  rw [progress_raised, slice_store hd hx, hdata, htu] at ht'
  have hto := touch_caches (by rw [poke_hub hup]; exact hup) (th.raised (some is)).core (off x.1) (a.cls (BitVec.ofNat 64 x.1))
    (s := s1.poke (off x.1) data a.pois)
  obtain ⟨h1, h2, h3, _⟩ := storeTurn_of_pieceDone h hx hsh
    ((Turning.of_set h.has htu).of_threads (hto.threads.trans ((poke_threads ..).threads.trans hc.threads)))
  have hst : MemoryStored s (s1.poke (off x.1) data a.pois) (off x.1) data a.pois :=
    memoryStored_poke hc.byte hc.poison (lost_eq_false hup _) data a.pois
  rw [ht']
  exact ⟨h1, hst.of_same (fun k => (h2 k).trans (hto.byte k)) (h3.trans hto.poison)⟩

end

/-- ST outside scout, its registers passed: the checks of its address, then its access. -/
theorem st_checks {s : State} {u : Nat} {c : Cur} {th : Thread} (h : Runs s u c th) {m : Mem} {a e : Reg} (hwf : Instr.wf (.st m a e) = true)
    (hcf : CounterFree th m.is) (hr : Readable th (memAddrRegs m a)) (he : Exist th (dataRegs e (memBytes m))) :
    exec (.st m a e) s = .next (checked (s.setThread (th.raised (some m.is))) (th.raised (some m.is)) c
      (addrBad (s.launchOfThread th).rcd (memScr m) false true (memAddr m th a) (memBytes m))
      (access (s.setThread (th.raised (some m.is))) (th.raised (some m.is)) c
        { deed := .store, scr := memScr m, ps := pieces (memAddr m th a) (memBytes m), data := regBytes th (dataRegs e (memBytes m)) (memBytes m)
          pois := (dataRegs e (memBytes m)).any fun r => (th.reg r).2
          flags := 1, blocks := threadWrites, windows := true, remotes := true, cls := memCls m (th.raised (some m.is)) } (justRetire c))) := by
  have hsc : (th.raised (some m.is)).scout = none := (Thread.raised_scout ..).trans h.scout
  have hrc : regChecks th c (!Instr.wf (.st m a e)) (memAddrRegs m a ++ dataRegs e (memBytes m)) (memAddrRegs m a) = none := by
    rw [hwf]
    exact regChecks_none (fun r hr' => (List.mem_append.mp hr').elim (fun e => (hr r e).1) (he r)) fun r e => (hr r e).2
  show execSt m a e s = _
  unfold execSt
  rw [memOp_eq h hcf]
  simp only [regChecks_raised, checked_none hrc, any_invalid_none hsc, memAddr_raised, launchOf_raised, skipsScout_none hsc, regBytes_raised,
    Thread.raised_reg, Bool.false_eq_true, if_false]

/-- Settles O22: each turn stores the next piece where nothing is in its way; after the last the thread goes on. -/
theorem storesComplete : Obligations.StoresComplete := by
  unfold Obligations.StoresComplete
  intro s u c th m a e h hcf n rs addr hwf hr he x rest hx data p last
  constructor
  · intro hs hu hin hl hw
    refine ⟨_, st_checks h hwf hcf hr he, ?_⟩
    rw [checked_none (by rw [hs]; exact addrBad_scratch true hin (by simp))]
    exact storeTurn_scratch h hx rfl rfl rfl rfl hs hu hl hw
  · intro off hs hh hcan
    refine ⟨_, st_checks h hwf hcf hr he, ?_⟩
    rw [checked_none (by rw [hs]; exact addrBad_memory true (by simp) hcan)]
    exact storeTurn_memory h hx rfl rfl rfl rfl hs hh

end Sys2Proof.Machine
end

section
/-! PROOF. ATOM, ATOMF and RED (R51, R113, R269, R327-R330, R434, R435): one event that reads, combines and writes, and the obligation. -/
namespace Sys2Proof.Machine
open Sys2Proof

/-! ### What combining leaves (R269) -/

theorem memoryStored_nil {s t : State} (hb : ∀ k, t.byte k = s.byte k) (hp : t.poison = s.poison) (off : Nat) : MemoryStored s t off [] false := by
  refine ⟨fun k => by rw [hb, if_neg (by simp)], fun g => ?_⟩
  rw [hp, show decide (off ≤ g * 16 ∧ g * 16 + 16 ≤ off + ([] : List Byte).length) = false from decide_eq_false (by simp; omega)]
  simp

theorem scratchStored_nil {s t : State} (ht : t.teams = s.teams) (hb : ∀ k, t.byte k = s.byte k) (u o : Nat) : ScratchStored s t u o [] false := by
  rw [ScratchStored, team_congr ht]
  refine ⟨fun k => by rw [if_neg (by simp)], fun w => ?_, rfl, fun _ _ => rfl, hb⟩
  rw [show decide (o ≤ w * 8 ∧ w * 8 + 8 ≤ o + ([] : List Byte).length) = false from decide_eq_false (by simp; omega)]
  simp

theorem ScratchStored.of_same {s t t' : State} {u o : Nat} {data : List Byte} {p : Bool} (h : ScratchStored s t u o data p) (ht : t'.teams = t.teams)
    (hb : ∀ k, t'.byte k = t.byte k) : ScratchStored s t' u o data p := by
  obtain ⟨h1, h2, h3, h4, h5⟩ := h
  rw [ScratchStored, team_congr ht]
  exact ⟨h1, h2, h3, h4, fun k => (hb k).trans (h5 k)⟩

/-- The bytes an operation leaves, none when it writes nothing. -/
def rmwBytes (n op : Nat) (old data : List Byte) : List Byte := ((rmwNew n op (natOf old) data).map fun v => bytesOf v n).getD []

section
variable {a : Acc} {op : Nat} {ans : Bool} (hd : a.deed = .rmw op ans)
include hd

/-- An operation in scratch reads the old bytes and leaves the new ones, poisoned as the old were. -/
theorem scrDeed_rmw {s s1 : State} {t : Thread} (hu : s.hasTeam t.team = true) (ht : s1.teams = s.teams) (hb : ∀ k, s1.byte k = s.byte k) {o n : Nat}
    {data : List Byte} (hn : rmwNew n op (natOf ((s.team t.team).scrBytes o n)) data = none → (s.team t.team).anyPoison o n = false) :
    ∃ s2, scrDeed s1 t a o n data = (s2, .done ((s.team t.team).scrBytes o n) ((s.team t.team).anyPoison o n)) ∧ s2.threads = s1.threads ∧
      ScratchStored s s2 t.team o (rmwBytes n op ((s.team t.team).scrBytes o n) data) ((s.team t.team).anyPoison o n) := by
  have e : s1.teamOf t = s.team t.team := by rw [State.teamOf, team_congr ht]
  unfold scrDeed rmwBytes
  simp only [hd, e]
  cases hv : rmwNew n op (natOf ((s.team t.team).scrBytes o n)) data with
  | none =>
    rw [hn hv]
    exact ⟨_, rfl, rfl, scratchStored_nil ht hb ..⟩
  | some v =>
    refine ⟨_, rfl, rfl, scratchStored_write (s1 := s1) hu ht _ _ _ ?_ hb⟩
    rw [team_congr ht]
    rfl

/-- An operation in memory reads the old bytes and leaves the new ones, poisoned as the old were. -/
theorem memDeed_rmw {s s1 : State} (hup : s1.hub.cxldn = []) (hb : ∀ k, s1.byte k = s.byte k) (hp : s1.poison = s.poison) {off n : Nat}
    {data : List Byte} (hn : rmwNew n op (natOf (s.bytes off n)) data = none → s.anyPoison off n = false) :
    ∃ s2, memDeed s1 a off n data = (s2, .done (s.bytes off n) (s.anyPoison off n)) ∧ SameThreads s1 s2 ∧ s2.hub = s1.hub ∧
      MemoryStored s s2 off (rmwBytes n op (s.bytes off n) data) (s.anyPoison off n) := by
  have e1 : s1.bytes off n = s.bytes off n := by unfold State.bytes; simp only [hb]
  have e2 : s1.anyPoison off n = s.anyPoison off n := by unfold State.anyPoison State.poisoned; rw [hp]
  unfold memDeed rmwBytes
  simp only [hd, State.read_eq hup, e1, e2]
  cases hv : rmwNew n op (natOf (s.bytes off n)) data with
  | none =>
    rw [hn hv]
    exact ⟨_, rfl, .refl _, rfl, memoryStored_nil hb hp off⟩
  | some v =>
    simp only [State.write_eq_poke hup]
    exact ⟨_, rfl, poke_threads .., poke_hub hup .., memoryStored_poke hb hp (lost_eq_false hup off) ..⟩

end

/-! ### The turn -/

/-- How an instruction of one event ends where its thread stands: it goes on as th', and nothing else of the state changes but who is
in the cores' bundles. -/
def EndsAs (s : State) (u : Nat) (c : Cur) (t th' : Thread) (f : State → State) : Prop :=
  ∀ S, Turning s S u t → ((f S).thread u).unstamped = (th'.goneOn c).unstamped ∧ OthersStand s (f S) u ∧ OnlyThread S (f S) u

section
variable {s : State} {u : Nat} {c : Cur} {th th' : Thread} (h : Runs s u c th) {is : Issue} {a : Acc} {addr n op : Nat} {ans : Bool} {fin : Finish}
  (hp : th.part = none) (hps : a.ps = [(addr, n)]) (hd : a.deed = .rmw op ans) (hsh : a.shape = false)
include h hp hps hd hsh

/-- An operation in scratch that nothing stands in the way of. -/
theorem rmw_scratch (hs : a.scr = true) (hu : s.hasTeam th.team = true) (hl : lockHolders s = []) (hw : waitingSnapshots s = [])
    (ht : a.tight = true → (s.team th.team).anyPoison addr n = false)
    (hn : rmwNew n op (natOf ((s.team th.team).scrBytes addr n)) a.data = none → (s.team th.team).anyPoison addr n = false)
    (hf : EndsAs s u c (th.raised (some is)) th' fun S => fin S { th.raised (some is) with hold := none, reply := none, part := none }
      ((s.team th.team).scrBytes addr n) ((s.team th.team).anyPoison addr n)) :
    let t := access (s.setThread (th.raised (some is))) (th.raised (some is)) c a fin
    (t.thread u).unstamped = (th'.goneOn c).unstamped ∧ OthersStand s t u ∧
      ScratchStored s t th.team addr (rmwBytes n op ((s.team th.team).scrBytes addr n) a.data) ((s.team th.team).anyPoison addr n) := by
  intro t
  have htu : (th.raised (some is)).uid = u := (Thread.raised_uid ..).trans h.uid
  have hq : (th.raised (some is)).progress = ⟨0, [], false, false⟩ := by rw [progress_raised, Thread.progress, hp]; rfl
  have hx : a.ps.drop (th.raised (some is)).progress.done = [(addr, n)] := by rw [hq, hps]; rfl
  obtain ⟨s2, hdeed, hth, hst⟩ := scrDeed_rmw hd (s := s) (s1 := s.setThread (th.raised (some is))) (t := th.raised (some is)) (o := addr) (n := n) (data := a.data)
    (by rw [Thread.raised_team]; exact hu) rfl (fun _ => rfl) (by rw [Thread.raised_team]; exact hn)
  rw [Thread.raised_team] at hdeed hst
  have htm : (s.setThread (th.raised (some is))).teamOf (th.raised (some is)) = s.team th.team := by rw [State.teamOf, Thread.raised_team]; rfl
  have ht' : t = _ := access_scratch (s := s.setThread (th.raised (some is))) (s1 := s2) (c := c) (fin := fin) (b := (s.team th.team).scrBytes addr n) (p := (s.team th.team).anyPoison addr n) hx hs hl (fun _ => hw)
    (fun e y hy => by rw [List.mem_singleton.mp hy, htm]; exact ht e) (by simp only [Acc.slice, hd]; exact hdeed)
  rw [htu] at ht'
  have hS := (Turning.of_set h.has htu).of_threads hth
  rw [pieceDone_eq hx hS.thread hsh, if_pos rfl, hq, List.nil_append, Bool.false_or] at ht'
  obtain ⟨h1, h2, h3⟩ := hf s2 hS
  rw [ht']
  exact ⟨h1, h2, hst.of_same (congrArg State.teams h3.rest :) h3.memory⟩

/-- An operation in memory that hits, with nothing in its way. -/
theorem rmw_memory (hs : a.scr = false) {off : Nat} (hh : Hits s th true addr off) (ht : a.tight = true → s.anyPoison off n = false)
    (hn : rmwNew n op (natOf (s.bytes off n)) a.data = none → s.anyPoison off n = false)
    (hf : EndsAs s u c (th.raised (some is)) th' fun S => fin S { th.raised (some is) with hold := none, reply := none, part := none }
      (s.bytes off n) (s.anyPoison off n)) :
    let t := access (s.setThread (th.raised (some is))) (th.raised (some is)) c a fin
    (t.thread u).unstamped = (th'.goneOn c).unstamped ∧ OthersStand s t u ∧
      MemoryStored s t off (rmwBytes n op (s.bytes off n) a.data) (s.anyPoison off n) := by
  intro t
  have htu : (th.raised (some is)).uid = u := (Thread.raised_uid ..).trans h.uid
  have hq : (th.raised (some is)).progress = ⟨0, [], false, false⟩ := by rw [progress_raised, Thread.progress, hp]; rfl
  have hx : a.ps.drop (th.raised (some is)).progress.done = [(addr, n)] := by rw [hq, hps]; rfl
  have hh' : AllHit (s.setThread (th.raised (some is))) (th.raised (some is)) a.write (fun _ => off) (addr, n) [] := by
    rw [show a.write = true by simp [Acc.write, hd]]
    refine ⟨fun y hy => ?_, fun e => absurd rfl e⟩
    rw [List.mem_singleton.mp hy]
    exact hh.transport _ s.hub.scoutc (Thread.raised_core ..) (Thread.raised_team ..) (Thread.raised_hold ..)
  obtain ⟨s1, hc, e⟩ := access_memory (c := c) (fin := fin) hx hs hh' fun e y hy => by rw [List.mem_singleton.mp hy]; exact ht e
  have hup : s1.hub.cxldn = [] := by rw [hc.hub]; exact hh.up
  obtain ⟨s2, hdeed, hth, hhub, hst⟩ := memDeed_rmw hd (s := s) hup hc.byte hc.poison hn
  have ht' : t = _ := e _ _ _ (by simp only [Acc.slice, hd]; exact hdeed)
  rw [htu] at ht'
  have hto := touch_caches (s := s2) (by rw [hhub]; exact hup) (th.raised (some is)).core off (a.cls (BitVec.ofNat 64 addr))
  have hS := (Turning.of_set h.has htu).of_threads (hto.threads.trans (hth.threads.trans hc.threads))
  rw [pieceDone_eq hx hS.thread hsh, if_pos rfl, hq, List.nil_append, Bool.false_or] at ht'
  obtain ⟨h1, h2, h3⟩ := hf _ hS
  rw [ht']
  exact ⟨h1, h2, (hst.of_same hto.byte hto.poison).of_same h3.memory (congrArg State.poison h3.rest :)⟩

end

/-- What the operation reads waits under its window. -/
theorem endsAs_loads {s : State} {u : Nat} {c : Cur} {th : Thread} (h : Runs s u c th) (is : Issue) (dst : List Nat) (n : Nat) (sx : Bool) (b : List Byte) (p : Bool) :
    EndsAs s u c (th.raised (some is)) (th.loads c is (dst.zip (loadWords b n sx)) p)
      fun S => loadFinish c is dst n sx S { th.raised (some is) with hold := none, reply := none, part := none } b p :=
  fun _ hS => hS.loads h (by rfl) dst n sx b p

theorem endsAs_retire {s : State} {u : Nat} {c : Cur} {th : Thread} (h : Runs s u c th) (is : Option Issue) (b : List Byte) (p : Bool) :
    EndsAs s u c (th.raised is) th fun S => justRetire c S { th.raised is with hold := none, reply := none, part := none } b p := by
  intro S hS
  rw [← goneOn_raised th is, ← goneOn_congr (x := { th.raised is with hold := none, reply := none, part := none }) (y := th.raised is) (by rfl)]
  exact hS.retire hS.uid ((Thread.raised_scout th is).trans h.scout)

section
variable {s : State} {u : Nat} {c : Cur} {th : Thread} (h : Runs s u c th) {m : Mem} {a : Reg}

include h in
/-- An instruction of one event completes in scratch and in memory once its registers have passed. -/
theorem rmw_completes (hp : th.part = none) {x : Acc} {addr n op : Nat} {ans : Bool} {fin : Finish} {i : Instr}
    (hexec : exec i s = .next (checked (s.setThread (th.raised (some m.is))) (th.raised (some m.is)) c
      (addrBad (s.launchOfThread th).rcd (memScr m) true true addr n) (access (s.setThread (th.raised (some m.is))) (th.raised (some m.is)) c x fin)))
    (hps : x.ps = [(addr, n)]) (hd : x.deed = .rmw op ans) (hsh : x.shape = false) (hs : x.scr = memScr m) (hmod : addr % n = 0)
    (hpc : pieces addr n = [(addr, n)]) {dst : List Nat} {after : List Byte → Thread} (ht : x.tight = true → dst ≠ [])
    (hn : dst = [] → ∀ old, rmwNew n op old x.data ≠ none)
    (hf : ∀ b p, dst = [] ∨ p = false → EndsAs s u c (th.raised (some m.is)) (after b)
      fun S => fin S { th.raised (some m.is) with hold := none, reply := none, part := none } b p) :
    (memScr m = true → s.hasTeam th.team = true → addr + n ≤ scratchLimit (s.launchOfThread th).rcd → lockHolders s = [] → waitingSnapshots s = [] →
      (dst = [] ∨ (s.team th.team).anyPoison addr n = false) →
      ∃ t, exec i s = .next t ∧ (t.thread u).unstamped = ((after ((s.team th.team).scrBytes addr n)).goneOn c).unstamped ∧ OthersStand s t u ∧
        ScratchStored s t th.team addr (rmwBytes n op ((s.team th.team).scrBytes addr n) x.data) ((s.team th.team).anyPoison addr n)) ∧
    (∀ off, memScr m = false → Hits s th true addr off → (dst = [] ∨ s.anyPoison off n = false) →
      ∃ t, exec i s = .next t ∧ (t.thread u).unstamped = ((after (s.bytes off n)).goneOn c).unstamped ∧ OthersStand s t u ∧
        MemoryStored s t off (rmwBytes n op (s.bytes off n) x.data) (s.anyPoison off n)) := by
  constructor
  · intro hm hu hl hlk hw hpo
    refine ⟨_, hexec, ?_⟩
    rw [checked_none (by rw [hm]; exact addrBad_scratch true hl fun _ => hmod)]
    exact rmw_scratch h hp hps hd hsh (hs.trans hm) hu hlk hw (fun e => hpo.resolve_left (ht e))
      (fun e => hpo.resolve_left fun e' => hn e' _ e) (hf _ _ hpo)
  · intro off hm hh hpo
    have hcan : ∀ y ∈ pieces addr n, canonical (BitVec.ofNat 64 y.1) = true := by
      intro y hy
      rw [hpc] at hy
      rw [List.mem_singleton.mp hy]
      exact hh.canon
    refine ⟨_, hexec, ?_⟩
    rw [checked_none (by rw [hm]; exact addrBad_memory true (fun _ => hmod) hcan)]
    exact rmw_memory h hp hps hd hsh (hs.trans hm) hh (fun e => hpo.resolve_left (ht e)) (fun e => hpo.resolve_left fun e' => hn e' _ e) (hf _ _ hpo)

variable (hcf : CounterFree th m.is) (hr : Readable th (memAddrRegs m a))
include h hcf hr

/-- An atomic outside scout, its registers passed: the checks of its address, then its access. -/
theorem atomicOp_checks {d e : Reg} {opn : Nat} (hro : Readable th (operandRegs opn (memBytes m) e)) (he : Exist th (dataRegs d (memBytes m)))
    (blocks : Nat → Block → Nat → Nat → Bool) (remotes : Bool) :
    atomicOp s false m d a e opn blocks remotes = .next (checked (s.setThread (th.raised (some m.is))) (th.raised (some m.is)) c
      (addrBad (s.launchOfThread th).rcd (memScr m) true true (memAddr m th a) (memBytes m))
      (access (s.setThread (th.raised (some m.is))) (th.raised (some m.is)) c
        { deed := .rmw opn true, scr := memScr m, ps := [(memAddr m th a, memBytes m)]
          data := regBytes th (operandRegs opn (memBytes m) e) (if opn == 7 then 2 * memBytes m else memBytes m)
          tight := true, flags := 3, blocks := blocks, remotes := remotes, cls := memCls m (th.raised (some m.is)) }
        (loadFinish c m.is (dataRegs d (memBytes m)) (memBytes m) false))) := by
  have hsc : (th.raised (some m.is)).scout = none := (Thread.raised_scout ..).trans h.scout
  have hrc : regChecks th c false (dataRegs d (memBytes m) ++ memAddrRegs m a ++ operandRegs opn (memBytes m) e)
      (memAddrRegs m a ++ operandRegs opn (memBytes m) e) = none := by
    refine regChecks_none (fun r hr' => ?_) fun r e => (List.mem_append.mp e).elim (fun e => (hr r e).2) fun e => (hro r e).2
    rcases List.mem_append.mp hr' with e1 | e1
    · exact (List.mem_append.mp e1).elim (he r) fun e => (hr r e).1
    · exact (hro r e1).1
  unfold atomicOp
  rw [threadOp_late h hcf]
  simp only [regChecks_raised, checked_none hrc, any_invalid_none hsc, memAddr_raised, launchOf_raised, inEpisode_none hsc, provisional_none hsc,
    regBytes_raised, Bool.false_eq_true, if_false]

theorem atom_checks {d e : Reg} (hwf : Instr.wf (.atom m d a e) = true) (hro : Readable th (operandRegs m.opn.toNat (memBytes m) e))
    (he : Exist th (dataRegs d (memBytes m))) :
    exec (.atom m d a e) s = .next (checked (s.setThread (th.raised (some m.is))) (th.raised (some m.is)) c
      (addrBad (s.launchOfThread th).rcd (memScr m) true true (memAddr m th a) (memBytes m))
      (access (s.setThread (th.raised (some m.is))) (th.raised (some m.is)) c
        { deed := .rmw m.opn.toNat true, scr := memScr m, ps := [(memAddr m th a, memBytes m)]
          data := regBytes th (operandRegs m.opn.toNat (memBytes m) e) (if m.opn.toNat == 7 then 2 * memBytes m else memBytes m)
          tight := true, flags := 3, blocks := semBlock, remotes := true, cls := memCls m (th.raised (some m.is)) }
        (loadFinish c m.is (dataRegs d (memBytes m)) (memBytes m) false))) := by
  show atomicOp s (!Instr.wf (.atom m d a e)) m d a e m.opn.toNat semBlock true = _
  rw [hwf]
  exact atomicOp_checks h hcf hr hro he semBlock true

theorem atomf_checks {d e : Reg} (hwf : Instr.wf (.atomf m d a e) = true) (hro : Readable th (operandRegs (8 + m.opn.toNat) (memBytes m) e))
    (he : Exist th (dataRegs d (memBytes m))) :
    exec (.atomf m d a e) s = .next (checked (s.setThread (th.raised (some m.is))) (th.raised (some m.is)) c
      (addrBad (s.launchOfThread th).rcd (memScr m) true true (memAddr m th a) (memBytes m))
      (access (s.setThread (th.raised (some m.is))) (th.raised (some m.is)) c
        { deed := .rmw (8 + m.opn.toNat) true, scr := memScr m, ps := [(memAddr m th a, memBytes m)]
          data := regBytes th (operandRegs (8 + m.opn.toNat) (memBytes m) e) (memBytes m)
          tight := true, flags := 3, blocks := fun _ _ _ _ => false, remotes := false, cls := memCls m (th.raised (some m.is)) }
        (loadFinish c m.is (dataRegs d (memBytes m)) (memBytes m) false))) := by
  have h7 : (8 + m.opn.toNat == 7) = false := beq_eq_false_iff_ne.mpr (by omega)
  show atomicOp s (!Instr.wf (.atomf m d a e)) m d a e (8 + m.opn.toNat) (fun _ _ _ _ => false) false = _
  rw [hwf]
  refine (atomicOp_checks h hcf hr hro he _ false).trans ?_
  rw [if_neg (by simp [h7])]

/-- RED outside scout, its registers passed: the checks of its address, then its access. -/
theorem red_checks {e : Reg} (hwf : Instr.wf (.red m a e) = true) (hro : Readable th (dataRegs e (memBytes m))) :
    exec (.red m a e) s = .next (checked (s.setThread (th.raised (some m.is))) (th.raised (some m.is)) c
      (addrBad (s.launchOfThread th).rcd (memScr m) true true (memAddr m th a) (memBytes m))
      (access (s.setThread (th.raised (some m.is))) (th.raised (some m.is)) c
        { deed := .rmw m.opn.toNat false, scr := memScr m, ps := [(memAddr m th a, memBytes m)], data := regBytes th (dataRegs e (memBytes m)) (memBytes m), flags := 3
          blocks := if m.opn.toNat < 8 then semBlock else fun _ _ _ _ => false, remotes := m.opn.toNat < 8, cls := memCls m (th.raised (some m.is)) }
        (justRetire c))) := by
  have hsc : (th.raised (some m.is)).scout = none := (Thread.raised_scout ..).trans h.scout
  have hrc : regChecks th c (!Instr.wf (.red m a e)) (memAddrRegs m a ++ dataRegs e (memBytes m)) (memAddrRegs m a ++ dataRegs e (memBytes m)) = none := by
    rw [hwf]
    exact regChecks_none (fun r e => (List.mem_append.mp e).elim (fun e => (hr r e).1) fun e => (hro r e).1)
      fun r e => (List.mem_append.mp e).elim (fun e => (hr r e).2) fun e => (hro r e).2
  show execRed m a e s = _
  unfold execRed
  rw [threadOp_late h hcf]
  simp only [regChecks_raised, checked_none hrc, any_invalid_none hsc, memAddr_raised, launchOf_raised, skipsScout_none hsc, regBytes_raised,
    Bool.false_eq_true, if_false]

end

theorem dataRegs_ne_nil (d : Reg) (m : Mem) : dataRegs d (memBytes m) ≠ [] := by
  have := memBytes_pos m
  have hl : (dataRegs d (memBytes m)).length = (memBytes m + 3) / 4 := by simp [dataRegs, regsFrom, from_]
  intro e
  rw [e] at hl
  simp only [List.length_nil] at hl
  omega

/-- A reduction always writes: compare-and-swap is none (R434). -/
theorem red_writes {m : Mem} {a e : Reg} (h : Instr.wf (.red m a e) = true) (n old : Nat) (data : List Byte) : rmwNew n m.opn.toNat old data ≠ none := by
  have hop : m.opn.toNat ≤ 5 ∨ 8 ≤ m.opn.toNat := by
    simp only [Instr.wf, redOk, Bool.and_eq_true, Bool.or_eq_true, decide_eq_true_eq] at h
    omega
  generalize m.opn.toNat = op at hop
  unfold rmwNew
  rcases hop with hop | hop
  · rw [if_pos (by omega)]
    interval_cases op <;> exact Option.some_ne_none _
  · rw [if_neg (by omega)]
    exact Option.some_ne_none _

/-! ### The operations' values (R328, R330, R435) -/

theorem sext_toInt {w : Nat} (x : BitVec w) : sext x.toNat w = x.toInt := by
  have := x.isLt
  unfold sext
  rw [BitVec.toInt_eq_toNat_cond, Nat.mod_eq_of_lt this]
  rcases Nat.eq_zero_or_pos w with rfl | hw
  · simp at this
    simp [this]
  · have h2 : 2 ^ w = 2 * 2 ^ (w - 1) := by rw [← Nat.pow_succ', Nat.succ_eq_add_one, Nat.sub_add_cancel hw]
    exact if_congr (by omega) rfl rfl

/-- On words of n bytes an integer operation is the one of the words; compare-and-swap writes when the old value equals the first. -/
theorem intRmw_word {w n : Nat} (hw : 8 * n = w) (x y z : BitVec w) :
    intRmw n 0 y.toNat x.toNat z.toNat = some (y + x).toNat ∧ intRmw n 1 y.toNat x.toNat z.toNat = some (if x.slt y then x else y).toNat ∧
    intRmw n 2 y.toNat x.toNat z.toNat = some (if y.slt x then x else y).toNat ∧ intRmw n 3 y.toNat x.toNat z.toNat = some (y &&& x).toNat ∧
    intRmw n 4 y.toNat x.toNat z.toNat = some (y ||| x).toNat ∧ intRmw n 5 y.toNat x.toNat z.toNat = some (y ^^^ x).toNat ∧
    intRmw n 6 y.toNat x.toNat z.toNat = some x.toNat ∧ intRmw n 7 y.toNat x.toNat z.toNat = if y = x then some z.toNat else none := by
  have hslt : ∀ a b c d : BitVec w, (if a.slt b then c else d).toNat = if a.toInt < b.toInt then c.toNat else d.toNat := fun a b c d => by
    rw [BitVec.slt_eq_decide]
    by_cases e : a.toInt < b.toInt <;> simp [e]
  subst hw
  refine ⟨?_, ?_, ?_, ?_, ?_, ?_, rfl, ?_⟩
  · rw [BitVec.toNat_add]
    rfl
  · rw [hslt, ← sext_toInt, ← sext_toInt]
    rfl
  · rw [hslt, ← sext_toInt, ← sext_toInt]
    rfl
  · rw [BitVec.toNat_and]
    rfl
  · rw [BitVec.toNat_or]
    rfl
  · rw [BitVec.toNat_xor]
    rfl
  · show (if y.toNat == x.toNat then some z.toNat else none) = _
    simp only [beq_iff_eq, BitVec.toNat_inj]

theorem natOf_word {w n : Nat} (hw : 8 * n = w) (x : BitVec w) : natOf (bytesOf x.toNat n) = x.toNat := by
  rw [natOf_bytesOf, show 256 ^ n = 2 ^ w by rw [← hw, pow_mul]; rfl, Nat.mod_eq_of_lt x.isLt]

/-- What an operation finds in its operand's bytes: one word, or two for compare-and-swap. -/
theorem rmwNew_words {w n : Nat} (hw : 8 * n = w) (x z : BitVec w) (op old : Nat) :
    rmwNew n op old (bytesOf x.toNat n ++ bytesOf z.toNat n) = if op < 8 then intRmw n op old x.toNat z.toNat
      else some (fpRmw (if n == 4 then fp32 else if op < 12 then fp16 else bf16) (op % 4) old x.toNat) := by
  have h1 : natOf ((bytesOf x.toNat n ++ bytesOf z.toNat n).take n) = x.toNat := by
    rw [List.take_left' (bytesOf_length ..), natOf_word hw]
  have h2 : natOf ((bytesOf x.toNat n ++ bytesOf z.toNat n).drop n) = z.toNat := by
    rw [List.drop_left' (bytesOf_length ..), natOf_word hw]
  unfold rmwNew
  rw [h1, h2]

theorem rmwNew_half (x : BitVec 16) (op old : Nat) (h : 8 ≤ op) :
    rmwNew 2 op old (bytesOf x.toNat 2) = some (fpRmw (if op < 12 then fp16 else bf16) (op % 4) old x.toNat) := by
  have h1 : natOf ((bytesOf x.toNat 2).take 2) = x.toNat := by rw [List.take_of_length_le (bytesOf_length ..).le, natOf_word (by rfl)]
  unfold rmwNew
  rw [h1, if_neg (by omega)]
  rfl

/-! ### The obligation -/

/-- Settles O23: the bytes become the operation's result on what was read, and the old bytes wait under the window. -/
theorem atomicsComplete : Obligations.AtomicsComplete := by
  unfold Obligations.AtomicsComplete
  refine ⟨?_, ⟨?_, ?_, ?_⟩⟩
  · intro s u c th m d a e h hcf hp n addr tm opn hmod hpc hr i dst op ops len hi hwf hro he new after
    simp only [List.mem_cons, Prod.mk.injEq, List.not_mem_nil, or_false] at hi
    have hloads : dst = dataRegs d (memBytes m) → ∀ b p, dst = [] ∨ p = false → EndsAs s u c (th.raised (some m.is)) (after b)
        fun S => loadFinish c m.is dst n false S { th.raised (some m.is) with hold := none, reply := none, part := none } b p := by
      intro e1 b p hpo
      have hne : dst ≠ [] := e1 ▸ dataRegs_ne_nil d m
      rw [hpo.resolve_left hne, show after b = th.loads c m.is (dst.zip (loadWords b n false)) false from if_neg hne]
      exact endsAs_loads h m.is dst n false b false
    rcases hi with ⟨rfl, hd, rfl, rfl, rfl⟩ | ⟨rfl, hd, rfl, rfl, rfl⟩ | ⟨rfl, hd, rfl, rfl, rfl⟩
    · have hne : dst ≠ [] := hd ▸ dataRegs_ne_nil d m
      have key := rmw_completes h hp (i := .atom m d a e) (dst := dst) (after := after)
        (atom_checks h hcf hr hwf hro (hd ▸ he)) rfl rfl rfl rfl hmod hpc (fun _ => hne) (fun e1 => absurd e1 hne) (hd ▸ hloads hd)
      simp only [beq_iff_eq] at key
      exact key
    · have hne : dst ≠ [] := hd ▸ dataRegs_ne_nil d m
      exact rmw_completes h hp (i := .atomf m d a e) (dst := dst) (after := after)
        (atomf_checks h hcf hr hwf hro (hd ▸ he)) rfl rfl rfl rfl hmod hpc (fun _ => hne) (fun e1 => absurd e1 hne) (hd ▸ hloads hd)
    · exact rmw_completes h hp (i := .red m a e) (dst := dst) (after := after)
        (red_checks h hcf hr hwf hro) rfl rfl rfl rfl hmod hpc (fun e1 => absurd e1 (by simp)) (fun _ old => red_writes hwf _ _ _)
        fun b p _ => by
          rw [show after b = th from if_pos hd]
          exact endsAs_retire h _ b p
  · intro x y z f
    obtain ⟨h0, h1, h2, h3, h4, h5, h6, h7⟩ := intRmw_word (n := 4) rfl x y z
    have hf : ∀ op, f op = _ := fun op => rmwNew_words (n := 4) rfl x z op y.toNat
    simp only [hf]
    exact ⟨h0, h1, h2, h3, h4, h5, h6, h7, rfl, rfl, rfl⟩
  · intro x y z f
    obtain ⟨h0, h1, h2, h3, h4, h5, h6, h7⟩ := intRmw_word (n := 8) rfl x y z
    have hf : ∀ op, f op = _ := fun op => rmwNew_words (n := 8) rfl x z op y.toNat
    simp only [hf]
    exact ⟨h0, h1, h2, h3, h4, h5, h6, h7⟩
  · intro x y f
    have hf : ∀ op, 8 ≤ op → f op = _ := fun op h => rmwNew_half x op y.toNat h
    exact ⟨hf 8 (by omega), hf 9 (by omega), hf 10 (by omega), hf 12 (by omega), hf 13 (by omega), hf 14 (by omega)⟩

end Sys2Proof.Machine
end

section
/-! PROOF. Accesses that trap before any effect (R51, R86, R87, R105, R109, R117, R255, R256, R270), and the obligation. -/
namespace Sys2Proof.Machine
open Sys2Proof

/-! ### Locks look the same whatever the threads are (R117) -/

section
variable (s : State) (t : Thread)

theorem walkAt_setThread (va l base : Nat) : walkAt (s.setThread t) va l base = walkAt s va l base := by
  induction l generalizing base with
  | zero =>
    rw [walkAt_zero, walkAt_zero]
    rfl
  | succ l ih =>
    rw [walkAt_succ, walkAt_succ]
    simp only [ih]
    rfl

theorem peek_setThread (die ctx va : Nat) : peek (s.setThread t) die ctx va = peek s die ctx va := by
  unfold peek walk
  rw [show (s.setThread t).ctx ctx = s.ctx ctx from rfl, walkAt_setThread]
  rfl

theorem covers_setThread (core : Nat) (y : Copy) (dst : Bool) (l : Loc) : y.covers (s.setThread t) core dst l = y.covers s core dst l := by
  unfold Copy.covers inGlobalRange
  simp only [peek_setThread]

theorem stalls_setThread (core : Nat) (y : Copy) (l : Loc) : y.stalls (s.setThread t) core l = y.stalls s core l := by
  unfold Copy.stalls Copy.reads
  simp only [covers_setThread, peek_setThread]

theorem lockOf_setThread (core tag : Nat) (y : Copy) (l : Loc) (w : Bool) : lockOf (s.setThread t) core tag y l w = lockOf s core tag y l w := by
  unfold lockOf
  simp only [covers_setThread, stalls_setThread]

theorem locksHit_setThread (ls : List Loc) (w : Bool) : locksHit (s.setThread t) ls w = locksHit s ls w := by
  unfold locksHit snapshotHit
  simp only [lockOf_setThread, stalls_setThread]
  rfl

end

/-! ### Addresses that fail their checks (R51, R86, R256) -/

/-- The first scratch byte of an access at or beyond the bound. -/
def outsideScratch (r : LaunchRec) (addr n : Nat) : Option Nat := (List.range n).find? fun k => scratchLimit r ≤ (addr + k) % 2 ^ 32

theorem scratchBad_access (r : LaunchRec) (addr n : Nat) : scratchBad r ((List.range n).map fun i => (addr + i) % 2 ^ 32) =
    (outsideScratch r addr n).map fun k => (0x0B, BitVec.ofNat 64 ((addr + k) % 2 ^ 32), 0) := by
  unfold scratchBad outsideScratch
  rw [List.find?_map, Option.map_map]
  rfl

theorem addrBad_outside {r : LaunchRec} {scr : Bool} {addr n k : Nat} (hs : scr = true) (h : outsideScratch r addr n = some k) (al w : Bool) :
    addrBad r scr al w addr n = some (0x0B, BitVec.ofNat 64 ((addr + k) % 2 ^ 32), 0) := by
  simp only [addrBad, hs, if_true, scratchBad_access, h, Option.map_some]

/-- An access in bounds goes on to the check of its alignment. -/
theorem addrBad_inside {r : LaunchRec} {scr : Bool} {addr n : Nat} (h : (if scr then outsideScratch r addr n else none) = none) (al w : Bool) :
    addrBad r scr al w addr n = if al && addr % n != 0 then some (0x0A, BitVec.ofNat 64 addr, BitVec.ofNat 32 (Nat.log2 n))
      else if scr then none
      else ((pieces addr n).find? fun p => !(canonical (BitVec.ofNat 64 p.1))).map fun p => (0x08, BitVec.ofNat 64 p.1, xlatInfo 0 w 1) := by
  cases scr with
  | false => rfl
  | true =>
    rw [if_pos rfl] at h
    simp only [addrBad, if_true, scratchBad_access, h, Option.map_none]

/-- An access's first piece lies at its address. -/
theorem pieces_head (addr : Nat) {n : Nat} (h : 0 < n) : ∃ l, pieces addr n = (addr, pieceSize addr n) :: l := by
  have h0 : (n == 0) = false := beq_eq_false_iff_ne.mpr (by omega)
  refine ⟨piecesFrom 15 (addr + pieceSize addr n) (n - pieceSize addr n), ?_⟩
  show (if n == 0 then [] else _) = _
  rw [h0]
  rfl

/-! ### Instructions that reach an access -/

/-- An instruction comes to the checks of its address and then, where the side log and walks do not serve it, to its access. -/
def Guarded (s : State) (c : Cur) (th : Thread) (m : Mem) (addr : Nat) (w al tight : Bool) (i : Instr) : Prop :=
  ∃ k, exec i s = .next (checked (s.setThread (th.raised (some m.is))) (th.raised (some m.is)) c
      (addrBad (s.launchOfThread th).rcd (memScr m) al w addr (memBytes m)) k) ∧
    ((memScr m = false → (∀ tm ∈ s.teams, tm.log = []) ∧ findXlate s th.core (s.launchOfThread th).ctx (vaKey (BitVec.ofNat 64 addr)) = none) →
      ∃ t a fin, t.unstarted = (th.raised (some m.is)).unstarted ∧ t.hold = none ∧ t.part = none ∧ a.scr = memScr m ∧ a.write = w ∧ a.tight = tight ∧
        (pieces addr (memBytes m) = [(addr, memBytes m)] → a.ps = [(addr, memBytes m)]) ∧ k = access (s.setThread t) t c a fin)

section
variable {s : State} {u : Nat} {c : Cur} {th : Thread} (h : Runs s u c th) {m : Mem} {a : Reg} (hcf : CounterFree th m.is) (hp : th.part = none)
  (hh : th.hold = none) (hr : Readable th (memAddrRegs m a))
include h hcf hp hh hr

theorem guarded_ld {d : Reg} (hwf : Instr.wf (.ld m d a) = true) (he : Exist th (dataRegs d (memBytes m))) (hen : th.scoutEn = false) :
    Guarded s c th m (memAddr m th a) false false false (.ld m d a) := by
  have h1 : (th.raised (some m.is)).hold = none := (Thread.raised_hold ..).trans hh
  have h2 : (th.raised (some m.is)).part = none := (Thread.raised_part ..).trans hp
  refine ⟨_, ld_checks h hwf hcf hr he, fun hmiss => ?_⟩
  by_cases hs : memScr m = true
  · refine ⟨_, { deed := .load, scr := true, ps := pieces (memAddr m th a) (memBytes m) }, _, rfl, h1, h2, hs.symm, rfl, rfl, ?_, if_pos hs⟩
    exact fun e => e
  · obtain ⟨hlog, hx⟩ := hmiss (by simpa using hs)
    have hw : wouldCheckpoint s th (BitVec.ofNat 64 (memAddr m th a)) = false := by simp [wouldCheckpoint, hen]
    have hoff : localOff (s.setThread (th.raised (some m.is))) (th.raised (some m.is)) (BitVec.ofNat 64 (memAddr m th a)) = none := by
      unfold localOff
      rw [launchOf_raised, Thread.raised_core, show findXlate (s.setThread (th.raised (some m.is))) th.core (s.launchOfThread th).ctx _ = none from hx]
    have hcount : countRehit (s.setThread (th.raised (some m.is))) (th.raised (some m.is)) (BitVec.ofNat 64 (memAddr m th a)) = s.setThread (th.raised (some m.is)) := by
      unfold countRehit
      rw [hoff]
      exact ite_self _
    have hs' : memScr m = false := by simpa using hs
    have hk := globalLoad_access (h.raised_set (some m.is)) ((Thread.raised_uid ..).trans h.uid)
      (teamOf_log (s := s.setThread (th.raised (some m.is))) hlog _) (memBytes_pos m) ((wouldCheckpoint_raised s th (some m.is) _).trans hw) c m (dataRegs d (memBytes m))
    rw [hcount, State.setThread_setThread s (th.raised (some m.is)) { th.raised (some m.is) with plain := true } rfl] at hk
    refine ⟨{ th.raised (some m.is) with plain := true }, _, _, rfl, h1, h2, ?_, ?_, ?_, ?_, (if_neg hs).trans hk⟩
    exacts [hs'.symm, rfl, rfl, fun e => e]

theorem guarded_st {e : Reg} (hwf : Instr.wf (.st m a e) = true) (he : Exist th (dataRegs e (memBytes m))) :
    Guarded s c th m (memAddr m th a) true false false (.st m a e) := by
  refine ⟨_, st_checks h hwf hcf hr he, fun _ => ⟨_, _, _, rfl, (Thread.raised_hold ..).trans hh, (Thread.raised_part ..).trans hp, rfl, rfl, rfl, ?_, rfl⟩⟩
  exact fun e => e

theorem guarded_atom {d e : Reg} (hwf : Instr.wf (.atom m d a e) = true) (hro : Readable th (operandRegs m.opn.toNat (memBytes m) e))
    (he : Exist th (dataRegs d (memBytes m))) : Guarded s c th m (memAddr m th a) true true true (.atom m d a e) :=
  ⟨_, atom_checks h hcf hr hwf hro he, fun _ => ⟨_, _, _, rfl, (Thread.raised_hold ..).trans hh, (Thread.raised_part ..).trans hp, rfl, rfl, rfl, fun _ => rfl, rfl⟩⟩

theorem guarded_atomf {d e : Reg} (hwf : Instr.wf (.atomf m d a e) = true) (hro : Readable th (operandRegs (8 + m.opn.toNat) (memBytes m) e))
    (he : Exist th (dataRegs d (memBytes m))) : Guarded s c th m (memAddr m th a) true true true (.atomf m d a e) :=
  ⟨_, atomf_checks h hcf hr hwf hro he, fun _ => ⟨_, _, _, rfl, (Thread.raised_hold ..).trans hh, (Thread.raised_part ..).trans hp, rfl, rfl, rfl, fun _ => rfl, rfl⟩⟩

theorem guarded_red {e : Reg} (hwf : Instr.wf (.red m a e) = true) (hro : Readable th (dataRegs e (memBytes m))) :
    Guarded s c th m (memAddr m th a) true true false (.red m a e) :=
  ⟨_, red_checks h hcf hr hwf hro, fun _ => ⟨_, _, _, rfl, (Thread.raised_hold ..).trans hh, (Thread.raised_part ..).trans hp, rfl, rfl, rfl, fun _ => rfl, rfl⟩⟩

theorem guarded_monw {d e : Reg} (hwf : Instr.wf (.monw m d a e) = true) (hro : Readable th (dataRegs e (memBytes m)))
    (he : Exist th (dataRegs d (memBytes m))) : Guarded s c th m (memAddr m th a) false true true (.monw m d a e) := by
  have hsc : (th.raised (some m.is)).scout = none := (Thread.raised_scout ..).trans h.scout
  have hrc : regChecks th c (!Instr.wf (.monw m d a e)) (dataRegs d (memBytes m) ++ memAddrRegs m a ++ dataRegs e (memBytes m))
      (memAddrRegs m a ++ dataRegs e (memBytes m)) = none := by
    rw [hwf]
    refine regChecks_none (fun r hr' => ?_) fun r e => (List.mem_append.mp e).elim (fun e => (hr r e).2) fun e => (hro r e).2
    rcases List.mem_append.mp hr' with e1 | e1
    · exact (List.mem_append.mp e1).elim (he r) fun e => (hr r e).1
    · exact (hro r e1).1
  obtain ⟨k, hexec, hk⟩ : ∃ k, exec (.monw m d a e) s = .next (checked (s.setThread (th.raised (some m.is))) (th.raised (some m.is)) c
      (addrBad (s.launchOfThread th).rcd (memScr m) true false (memAddr m th a) (memBytes m)) k) ∧
      ((if memScr m then none else forward (s.setThread (th.raised (some m.is))) (th.raised (some m.is)) (memAddr m th a) (memBytes m)) = none →
        ∃ x fin, x.scr = memScr m ∧ x.write = false ∧ x.tight = true ∧ x.ps = [(memAddr m th a, memBytes m)] ∧
          k = access ((s.setThread (th.raised (some m.is))).setThread { th.raised (some m.is) with polls := true }) { th.raised (some m.is) with polls := true } c x fin) := by
    apply Exists.intro
    apply And.intro
    · show execMonw m d a e s = _
      unfold execMonw
      rw [threadOp_late h hcf]
      simp only [endsScout_none hsc, regChecks_raised, checked_none hrc, memAddr_raised, launchOf_raised]
      rfl
    · intro hf
      rw [hf]
      exact ⟨_, _, rfl, rfl, rfl, rfl, rfl⟩
  refine ⟨k, hexec, fun hmiss => ?_⟩
  have hf : (if memScr m then none else forward (s.setThread (th.raised (some m.is))) (th.raised (some m.is)) (memAddr m th a) (memBytes m)) = none := by
    split
    next => rfl
    next hs => exact forward_none (teamOf_log (s := s.setThread (th.raised (some m.is))) (hmiss (by simpa using hs)).1 _) _ (memBytes_pos m)
  obtain ⟨x, fin, h1, h2, h3, h4, h5⟩ := hk hf
  refine ⟨{ th.raised (some m.is) with polls := true }, x, fin, rfl, (Thread.raised_hold ..).trans hh, (Thread.raised_part ..).trans hp, h1, h2, h3, fun _ => h4, ?_⟩
  rw [h5, State.setThread_setThread s (th.raised (some m.is)) { th.raised (some m.is) with polls := true } rfl]

end

/-! ### The traps -/

section
variable {s : State} {u : Nat} {c : Cur} {th : Thread} (h : Runs s u c th) {m : Mem} {addr : Nat} {w al tight : Bool} {i : Instr}
  (hg : Guarded s c th m addr w al tight i)
include h hg

/-- A failed check of the address is its trap. -/
theorem traps_of_addrBad {code : Nat} {va : DWord} {info : Word}
    (hb : addrBad (s.launchOfThread th).rcd (memScr m) al w addr (memBytes m) = some (code, va, info)) : Traps s u th i code va info c.addr := by
  obtain ⟨k, hexec, _⟩ := hg
  exact hexec.trans (congrArg _ (h.checked_late (some m.is) hb k))

/-- What the first piece of an access meets, where that is a trap, is the instruction's. -/
theorem traps_of_lookAt {code : Nat} {va : DWord} {info : Word} (hb : addrBad (s.launchOfThread th).rcd (memScr m) al w addr (memBytes m) = none)
    (hpc : pieces addr (memBytes m) = [(addr, memBytes m)])
    (hmiss : memScr m = false → (∀ tm ∈ s.teams, tm.log = []) ∧ findXlate s th.core (s.launchOfThread th).ctx (vaKey (BitVec.ofNat 64 addr)) = none)
    (hl : ∀ t a, t.core = th.core → t.team = th.team → t.hold = none → a.scr = memScr m → a.write = w → a.tight = tight →
      lookAt (s.setThread t) t a (addr, memBytes m) = (s.setThread t, .trap code va info)) : Traps s u th i code va info c.addr := by
  obtain ⟨k, hexec, hk⟩ := hg
  obtain ⟨t, a, fin, ht, hhold, hpart, hs, hw, htt, hps, rfl⟩ := hk hmiss
  have hcore : t.core = th.core := (congrArg Thread.core ht :).trans (Thread.raised_core ..)
  have hteam : t.team = th.team := (congrArg Thread.team ht :).trans (Thread.raised_team ..)
  obtain ⟨huid, hsc⟩ := unstarted_raised ht
  have hset : (s.setThread t).thread t.uid = t := State.thread_setThread_same rfl (by rw [huid, h.uid]; exact h.has)
  refine hexec.trans (congrArg _ ((checked_none hb _).trans ?_))
  unfold access
  simp only [hpart, Option.map_none, Option.getD_none, List.drop_zero, hps hpc, hl t a hcore hteam hhold hs hw htt, stopAt]
  rw [trapOr_none (by rw [hset]; exact hsc.trans h.scout), huid, h.uid]
  exact takeTrap_started h.uid h.has ht ..

end

/-- A miss in a launch that declares strict residency traps (R105). -/
theorem lookAt_strict {s : State} {t : Thread} {a : Acc} {x : Nat × Nat} (hs : a.scr = false) (hh : t.hold = none)
    (hst : (s.launchOfThread t).rcd.strict = true) (hx : findXlate s t.core (s.launchOfThread t).ctx (vaKey (BitVec.ofNat 64 x.1)) = none) :
    lookAt s t a x = (s, .trap 0x08 (BitVec.ofNat 64 x.1) (xlatInfo 3 a.write 2)) := by
  have hl : locate s t a (BitVec.ofNat 64 x.1) x.2 = (s, .trap 0x08 (BitVec.ofNat 64 x.1) (xlatInfo 3 a.write 2)) := by
    unfold locate
    simp [hh, hst, hx]
  unfold lookAt
  simp only [hs, hh, hl, Bool.false_eq_true, if_false]

/-- A scratch access under another copy's lock traps (R117). -/
theorem lookAt_conflict {s : State} {t : Thread} {a : Acc} {x : Nat × Nat} (hs : a.scr = true) {k core tag kind : Nat}
    (hl : locksHit s ((List.range x.2).map fun i => .scr (s.teamOf t).uid (x.1 + i)) a.write = some (k, .conflict core tag kind)) :
    lookAt s t a x = (s, .trap 0x03 (BitVec.ofNat 64 (x.1 + k)) (conflictInfo core tag kind)) := by
  unfold lookAt lockLook
  simp only [hs, if_true, hl]

/-- Poison in scratch traps under an access that does not take it (R256, R270). -/
theorem lookAt_poison {s : State} {t : Thread} {a : Acc} {x : Nat × Nat} (hs : a.scr = true) (ht : a.tight = true)
    (hl : locksHit s ((List.range x.2).map fun i => .scr (s.teamOf t).uid (x.1 + i)) a.write = none) (hp : (s.teamOf t).anyPoison x.1 x.2 = true) :
    lookAt s t a x = (s, .trap 0x07 (BitVec.ofNat 64 (x.1 / 8 * 8)) 0x100) := by
  unfold lookAt lockLook
  simp only [hs, if_true, hl, ht, hp, Bool.and_self]

/-! ### The obligation -/

/-- Every trap of an instruction that comes to the checks of its address. -/
theorem guarded_traps {s : State} {u : Nat} {c : Cur} {th : Thread} (h : Runs s u c th) {m : Mem} {addr : Nat} {w al tight : Bool} {i : Instr}
    (hg : Guarded s c th m addr w al tight i) :
    let n := memBytes m
    let va := BitVec.ofNat 64 addr
    let l := s.launchOfThread th
    let tm := s.team th.team
    let outside := if memScr m then outsideScratch l.rcd addr n else none
    (∀ k, outside = some k → Traps s u th i 0x0B (BitVec.ofNat 64 ((addr + k) % 2 ^ 32)) 0 c.addr) ∧
    (outside = none →
      (al = true → addr % n ≠ 0 → Traps s u th i 0x0A va (BitVec.ofNat 32 (Nat.log2 n)) c.addr) ∧
      ((al = true → addr % n = 0) →
        (memScr m = false → canonical va = false → Traps s u th i 0x08 va (xlatInfo 0 w 1) c.addr) ∧
        (memScr m = false → pieces addr n = [(addr, n)] → canonical va = true → l.rcd.strict = true → (∀ x ∈ s.teams, x.log = []) →
          findXlate s th.core l.ctx (vaKey va) = none → Traps s u th i 0x08 va (xlatInfo 3 w 2) c.addr) ∧
        (memScr m = true → pieces addr n = [(addr, n)] → let meets := locksHit s ((List.range n).map fun k => .scr tm.uid (addr + k)) w
          (∀ k core tag kind, meets = some (k, .conflict core tag kind) →
            Traps s u th i 0x03 (BitVec.ofNat 64 (addr + k)) (conflictInfo core tag kind) c.addr) ∧
          (meets = none → tight = true → tm.anyPoison addr n = true →
            Traps s u th i 0x07 (BitVec.ofNat 64 (addr / 8 * 8)) 0x100 c.addr)))) := by
  intro n va l tm outside
  have hn : 0 < n := memBytes_pos m
  refine ⟨fun k hk => ?_, fun hout => ⟨fun hal hmod => ?_, fun hmod => ?_⟩⟩
  · have hs : memScr m = true := by
      by_contra hs
      rw [show outside = none from if_neg hs] at hk
      cases hk
    exact traps_of_addrBad h hg (addrBad_outside hs (by rw [← hk]; exact (if_pos hs).symm) al w)
  · refine traps_of_addrBad h hg ((addrBad_inside hout al w).trans (if_pos ?_))
    simpa [hal] using hmod
  · have hal : (al && addr % n != 0) = false := by cases e : al <;> simp [hmod, e]
    have hb : addrBad l.rcd (memScr m) al w addr n = _ := (addrBad_inside hout al w).trans (if_neg (by rw [hal]; exact Bool.false_ne_true))
    refine ⟨fun hs hc => ?_, fun hs hpc hc hst hlog hx => ?_, fun hs hpc => ⟨fun k core tag kind hk => ?_, fun hk ht hp => ?_⟩⟩
    · obtain ⟨rest, hrest⟩ := pieces_head addr hn
      refine traps_of_addrBad h hg (hb.trans ?_)
      rw [hs, hrest, List.find?_cons_of_pos (by simpa using hc)]
      rfl
    · refine traps_of_lookAt h hg (hb.trans ?_) hpc (fun _ => ⟨hlog, hx⟩) fun t a hcore hteam hhold has haw _ => ?_
      · rw [hs, hpc]
        simp [show canonical (BitVec.ofNat 64 addr) = true from hc]
      · have hl : (s.setThread t).launchOfThread t = l := by rw [State.launchOfThread, hteam]; rfl
        rw [lookAt_strict (has.trans hs) hhold (by rw [hl]; exact hst) (by rw [hl, hcore]; exact hx), haw]
    · refine traps_of_lookAt h hg (hb.trans (if_pos hs)) hpc (fun e => absurd hs (by simp [e])) fun t a hcore hteam hhold has haw _ => ?_
      have htm : (s.setThread t).teamOf t = tm := by rw [State.teamOf, hteam]; rfl
      exact lookAt_conflict (has.trans hs) (by rw [locksHit_setThread, htm, haw]; exact hk)
    · refine traps_of_lookAt h hg (hb.trans (if_pos hs)) hpc (fun e => absurd hs (by simp [e])) fun t a hcore hteam hhold has haw htt => ?_
      have htm : (s.setThread t).teamOf t = tm := by rw [State.teamOf, hteam]; rfl
      exact lookAt_poison (has.trans hs) (htt.trans ht) (by rw [locksHit_setThread, htm, haw]; exact hk) (by rw [htm]; exact hp)

/-- Settles O24: each access comes to the checks of its address and then to its first piece, and what fails there first is its trap. -/
theorem memoryAccessTraps : Obligations.MemoryAccessTraps := by
  unfold Obligations.MemoryAccessTraps
  intro s u c th m d a e h hcf hp hh hen n addr va l tm opn i w al rs hot hi hwf hr he outside
  have hra : Readable th (memAddrRegs m a) := fun r hm => hr r (List.mem_append_left _ hm)
  have hro : Readable th hot := fun r hm => hr r (List.mem_append_right _ hm)
  obtain ⟨tight, ht, hg⟩ : ∃ tight, (al = true → i ≠ .red m a e → tight = true) ∧ Guarded s c th m addr w al tight i := by
    simp only [List.mem_cons, Prod.mk.injEq, List.not_mem_nil, or_false] at hi
    rcases hi with ⟨rfl, rfl, rfl, rfl, rfl⟩ | ⟨rfl, rfl, rfl, rfl, rfl⟩ | ⟨rfl, rfl, rfl, rfl, rfl⟩ | ⟨rfl, rfl, rfl, rfl, rfl⟩ | ⟨rfl, rfl, rfl, rfl, rfl⟩ |
      ⟨rfl, rfl, rfl, rfl, rfl⟩
    · exact ⟨false, fun e1 => absurd e1 (by simp), guarded_ld h hcf hp hh hra hwf he hen⟩
    · exact ⟨false, fun e1 => absurd e1 (by simp), guarded_st h hcf hp hh hra hwf he⟩
    · exact ⟨true, fun _ _ => rfl, guarded_atom h hcf hp hh hra hwf hro fun r hm => he r (List.mem_append_left _ hm)⟩
    · exact ⟨true, fun _ _ => rfl, guarded_atomf h hcf hp hh hra hwf hro fun r hm => he r (List.mem_append_left _ hm)⟩
    · exact ⟨false, fun _ e1 => absurd rfl e1, guarded_red h hcf hp hh hra hwf hro⟩
    · exact ⟨true, fun _ _ => rfl, guarded_monw h hcf hp hh hra hwf hro fun r hm => he r (List.mem_append_left _ hm)⟩
  obtain ⟨hbound, hin⟩ := guarded_traps h hg
  refine ⟨hbound, fun hout => ?_⟩
  obtain ⟨halign, hrest⟩ := hin hout
  refine ⟨halign, fun hmod => ?_⟩
  obtain ⟨hcanon, hstrict, hscr⟩ := hrest hmod
  refine ⟨hcanon, hstrict, fun hs hpc => ?_⟩
  obtain ⟨hlock, hpois⟩ := hscr hs hpc
  exact ⟨hlock, fun hk hal hne hpo => hpois hk (ht hal hne) hpo⟩

end Sys2Proof.Machine
end

section
/-! PROOF. Accumulator accesses (R53, R145-R149, R405, R411, R412, R414, R416): their place in the queue of an idle core, how their thread
goes on, and what they leave of the team. -/
namespace Sys2Proof.Machine
open Sys2Proof

/-! ### Going on leaves locks as they were (R117) -/

/-- What holds of every tag of every core holds of them where a thread has gone on. -/
theorem tags_retire {s : State} {t : Thread} (h : t.scout = none) (c : Cur) {P : Nat × Tag → Prop} (hP : ∀ x ∈ s.cores, ∀ y ∈ x.2.tags, P y) :
    ∀ x ∈ (retire s t c).cores, ∀ y ∈ x.2.tags, P y := by
  have e : retire s t c = _ := retireAt_eq h c c.next false
  generalize t.goneTo c c.next false = t2 at e
  have hc : (retire s t c).cores = ((s.setThread t2).setCore t2.core (((s.setThread t2).core t2.core).mapBundles fun b => b.drop t2.uid)).cores := by
    rw [e]
    unfold leaveClause
    rw [(stampEnds _ _).1]
  rw [hc]
  exact tags_setCore (s := s.setThread t2) (by rfl) hP

theorem retire_holders {s : State} {t : Thread} (h : t.scout = none) (c : Cur) (hl : lockHolders s = []) : lockHolders (retire s t c) = [] :=
  lockHolders_eq_nil.mpr (tags_retire h c (lockHolders_eq_nil.mp hl))
theorem retire_waiting {s : State} {t : Thread} (h : t.scout = none) (c : Cur) (hl : waitingSnapshots s = []) : waitingSnapshots (retire s t c) = [] :=
  waitingSnapshots_eq_nil.mpr (tags_retire h c (waitingSnapshots_eq_nil.mp hl))

/-! ### The queue of a core (R146) -/

/-- A core's queue after an access has taken its place. -/
def enqueued (s : State) (t : Thread) (k : AccKind) : State :=
  s.setCore t.core { s.core t.core with anvil := (s.core t.core).anvil ++ [.acc t.team (halfOf (s.teamOf t) t) k] }

theorem enqueued_anvil (s : State) (t : Thread) (k : AccKind) :
    ((enqueued s t k).core t.core).anvil = (s.core t.core).anvil ++ [.acc t.team (halfOf (s.teamOf t) t) k] := by
  unfold enqueued
  rw [State.core_setCore, if_pos rfl]

theorem enqueued_holders {s : State} (h : lockHolders s = []) (t : Thread) (k : AccKind) : lockHolders (enqueued s t k) = [] :=
  lockHolders_eq_nil.mpr (tags_setCore (s := s) (by rfl) (lockHolders_eq_nil.mp h))
theorem enqueued_waiting {s : State} (h : waitingSnapshots s = []) (t : Thread) (k : AccKind) : waitingSnapshots (enqueued s t k) = [] :=
  waitingSnapshots_eq_nil.mpr (tags_setCore (s := s) (by rfl) (waitingSnapshots_eq_nil.mp h))

/-- With no lock held and no snapshot waiting, an access with nothing before it may be performed. -/
theorem accReady_unlocked {s : State} (hl : lockHolders s = []) (hw : waitingSnapshots s = []) (team : Nat) (k : AccKind) : accReady s [] team k = true := by
  have hlock : ∀ os : List Nat, locksHit s (os.map fun o => .scr team o) true = none := fun os => by
    refine locksHit_free hl (fun f _ l hm => ?_) fun _ => hw
    obtain ⟨o, _, rfl⟩ := List.mem_map.mp hm
    rfl
  cases k with
  | mst => simp only [accReady, hlock]; rfl
  | mrd => rfl
  | mwr => rfl
  | mzero => rfl
  | mchk => rfl

/-- On an idle core an access that nothing locks out is performed at once. -/
theorem issueAcc_idle {s : State} {t : Thread} {k : AccKind} (hi : (s.core t.core).anvil = []) (hr : accReady (enqueued s t k) [] t.team k = true) :
    ∃ p, SameButCaches s p ∧ issueAcc s t k = performAcc p t.team (halfOf (s.teamOf t) t) k := by
  have hq := enqueued_anvil s t k
  rw [hi, List.nil_append] at hq
  refine ⟨(enqueued s t k).setCore t.core { (enqueued s t k).core t.core with anvil := [] }, ⟨_, _, _, _, rfl⟩, ?_⟩
  show drainAnvil ((enqueued s t k).core t.core).anvil.length (enqueued s t k) t.core = _
  rw [hq]
  simp only [List.length_singleton, drainAnvil, hq, firstReady, hr, if_true, List.append_nil]

/-- Behind an operation that overlaps it an access waits. -/
theorem issueAcc_behind {s : State} {t : Thread} {k : AccKind} {o : MatOp} (hi : (s.core t.core).anvil = [.op o])
    (ho : overlap (AnvilItem.op o).units k.units = true) : issueAcc s t k = enqueued s t k := by
  have hq := enqueued_anvil s t k
  rw [hi, List.singleton_append] at hq
  have hr : accReady (enqueued s t k) [.op o] t.team k = false := by simp [accReady, ho]
  show drainAnvil ((enqueued s t k).core t.core).anvil.length (enqueued s t k) t.core = _
  rw [hq]
  simp only [List.length_cons, List.length_nil, drainAnvil, hq, firstReady, List.nil_append, hr, Bool.false_eq_true, if_false]

/-! ### The thread (R315, R316) -/

/-- The counter that rose for an access falls as it is done: both together change nothing. -/
theorem counted_sbDown {th : Thread} {is : Issue} (h : CounterFree th is) : (th.counted is).sbDown is.sb.toNat = th.lower := by
  rcases h with ⟨hu, _⟩ | hu
  · rw [Thread.lower_none hu]
    by_cases h6 : is.sb.toNat < 6
    · cases th
      simp only at hu
      subst hu
      simp only [Thread.counted, Thread.sbDown, h6, true_and, if_true, lset, set_back]
    · cases th
      simp only at hu
      subst hu
      simp only [Thread.counted, Thread.sbDown, h6, false_and, if_false]
  · simp only [Thread.counted, Thread.lower, hu, reduceCtorEq, and_false, if_false, Thread.sbDown]
    split <;> rfl

theorem goneOn_sbDown {t : Thread} (h : t.up = none) (c : Cur) (k : Nat) : (t.goneOn c).sbDown k = (t.sbDown k).goneOn c := by
  unfold Thread.goneOn
  rw [Thread.lower_none h, Thread.lower_none (t := t.sbDown k) ((t.sbDown_up k).trans h)]
  unfold Thread.sbDown
  split <;> rfl

theorem goneOn_lower (t : Thread) (c : Cur) : t.lower.goneOn c = t.goneOn c := by
  have h : t.lower.up = none := by
    cases hu : t.up with
    | none => rw [Thread.lower_none hu]; exact hu
    | some k => simp [Thread.lower, hu]
  unfold Thread.goneOn
  rw [Thread.lower_none h]

theorem counted_goneOn_sbDown {th : Thread} {is : Issue} (h : CounterFree th is) (c : Cur) : ((th.counted is).goneOn c).sbDown is.sb.toNat = th.goneOn c := by
  rw [goneOn_sbDown (by rfl), counted_sbDown h, goneOn_lower]

theorem sbDown_stampless (t : Thread) (k : Nat) : (t.sbDown k).unstamped = t.unstamped.sbDown k := by
  unfold Thread.sbDown
  split <;> rfl

theorem renew_unstamped (s : State) (old new : Thread) : (renew s old new).unstamped = new.unstamped := by
  unfold renew
  split
  · split <;> rfl
  · rfl

/-- A result's value comes where it waits, and nowhere else. -/
theorem goneOn_fill (t : Thread) (c : Cur) (tok : Nat) (vs : List (Nat × Word × Bool)) : (t.goneOn c).fill tok vs = (t.fill tok vs).goneOn c := by
  have h : (t.fill tok vs).lower = t.lower.fill tok vs := by
    cases hu : t.up with
    | none => rw [Thread.lower_none hu, Thread.lower_none (t := t.fill tok vs) hu]
    | some k =>
      simp only [Thread.lower, show (t.fill tok vs).up = some k from hu, hu, Thread.sbDown]
      split <;> rfl
  unfold Thread.goneOn
  rw [h]
  rfl

/-! ### The state in which an access is performed -/

/-- The thread has gone on as th'; the others, teams, launches and memory are as before. -/
structure Issuing (s p : State) (u : Nat) (c : Cur) (th' : Thread) : Prop where
  thread : (p.thread u).unstamped = (th'.goneOn c).unstamped
  uid : th'.uid = u
  has : p.hasThread u = true
  others : OthersStand s p u
  teams : p.teams = s.teams
  launches : p.launches = s.launches
  memory : ∀ a, p.byte a = s.byte a

theorem Issuing.of_caches {s p q : State} {u : Nat} {c : Cur} {th' : Thread} (h : Issuing s p u c th') (e : SameButCaches p q) : Issuing s q u c th' := by
  obtain ⟨_, _, _, _, rfl⟩ := e
  exact ⟨h.thread, h.uid, h.has, h.others, h.teams, h.launches, h.memory⟩

theorem Issuing.thread_uid {s p : State} {u : Nat} {c : Cur} {th' : Thread} (h : Issuing s p u c th') : (p.thread u).uid = u :=
  (congrArg Thread.uid h.thread :).trans ((Thread.lower_uid th').trans h.uid)

theorem issuing_retire {s : State} {u : Nat} {c : Cur} {t t' : Thread} (hs : s.hasThread u = true) (ht : t.uid = u) (ht' : t'.uid = u) (hsc : t'.scout = none)
    (n : Nat) : Issuing s (retire { s.setThread t with nextUid := n } t' c) u c t' ∧
      ∀ k, ((retire { s.setThread t with nextUid := n } t' c).core k).anvil = (s.core k).anvil := by
  obtain ⟨h1, h2⟩ := retire_spec (s := { s.setThread t with nextUid := n }) (c := c) ht' ((State.hasThread_setThread s t u).trans hs) hsc
  have hset := Turning.of_set hs ht
  refine ⟨⟨h1, ht', ?_, fun v hv => (h2.others v hv).trans (hset.others v hv), (congrArg State.teams h2.rest :), (congrArg State.launches h2.rest :), h2.memory⟩,
    fun k => (congrArg Core.anvil (h2.cores k) :)⟩
  rw [show retire _ t' c = _ from retireAt_eq hsc c c.next false]
  exact (leaveClause_hasThread ..).trans ((State.hasThread_setThread ..).trans hset.has)

section
variable {s : State} {u : Nat} {c : Cur} {th : Thread} (h : Runs s u c th) {is : Issue}
include h

/-- A write of an accumulator on an idle core is performed where its thread has gone on with its counter up. -/
theorem accWrite_idle (hi : (s.core th.core).anvil = []) {k : AccKind}
    (hr : accReady (enqueued (retire (s.setThread (th.raised (some is))) (th.counted is) c) (th.counted is) k) [] th.team k = true) :
    ∃ p, Issuing s p u c (th.counted is) ∧
      accWrite (s.setThread (th.raised (some is))) (th.raised (some is)) c is k = performAcc p th.team (th.core - (s.team th.team).core) k := by
  have hR := issuing_retire (c := c) (t' := th.counted is) h.has ((Thread.raised_uid th (some is)).trans h.uid) h.uid h.scout s.nextUid
  have h1 : Issuing s (retire (s.setThread (th.raised (some is))) (th.counted is) c) u c (th.counted is) := hR.1
  have h2 : ∀ k, ((retire (s.setThread (th.raised (some is))) (th.counted is) c).core k).anvil = (s.core k).anvil := hR.2
  obtain ⟨p, hp, e⟩ := issueAcc_idle (s := retire (s.setThread (th.raised (some is))) (th.counted is) c) (t := th.counted is) ((h2 th.core).trans hi) hr
  refine ⟨p, h1.of_caches hp, ?_⟩
  unfold accWrite
  rw [Thread.raised_charge]
  refine e.trans ?_
  rw [State.teamOf, team_congr h1.teams]
  rfl

theorem accRead_eq (dst : List Nat) (k : Nat → AccKind) : accRead (s.setThread (th.raised (some is))) (th.raised (some is)) c is dst k =
    issueAcc (retire { s.setThread (th.raised (some is)) with nextUid := s.nextUid + 1 } (th.await c is (s.nextUid + 2) dst) c)
      (th.await c is (s.nextUid + 2) dst) (k (s.nextUid + 2)) := by
  have hsc : (th.raised (some is)).scout = none := (Thread.raised_scout ..).trans h.scout
  have hsave : scoutSave (th.raised (some is)) dst = some (th.raised (some is)) := by unfold scoutSave; rw [hsc]
  unfold accRead
  simp only [inEpisode_none hsc, Bool.false_eq_true, if_false, hsave, newTok, raised_await h.scout]
  rfl

theorem await_issuing (tok : Nat) (dst : List Nat) :
    Issuing s (retire { s.setThread (th.raised (some is)) with nextUid := s.nextUid + 1 } (th.await c is tok dst) c) u c (th.await c is tok dst) ∧
      (∀ k, ((retire { s.setThread (th.raised (some is)) with nextUid := s.nextUid + 1 } (th.await c is tok dst) c).core k).anvil = (s.core k).anvil) ∧
      (th.await c is tok dst).core = th.core ∧ (th.await c is tok dst).team = th.team := by
  obtain ⟨h1, h2⟩ := issuing_retire (c := c) (t' := th.await c is tok dst) h.has ((Thread.raised_uid th (some is)).trans h.uid)
    ((issued_uid ..).trans h.uid) (issued_scout h.scout ..) (s.nextUid + 1)
  exact ⟨h1, h2, Thread.charge_core .., Thread.charge_team ..⟩

/-- A read of an accumulator on an idle core is performed where its thread has gone on with its result waiting. -/
theorem accRead_idle (hi : (s.core th.core).anvil = []) (dst : List Nat) {k : Nat → AccKind}
    (hr : ∀ x, accReady x [] th.team (k (s.nextUid + 2)) = true) :
    ∃ p, Issuing s p u c (th.await c is (s.nextUid + 2) dst) ∧
      accRead (s.setThread (th.raised (some is))) (th.raised (some is)) c is dst k = performAcc p th.team (th.core - (s.team th.team).core) (k (s.nextUid + 2)) := by
  obtain ⟨h1, h2, hcore, hteam⟩ := await_issuing h (is := is) (s.nextUid + 2) dst
  obtain ⟨p, hp, e⟩ := issueAcc_idle (t := th.await c is (s.nextUid + 2) dst) (k := k (s.nextUid + 2)) ((h2 _).trans (by rw [hcore]; exact hi))
    (by rw [hteam]; exact hr _)
  refine ⟨p, h1.of_caches hp, ?_⟩
  rw [accRead_eq h, e, State.teamOf, team_congr h1.teams, hteam, halfOf, hcore]

/-- A read of an accumulator behind an operation that overlaps it waits in the queue. -/
theorem accRead_behind {o : MatOp} (hi : (s.core th.core).anvil = [.op o]) (dst : List Nat) {k : Nat → AccKind}
    (ho : overlap (AnvilItem.op o).units (k (s.nextUid + 2)).units = true) :
    ∃ p, Issuing s p u c (th.await c is (s.nextUid + 2) dst) ∧ accRead (s.setThread (th.raised (some is))) (th.raised (some is)) c is dst k = p ∧
      (p.core th.core).anvil = [.op o, .acc th.team (th.core - (s.team th.team).core) (k (s.nextUid + 2))] := by
  obtain ⟨h1, h2, hcore, hteam⟩ := await_issuing h (is := is) (s.nextUid + 2) dst
  refine ⟨_, h1.of_caches ⟨_, _, _, _, rfl⟩, (accRead_eq h dst k).trans (issueAcc_behind ((h2 _).trans (by rw [hcore]; exact hi)) ho), ?_⟩
  have hq := enqueued_anvil (retire { s.setThread (th.raised (some is)) with nextUid := s.nextUid + 1 } (th.await c is (s.nextUid + 2) dst) c)
    (th.await c is (s.nextUid + 2) dst) (k (s.nextUid + 2))
  rw [h2, hcore, hi, State.teamOf, team_congr h1.teams, hteam, halfOf, hcore] at hq
  exact hq

end

/-- A write is done: the thread's counter falls again, the team is as written. -/
theorem sbDone_went {s p : State} {u : Nat} {c : Cur} {th : Thread} {is : Issue} (h : Issuing s p u c (th.counted is)) (hcf : CounterFree th is) (tm : Team) :
    WentOn s (sbDone (p.setTeam tm) u is.sb.toNat) u c th ∧ (sbDone (p.setTeam tm) u is.sb.toNat).teams = (p.setTeam tm).teams := by
  have hs : (p.setTeam tm).hasThread u = true := h.has
  have hx : (renew (p.setTeam tm) ((p.setTeam tm).thread u) (((p.setTeam tm).thread u).sbDown is.sb.toNat)).unstamped = (th.goneOn c).unstamped := by
    rw [renew_unstamped, sbDown_stampless, show ((p.setTeam tm).thread u).unstamped = _ from h.thread, ← sbDown_stampless, counted_goneOn_sbDown hcf]
  unfold sbDone
  rw [if_pos hs]
  generalize renew (p.setTeam tm) _ _ = x at hx
  have hu : x.uid = u := by
    have h1 : x.uid = (th.goneOn c).uid := (congrArg Thread.uid hx :)
    exact h1.trans ((Thread.lower_uid th).trans h.uid)
  refine ⟨⟨?_, fun v hv => ?_, h.memory⟩, rfl⟩
  · rw [State.thread_setThread_same hu hs]
    exact hx
  · rw [State.thread_setThread_other (by rw [hu]; exact hv)]
    exact h.others v hv

/-! ### Results that a unit answers (R312) -/

theorem find?_key {α : Type} {l : List (Nat × α)} (h : (l.map (·.1)).Nodup) {x : Nat × α} (hx : x ∈ l) : l.find? (·.1 == x.1) = some x := by
  induction l with
  | nil => cases hx
  | cons y l ih =>
    rw [List.map_cons, List.nodup_cons] at h
    rcases List.mem_cons.mp hx with rfl | hx
    · exact List.find?_cons_of_pos (by simp)
    · rw [List.find?_cons_of_neg, ih h.2 hx]
      intro e
      exact h.1 (beq_iff_eq.mp e ▸ List.mem_map_of_mem hx)

/-- A result once a value has come for its token (R312). -/
def Pending.answered (tok : Nat) (vs : List (Nat × Word × Bool)) (w : Pending) : Pending :=
  if w.tok == tok && !w.ready then
    { w with ready := true, tok := 0
             regs := w.regs.map fun x => match vs.find? (·.1 == x.1) with | some v => (x.1, v.2.1, v.2.2, x.2.2.2) | none => x }
  else w

theorem Thread.fill_eq (t : Thread) (tok : Nat) (vs : List (Nat × Word × Bool)) : t.fill tok vs = { t with window := t.window.map (Pending.answered tok vs) } := rfl

theorem answered_other {tok : Nat} {w : Pending} (h : w.tok = tok → w.ready = true) (vs : List (Nat × Word × Bool)) : w.answered tok vs = w := by
  unfold Pending.answered
  refine if_neg fun e => ?_
  rw [Bool.and_eq_true, beq_iff_eq] at e
  simp [h e.1] at e

/-- A result that waits for its token takes each register's own value. -/
theorem answered_own {vs : List (Nat × Word × Bool)} (hn : (vs.map (·.1)).Nodup) {w : Pending} (hr : w.ready = false)
    (hw : w.regs = (vs.map (·.1)).map fun r => (r, 0, false, false)) :
    w.answered w.tok vs = { w with ready := true, tok := 0, regs := vs.map fun x => (x.1, x.2.1, x.2.2, false) } := by
  unfold Pending.answered
  rw [hr, hw, if_pos (by simp), List.map_map, List.map_map]
  congr 1
  refine List.map_congr_left fun v hv => ?_
  simp only [Function.comp, find?_key hn hv]

/-- A waiting result whose value comes is what its unit answers. -/
theorem await_fill {th : Thread} (h : th.scout = none) (c : Cur) (is : Issue) {tok : Nat} (hf : ∀ w ∈ th.window, w.tok = tok → w.ready = true)
    {vs : List (Nat × Word × Bool)} (hn : (vs.map (·.1)).Nodup) : (th.await c is tok (vs.map (·.1))).fill tok vs = th.fills c is vs := by
  have hold : th.window.map (Pending.answered tok vs) = th.window :=
    (List.map_congr_left fun w hw => answered_other (hf w hw) vs).trans (List.map_id _)
  rw [← raised_await h]
  unfold Thread.await
  rw [raised_issued h, Thread.fill_eq, List.map_append, hold, List.map_singleton]
  have hnew := answered_own hn (w := ⟨c.pos, c.exe, is.la.toNat, (vs.map (·.1)).map fun r => (r, 0, false, false), is.sb.toNat, false, tok, false, 0⟩) rfl rfl
  rw [show (⟨c.pos, c.exe, is.la.toNat, (vs.map (·.1)).map fun r => (r, 0, false, false), is.sb.toNat, false, tok, false, 0⟩ : Pending).tok = tok from rfl] at hnew
  rw [hnew]
  rfl

/-- A unit answers at once: the result's value is there. -/
theorem fill_went {s p : State} {u : Nat} {c : Cur} {th : Thread} {is : Issue} {tok : Nat} {vs : List (Nat × Word × Bool)}
    (h : Issuing s p u c (th.await c is tok (vs.map (·.1)))) (hsc : th.scout = none) (hf : ∀ w ∈ th.window, w.tok = tok → w.ready = true)
    (hn : (vs.map (·.1)).Nodup) : WentOn s (p.setThread ((p.thread u).fill tok vs)) u c (th.fills c is vs) := by
  have hu : ((p.thread u).fill tok vs).uid = u := h.thread_uid
  refine ⟨?_, fun v hv => ?_, h.memory⟩
  · rw [State.thread_setThread_same hu h.has, show ((p.thread u).fill tok vs).unstamped = (p.thread u).unstamped.fill tok vs from rfl, h.thread,
      ← await_fill hsc c is hf hn, ← goneOn_fill]
    rfl
  · rw [State.thread_setThread_other (by rw [hu]; exact hv)]
    exact h.others v hv

end Sys2Proof.Machine
end

section
/-! PROOF. What the accumulator instructions leave, and the obligation (R53, R145-R149, R405, R411, R412, R414, R416). -/
namespace Sys2Proof.Machine
open Sys2Proof

/-! ### Tables and sets -/

theorem tget_filter {α : Type} (d : α) (t : Tab α) (p : Nat → Bool) (k : Nat) :
    tget d (t.filter fun e => p e.1) k = if p k then tget d t k else d := by
  induction t with
  | nil => exact (ite_self d).symm
  | cons x t ih =>
    obtain ⟨n, v⟩ := x
    rw [List.filter_cons]
    by_cases hk : k = n
    · subst hk
      cases hp : p k <;> simp [tget, ih, hp]
    · cases p n <;> simp [tget, ih, hk]

/-- What a table reads once the keys that satisfy q are gone. -/
theorem tget_without {α : Type} (d : α) (t : Tab α) (q : Nat → Bool) (k : Nat) :
    tget d (t.filter fun e => !(q e.1)) k = if q k then d else tget d t k := by
  rw [tget_filter d t (fun k => !(q k))]
  cases q k <;> rfl

theorem nmem_filter (l : List Nat) (p : Nat → Bool) (k : Nat) : nmem (l.filter p) k = (nmem l k && p k) := by
  induction l with
  | nil => rfl
  | cons n l ih =>
    rw [List.filter_cons]
    by_cases hk : k = n
    · subst hk
      cases hp : p k <;> simp [nmem, ih, hp]
    · have hb : (k == n) = false := beq_eq_false_iff_ne.mpr hk
      cases p n <;> simp [nmem, ih, hb]

/-- Entries put where those of one key agree: the key reads as they say, or as before. -/
theorem tget_foldl_tset {α : Type} [DecidableEq α] (d : α) (l : List (Nat × α)) (t : Tab α) {k : Nat} {v : α} (hv : ∀ x ∈ l, x.1 = k → x.2 = v) :
    tget d (l.foldl (fun t x => tset d t x.1 x.2) t) k = if l.any (·.1 == k) then v else tget d t k := by
  induction l generalizing t with
  | nil => rfl
  | cons x l ih =>
    rw [List.foldl_cons, ih _ fun y hy => hv y (List.mem_cons_of_mem _ hy), List.any_cons, tget_tset]
    by_cases hx : x.1 = k
    · rw [if_pos hx.symm, hv x List.mem_cons_self hx, show (x.1 == k) = true from beq_iff_eq.mpr hx, Bool.true_or, if_pos rfl, ite_self]
    · rw [if_neg (Ne.symm hx), show (x.1 == k) = false from beq_eq_false_iff_ne.mpr hx, Bool.false_or]

/-! ### MWR's effect (R147, R148) -/

/-- What a write of elements leaves of a team, on one half. -/
def Team.wroteHalf (unit row col : Nat) (vals : List (Word × Bool)) (x : Team) (h : Nat) : Team :=
  let y := vals.zipIdx.foldl (fun (y : Team) (v, e) => y.setAcc h unit row (col + e) v.1) x
  if vals.any (·.2) then { y with rmark := nins y.rmark (markKey h unit row) } else y

/-- The elements a write of values puts on a half, each with its key. -/
def written (unit row col : Nat) (vals : List (Word × Bool)) (h : Nat) : List (Nat × Word) := vals.zipIdx.map fun x => (accKey h unit row (col + x.2), x.1.1)

theorem foldl_setAcc (l : List ((Word × Bool) × Nat)) (h unit row col : Nat) (x : Team) :
    l.foldl (fun (y : Team) (v, e) => y.setAcc h unit row (col + e) v.1) x =
      { x with acc := (l.map fun x => (accKey h unit row (col + x.2), x.1.1)).foldl (fun t x => tset 0 t x.1 x.2) x.acc } := by
  induction l generalizing x with
  | nil => rfl
  | cons y l ih => exact ih _

theorem foldl_wroteHalf (unit row col : Nat) (vals : List (Word × Bool)) (hs : List Nat) (x : Team) :
    hs.foldl (Team.wroteHalf unit row col vals) x = { x with
      acc := (hs.flatMap (written unit row col vals)).foldl (fun t x => tset 0 t x.1 x.2) x.acc
      rmark := if vals.any (·.2) then (hs.map fun h => markKey h unit row).foldl nins x.rmark else x.rmark } := by
  induction hs generalizing x with
  | nil => simp
  | cons h hs ih =>
    rw [List.foldl_cons, ih, List.flatMap_cons, List.foldl_append]
    unfold Team.wroteHalf
    simp only [foldl_setAcc]
    cases vals.any (·.2) <;> rfl

theorem accKey_col {h h' unit row col e e' : Nat} (he : e < 2 ^ 24) (he' : e' < 2 ^ 24) (hk : accKey h unit row (col + e) = accKey h' unit row (col + e')) : e = e' := by
  unfold accKey at hk
  omega

/-- The elements after a write of the values f gives: those written, on every half of the list, and the others as before. -/
theorem tget_written (f : Nat → Word × Bool) (n unit row col : Nat) (hn : n ≤ 2 ^ 24) (hs : List Nat) (t : Tab Word) (k : Nat) :
    tget 0 ((hs.flatMap (written unit row col ((List.range n).map f))).foldl (fun t x => tset 0 t x.1 x.2) t) k =
      match (List.range n).find? fun e => hs.any fun h => k == accKey h unit row (col + e) with
      | some e => (f e).1
      | none => tget 0 t k := by
  have hmem : ∀ x, x ∈ hs.flatMap (written unit row col ((List.range n).map f)) ↔ ∃ h ∈ hs, ∃ e < n, x = (accKey h unit row (col + e), (f e).1) := by
    intro x
    have hz : ((List.range n).map f).zipIdx = (List.range n).map fun e => (f e, e) := List.ext_getElem (by simp) (by simp)
    simp only [written, hz, List.mem_flatMap, List.map_map, List.mem_map, List.mem_range, Function.comp, eq_comm (a := x)]
  cases hr : (List.range n).find? fun e => hs.any fun h => k == accKey h unit row (col + e) with
  | some e =>
    have hen : e < n := List.mem_range.mp (List.mem_of_find?_eq_some hr)
    have hany := List.find?_some hr
    obtain ⟨h, hh, hk⟩ := List.any_eq_true.mp hany
    have hk' : k = accKey h unit row (col + e) := beq_iff_eq.mp hk
    rw [tget_foldl_tset 0 _ t (k := k) (v := (f e).1), if_pos]
    · exact List.any_eq_true.mpr ⟨_, (hmem _).mpr ⟨h, hh, e, hen, rfl⟩, beq_iff_eq.mpr hk'.symm⟩
    · intro x hx hxk
      obtain ⟨h', _, e', he', rfl⟩ := (hmem x).mp hx
      rw [accKey_col (by omega) (by omega) (hxk.trans hk')]
  | none =>
    have hno : ∀ x ∈ hs.flatMap (written unit row col ((List.range n).map f)), x.1 ≠ k := by
      intro x hx e1
      obtain ⟨h, hh, e, he, rfl⟩ := (hmem x).mp hx
      have := List.find?_eq_none.mp hr e (List.mem_range.mpr he)
      exact this (List.any_eq_true.mpr ⟨h, hh, beq_iff_eq.mpr e1.symm⟩)
    rw [tget_foldl_tset 0 _ t (k := k) (v := 0) fun x hx e => absurd e (hno x hx), if_neg]
    intro e1
    obtain ⟨x, hx, e2⟩ := List.any_eq_true.mp e1
    exact hno x hx (beq_iff_eq.mp e2)

/-! ### MZERO's effect (R416) -/

/-- A place of a half that zeroing units reaches, among keys between two bounds. -/
def within (lo hi : Nat → Nat) (hs : List Nat) (k : Nat) : Bool := hs.any fun h => decide (lo h ≤ k ∧ k < hi h)

/-- What zeroing units leaves of a team, on one half. -/
def Team.zeroedHalf (unit n : Nat) (x : Team) (h : Nat) : Team :=
  { x with acc := x.acc.filter fun e => !(accKey h unit 0 0 ≤ e.1 && e.1 < accKey h (unit + unitsOf n) 0 0)
           rmark := x.rmark.filter fun m => !(markKey h unit 0 ≤ m && m < markKey h (unit + unitsOf n) 0)
           cmark := x.cmark.filter fun m => !(markKey h unit 0 ≤ m && m < markKey h (unit + unitsOf n) 0) }

theorem foldl_zeroedHalf (unit n : Nat) (hs : List Nat) (x : Team) : hs.foldl (Team.zeroedHalf unit n) x = { x with
    acc := x.acc.filter fun e => !(within (accKey · unit 0 0) (accKey · (unit + unitsOf n) 0 0) hs e.1)
    rmark := x.rmark.filter fun m => !(within (markKey · unit 0) (markKey · (unit + unitsOf n) 0) hs m)
    cmark := x.cmark.filter fun m => !(within (markKey · unit 0) (markKey · (unit + unitsOf n) 0) hs m) } := by
  induction hs generalizing x with
  | nil => simp [within]
  | cons h hs ih =>
    rw [List.foldl_cons, ih]
    simp only [Team.zeroedHalf, List.filter_filter, within, List.any_cons, Bool.not_or, Bool.decide_and, Bool.and_comm]

/-! ### MST's effect (R412) -/

/-- What storing n elements of sz bytes leaves of a team: element e, poisoned as it is. -/
def storedElems (o sz : Nat) (val : Nat → Nat) (pois : Nat → Bool) (n : Nat) (tm : Team) : Team :=
  (List.range n).foldl (fun (x : Team) e => x.scrWrite (o + e * sz) (bytesOf (val e) sz) (pois e)) tm

theorem storedElems_succ (o sz : Nat) (val : Nat → Nat) (pois : Nat → Bool) (n : Nat) (tm : Team) :
    storedElems o sz val pois (n + 1) tm = (storedElems o sz val pois n tm).scrWrite (o + n * sz) (bytesOf (val n) sz) (pois n) := by
  unfold storedElems
  rw [List.range_succ, List.foldl_append]
  rfl

theorem storedElems_rest (o sz : Nat) (val : Nat → Nat) (pois : Nat → Bool) (n : Nat) (tm : Team) :
    ({ storedElems o sz val pois n tm with scratch := [], spois := [] } : Team) = { tm with scratch := [], spois := [] } := by
  induction n with
  | zero => rfl
  | succ n ih =>
    rw [storedElems_succ, ← ih]
    rfl

theorem storedElems_scratch {o sz : Nat} (hsz : 0 < sz) (val : Nat → Nat) (pois : Nat → Bool) (n : Nat) (tm : Team) (k : Nat) :
    tget 0 (storedElems o sz val pois n tm).scratch k =
      if o ≤ k ∧ k < o + n * sz then (bytesOf (val ((k - o) / sz)) sz).getD ((k - o) % sz) 0 else tget 0 tm.scratch k := by
  induction n with
  | zero => rw [if_neg (by omega)]; rfl
  | succ n ih =>
    rw [storedElems_succ, Nat.add_mul, Nat.one_mul]
    refine (tget_putScratch ..).trans ?_
    rw [bytesOf_length, ih]
    by_cases h1 : o + n * sz ≤ k ∧ k < o + n * sz + sz
    · obtain ⟨hq, hr⟩ : (k - o) / sz = n ∧ (k - o) % sz = k - (o + n * sz) :=
        (Nat.div_mod_unique hsz).mpr ⟨by rw [Nat.mul_comm sz n]; omega, by omega⟩
      rw [if_pos h1, if_pos (by omega), hq, hr]
    · rw [if_neg h1]
      exact if_congr (by omega) rfl rfl

/-- An element of at most 4 bytes covers no word of 8 whole, so no mark is cleared (R269). -/
theorem storedElems_spois {o sz : Nat} (hsz : sz ≤ 4) (val : Nat → Nat) (pois : Nat → Bool) (n : Nat) (tm : Team) (w : Nat) :
    nmem (storedElems o sz val pois n tm).spois w =
      (nmem tm.spois w || (List.range n).any fun e => pois e && decide ((o + e * sz) / 8 ≤ w ∧ w * 8 < o + e * sz + sz)) := by
  induction n with
  | zero => exact (Bool.or_false _).symm
  | succ n ih =>
    rw [storedElems_succ]
    refine (nmem_markWords ..).trans ?_
    have hno : decide (o + n * sz ≤ w * 8 ∧ w * 8 + 8 ≤ o + n * sz + sz) = false := decide_eq_false (by omega)
    rw [bytesOf_length, hno, ih, List.range_succ, List.any_append]
    simp only [List.any_cons, List.any_nil, Bool.or_false]
    by_cases ht : (o + n * sz) / 8 ≤ w ∧ w * 8 < o + n * sz + sz
    · rw [if_pos ht, decide_eq_true ht]
      cases pois n <;> simp
    · rw [if_neg ht, decide_eq_false ht]
      simp

theorem mstBytes_bounds (fmt : Nat) : 0 < mstBytes fmt ∧ mstBytes fmt ≤ 4 := by
  unfold mstBytes
  split <;> decide

/-! ### Positions and tiles within their bounds (R136, R145) -/

theorem unknown_none {t : Thread} (h : t.scout = none) (rs : List Nat) : t.unknown rs = false := any_invalid_none h rs

theorem limited_false (t : Thread) (rs : List Nat) : limited t rs false = false := rfl

theorem posIll_false {n : Nat} {p : Word} (h : bits p.toNat 16 16 % n = 0) : posIll n p = false := by
  have : bits p.toNat 0 7 < 128 := Nat.mod_lt _ (by norm_num)
  unfold posIll
  rw [h, decide_eq_false (by omega)]
  rfl

theorem unitBad_none {s : State} {t : Thread} {unit n : Nat} (h : unit + unitsOf n ≤ accUnits (s.core t.core)) : unitBad s t unit n = none :=
  if_neg (by omega)

theorem posBad_none {s : State} {t : Thread} {unit : Nat} {p : Word} (h : unit + bits p.toNat 16 16 / 128 < accUnits (s.core t.core)) :
    posBad s t unit p = none := if_neg (by omega)

theorem nOf_le (n : BitVec 3) : nOf n ≤ 2 ^ 24 := by
  have : n.toNat < 8 := n.isLt
  exact Nat.pow_le_pow_right (by norm_num) (by omega)

end Sys2Proof.Machine
end

section
/-! PROOF. MRD, MWR, MZERO, MST and MCHK behind their checks, and the obligation (R145-R149, R405, R411, R412, R414, R416). -/
namespace Sys2Proof.Machine
open Sys2Proof

/-! ### The instructions behind their checks -/

theorem regs_pass {th : Thread} {a b : Reg} (hr : Readable th [a.toNat, b.toNat]) (c : Cur) {ds : List Nat} (hd : Exist th ds) :
    regChecks th c false (ds ++ [a.toNat, b.toNat]) [a.toNat, b.toNat] = none ∧ regChecks th c false ([a.toNat, b.toNat] ++ ds) [a.toNat, b.toNat] = none :=
  ⟨regChecks_none (fun r hm => (List.mem_append.mp hm).elim (hd r) fun e => (hr r e).1) fun r e => (hr r e).2,
    regChecks_none (fun r hm => (List.mem_append.mp hm).elim (fun e => (hr r e).1) (hd r)) fun r e => (hr r e).2⟩

/-- The scratch bytes of MST's elements, which do not wrap. -/
theorem mstOffs_eq {fmt k : Nat} {addr : Word} (hw : addr.toNat + k * mstBytes fmt ≤ 2 ^ 32) :
    mstOffs fmt k addr = (List.range (k * mstBytes fmt)).map fun i => addr.toNat + i := by
  refine List.map_congr_left fun i hi => ?_
  have := List.mem_range.mp hi
  rw [BitVec.toNat_add, BitVec.toNat_ofNat, Nat.mod_eq_of_lt (show i < 2 ^ 32 by omega), Nat.mod_eq_of_lt (by omega)]

section
variable {s : State} {u : Nat} {c : Cur} {th : Thread} (h : Runs s u c th) {n : BitVec 3} {d a b : Reg} {is : Issue} (hcf : CounterFree th is)
  (hr : Readable th [a.toNat, b.toNat])
include h hcf hr

theorem mrd_checks (hwf : Instr.wf (.mrd n d a b is) = true) (hd : Exist th (regsFrom d (nOf n))) (hj : bits (th.val b).toNat 16 16 % nOf n = 0) :
    exec (.mrd n d a b is) s = .next (checked (s.setThread (th.raised (some is))) (th.raised (some is)) c
      (posBad (s.setThread (th.raised (some is))) (th.raised (some is)) (unitIn (th.val a)) (th.val b))
      (accRead (s.setThread (th.raised (some is))) (th.raised (some is)) c is (regsFrom d (nOf n)) fun tok =>
        .mrd u tok (unitIn (th.val a) + bits (th.val b).toNat 16 16 / 128) (bits (th.val b).toNat 0 7) (bits (th.val b).toNat 16 16 % 128) (nOf n) d.toNat)) := by
  have hsc : (th.raised (some is)).scout = none := (Thread.raised_scout ..).trans h.scout
  show execMrd n d a b is s = _
  unfold execMrd
  rw [threadOp_late h hcf]
  simp only [Thread.raised_val, hwf, posIll_false hj, limited_false, Bool.not_true, Bool.or_self, regChecks_raised, checked_none (regs_pass hr c hd).1,
    unknown_none hsc, Bool.false_eq_true, if_false, Thread.raised_uid, h.uid]

theorem mwr_checks (hwf : Instr.wf (.mwr n a b d is) = true) (hd : Exist th (regsFrom d (nOf n))) (hj : bits (th.val b).toNat 16 16 % nOf n = 0) :
    exec (.mwr n a b d is) s = .next (checked (s.setThread (th.raised (some is))) (th.raised (some is)) c
      (posBad (s.setThread (th.raised (some is))) (th.raised (some is)) (unitIn (th.val a)) (th.val b))
      (accWrite (s.setThread (th.raised (some is))) (th.raised (some is)) c is
        (.mwr (unitIn (th.val a) + bits (th.val b).toNat 16 16 / 128) (bits (th.val b).toNat 0 7) (bits (th.val b).toNat 16 16 % 128)
          ((regsFrom d (nOf n)).map th.reg) u is.sb.toNat))) := by
  have hsc : (th.raised (some is)).scout = none := (Thread.raised_scout ..).trans h.scout
  have hreg : (th.raised (some is)).reg = th.reg := funext fun r => Thread.raised_reg th (some is) r
  show execMwr n a b d is s = _
  unfold execMwr
  rw [threadOp_late h hcf]
  simp only [Thread.raised_val, hwf, posIll_false hj, limited_false, Bool.not_true, Bool.or_self, regChecks_raised, checked_none (regs_pass hr c hd).2,
    unknown_none hsc, skipsScout_none hsc, Bool.false_eq_true, if_false, Thread.raised_uid, h.uid, hreg]

theorem mzero_checks (hwf : Instr.wf (.mzero a b is) = true) (hn : matNOk (matN (th.val b)) = true) :
    exec (.mzero a b is) s = .next (checked (s.setThread (th.raised (some is))) (th.raised (some is)) c
      (unitBad (s.setThread (th.raised (some is))) (th.raised (some is)) (unitIn (th.val a)) (matN (th.val b)))
      (accWrite (s.setThread (th.raised (some is))) (th.raised (some is)) c is (.mzero (unitIn (th.val a)) (matN (th.val b)) u is.sb.toNat))) := by
  have hsc : (th.raised (some is)).scout = none := (Thread.raised_scout ..).trans h.scout
  have hrc := (regs_pass (ds := []) hr c fun r hm => by cases hm).1
  rw [List.nil_append] at hrc
  show execMzero a b is s = _
  unfold execMzero
  rw [threadOp_late h hcf]
  simp only [Thread.raised_val, hwf, hn, limited_false, Bool.not_true, Bool.or_self, regChecks_raised, checked_none hrc,
    unknown_none hsc, skipsScout_none hsc, Bool.false_eq_true, if_false, Thread.raised_uid, h.uid]

theorem mchk_checks (hwf : Instr.wf (.mchk d a b is) = true) (hn : matNOk (matN (th.val b)) = true) (hdup : (s.launchOfThread th).rcd.dup = true)
    (hd : Exist th (pairRegs d)) :
    exec (.mchk d a b is) s = .next (checked (s.setThread (th.raised (some is))) (th.raised (some is)) c
      (unitBad (s.setThread (th.raised (some is))) (th.raised (some is)) (unitIn (th.val a)) (matN (th.val b)))
      (accRead (s.setThread (th.raised (some is))) (th.raised (some is)) c is (pairRegs d) fun tok => .mchk u tok (unitIn (th.val a)) (matN (th.val b)) d.toNat)) := by
  have hsc : (th.raised (some is)).scout = none := (Thread.raised_scout ..).trans h.scout
  show execMchk d a b is s = _
  unfold execMchk
  rw [threadOp_late h hcf]
  simp only [Thread.raised_val, launchOf_raised, hdup, hwf, hn, limited_false, Bool.not_true, Bool.or_self, regChecks_raised,
    checked_none (regs_pass hr c hd).1, unknown_none hsc, skipsScout_none hsc, Bool.false_eq_true, if_false, Thread.raised_uid, h.uid]

theorem mst_checks {fmt : BitVec 3} {sat : Bool} {x : Reg} {off : Off} (hwf : Instr.wf (.mst fmt sat n a x off b is) = true) (hx : Readable th [x.toNat])
    (hj : bits (th.val b).toNat 16 16 % nOf n = 0) (hu : unitIn (th.val a) + bits (th.val b).toNat 16 16 / 128 < accUnits (s.core th.core))
    (hl : lockHolders s = []) (hw : waitingSnapshots s = [])
    (h32 : (th.val x + (offValue off).setWidth 32).toNat + nOf n * mstBytes fmt.toNat ≤ 2 ^ 32)
    (hlim : (th.val x + (offValue off).setWidth 32).toNat + nOf n * mstBytes fmt.toNat ≤ scratchLimit (s.launchOfThread th).rcd) :
    exec (.mst fmt sat n a x off b is) s = .next (accWrite (s.setThread (th.raised (some is))) (th.raised (some is)) c is
      (.mst fmt.toNat sat (unitIn (th.val a) + bits (th.val b).toNat 16 16 / 128) (bits (th.val b).toNat 0 7) (bits (th.val b).toNat 16 16 % 128) (nOf n)
        (th.val x + (offValue off).setWidth 32) u is.sb.toNat)) := by
  have hsc : (th.raised (some is)).scout = none := (Thread.raised_scout ..).trans h.scout
  have hall : Readable th [a.toNat, x.toNat, b.toNat] := by
    intro r hm
    simp only [List.mem_cons, List.not_mem_nil, or_false] at hm
    rcases hm with e | e | e
    · exact hr r (by simp [e])
    · exact hx r (by simp [e])
    · exact hr r (by simp [e])
  have hrc : regChecks th c false [a.toNat, x.toNat, b.toNat] [a.toNat, x.toNat, b.toNat] = none :=
    regChecks_none (fun r hm => (hall r hm).1) fun r hm => (hall r hm).2
  have hpos : posBad (s.setThread (th.raised (some is))) (th.raised (some is)) (unitIn (th.val a)) (th.val b) = none :=
    posBad_none (by rw [Thread.raised_core]; exact hu)
  have hscr : scratchBad (s.launchOfThread th).rcd (mstOffs fmt.toNat (nOf n) (th.val x + (offValue off).setWidth 32)) = none := by
    rw [mstOffs_eq h32]
    refine scratchBad_none fun o ho => ?_
    obtain ⟨i, hi, rfl⟩ := List.mem_map.mp ho
    have := List.mem_range.mp hi
    omega
  have hlock : locksHit (s.setThread (th.raised (some is))) ((mstOffs fmt.toNat (nOf n) (th.val x + (offValue off).setWidth 32)).map fun o => .scr (th.raised (some is)).team o) true = none := by
    refine locksHit_free hl (fun f _ l hm => ?_) fun _ => hw
    obtain ⟨o, _, rfl⟩ := List.mem_map.mp hm
    rfl
  show execMst fmt sat n a x off b is s = _
  unfold execMst
  rw [threadOp_late h hcf]
  simp only [Thread.raised_val, launchOf_raised, hwf, posIll_false hj, limited_false, Bool.not_true, Bool.or_self, regChecks_raised, checked_none hrc,
    hpos, hscr, unknown_none hsc, skipsScout_none hsc, Bool.false_eq_true, if_false, Thread.raised_uid, h.uid, hlock]
  rfl

end

/-! ### What they leave -/

theorem accHalves_eq {s p : State} (hl : p.launches = s.launches) (tm : Team) (half : Nat) :
    accHalves p tm half = if (s.launchOf tm.launch).rcd.dup then [0, 1] else [half] := by
  unfold accHalves State.launchOf
  rw [hl]

/-- A team as written, found again; the others are as before. -/
theorem team_written {s p : State} {v : Nat} (hu : s.hasTeam v = true) (ht : p.teams = s.teams) {t : State} {tm : Team} (hv : tm.uid = v)
    (e : t.teams = (p.setTeam tm).teams) : t.team v = tm ∧ ∀ x, x ≠ v → t.team x = s.team x := by
  have h1 : t.team = (s.setTeam tm).team := team_congr <| by
    rw [e]
    show modWhere _ _ p.teams = modWhere _ _ s.teams
    rw [ht]
  refine ⟨?_, fun x hx => ?_⟩
  · rw [h1, State.team_setTeam, if_pos ⟨hv.symm, hu⟩]
  · rw [h1, State.team_setTeam, if_neg (by rw [hv]; exact fun e => hx e.1)]

/-- MRD's elements, each with its register and poison. -/
def readElems (tm : Team) (half unit row col n d : Nat) : List (Nat × Word × Bool) :=
  (List.range n).map fun e => (d + e, tm.accAt half unit row (col + e), tm.accPoison half unit row (col + e))

theorem readElems_regs (tm : Team) (half unit row col : Nat) (n : BitVec 3) (d : Reg) :
    (readElems tm half unit row col (nOf n) d.toNat).map (·.1) = regsFrom d (nOf n) := by
  unfold readElems
  rw [List.map_map]
  rfl

theorem readElems_zip (tm : Team) (half unit row col : Nat) (n : BitVec 3) (d : Reg) :
    (regsFrom d (nOf n)).zip ((List.range (nOf n)).map fun e => (tm.accAt half unit row (col + e), tm.accPoison half unit row (col + e))) =
      readElems tm half unit row col (nOf n) d.toNat := by
  unfold regsFrom from_ readElems
  exact List.zip_map'

theorem regsFrom_nodup (d : Reg) (n : Nat) : (regsFrom d n).Nodup :=
  List.nodup_range.map fun _ _ e => Nat.add_left_cancel e

section
variable {s : State} {u : Nat} {c : Cur} {th : Thread} (h : Runs s u c th) {n : BitVec 3} {d a b : Reg} {is : Issue} (hcf : CounterFree th is)
  (hr : Readable th [a.toNat, b.toNat])
include h hcf hr

theorem mrd_idle (hwf : Instr.wf (.mrd n d a b is) = true) (hd : Exist th (regsFrom d (nOf n))) (hj : bits (th.val b).toNat 16 16 % nOf n = 0)
    (hu : unitIn (th.val a) + bits (th.val b).toNat 16 16 / 128 < accUnits (s.core th.core)) (hi : (s.core th.core).anvil = [])
    (hf : ∀ w ∈ th.window, w.tok = s.nextUid + 2 → w.ready = true) :
    ∃ t, exec (.mrd n d a b is) s = .next t ∧ t.teams = s.teams ∧
      WentOn s t u c (th.fills c is (readElems (s.team th.team) (th.core - (s.team th.team).core)
        (unitIn (th.val a) + bits (th.val b).toNat 16 16 / 128) (bits (th.val b).toNat 0 7) (bits (th.val b).toNat 16 16 % 128) (nOf n) d.toNat)) := by
  obtain ⟨p, hp, e⟩ := accRead_idle h (is := is) hi (regsFrom d (nOf n)) (k := fun tok =>
    .mrd u tok (unitIn (th.val a) + bits (th.val b).toNat 16 16 / 128) (bits (th.val b).toNat 0 7) (bits (th.val b).toNat 16 16 % 128) (nOf n) d.toNat)
    fun _ => rfl
  have htm : p.team th.team = s.team th.team := congrFun (team_congr hp.teams) _
  have hperf : performAcc p th.team (th.core - (s.team th.team).core) (.mrd u (s.nextUid + 2) (unitIn (th.val a) + bits (th.val b).toNat 16 16 / 128)
      (bits (th.val b).toNat 0 7) (bits (th.val b).toNat 16 16 % 128) (nOf n) d.toNat) =
      p.setThread ((p.thread u).fill (s.nextUid + 2) (readElems (s.team th.team) (th.core - (s.team th.team).core)
        (unitIn (th.val a) + bits (th.val b).toNat 16 16 / 128) (bits (th.val b).toNat 0 7) (bits (th.val b).toNat 16 16 % 128) (nOf n) d.toNat)) := by
    rw [← htm]
    exact if_pos hp.has
  refine ⟨_, mrd_checks h hcf hr hwf hd hj, ?_⟩
  rw [checked_none (posBad_none (by rw [Thread.raised_core]; exact hu)), e, hperf]
  rw [← readElems_regs (s.team th.team) (th.core - (s.team th.team).core) (unitIn (th.val a) + bits (th.val b).toNat 16 16 / 128)
    (bits (th.val b).toNat 0 7) (bits (th.val b).toNat 16 16 % 128) n d] at hp
  exact ⟨hp.teams, fill_went hp h.scout hf (by rw [readElems_regs]; exact regsFrom_nodup ..)⟩

theorem mrd_behind (hwf : Instr.wf (.mrd n d a b is) = true) (hd : Exist th (regsFrom d (nOf n))) (hj : bits (th.val b).toNat 16 16 % nOf n = 0)
    (hu : unitIn (th.val a) + bits (th.val b).toNat 16 16 / 128 < accUnits (s.core th.core)) {o : MatOp} (hi : (s.core th.core).anvil = [.op o])
    (ho : overlap (o.form.unit, unitsOf o.form.n) (unitIn (th.val a) + bits (th.val b).toNat 16 16 / 128, 1) = true) :
    ∃ t, exec (.mrd n d a b is) s = .next t ∧ t.teams = s.teams ∧ WentOn s t u c (th.await c is (s.nextUid + 2) (regsFrom d (nOf n))) ∧
      (t.core th.core).anvil = [.op o, .acc th.team (th.core - (s.team th.team).core) (.mrd u (s.nextUid + 2)
        (unitIn (th.val a) + bits (th.val b).toNat 16 16 / 128) (bits (th.val b).toNat 0 7) (bits (th.val b).toNat 16 16 % 128) (nOf n) d.toNat)] := by
  obtain ⟨p, hp, e, hq⟩ := accRead_behind h (is := is) hi (regsFrom d (nOf n)) (k := fun tok =>
    .mrd u tok (unitIn (th.val a) + bits (th.val b).toNat 16 16 / 128) (bits (th.val b).toNat 0 7) (bits (th.val b).toNat 16 16 % 128) (nOf n) d.toNat) ho
  refine ⟨p, ?_, hp.teams, ⟨hp.thread, hp.others, hp.memory⟩, hq⟩
  rw [mrd_checks h hcf hr hwf hd hj, checked_none (posBad_none (by rw [Thread.raised_core]; exact hu)), e]

theorem mwr_idle (hwf : Instr.wf (.mwr n a b d is) = true) (hd : Exist th (regsFrom d (nOf n))) (hj : bits (th.val b).toNat 16 16 % nOf n = 0)
    (hu : unitIn (th.val a) + bits (th.val b).toNat 16 16 / 128 < accUnits (s.core th.core)) (hi : (s.core th.core).anvil = [])
    (ht : s.hasTeam th.team = true) {halves : List Nat}
    (hh : halves = if (s.launchOfThread th).rcd.dup then [0, 1] else [th.core - (s.team th.team).core]) :
    ∃ t, exec (.mwr n a b d is) s = .next t ∧ WentOn s t u c th ∧ t.team th.team = halves.foldl
        (Team.wroteHalf (unitIn (th.val a) + bits (th.val b).toNat 16 16 / 128) (bits (th.val b).toNat 0 7) (bits (th.val b).toNat 16 16 % 128)
          ((List.range (nOf n)).map fun e => th.reg (d.toNat + e))) (s.team th.team) ∧ ∀ x, x ≠ th.team → t.team x = s.team x := by
  have hvals : (regsFrom d (nOf n)).map th.reg = (List.range (nOf n)).map fun e => th.reg (d.toNat + e) := by
    unfold regsFrom from_
    rw [List.map_map]
    rfl
  obtain ⟨p, hp, e⟩ := accWrite_idle h (is := is) hi (k := .mwr (unitIn (th.val a) + bits (th.val b).toNat 16 16 / 128) (bits (th.val b).toNat 0 7)
    (bits (th.val b).toNat 16 16 % 128) ((regsFrom d (nOf n)).map th.reg) u is.sb.toNat) rfl
  have htm : p.team th.team = s.team th.team := congrFun (team_congr hp.teams) _
  have hperf : performAcc p th.team (th.core - (s.team th.team).core) (.mwr (unitIn (th.val a) + bits (th.val b).toNat 16 16 / 128) (bits (th.val b).toNat 0 7)
      (bits (th.val b).toNat 16 16 % 128) ((regsFrom d (nOf n)).map th.reg) u is.sb.toNat) =
      sbDone (p.setTeam (halves.foldl (Team.wroteHalf (unitIn (th.val a) + bits (th.val b).toNat 16 16 / 128) (bits (th.val b).toNat 0 7)
        (bits (th.val b).toNat 16 16 % 128) ((List.range (nOf n)).map fun e => th.reg (d.toNat + e))) (s.team th.team))) u is.sb.toNat := by
    rw [hh, ← hvals, ← htm, State.launchOfThread, ← htm, ← accHalves_eq hp.launches]
    rfl
  obtain ⟨h1, h2⟩ := sbDone_went hp hcf (halves.foldl (Team.wroteHalf (unitIn (th.val a) + bits (th.val b).toNat 16 16 / 128) (bits (th.val b).toNat 0 7)
    (bits (th.val b).toNat 16 16 % 128) ((List.range (nOf n)).map fun e => th.reg (d.toNat + e))) (s.team th.team))
  obtain ⟨h3, h4⟩ := team_written ht hp.teams (by rw [foldl_wroteHalf]; exact State.team_uid ht) h2
  refine ⟨_, mwr_checks h hcf hr hwf hd hj, ?_⟩
  rw [checked_none (posBad_none (by rw [Thread.raised_core]; exact hu)), e, hperf]
  exact ⟨h1, h3, h4⟩

theorem mzero_idle (hwf : Instr.wf (.mzero a b is) = true) (hn : matNOk (matN (th.val b)) = true)
    (hu : unitIn (th.val a) + unitsOf (matN (th.val b)) ≤ accUnits (s.core th.core)) (hi : (s.core th.core).anvil = [])
    (ht : s.hasTeam th.team = true) {halves : List Nat}
    (hh : halves = if (s.launchOfThread th).rcd.dup then [0, 1] else [th.core - (s.team th.team).core]) :
    ∃ t, exec (.mzero a b is) s = .next t ∧ WentOn s t u c th ∧
      t.team th.team = halves.foldl (Team.zeroedHalf (unitIn (th.val a)) (matN (th.val b))) (s.team th.team) ∧ ∀ x, x ≠ th.team → t.team x = s.team x := by
  obtain ⟨p, hp, e⟩ := accWrite_idle h (is := is) hi (k := .mzero (unitIn (th.val a)) (matN (th.val b)) u is.sb.toNat) rfl
  have htm : p.team th.team = s.team th.team := congrFun (team_congr hp.teams) _
  have hperf : performAcc p th.team (th.core - (s.team th.team).core) (.mzero (unitIn (th.val a)) (matN (th.val b)) u is.sb.toNat) =
      sbDone (p.setTeam (halves.foldl (Team.zeroedHalf (unitIn (th.val a)) (matN (th.val b))) (s.team th.team))) u is.sb.toNat := by
    rw [hh, ← htm, State.launchOfThread, ← htm, ← accHalves_eq hp.launches]
    rfl
  obtain ⟨h1, h2⟩ := sbDone_went hp hcf (halves.foldl (Team.zeroedHalf (unitIn (th.val a)) (matN (th.val b))) (s.team th.team))
  obtain ⟨h3, h4⟩ := team_written ht hp.teams (by rw [foldl_zeroedHalf]; exact State.team_uid ht) h2
  refine ⟨_, mzero_checks h hcf hr hwf hn, ?_⟩
  rw [checked_none (unitBad_none (by rw [Thread.raised_core]; exact hu)), e, hperf]
  exact ⟨h1, h3, h4⟩

theorem mst_idle {fmt : BitVec 3} {sat : Bool} {x : Reg} {off : Off} (hwf : Instr.wf (.mst fmt sat n a x off b is) = true) (hx : Readable th [x.toNat])
    (hj : bits (th.val b).toNat 16 16 % nOf n = 0) (hu : unitIn (th.val a) + bits (th.val b).toNat 16 16 / 128 < accUnits (s.core th.core))
    (hi : (s.core th.core).anvil = []) (ht : s.hasTeam th.team = true) (hl : lockHolders s = []) (hw : waitingSnapshots s = [])
    (h32 : (th.val x + (offValue off).setWidth 32).toNat + nOf n * mstBytes fmt.toNat ≤ 2 ^ 32)
    (hlim : (th.val x + (offValue off).setWidth 32).toNat + nOf n * mstBytes fmt.toNat ≤ scratchLimit (s.launchOfThread th).rcd)
    {val : Nat → Nat} {pois : Nat → Bool}
    (hval : val = fun e => mstVal fmt.toNat sat ((s.team th.team).accAt (th.core - (s.team th.team).core)
      (unitIn (th.val a) + bits (th.val b).toNat 16 16 / 128) (bits (th.val b).toNat 0 7) (bits (th.val b).toNat 16 16 % 128 + e)))
    (hpois : pois = fun e => (s.team th.team).accPoison (th.core - (s.team th.team).core)
      (unitIn (th.val a) + bits (th.val b).toNat 16 16 / 128) (bits (th.val b).toNat 0 7) (bits (th.val b).toNat 16 16 % 128 + e)) :
    ∃ t, exec (.mst fmt sat n a x off b is) s = .next t ∧ WentOn s t u c th ∧
      t.team th.team = storedElems (th.val x + (offValue off).setWidth 32).toNat (mstBytes fmt.toNat) val pois (nOf n) (s.team th.team) := by
  generalize haddr : th.val x + (offValue off).setWidth 32 = addr at h32 hlim
  have hsc : (th.counted is).scout = none := h.scout
  obtain ⟨p, hp, e⟩ := accWrite_idle h (is := is) hi (k := .mst fmt.toNat sat (unitIn (th.val a) + bits (th.val b).toNat 16 16 / 128)
    (bits (th.val b).toNat 0 7) (bits (th.val b).toNat 16 16 % 128) (nOf n) addr u is.sb.toNat)
    (accReady_unlocked (enqueued_holders (retire_holders (s := s.setThread (th.raised (some is))) hsc c hl) ..)
      (enqueued_waiting (retire_waiting (s := s.setThread (th.raised (some is))) hsc c hw) ..) ..)
  have htm : p.team th.team = s.team th.team := congrFun (team_congr hp.teams) _
  have hoff : ∀ k ≤ nOf n, (List.range k).foldl (fun (x : Team) e => x.scrWrite (addr + BitVec.ofNat 32 (e * mstBytes fmt.toNat)).toNat
      (bytesOf (val e) (mstBytes fmt.toNat)) (pois e)) (s.team th.team) = storedElems addr.toNat (mstBytes fmt.toNat) val pois k (s.team th.team) := by
    intro k hk
    induction k with
    | zero => rfl
    | succ k ih =>
      have hmul : k * mstBytes fmt.toNat + mstBytes fmt.toNat ≤ nOf n * mstBytes fmt.toNat := by
        rw [← Nat.succ_mul]
        exact Nat.mul_le_mul_right _ hk
      have hpos := (mstBytes_bounds fmt.toNat).1
      rw [List.range_succ, List.foldl_append, ih (by omega), storedElems_succ]
      show Team.scrWrite _ (addr + BitVec.ofNat 32 (k * mstBytes fmt.toNat)).toNat _ _ = _
      rw [BitVec.toNat_add, BitVec.toNat_ofNat, Nat.mod_eq_of_lt (show k * mstBytes fmt.toNat < 2 ^ 32 by omega), Nat.mod_eq_of_lt (by omega)]
  have hperf : performAcc p th.team (th.core - (s.team th.team).core) (.mst fmt.toNat sat (unitIn (th.val a) + bits (th.val b).toNat 16 16 / 128)
      (bits (th.val b).toNat 0 7) (bits (th.val b).toNat 16 16 % 128) (nOf n) addr u is.sb.toNat) =
      sbDone (p.setTeam (storedElems addr.toNat (mstBytes fmt.toNat) val pois (nOf n) (s.team th.team))) u is.sb.toNat := by
    rw [← hoff (nOf n) le_rfl, hval, hpois, ← htm]
    rfl
  have huid : (storedElems addr.toNat (mstBytes fmt.toNat) val pois (nOf n) (s.team th.team)).uid = th.team :=
    (congrArg Team.uid (storedElems_rest addr.toNat (mstBytes fmt.toNat) val pois (nOf n) (s.team th.team)) :).trans (State.team_uid ht)
  obtain ⟨h1, h2⟩ := sbDone_went hp hcf (storedElems addr.toNat (mstBytes fmt.toNat) val pois (nOf n) (s.team th.team))
  obtain ⟨h3, _⟩ := team_written ht hp.teams huid h2
  refine ⟨_, mst_checks h hcf hr hwf hx hj hu hl hw (by rw [haddr]; exact h32) (by rw [haddr]; exact hlim), ?_⟩
  rw [haddr, e, hperf]
  exact ⟨h1, h3⟩

theorem mchk_same (hwf : Instr.wf (.mchk d a b is) = true) (hn : matNOk (matN (th.val b)) = true) (hdup : (s.launchOfThread th).rcd.dup = true)
    (hd : Exist th (pairRegs d)) (hu : unitIn (th.val a) + unitsOf (matN (th.val b)) ≤ accUnits (s.core th.core)) (hi : (s.core th.core).anvil = [])
    (hf : ∀ w ∈ th.window, w.tok = s.nextUid + 2 → w.ready = true) {crc : DWord} (hc : tileCrc (s.team th.team) 0 (unitIn (th.val a)) (matN (th.val b)) = crc)
    (hc1 : tileCrc (s.team th.team) 1 (unitIn (th.val a)) (matN (th.val b)) = crc) :
    ∃ t, exec (.mchk d a b is) s = .next t ∧ t.teams = s.teams ∧
      WentOn s t u c (th.fills c is [(d.toNat, loWord crc, false), (d.toNat + 1, hiWord crc, false)]) := by
  obtain ⟨p, hp, e⟩ := accRead_idle h (is := is) hi (pairRegs d) (k := fun tok => .mchk u tok (unitIn (th.val a)) (matN (th.val b)) d.toNat) fun _ => rfl
  have htm : p.team th.team = s.team th.team := congrFun (team_congr hp.teams) _
  have hperf : performAcc p th.team (th.core - (s.team th.team).core) (.mchk u (s.nextUid + 2) (unitIn (th.val a)) (matN (th.val b)) d.toNat) =
      p.setThread ((p.thread u).fill (s.nextUid + 2) [(d.toNat, loWord crc, false), (d.toNat + 1, hiWord crc, false)]) := by
    simp only [performAcc, htm, hc, hc1, beq_self_eq_true, if_true, hp.has]
  refine ⟨_, mchk_checks h hcf hr hwf hn hdup hd, ?_⟩
  rw [checked_none (unitBad_none (by rw [Thread.raised_core]; exact hu)), e, hperf]
  exact ⟨hp.teams, fill_went (vs := [(d.toNat, loWord crc, false), (d.toNat + 1, hiWord crc, false)]) hp h.scout hf (by simp)⟩

theorem mchk_differs (hwf : Instr.wf (.mchk d a b is) = true) (hn : matNOk (matN (th.val b)) = true) (hdup : (s.launchOfThread th).rcd.dup = true)
    (hd : Exist th (pairRegs d)) (hu : unitIn (th.val a) + unitsOf (matN (th.val b)) ≤ accUnits (s.core th.core)) (hi : (s.core th.core).anvil = [])
    (hc : tileCrc (s.team th.team) 0 (unitIn (th.val a)) (matN (th.val b)) ≠ tileCrc (s.team th.team) 1 (unitIn (th.val a)) (matN (th.val b))) :
    ∃ t, exec (.mchk d a b is) s = .next (abortLaunch t (s.launchOfThread th).uid 0x22 0) := by
  obtain ⟨p, hp, e⟩ := accRead_idle h (is := is) hi (pairRegs d) (k := fun tok => .mchk u tok (unitIn (th.val a)) (matN (th.val b)) d.toNat) fun _ => rfl
  have htm : p.team th.team = s.team th.team := congrFun (team_congr hp.teams) _
  have hla : p.launchOf (s.team th.team).launch = s.launchOfThread th := by
    unfold State.launchOfThread State.launchOf
    rw [hp.launches]
  rw [mchk_checks h hcf hr hwf hn hdup hd, checked_none (unitBad_none (by rw [Thread.raised_core]; exact hu)), e]
  simp only [performAcc, htm, hla, beq_eq_false_iff_ne.mpr hc, Bool.false_eq_true, if_false]
  exact ⟨_, rfl⟩

end

/-! ### Instructions that trap (R145, R148, R256) -/

section
variable {s : State} {u : Nat} {c : Cur} {th : Thread} (h : Runs s u c th) {n : BitVec 3} {d a b : Reg} {is : Issue} (hcf : CounterFree th is)
  (hr : Readable th [a.toNat, b.toNat])
include h hcf

theorem mchk_undeclared (hdup : (s.launchOfThread th).rcd.dup = false) : Traps s u th (.mchk d a b is) 0x01 c.addr c.word c.addr := by
  show execMchk d a b is s = _
  unfold execMchk
  rw [threadOp_late h hcf]
  simp only [launchOf_raised, hdup, Bool.not_false, Bool.or_true, Bool.true_or, regChecks_raised]
  rw [h.checked_late (some is) (regChecks_ill ..)]

include hr

theorem mrd_misplaced (hj : bits (th.val b).toNat 16 16 % nOf n ≠ 0) : Traps s u th (.mrd n d a b is) 0x01 c.addr c.word c.addr := by
  have hsc : (th.raised (some is)).scout = none := (Thread.raised_scout ..).trans h.scout
  have hill : posIll (nOf n) (th.val b) = true := by simp [posIll, hj]
  have hlim : limited (th.raised (some is)) [b.toNat] true = true := by
    have := (hr b.toNat (by simp)).1
    simp [limited, this, Thread.invalid_none hsc]
  show execMrd n d a b is s = _
  unfold execMrd
  rw [threadOp_late h hcf]
  simp only [Thread.raised_val, hill, hlim, Bool.or_true, regChecks_raised]
  rw [h.checked_late (some is) (regChecks_ill ..)]

theorem mrd_beyond (hwf : Instr.wf (.mrd n d a b is) = true) (hd : Exist th (regsFrom d (nOf n))) (hj : bits (th.val b).toNat 16 16 % nOf n = 0)
    (hu : accUnits (s.core th.core) ≤ unitIn (th.val a) + bits (th.val b).toNat 16 16 / 128) :
    Traps s u th (.mrd n d a b is) 0x0B (BitVec.ofNat 64 (unitIn (th.val a))) 1 c.addr := by
  have hbad : posBad (s.setThread (th.raised (some is))) (th.raised (some is)) (unitIn (th.val a)) (th.val b) =
      some (0x0B, BitVec.ofNat 64 (unitIn (th.val a)), 1) := if_pos (by rw [Thread.raised_core]; exact hu)
  unfold Traps
  rw [mrd_checks h hcf hr hwf hd hj, h.checked_late (some is) hbad]

end

/-! ### The obligation -/

/-- Rows marked on every half of a list where a value is poisoned, the marks of the others as before. -/
theorem nmem_rowMarks (vals : List (Word × Bool)) (mk : Nat → Nat) (hs l : List Nat) (k : Nat) :
    nmem (if vals.any (·.2) then (hs.map mk).foldl nins l else l) k = (nmem l k || (vals.any (·.2) && hs.any fun h => k == mk h)) := by
  cases vals.any (·.2) with
  | false => simp
  | true =>
    rw [if_pos rfl, nmem_foldl_nins, List.contains_eq_any_beq, List.any_map, Bool.true_and]
    rfl

/-- Settles O28: with an idle queue each access is performed where its thread has gone on, and behind an overlapping operation MRD waits. -/
theorem accumulatorAccesses : Obligations.AccumulatorAccesses := by
  unfold Obligations.AccumulatorAccesses
  intro s u c th n d a b is h hcf ht l tm half halves unit p j row size region fresh rest hr
  refine ⟨fun hj hu => ⟨fun hwf hf hd => ⟨fun hi => ?_, fun o hi ho => ?_⟩, fun hwf hd hi => ?_, ?_⟩, fun hn hu hi => ⟨fun hwf => ?_, fun hwf hdup hd => ?_, ?_⟩,
    fun hwf hd => ⟨fun hj => ?_, fun hj hu => ?_⟩⟩
  · obtain ⟨t, he, hteams, hw⟩ := mrd_idle h hcf hr hwf hd hj hu hi hf
    refine ⟨t, he, hteams, ?_⟩
    rw [readElems_zip]
    exact hw
  · exact mrd_behind h hcf hr hwf hd hj hu hi ho
  · obtain ⟨t, he, hw, hteam, hothers⟩ := mwr_idle h hcf hr hwf hd hj hu hi ht (halves := halves) rfl
    rw [foldl_wroteHalf] at hteam
    refine ⟨t, he, hw, ⟨by rw [hteam], hothers⟩, by rw [hteam], fun k => ?_, fun k => ?_⟩
    · rw [hteam]
      exact tget_written (fun e => th.reg (d.toNat + e)) (nOf n) _ _ _ (nOf_le n) halves tm.acc k
    · rw [hteam]
      refine (nmem_rowMarks ..).trans ?_
      rw [regsFrom, from_, List.any_map, List.any_map]
      rfl
  · intro fmt sat x off hwf hx hi hl hw o sz elem h32 hlim
    obtain ⟨t, he, hwent, hteam⟩ := mst_idle h hcf hr hwf hx hj hu hi ht hl hw h32 hlim rfl rfl
    refine ⟨t, he, hwent, fun k => ?_, fun w => ?_, ?_⟩
    · rw [hteam]
      exact storedElems_scratch (mstBytes_bounds _).1 ..
    · rw [hteam]
      exact storedElems_spois (mstBytes_bounds _).2 ..
    · rw [hteam]
      exact storedElems_rest ..
  · obtain ⟨t, he, hw, hteam, hothers⟩ := mzero_idle h hcf hr hwf hn hu hi ht (halves := halves) rfl
    rw [foldl_zeroedHalf] at hteam
    refine ⟨t, he, hw, ⟨by rw [hteam], hothers⟩, fun k => ?_, fun k => ⟨?_, ?_⟩⟩
    · rw [hteam]
      exact tget_without 0 tm.acc (within (accKey · unit 0 0) (accKey · (unit + unitsOf size) 0 0) halves) k
    · rw [hteam]
      exact nmem_filter tm.rmark (fun m => !(within (markKey · unit 0) (markKey · (unit + unitsOf size) 0) halves m)) k
    · rw [hteam]
      exact nmem_filter tm.cmark (fun m => !(within (markKey · unit 0) (markKey · (unit + unitsOf size) 0) halves m)) k
  · intro crc
    exact ⟨fun hc hf => mchk_same h hcf hr hwf hn hdup hd hu hi hf rfl hc.symm, fun hc => mchk_differs h hcf hr hwf hn hdup hd hu hi hc⟩
  · exact fun hdup => mchk_undeclared h hcf hdup
  · exact mrd_misplaced h hcf hr hj
  · exact mrd_beyond h hcf hr hwf hd hj hu

end Sys2Proof.Machine
end

section
/-! PROOF. Scout episodes (R60, R173-R186): what a look at an access and its reads leave of the threads and of memory, and the outcomes of
a checkpointed load. -/
namespace Sys2Proof.Machine
open Sys2Proof

/-! ### Looking and reading change no thread (R90, R98, R117, R284) -/

/-- Two states with the same threads and, with every CXL link up, the same memory. -/
structure Looked (s t : State) : Prop where
  threads : SameThreads s t
  memory : s.hub.cxldn = [] → t.hub.cxldn = [] ∧ t.mem = s.mem ∧ t.poison = s.poison

theorem Looked.refl (s : State) : Looked s s := ⟨.refl s, fun h => ⟨h, rfl, rfl⟩⟩
theorem Looked.trans {s t u : State} (h1 : Looked s t) (h2 : Looked t u) : Looked s u := by
  refine ⟨h1.threads.trans h2.threads, fun h => ?_⟩
  obtain ⟨hc, hm, hp⟩ := h1.memory h
  obtain ⟨hc', hm', hp'⟩ := h2.memory hc
  exact ⟨hc', hm'.trans hm, hp'.trans hp⟩

theorem Looked.of_memory {s t : State} (h : SameThreads s t) (hm : SameMemory s t) : Looked s t :=
  ⟨h, fun e => ⟨hm.cxldn.trans e, hm.mem, hm.poison⟩⟩
theorem Looked.of_caches {s t : State} (h : SameThreads s t) (hc : s.hub.cxldn = [] → SameButCaches s t) : Looked s t :=
  ⟨h, fun e => ⟨(congrArg Hub.cxldn (hc e).hub).trans e, (hc e).mem, (hc e).poison⟩⟩

section
variable {s t : State} (h : Looked s t)
include h

theorem Looked.thread (u : Nat) : t.thread u = s.thread u := by unfold State.thread; rw [h.threads.threads]
theorem Looked.hasThread (u : Nat) : t.hasThread u = s.hasThread u := by unfold State.hasThread; rw [h.threads.threads]
theorem Looked.byte (hc : s.hub.cxldn = []) (k : Nat) : t.byte k = s.byte k := by unfold State.byte; rw [(h.memory hc).2.1]
theorem Looked.bytes (hc : s.hub.cxldn = []) (k n : Nat) : t.bytes k n = s.bytes k n := by
  unfold State.bytes
  simp only [h.byte hc]
theorem Looked.anyPoison (hc : s.hub.cxldn = []) (k n : Nat) : t.anyPoison k n = s.anyPoison k n := by
  unfold State.anyPoison State.poisoned
  rw [(h.memory hc).2.2]

end

theorem startWalk_memory (s : State) (t : Thread) (l : Launch) (va : DWord) (flags : Nat) : SameMemory s (startWalk s t l va flags) := by
  unfold startWalk
  dsimp only
  split
  · exact .refl s
  · split <;> exact ⟨rfl, rfl, rfl, rfl, fun _ => rfl⟩

theorem locate_looked (s : State) (t : Thread) (a : Acc) (va : DWord) (n : Nat) : Looked s (locate s t a va n).1 := by
  refine .of_memory (locate_threads s t a va n) ?_
  unfold locate
  dsimp only
  cases findXlate s t.core (s.launchOfThread t).ctx (vaKey va) with
  | none =>
    dsimp only
    iterate 5 refine (iteInduction (motive := fun x : State × Look => SameMemory s x.1) (fun _ => .refl s) fun _ => ?_)
    exact startWalk_memory ..
  | some x =>
    dsimp only
    iterate 4 refine (iteInduction (motive := fun x : State × Look => SameMemory s x.1) (fun _ => .refl s) fun _ => ?_)
    split
    · exact demandFault_memory ..
    · split <;> exact keepXlate_memory ..

theorem wantAside_looked (s : State) (core tag line : Nat) : Looked s (wantAside s core tag line) := by
  unfold wantAside
  dsimp only
  split
  · exact .refl s
  · exact ⟨⟨rfl, rfl, rfl, rfl⟩, fun e => ⟨e, rfl, rfl⟩⟩

theorem lockLook_looked (s : State) (a : Acc) (locs : List Loc) (addr unit : Nat) (pois : Bool) (p : Spot) :
    Looked s (lockLook s a locs addr unit pois p).1 := by
  unfold lockLook
  split
  · exact .refl s
  · exact wantAside_looked ..
  · exact .refl s

/-- Whatever a piece meets, no thread changes and memory stays. -/
theorem lookAt_looked (s : State) (t : Thread) (a : Acc) (x : Nat × Nat) : Looked s (lookAt s t a x).1 := by
  unfold lookAt
  dsimp only
  split
  · exact lockLook_looked ..
  · have found : ∀ r : State × Look, r = (match t.hold with
        | some .hostLink => (s, .go (.window 0))
        | some (.remote chip _ _) => (s, .go (.remote chip 0))
        | _ => locate s t a (BitVec.ofNat 64 x.1) x.2) → Looked s r.1 := by
      rintro _ rfl
      split
      · exact .refl s
      · exact .refl s
      · exact locate_looked ..
    split
    next e =>
      have h := found _ e.symm
      split
      · exact h
      · exact h.trans (lockLook_looked ..)
    next e =>
      have h := found _ e.symm
      split
      · split
        · exact h.trans (lockLook_looked ..)
        · exact h
      · exact h
    next => exact found _ rfl

theorem read_looked (s : State) (off n : Nat) : Looked s (s.read off n).1 :=
  .of_caches (read_threads s off n) fun e => by rw [State.read_eq e]; exact .refl s

theorem writeBack_threads (s : State) (line : Nat) : SameThreads s (writeBack s line) := by
  unfold writeBack
  split
  · dsimp only
    split
    · exact .trans (t := { s with dirty := ndel s.dirty line }) ⟨rfl, rfl, rfl, rfl⟩ (mcRecord_threads ..)
    · exact ⟨rfl, rfl, rfl, rfl⟩
  · exact .refl s

theorem touchL2_threads (s : State) (off : Nat) (cl : EClass) : SameThreads s (touchL2 s off cl) := by
  unfold touchL2
  split
  · exact .refl s
  · exact .trans (t := { s with l2 := tset [] s.l2 (l2Key off) (touchSet 16 (tget [] s.l2 (l2Key off)) (off / 128) cl) }) ⟨rfl, rfl, rfl, rfl⟩
      (SameThreads.foldl (f := fun s (e : Nat × EClass) => writeBack s e.1) (fun s _ => writeBack_threads s _) _ _)

theorem touch_threads (s : State) (core off : Nat) (cl : EClass) : SameThreads s (touch s core off cl) := by
  have h1 : SameThreads s (if inL1 s core off then s else touchL2 s off cl) := by
    split
    · exact .refl s
    · exact touchL2_threads ..
  unfold touch
  split
  · exact .refl s
  · dsimp only
    generalize (if inL1 s core off then s else touchL2 s off cl) = s1 at h1 ⊢
    split
    · exact h1.trans ⟨rfl, rfl, rfl, rfl⟩
    · exact h1

theorem touch_looked (s : State) (core off : Nat) (cl : EClass) : Looked s (touch s core off cl) :=
  .of_caches (touch_threads ..) fun e => touch_caches e ..

/-- What the read of one piece that can be performed gives. -/
def pieceRead (t : Thread) (a : Acc) (x : Nat × Nat) (l : State × Look) : State × List Byte × Bool :=
  match l.2 with
  | .go (.mem off) => (touch (l.1.read off x.2).1 t.core off (a.cls (BitVec.ofNat 64 x.1)), (l.1.read off x.2).2)
  | .go (.block b o) => (l.1, bytesOf (blockRead l.1 b o x.2).toNat x.2, false)
  | .go (.scratch o) => (l.1, (l.1.teamOf t).scrBytes o x.2, (l.1.teamOf t).anyPoison o x.2)
  | _ => (l.1, [], false)

theorem pieceRead_looked (t : Thread) (a : Acc) (x : Nat × Nat) (l : State × Look) : Looked l.1 (pieceRead t a x l).1 := by
  unfold pieceRead
  split
  · exact (read_looked ..).trans (touch_looked ..)
  all_goals exact .refl _

theorem readPieces_cons (s : State) (t : Thread) (a : Acc) (x : Nat × Nat) (l : List (Nat × Nat)) :
    readPieces s t a (x :: l) =
      ((readPieces (pieceRead t a x (lookAt s t a x)).1 t a l).1,
        (pieceRead t a x (lookAt s t a x)).2.1 ++ (readPieces (pieceRead t a x (lookAt s t a x)).1 t a l).2.1,
        (pieceRead t a x (lookAt s t a x)).2.2 || (readPieces (pieceRead t a x (lookAt s t a x)).1 t a l).2.2) := by
  rw [readPieces]
  obtain ⟨s1, r⟩ := lookAt s t a x
  cases r with
  | go p => cases p <;> rfl
  | trap => rfl
  | wait => rfl

theorem readPieces_looked (t : Thread) (a : Acc) (l : List (Nat × Nat)) (s : State) : Looked s (readPieces s t a l).1 := by
  induction l generalizing s with
  | nil => exact .refl s
  | cons x l ih =>
    rw [readPieces_cons]
    exact (lookAt_looked s t a x).trans ((pieceRead_looked ..).trans (ih _))

/-! ### A checkpointed load is read (R175) -/

/-- A load of one piece of memory reads that piece's bytes and poison. -/
theorem readPieces_one {s : State} (hc : s.hub.cxldn = []) {t : Thread} {a : Acc} {x : Nat × Nat} {off : Nat} (h : (lookAt s t a x).2 = .go (.mem off)) :
    (readPieces s t a [x]).2 = (s.bytes off x.2, s.anyPoison off x.2) := by
  have hl := lookAt_looked s t a x
  rw [readPieces_cons]
  simp only [readPieces, pieceRead, h, State.read_eq (hl.memory hc).1, hl.bytes hc, hl.anyPoison hc, List.append_nil, Bool.or_false]

section
variable (s : State) (u tok : Nat) (a : Acc) (dst : List Nat) (size : Nat) (sx : Bool)

/-- The values a load finds for its registers. -/
def loadFinds : List (Nat × Word × Bool) :=
  let r := readPieces s { s.thread u with hold := none } a a.ps
  (dst.zip (loadWords r.2.1 size sx)).map fun x => (x.1, x.2, r.2.2)

theorem readLoad_eq : readLoad s u tok a dst size sx =
    (readPieces s { s.thread u with hold := none } a a.ps).1.setThread ((s.thread u).fill tok (loadFinds s u a dst size sx)) := by
  refine Eq.trans (b := (readPieces s { s.thread u with hold := none } a a.ps).1.setThread
    (((readPieces s { s.thread u with hold := none } a a.ps).1.thread u).fill tok (loadFinds s u a dst size sx))) rfl ?_
  rw [(readPieces_looked { s.thread u with hold := none } a a.ps s).thread u]

theorem readLoad_hasThread (v : Nat) : (readLoad s u tok a dst size sx).hasThread v = s.hasThread v := by
  rw [readLoad_eq, State.hasThread_setThread, (readPieces_looked ..).hasThread]

theorem readLoad_mem (h : s.hub.cxldn = []) : (readLoad s u tok a dst size sx).hub.cxldn = [] ∧ (readLoad s u tok a dst size sx).mem = s.mem := by
  obtain ⟨hc, hm, _⟩ := (readPieces_looked { s.thread u with hold := none } a a.ps s).memory h
  rw [readLoad_eq]
  exact ⟨hc, hm⟩

variable {s u} in
theorem readLoad_thread (h : s.hasThread u = true) : (readLoad s u tok a dst size sx).thread u = (s.thread u).fill tok (loadFinds s u a dst size sx) := by
  rw [readLoad_eq]
  exact State.thread_setThread_same (State.thread_uid h) (((readPieces_looked ..).hasThread u).trans h)

end

/-- The loads behind a checkpointed one are read in turn. -/
def readLater (u : Nat) (l : List Late) (s : State) : State := l.foldl (fun s l => readLoad s u l.tok l.acc l.dst l.size l.sx) s

theorem readLater_nil (u : Nat) (s : State) : readLater u [] s = s := rfl

theorem readLater_hasThread (u : Nat) (l : List Late) (s : State) (v : Nat) : (readLater u l s).hasThread v = s.hasThread v := by
  induction l generalizing s with
  | nil => rfl
  | cons x l ih => exact (ih _).trans (readLoad_hasThread ..)

theorem readLater_mem (u : Nat) (l : List Late) {s : State} (h : s.hub.cxldn = []) : (readLater u l s).mem = s.mem := by
  induction l generalizing s with
  | nil => rfl
  | cons x l ih =>
    obtain ⟨hc, hm⟩ := readLoad_mem s u x.tok x.acc x.dst x.size x.sx h
    exact (ih hc).trans hm

theorem settle_uid (t : Thread) : t.settle.uid = t.uid := by
  unfold Thread.settle
  split <;> rfl
theorem settle_scout (t : Thread) : t.settle.scout = none := by
  unfold Thread.settle
  split
  next h => exact h
  next => rfl

/-- Entries that name the keys of a list in its order each find their own value there. -/
theorem map_find?_key {α β γ : Type} {xs : List (Nat × α)} {vs : List (Nat × β)} (hn : (vs.map (·.1)).Nodup) (hd : xs.map (·.1) = vs.map (·.1))
    {f : Nat × α → Option (Nat × β) → γ} {g : Nat × β → γ} (hf : ∀ x v, x.1 = v.1 → f x (some v) = g v) :
    xs.map (fun x => f x (vs.find? (·.1 == x.1))) = vs.map g := by
  have hl : xs.length = vs.length := by simpa using congrArg List.length hd
  refine List.ext_getElem (by simpa using hl) fun i h1 h2 => ?_
  have hx : i < xs.length := by simpa using h1
  have hv : i < vs.length := by simpa using h2
  have hk : xs[i].1 = vs[i].1 := by simpa [hx, hv] using congrArg (fun l => l[i]?) hd
  rw [List.getElem_map, List.getElem_map, hk, find?_key hn (List.getElem_mem hv), hf _ _ hk]

/-- A provisional result whose load is done: its value is there, and it is provisional no more (R175). -/
theorem answered_settled {vs : List (Nat × Word × Bool)} (hn : (vs.map (·.1)).Nodup) {t : Thread} {sc : Scout} (hsc : t.scout = some sc) {p : Pending}
    (hp : p ∈ t.window) (hr : p.ready = false) (hv : p.prov = true) (hd : p.regs.map (·.1) = vs.map (·.1)) :
    ∃ q ∈ (t.fill p.tok vs).settle.window, q.ready = true ∧ q.prov = false ∧ q.regs = vs.map fun x => (x.1, x.2.1, x.2.2, false) := by
  have hmem : p.answered p.tok vs ∈ (t.fill p.tok vs).window := List.mem_map_of_mem hp
  refine ⟨{ p with ready := true, tok := 0, prov := false, regs := vs.map fun x => (x.1, x.2.1, x.2.2, false) }, ?_, rfl, rfl, rfl⟩
  unfold Thread.settle
  rw [show (t.fill p.tok vs).scout = some sc from hsc]
  refine List.mem_map.mpr ⟨_, hmem, ?_⟩
  unfold Pending.answered
  simp only [hr, beq_self_eq_true, Bool.not_false, Bool.and_self, hv, if_true, List.map_map]
  congr 1
  refine map_find?_key hn hd (f := fun x o => (fun y : Nat × Word × Bool × Bool => (y.1, y.2.1, y.2.2.1, false))
    (match o with | some v => (x.1, v.2.1, v.2.2, x.2.2.2) | none => x)) fun x v e => ?_
  simp only [e]

/-! ### A thread stands at its load again (R181) -/

theorem unbundle_thread (s : State) (t : Thread) (v : Nat) : ((unbundle s t).thread v).unstamped = (s.thread v).unstamped :=
  leaveClause_thread s t v
theorem unbundle_byte (s : State) (t : Thread) (k : Nat) : (unbundle s t).byte k = s.byte k := leaveClause_byte s t k

theorem foldl_sbDown (l : List Pending) (t : Thread) : ∃ sb, l.foldl (fun (t : Thread) w => if w.prov then t.sbDown w.sb else t) t = { t with sb := sb } := by
  induction l generalizing t with
  | nil => exact ⟨_, rfl⟩
  | cons w l ih =>
    have h : ∃ sb, (if w.prov then t.sbDown w.sb else t) = { t with sb := sb } := by
      unfold Thread.sbDown
      split
      · split <;> exact ⟨_, rfl⟩
      · exact ⟨_, rfl⟩
    obtain ⟨sb, h⟩ := h
    obtain ⟨sb', h'⟩ := ih { t with sb := sb }
    exact ⟨sb', by rw [List.foldl_cons, h, h']⟩

/-- What an undone thread keeps: itself, and the registers with those saved put back. -/
theorem undo_keeps (sc : Scout) (t : Thread) :
    (sc.undo t).uid = t.uid ∧ ∀ r, (sc.undo t).reg r = (sc.saves.foldl (fun (t : Thread) x => t.put x.1 x.2.1 x.2.2.2) t).reg r := by
  have hp := foldl_put (fun x : Word × Bool × Bool => x.1) (fun x => x.2.2) sc.saves t
  unfold Scout.undo
  generalize sc.saves.foldl (fun (t : Thread) x => t.put x.1 x.2.1 x.2.2.2) t = t1 at hp ⊢
  obtain ⟨sb, e⟩ := foldl_sbDown t1.window t1
  dsimp only
  rw [e]
  exact ⟨(congrArg Thread.uid hp :), fun _ => rfl⟩

theorem undo_stands (sc : Scout) (t : Thread) :
    (sc.undo t).scout = none ∧ (sc.undo t).pc = sc.pc ∧ (sc.undo t).mid = some sc.header ∧ (sc.undo t).status = .ready := ⟨rfl, rfl, rfl, rfl⟩

theorem undo_uid (sc : Scout) (t : Thread) : (sc.undo t).uid = t.uid := (undo_keeps sc t).1

/-- A thread out of its bundles as it has been set. -/
theorem unbundle_set {s : State} {u : Nat} (hs : s.hasThread u = true) {x : Thread} (hx : x.uid = u) (t : Thread) :
    ((unbundle (s.setThread x) t).thread u).unstamped = x.unstamped := by
  rw [unbundle_thread, State.thread_setThread_same hx hs]

end Sys2Proof.Machine
end

section
/-! PROOF. Scout episodes (R60, R173-R186): an episode begins, and its load goes on; the outcomes, the end of the budget and the
restoration as their events meet them. -/
namespace Sys2Proof.Machine
open Sys2Proof

/-! ### Requests change no thread but their own (R203, R204) -/

theorem setPort_threads (s : State) (p : Nat) (x : Port) : SameThreads s (s.setPort p x) := ⟨rfl, rfl, rfl, rfl⟩

theorem sendBody_threads (s : State) (p : Nat) (body : List Byte) : SameThreads s (sendBody s p body) := by
  unfold sendBody
  generalize Sent.flit p _ = x
  exact ⟨rfl, rfl, rfl, rfl⟩

theorem pumpPort_threads (f : Nat) (s : State) (p : Nat) : SameThreads s (pumpPort f s p) := by
  induction f generalizing s with
  | zero => exact .refl s
  | succ f ih =>
    unfold pumpPort
    dsimp only
    split
    · generalize fillBody 9 244 (s.port p).queue = r
      exact (setPort_threads ..).trans ((sendBody_threads ..).trans (ih _))
    · exact .refl s

theorem sendPacket_threads (s : State) (path : Nat) (p : Packet) : SameThreads s (sendPacket s path p) := by
  unfold sendPacket sendPacketAs
  split
  · exact (setPort_threads ..).trans (pumpPort_threads ..)
  · split <;> exact ⟨rfl, rfl, rfl, rfl⟩

theorem postOn_threads (s : State) (lane who ctx x typ op off : Nat) (va : DWord) (data : List Byte) (pmask : Nat) :
    SameThreads s (postOn s lane who ctx x typ op off va data pmask) :=
  .trans (t := setSrcLane s _) ⟨rfl, rfl, rfl, rfl⟩ (sendPacket_threads ..)

/-! ### An episode (R60, R175) -/

/-- The thread is in an episode of a checkpoint, the n-th that %scout counts. -/
def Thread.inEpisodeOf (t : Thread) (sc : Scout) (n : BitVec 16) : Prop :=
  t.scoutEpi = n ∧ ∃ z, t.scout = some z ∧ z.long = true ∧ z.pc = sc.pc ∧ z.saves = sc.saves

/-- A thread that is there and in an episode. -/
def Scouts (u : Nat) (sc : Scout) (n : BitVec 16) (s : State) : Prop := s.hasThread u = true ∧ (s.thread u).inEpisodeOf sc n

section
variable {s t : State} {u : Nat} {n : BitVec 16} {sc : Scout} (h : Scouts u sc n s)
include h

theorem Scouts.of_threads (e : SameThreads s t) : Scouts u sc n t := by
  unfold Scouts State.hasThread State.thread
  rw [e.threads]
  exact h

/-- The thread changes, but for its checkpoint and the count of its episodes. -/
theorem Scouts.set {x : Thread} (hu : x.uid = u) (hx : x.inEpisodeOf sc n) : Scouts u sc n (s.setThread x) :=
  ⟨(State.hasThread_setThread s x u).trans h.1, by rw [State.thread_setThread_same hu h.1]; exact hx⟩

theorem Scouts.foldl {α : Type} {f : State → α → State} (hf : ∀ s x, Scouts u sc n s → Scouts u sc n (f s x)) (l : List α) : Scouts u sc n (l.foldl f s) := by
  induction l generalizing s with
  | nil => exact h
  | cons x l ih => exact ih (hf s x h)

theorem Scouts.count (x : Thread) (off : Nat) : Scouts u sc n (scoutCount s x off) := h.of_threads ⟨rfl, rfl, rfl, rfl⟩

/-- A late load of an episode gives its result a value or none. -/
theorem Scouts.late (l : Late) : Scouts u sc n (lateValue s u l) := by
  have hu := State.thread_uid h.1
  unfold lateValue
  split
  · rw [readLoad_eq]
    exact (h.of_threads (readPieces_looked ..).threads).set hu h.2
  · exact h.set hu h.2

theorem Scouts.post {x : Thread} (hx : x.uid = u) (ctx chip typ op off : Nat) (va : DWord) (data : List Byte) (pmask : Nat) :
    Scouts u sc n (postRequest s x ctx chip typ op off va data pmask) := by
  have h1 := h.of_threads (postOn_threads s (laneNo x) x.uid ctx chip typ op off va data pmask)
  unfold postRequest
  dsimp only
  rw [hx] at h1 ⊢
  exact h1.set (State.thread_uid h1.1) h1.2

theorem Scouts.request {x : Thread} (hx : x.uid = u) (ctx chip typ op off : Nat) (va : DWord) (data : List Byte) (pmask : Nat) :
    Scouts u sc n (sendRequest s x ctx chip typ op off va data pmask).1 := by
  unfold sendRequest
  dsimp only
  iterate 3 refine (iteInduction (motive := fun x : State × Issued => Scouts u sc n x.1) (fun _ => h) fun _ => ?_)
  exact h.post hx ..

/-- The load goes on for its scouting thread. -/
theorem Scouts.ask : Scouts u sc n (scoutAsk s u) := by
  unfold scoutAsk
  split
  · exact h
  refine h.foldl (fun s x h => ?_) _
  obtain ⟨x, i⟩ := x
  dsimp only
  split
  · exact h
  split
  next s1 chip off e =>
    have h1 : Scouts u sc n s1 := h.of_threads (show Looked s (s1, Look.go (.remote chip off)).1 from e ▸ lookAt_looked ..).threads
    have h2 := fun ctx op va => h1.request (State.thread_uid h1.1) ctx chip tLOAD op off va [] 0
    split
    next s2 serial e2 =>
      have h3 : Scouts u sc n s2 := show Scouts u sc n (s2, Issued.sent serial).1 from e2 ▸ h2 ..
      refine h3.set (State.thread_uid h3.1) ?_
      obtain ⟨hn, z, hz, he⟩ := h3.2
      exact ⟨hn, { z with asked := z.asked ++ [(i, chip, laneNo (s.thread u), serial)] }, by simp only [hz, Option.map_some], he⟩
    next s2 _ _ e2 => exact (show Scouts u sc n (s2, _).1 from e2 ▸ h2 ..)
  next s1 c p e =>
    have h1 : Scouts u sc n s1 := h.of_threads (show Looked s (s1, Look.wait (.fault c p)).1 from e ▸ lookAt_looked ..).threads
    split
    · exact h1.set (State.thread_uid h1.1) h1.2
    · exact h1
  next s1 l _ _ e => exact h.of_threads (show Looked s (s1, l).1 from e ▸ lookAt_looked ..).threads

end

theorem fetchLines_threads (s : State) (t : Thread) (sc : Scout) : SameThreads s (fetchLines s t sc) := by
  unfold fetchLines
  refine SameThreads.foldl (fun s x => ?_) _ _
  split
  · exact touch_threads ..
  · exact .refl s

/-! ### The events of a checkpoint (R175, R180, R181) -/

section
variable {s : State} {u : Nat} {sc : Scout} (hsc : (s.thread u).scout = some sc)
include hsc

theorem scoutOutcome_known (h : sc.long = true ∨ sc.stop ≠ none) : exec (.scoutOutcome u) s = .next s := by
  show execScoutOutcome u s = _
  have hk : (sc.long || sc.stop.isSome) = true := by
    rcases h with h | h
    · simp [h]
    · simp [Option.isSome_iff_ne_none.mpr h]
  simp only [execScoutOutcome, hsc, hk, if_true]

section
variable (hl : sc.long = false) (hst : sc.stop = none)
include hl hst

theorem scoutOutcome_performed (ho : outcome s (s.thread u) sc = .performed) :
    exec (.scoutOutcome u) s = .next (scoutPerformed s (s.thread u) sc) := by
  show execScoutOutcome u s = _
  simp only [execScoutOutcome, hsc, hl, hst, ho, Option.isSome_none, Bool.or_self, Bool.false_eq_true, if_false]

theorem scoutOutcome_plain (ho : outcome s (s.thread u) sc = .plain) : exec (.scoutOutcome u) s = .next (scoutPlain s (s.thread u) sc) := by
  show execScoutOutcome u s = _
  simp only [execScoutOutcome, hsc, hl, hst, ho, Option.isSome_none, Bool.or_self, Bool.false_eq_true, if_false]

theorem scoutOutcome_long (ho : outcome s (s.thread u) sc = .long) : exec (.scoutOutcome u) s = .next (scoutLong s (s.thread u) sc) := by
  show execScoutOutcome u s = _
  simp only [execScoutOutcome, hsc, hl, hst, ho, Option.isSome_none, Bool.or_self, Bool.false_eq_true, if_false]

theorem scoutOutcome_trap {code : Nat} {addr : DWord} {info : Word} (ho : outcome s (s.thread u) sc = .trap code addr info) :
    exec (.scoutOutcome u) s = .next (takeTrap (unbundle (s.setThread (sc.undo (s.thread u))) (s.thread u)) u code addr info sc.pc) := by
  show execScoutOutcome u s = _
  simp only [execScoutOutcome, hsc, hl, hst, ho, Option.isSome_none, Bool.or_self, Bool.false_eq_true, if_false]

end

theorem scoutBudgetEnd_idle (h : sc.long = false ∨ sc.stop ≠ none ∨ sc.count < sc.budget) : exec (.scoutBudgetEnd u) s = .next s := by
  show execScoutBudgetEnd u s = _
  simp only [execScoutBudgetEnd, hsc]
  refine congrArg _ (if_neg fun e => ?_)
  simp only [Bool.and_eq_true, Option.isNone_iff_eq_none, decide_eq_true_eq] at e
  obtain ⟨⟨hl, hst⟩, hb⟩ := e
  rcases h with h | h | h
  · simp [hl] at h
  · exact h hst
  · omega

theorem scoutBudgetEnd_stops (hl : sc.long = true) (hst : sc.stop = none) (hb : sc.budget ≤ sc.count) :
    exec (.scoutBudgetEnd u) s = .next (scoutStop s (s.thread u) .budget) := by
  show execScoutBudgetEnd u s = _
  simp only [execScoutBudgetEnd, hsc, hl, hst, hb, Option.isNone_none, Bool.and_self, decide_true, if_true]

theorem scoutRestore_waits (h : sc.long = false ∨ scoutArrived s (s.thread u) sc = false) : exec (.scoutRestore u) s = .next s := by
  show execScoutRestore u s = _
  simp only [execScoutRestore, hsc]
  refine congrArg _ (if_neg fun e => ?_)
  rw [Bool.and_eq_true] at e
  rcases h with h | h <;> simp [h] at e

/-- The restored state: an episode that nothing has stopped counts its end, and the lines of the load are fetched. -/
theorem scoutRestore_restores (hl : sc.long = true) (ha : scoutArrived s (s.thread u) sc = true) :
    ∃ s1, SameThreads s s1 ∧ exec (.scoutRestore u) s = .next (restoreScout s1 (s.thread u) sc) := by
  have fetched : ∀ s1, SameThreads s s1 → SameThreads s (fetchLines s1 (s.thread u) sc) :=
    fun s1 h => h.trans (fetchLines_threads ..)
  refine ⟨_, fetched (if sc.stop.isNone then scoutCount s (s.thread u) (if sc.budget ≤ sc.count then 0x30 else 0x28) else s) ?_, ?_⟩
  · split
    · exact ⟨rfl, rfl, rfl, rfl⟩
    · exact .refl s
  · show execScoutRestore u s = _
    simp only [execScoutRestore, hsc, hl, ha, Bool.and_self, if_true]

end

end Sys2Proof.Machine
end

section
/-! PROOF. Scout episodes (R60, R173-R186): what each outcome leaves, a load that opens a checkpoint, and the obligation. -/
namespace Sys2Proof.Machine
open Sys2Proof

/-! ### The outcomes (R175) -/

section
variable {s : State} {u : Nat} {sc : Scout} (hs : s.hasThread u = true)
include hs

theorem scoutPerformed_eq : scoutPerformed s (s.thread u) sc =
    (readLater u sc.later (readLoad s u sc.tok sc.acc sc.dst sc.size sc.sx)).setThread
      ((readLater u sc.later (readLoad s u sc.tok sc.acc sc.dst sc.size sc.sx)).thread u).settle := by
  unfold scoutPerformed
  rw [State.thread_uid hs]
  rfl

/-- Performed: the checkpoint is closed. -/
theorem scoutPerformed_thread : (scoutPerformed s (s.thread u) sc).thread u =
    ((readLater u sc.later (readLoad s u sc.tok sc.acc sc.dst sc.size sc.sx)).thread u).settle := by
  have hs2 : (readLater u sc.later (readLoad s u sc.tok sc.acc sc.dst sc.size sc.sx)).hasThread u = true :=
    (readLater_hasThread ..).trans ((readLoad_hasThread ..).trans hs)
  rw [scoutPerformed_eq hs]
  exact State.thread_setThread_same ((settle_uid _).trans (State.thread_uid hs2)) hs2

theorem scoutPerformed_byte (hc : s.hub.cxldn = []) (k : Nat) : (scoutPerformed s (s.thread u) sc).byte k = s.byte k := by
  obtain ⟨h1, h2⟩ := readLoad_mem s u sc.tok sc.acc sc.dst sc.size sc.sx hc
  have hm : (scoutPerformed s (s.thread u) sc).mem = s.mem := by
    rw [scoutPerformed_eq hs]
    exact (readLater_mem u sc.later h1).trans h2
  unfold State.byte
  rw [hm]

/-- Performed: a load of one piece of memory, nothing behind it, has its words and their poison. -/
theorem scoutPerformed_one (hsc : (s.thread u).scout = some sc) (hc : s.hub.cxldn = []) {a n off : Nat} (hl : sc.later = []) (hps : sc.acc.ps = [(a, n)])
    (hlook : (lookAt s { s.thread u with hold := none } sc.acc (a, n)).2 = .go (.mem off)) {p : Pending} (hp : p ∈ (s.thread u).window) (ht : p.tok = sc.tok)
    (hr : p.ready = false) (hv : p.prov = true) (hd : p.regs.map (·.1) = sc.dst) (hn : sc.dst.Nodup)
    (hlen : (loadWords (s.bytes off n) sc.size sc.sx).length = sc.dst.length) :
    ∃ q ∈ ((scoutPerformed s (s.thread u) sc).thread u).window, q.ready = true ∧ q.prov = false ∧
      q.regs = (sc.dst.zip (loadWords (s.bytes off n) sc.size sc.sx)).map fun x => (x.1, x.2, s.anyPoison off n, false) := by
  have hf : loadFinds s u sc.acc sc.dst sc.size sc.sx = (sc.dst.zip (loadWords (s.bytes off n) sc.size sc.sx)).map fun x => (x.1, x.2, s.anyPoison off n) := by
    unfold loadFinds
    simp only [hps, readPieces_one hc hlook]
  have hk : (loadFinds s u sc.acc sc.dst sc.size sc.sx).map (·.1) = sc.dst := by
    rw [hf, List.map_map]
    exact List.map_fst_zip hlen.ge
  rw [scoutPerformed_thread hs, hl, readLater_nil, readLoad_thread _ _ _ _ _ hs, ← ht]
  obtain ⟨q, hq, h1, h2, h3⟩ := answered_settled (vs := loadFinds s u sc.acc sc.dst sc.size sc.sx) (by rw [hk]; exact hn) hsc hp hr hv (hd.trans hk.symm)
  refine ⟨q, hq, h1, h2, h3.trans ?_⟩
  rw [hf, List.map_map]
  rfl

/-- Long: the checkpoint is an episode, and counted. -/
theorem scoutLong_scouts : Scouts u sc ((s.thread u).scoutEpi + 1) (scoutLong s (s.thread u) sc) := by
  have set : ∀ x : Thread, x.uid = u → x.inEpisodeOf sc ((s.thread u).scoutEpi + 1) → Scouts u sc ((s.thread u).scoutEpi + 1) (s.setThread x) :=
    fun x hu hx => ⟨(State.hasThread_setThread s x u).trans hs, by rw [State.thread_setThread_same hu hs]; exact hx⟩
  unfold scoutLong
  dsimp only
  rw [State.thread_uid hs]
  refine Scouts.ask ?_
  refine Scouts.foldl ?_ (fun s _ h => h.count _ _) _
  refine Scouts.count ?_ _ _
  refine Scouts.foldl ?_ (fun s l h => h.late l) _
  refine set _ ?_ ?_
  · exact State.thread_uid hs
  · exact ⟨rfl, _, rfl, rfl, rfl, rfl⟩

/-- A load the checkpoint does not serve: the thread is undone, and its load will be a plain one. -/
theorem scoutPlain_thread : ((scoutPlain s (s.thread u) sc).thread u).scout = none ∧ ((scoutPlain s (s.thread u) sc).thread u).pc = sc.pc ∧
    ((scoutPlain s (s.thread u) sc).thread u).plain = true := by
  have hu := (undo_uid sc (s.thread u)).trans (State.thread_uid hs)
  obtain ⟨hsc, hpc, _, _⟩ := undo_stands sc (s.thread u)
  unfold scoutPlain
  generalize sc.undo (s.thread u) = x at hu hsc hpc ⊢
  have h := unbundle_set (x := { x with plain := true }) hs hu (s.thread u)
  exact ⟨(congrArg Thread.scout h :).trans hsc, (congrArg Thread.pc h :).trans hpc, (congrArg Thread.plain h :)⟩

/-- A load that traps: the thread is undone. -/
theorem undone_thread : ((unbundle (s.setThread (sc.undo (s.thread u))) (s.thread u)).thread u).scout = none ∧
    ((unbundle (s.setThread (sc.undo (s.thread u))) (s.thread u)).thread u).pc = sc.pc := by
  have hu := (undo_uid sc (s.thread u)).trans (State.thread_uid hs)
  obtain ⟨hsc, hpc, _, _⟩ := undo_stands sc (s.thread u)
  generalize sc.undo (s.thread u) = x at hu hsc hpc ⊢
  have h := unbundle_set hs hu (s.thread u)
  exact ⟨(congrArg Thread.scout h :).trans hsc, (congrArg Thread.pc h :).trans hpc⟩

/-- A budget that has run out stops the episode; memory stays. -/
theorem scoutStop_budget (hsc : (s.thread u).scout = some sc) (hl : sc.long = true) (hb : sc.budget ≤ sc.count) :
    ((scoutStop s (s.thread u) .budget).thread u).scout = some { sc with stop := some .budget } ∧ (scoutStop s (s.thread u) .budget).mem = s.mem := by
  have e : scoutStop s (s.thread u) .budget =
      leaveClause (scoutCount (s.setThread { s.thread u with scout := some { sc with stop := some .budget } }) (s.thread u) 0x30) (s.thread u) := by
    unfold scoutStop
    simp only [hsc, hl, hb, Bool.not_true, Bool.false_eq_true, if_false, if_true]
    rfl
  have stands : ∀ x : Thread, x.uid = u → ((leaveClause (scoutCount (s.setThread x) (s.thread u) 0x30) (s.thread u)).thread u).scout = x.scout := by
    intro x hx
    have h := leaveClause_thread (scoutCount (s.setThread x) (s.thread u) 0x30) (s.thread u) u
    rw [show (scoutCount (s.setThread x) (s.thread u) 0x30).thread u = x from State.thread_setThread_same hx hs] at h
    exact (congrArg Thread.scout h :)
  rw [e]
  exact ⟨stands _ (State.thread_uid hs), leaveClause_mem ..⟩

/-- A restored thread: it is ready at its load, outside scout, its saved registers put back. -/
theorem restoreScout_thread {s1 : State} (e : SameThreads s s1) :
    let t := (restoreScout s1 (s.thread u) sc).thread u
    t.scout = none ∧ t.pc = sc.pc ∧ t.mid = some sc.header ∧ t.status = .ready ∧ t.rerun = true ∧
      ∀ r, t.reg r = (sc.saves.foldl (fun (t : Thread) x => t.put x.1 x.2.1 x.2.2.2) (s.thread u)).reg r := by
  have hs1 : s1.hasThread u = true := by
    unfold State.hasThread
    rw [e.threads]
    exact hs
  have hu := (undo_uid sc (s.thread u)).trans (State.thread_uid hs)
  obtain ⟨hsc, hpc, hmid, hst⟩ := undo_stands sc (s.thread u)
  have hreg := (undo_keeps sc (s.thread u)).2
  unfold restoreScout
  generalize sc.undo (s.thread u) = x at hu hsc hpc hmid hst hreg ⊢
  have h := unbundle_set (x := { x with rerun := true, brought := sc.replies, reply := (s.thread u).reply }) hs1 hu (s.thread u)
  exact ⟨(congrArg Thread.scout h :).trans hsc, (congrArg Thread.pc h :).trans hpc, (congrArg Thread.mid h :).trans hmid,
    (congrArg Thread.status h :).trans hst, (congrArg Thread.rerun h :), fun r => (congrArg (fun t : Thread => t.reg r) h :).trans (hreg r)⟩

end

/-! ### A load opens a checkpoint (R173, R174) -/

/-- A result is provisional if it is the one that waits for a token. -/
def Pending.provisional (tok : Nat) (w : Pending) : Pending := if w.tok == tok then { w with prov := true } else w

/-- The thread that goes on without a load's result. -/
def Thread.checkpointed (t : Thread) (c : Cur) (is : Issue) (dst : List Nat) (tok : Nat) : Thread :=
  let t0 := t.issued c is (dst.map fun r => (r, 0, false, true)) false tok 0
  { t0 with window := t0.window.map (Pending.provisional tok) }

/-- The checkpoint of a load. -/
def checkpointOf (t : Thread) (c : Cur) (va : DWord) (size : Nat) (sx : Bool) (dst : List Nat) (cls : EClass) (tok : Nat) : Scout :=
  { pc := c.addr, header := c.hdr, stamp := t.stamp, budget := t.scoutBud, va := va, size := size, sx := sx, dst := dst, cls := cls, tok := tok }

theorem openCheckpoint_eq (s : State) (t : Thread) (c : Cur) (is : Issue) (va : DWord) (size : Nat) (sx : Bool) (dst : List Nat) (cls : EClass) :
    openCheckpoint s t c is va size sx dst cls =
      trimL1 ((retire { s with nextUid := s.nextUid + 1 } (t.checkpointed c is dst (s.nextUid + 2)) c).setThread
        { (retire { s with nextUid := s.nextUid + 1 } (t.checkpointed c is dst (s.nextUid + 2)) c).thread t.uid with
          scout := some (checkpointOf t c va size sx dst cls (s.nextUid + 2)) }) t.core := rfl

/-- A thread that has gone on takes a checkpoint. -/
theorem Issuing.checkpoint {s s1 : State} {u : Nat} {c : Cur} {th : Thread} (h : Issuing s s1 u c th) (sc : Scout) (core : Nat) :
    let t := trimL1 (s1.setThread { s1.thread u with scout := some sc }) core
    (t.thread u).scout = some sc ∧ (t.thread u).pc = c.next ∧ (t.thread u).regs = th.regs ∧ (t.thread u).window = th.window ∧
      (∀ k, t.byte k = s.byte k) ∧ OthersStand s t u := by
  have hset := Turning.of_set (t := { s1.thread u with scout := some sc }) h.has h.thread_uid
  intro t
  have ht : t.thread u = { s1.thread u with scout := some sc } := hset.thread
  rw [ht]
  exact ⟨rfl, (congrArg Thread.pc h.thread :), (congrArg Thread.regs h.thread :).trans (Thread.lower_regs th),
    (congrArg Thread.window h.thread :).trans (Thread.lower_window th), h.memory, fun v hv => (hset.others v hv).trans (h.others v hv)⟩

/-- A thread without a checkpoint takes no log slot in another's place. -/
theorem slotsUsed_setThread (s : State) {t : Thread} (h : t.scout = none) (core : Nat) : slotsUsed (s.setThread t) core ≤ slotsUsed s core := by
  have hl : ∀ l : List Thread, ((modWhere (fun x => x.uid == t.uid) (fun _ => t) l).filter fun t => t.core == core && t.scout.isSome).length ≤
      (l.filter fun t => t.core == core && t.scout.isSome).length := by
    intro l
    rw [← List.countP_eq_length_filter, ← List.countP_eq_length_filter]
    unfold modWhere
    rw [List.countP_map]
    refine List.countP_mono_left fun x _ hx => ?_
    simp only [Function.comp] at hx
    split at hx
    · simp [h] at hx
    · exact hx
  exact hl s.threads

section
variable {s : State} {u : Nat} {c : Cur} {th : Thread} (h : Runs s u c th) {is : Issue}
include h

theorem globalLoad_opens {m : Mem} {addr n : Nat} (hn : 0 < n) (hlog : ∀ x ∈ s.teams, x.log = [])
    (hw : wouldCheckpoint s th (BitVec.ofNat 64 addr) = true) (hf : slotsUsed s th.core < logSlots s th.core) (dst : List Nat) :
    globalLoad (s.setThread (th.raised (some is))) (th.raised (some is)) c m dst addr n =
      openCheckpoint (s.setThread (th.raised (some is))) (th.raised (some is)) c m.is (BitVec.ofNat 64 addr) n m.sx dst
        (memCls m (th.raised (some is)) (BitVec.ofNat 64 addr)) := by
  have hfw : (if (th.raised (some is)).part.isNone then forward (s.setThread (th.raised (some is))) (th.raised (some is)) addr n else none) = none := by
    split
    · exact forward_none (teamOf_log (s := s.setThread (th.raised (some is))) hlog _) addr hn
    · rfl
  have hslot : slotsUsed (s.setThread (th.raised (some is))) (th.raised (some is)).core < logSlots (s.setThread (th.raised (some is))) (th.raised (some is)).core := by
    rw [Thread.raised_core]
    exact lt_of_le_of_lt (slotsUsed_setThread s ((Thread.raised_scout ..).trans h.scout) _) hf
  unfold globalLoad
  simp only [hfw, (wouldCheckpoint_raised s th (some is) _).trans hw, hslot, decide_true, Bool.and_self, if_true]

/-- What a load leaves that opens a checkpoint: its thread has gone on, its result waiting under the window, and holds the checkpoint. -/
theorem openCheckpoint_opens (va : DWord) (size : Nat) (sx : Bool) (dst : List Nat) (cls : EClass) :
    ∃ t tok, openCheckpoint (s.setThread (th.raised (some is))) (th.raised (some is)) c is va size sx dst cls = t ∧
      (t.thread u).scout = some (checkpointOf (th.raised (some is)) c va size sx dst cls tok) ∧ (t.thread u).pc = c.next ∧ (t.thread u).regs = th.regs ∧
      (∃ p ∈ (t.thread u).window, p.tok = tok ∧ p.ready = false ∧ p.prov = true ∧ p.regs.map (·.1) = dst) ∧ (∀ k, t.byte k = s.byte k) ∧ OthersStand s t u := by
  have hru : (th.raised (some is)).uid = u := (Thread.raised_uid ..).trans h.uid
  have hcp : (th.raised (some is)).checkpointed c is dst (s.nextUid + 2) = { th.counted is with
      window := ((th.raised (some is)).checkpointed c is dst (s.nextUid + 2)).window } := by
    unfold Thread.checkpointed
    rw [raised_issued h.scout]
  have hp : ∃ p ∈ ((th.raised (some is)).checkpointed c is dst (s.nextUid + 2)).window, p.tok = s.nextUid + 2 ∧ p.ready = false ∧ p.prov = true ∧
      p.regs.map (·.1) = dst := by
    unfold Thread.checkpointed
    rw [raised_issued h.scout]
    refine ⟨_, List.mem_map_of_mem (List.mem_append_right _ (List.mem_singleton_self _)), ?_⟩
    unfold Pending.provisional
    simp only [beq_self_eq_true, if_true, List.map_map, true_and]
    exact List.map_id _
  have hI := (issuing_retire (c := c) (t := th.raised (some is)) (t' := (th.raised (some is)).checkpointed c is dst (s.nextUid + 2)) h.has hru
    (by rw [hcp]; exact h.uid) (by rw [hcp]; exact h.scout) (s.nextUid + 1)).1
  have e := openCheckpoint_eq (s.setThread (th.raised (some is))) (th.raised (some is)) c is va size sx dst cls
  rw [hru] at e
  obtain ⟨h1, hpc, hregs, hwin, hb, ho⟩ := hI.checkpoint (checkpointOf (th.raised (some is)) c va size sx dst cls (s.nextUid + 2)) (th.raised (some is)).core
  exact ⟨_, s.nextUid + 2, e, h1, hpc, hregs.trans (congrArg Thread.regs hcp :), hwin ▸ hp, hb, ho⟩

end

/-! ### The obligation -/

/-- Settles O42: a missing load goes on under its checkpoint; each outcome, the end of the budget and the restoration do what their
events say, and nothing where they do not apply. -/
theorem scoutEpisodes : Obligations.ScoutEpisodes := by
  unfold Obligations.ScoutEpisodes
  constructor
  · intro s u c th m d a h hcf hwf hscr hr he _ hlog hcan hw hf
    obtain ⟨t, tok, ht, hsc, hpc, hregs, hp, hb, ho⟩ := openCheckpoint_opens h (is := m.is) (BitVec.ofNat 64 (memAddr m th a)) (memBytes m) m.sx
      (dataRegs d (memBytes m)) (memCls m (th.raised (some m.is)) (BitVec.ofNat 64 (memAddr m th a)))
    refine ⟨t, _, ?_, hsc, rfl, rfl, rfl, rfl, rfl, (Thread.raised_scoutBud ..), rfl, hpc, hregs, hp, hb, ho⟩
    rw [ld_checks h hwf hcf hr he, checked_none (by rw [hscr]; exact addrBad_memory false (by simp) hcan), if_neg (by simp [hscr]),
      globalLoad_opens h (memBytes_pos m) hlog hw hf, ht]
  · intro s u sc hs hsc th
    refine ⟨scoutOutcome_known hsc, fun hl hst => ⟨fun ho => ?_, fun ho => ?_, fun ho => ?_, fun code addr info ho => ?_⟩, scoutBudgetEnd_idle hsc,
      fun hl hst hb => ⟨_, scoutBudgetEnd_stops hsc hl hst hb, scoutStop_budget hs hsc hl hb⟩, scoutRestore_waits hsc, fun hl ha hn hin => ?_⟩
    case refine_1 =>
      refine ⟨_, scoutOutcome_performed hsc hl hst ho, ?_, fun hc => ⟨scoutPerformed_byte hs hc, fun a n off p hl hps hlook hp ht hr hv hd hn hlen =>
        scoutPerformed_one hs hsc hc hl hps hlook hp ht hr hv hd hn hlen⟩⟩
      rw [scoutPerformed_thread hs]
      exact settle_scout _
    case refine_2 =>
      obtain ⟨h1, h2, h3⟩ := scoutPlain_thread hs (sc := sc)
      exact ⟨_, scoutOutcome_plain hsc hl hst ho, h1, h2, h3, fun k => unbundle_byte ..⟩
    case refine_3 =>
      obtain ⟨_, hn, z, hz, hlong, hpc, hsaves⟩ := scoutLong_scouts hs (sc := sc)
      exact ⟨_, z, scoutOutcome_long hsc hl hst ho, hz, hlong, hpc, hsaves, hn⟩
    case refine_4 => exact ⟨_, scoutOutcome_trap hsc hl hst ho, undone_thread hs⟩
    case refine_5 =>
      obtain ⟨s1, hs1, e⟩ := scoutRestore_restores hsc hl ha
      obtain ⟨h1, h2, h3, h4, h5, hreg⟩ := restoreScout_thread hs (sc := sc) hs1
      refine ⟨_, e, h1, h2, h3, h4, h5, fun x hx => ?_, fun r hr => ?_⟩
      · rw [hreg]
        exact foldl_put_reg_same (fun x : Word × Bool × Bool => x.1) (fun x => x.2.2) hn hx (hin x hx).1 (hin x hx).2
      · rw [hreg]
        exact foldl_put_reg_other (fun x : Word × Bool × Bool => x.1) (fun x => x.2.2) hn (s.thread u) hr

end Sys2Proof.Machine
end


section
/-! PROOF. Rounding (R62-R68): a pattern's sign and magnitude, the grid on which a value is rounded, what Round keeps and drops, and
that it gives back what a format holds. -/
namespace Sys2Proof.Machine
open Sys2Proof

/-! ### A pattern's sign and magnitude (R62, R63) -/

/-- The sign and the magnitude of a pattern. -/
def Fmt.signOf (f : Fmt) (x : Nat) : Bool := (x >>> (f.e + f.m)) % 2 == 1
def Fmt.magOf (f : Fmt) (x : Nat) : Nat := x % 2 ^ (f.e + f.m)
/-- The significand of a magnitude, the implicit bit of a normal one included, and the exponent of its unit. -/
def Fmt.sig (f : Fmt) (mag : Nat) : Nat := if mag / 2 ^ f.m = 0 then mag else mag % 2 ^ f.m + 2 ^ f.m
def Fmt.expo (f : Fmt) (mag : Nat) : Int := f.qmin + (mag / 2 ^ f.m - 1 : Nat)

/-- The value of a sign and a magnitude. -/
def Fmt.valMag (f : Fmt) (neg : Bool) (mag : Nat) : Val :=
  if mag = 0 then .zero neg
  else if mag ≤ f.max then .fin neg (f.sig mag) (f.expo mag)
  else if f.inf = some mag then .inf neg
  else .nan

theorem valOf_eq (f : Fmt) (x : Nat) : valOf f x = f.valMag (f.signOf x) (f.magOf x) := by
  unfold valOf Fmt.valMag Fmt.signOf Fmt.magOf Fmt.sig Fmt.expo
  simp only [beq_iff_eq, Nat.shiftRight_eq_div_pow]
  generalize x % 2 ^ (f.e + f.m) = mag
  by_cases hs : mag / 2 ^ f.m = 0
  · have := Nat.mod_eq_of_lt ((Nat.div_eq_zero_iff_lt (by positivity)).mp hs)
    simp [hs, this]
  · have : ((mag / 2 ^ f.m - 1 : Nat) : Int) = (mag / 2 ^ f.m : Nat) - 1 := Int.ofNat_sub (Nat.one_le_iff_ne_zero.mpr hs)
    simp only [hs, ↓reduceIte, this, add_sub_assoc]

/-- The fields of a format fit each other: its numbers lie below its infinity, both within its magnitude bits, and so does its NaN. -/
def Fmt.Sound (f : Fmt) : Prop :=
  1 ≤ f.m ∧ f.max < 2 ^ (f.e + f.m) ∧ (∀ i ∈ f.inf, f.max < i ∧ i < 2 ^ (f.e + f.m)) ∧ ∀ n ∈ f.nan, n < 2 ^ (f.e + f.m)

theorem sound_formats : ∀ f ∈ [fp32, fp16, bf16, e4m3, e5m2, e2m1], f.Sound := by unfold Fmt.Sound; decide

theorem patOf_lt {f : Fmt} {mag : Nat} (neg : Bool) (h : mag < 2 ^ (f.e + f.m)) : patOf f neg mag < 2 ^ f.width := by
  unfold patOf Fmt.width
  rw [show 1 + f.e + f.m = f.e + f.m + 1 by omega, pow_succ]
  split <;> omega

theorem patOf_signOf_magOf {f : Fmt} {x : Nat} (h : x < 2 ^ f.width) : patOf f (f.signOf x) (f.magOf x) = x := by
  unfold patOf Fmt.signOf Fmt.magOf
  unfold Fmt.width at h
  rw [show 1 + f.e + f.m = f.e + f.m + 1 by omega, pow_succ] at h
  rw [Nat.shiftRight_eq_div_pow]
  generalize 2 ^ (f.e + f.m) = p at *
  have hd := Nat.div_add_mod x p
  have hq : x / p < 2 := Nat.div_lt_of_lt_mul (by omega)
  interval_cases x / p <;> simp <;> omega

theorem valOf_patOf {f : Fmt} {mag : Nat} (neg : Bool) (h : mag < 2 ^ (f.e + f.m)) : valOf f (patOf f neg mag) = f.valMag neg mag := by
  have hs : f.signOf (patOf f neg mag) = neg := by
    unfold Fmt.signOf patOf
    rw [Nat.shiftRight_eq_div_pow]
    cases neg <;> simp [Nat.div_eq_of_lt h, Nat.add_div_left]
  have hm : f.magOf (patOf f neg mag) = mag := by
    unfold Fmt.magOf patOf
    cases neg <;> simp [Nat.mod_eq_of_lt h]
  rw [valOf_eq, hs, hm]

/-- A finite non-zero value of a format is that of its sign and magnitude. -/
theorem valOf_fin {f : Fmt} {x : Nat} {n : Bool} {m : Nat} {e : Int} (h : valOf f x = .fin n m e) :
    f.signOf x = n ∧ f.magOf x ≠ 0 ∧ f.magOf x ≤ f.max ∧ m = f.sig (f.magOf x) ∧ e = f.expo (f.magOf x) := by
  rw [valOf_eq] at h
  unfold Fmt.valMag at h
  split_ifs at h
  obtain ⟨h1, h2, h3⟩ := Val.fin.inj h
  exact ⟨h1, ‹_›, ‹_›, h2.symm, h3.symm⟩

theorem valOf_zero {f : Fmt} {x : Nat} {n : Bool} (h : valOf f x = .zero n) : f.signOf x = n ∧ f.magOf x = 0 := by
  rw [valOf_eq] at h
  unfold Fmt.valMag at h
  split_ifs at h
  exact ⟨Val.zero.inj h, ‹_›⟩

theorem valOf_inf {f : Fmt} {x : Nat} {n : Bool} (h : valOf f x = .inf n) : f.signOf x = n ∧ f.inf = some (f.magOf x) := by
  rw [valOf_eq] at h
  unfold Fmt.valMag at h
  split_ifs at h
  exact ⟨Val.inf.inj h, ‹_›⟩

theorem sig_lt (f : Fmt) (mag : Nat) : f.sig mag < 2 ^ (f.m + 1) := by
  unfold Fmt.sig
  rw [pow_succ]
  split
  · have := (Nat.div_eq_zero_iff_lt (Nat.two_pow_pos f.m)).mp ‹mag / 2 ^ f.m = 0›
    omega
  · have := Nat.mod_lt mag (y := 2 ^ f.m) (by positivity)
    omega

theorem sig_pos {f : Fmt} {mag : Nat} (h : mag ≠ 0) : f.sig mag ≠ 0 := by
  unfold Fmt.sig
  split
  · exact h
  · have : 0 < 2 ^ f.m := by positivity
    omega

/-! ### One value as two multiples of powers of two -/

/-- m × 2^e and m' × 2^e' are the same number. -/
def SameValue (m : Nat) (e : Int) (m' : Nat) (e' : Int) : Prop := ∃ a b : Nat, m * 2 ^ a = m' * 2 ^ b ∧ e - a = e' - b

theorem SameValue.symm {m m' : Nat} {e e' : Int} (h : SameValue m e m' e') : SameValue m' e' m e := by
  obtain ⟨a, b, h1, h2⟩ := h
  exact ⟨b, a, h1.symm, h2.symm⟩

theorem SameValue.scaled {m m' : Nat} {e e' k : Int} (h : SameValue m e m' e') (hk : k ≤ e) (hk' : k ≤ e') :
    m * 2 ^ (e - k).toNat = m' * 2 ^ (e' - k).toNat := by
  obtain ⟨a, b, h1, h2⟩ := h
  apply Nat.eq_of_mul_eq_mul_right (show 0 < 2 ^ a by positivity)
  rw [mul_right_comm, h1, mul_assoc, mul_assoc, ← pow_add, ← pow_add]
  congr 2
  omega

theorem log2_mul_pow {m : Nat} (hm : m ≠ 0) (a : Nat) : Nat.log2 (m * 2 ^ a) = Nat.log2 m + a := by
  induction a with
  | zero => simp
  | succ a ih =>
    have : m * 2 ^ a ≠ 0 := by positivity
    rw [pow_succ, ← mul_assoc, mul_comm _ 2, Nat.log2_two_mul this, ih]
    rfl

/-- The same number has its highest bit at the same place. -/
theorem SameValue.log2 {m m' : Nat} {e e' : Int} (h : SameValue m e m' e') (hm : m ≠ 0) (hm' : m' ≠ 0) :
    (Nat.log2 m : Int) + e = Nat.log2 m' + e' := by
  obtain ⟨a, b, h1, h2⟩ := h
  have h3 := congrArg Nat.log2 h1
  rw [log2_mul_pow hm, log2_mul_pow hm'] at h3
  omega

/-- A number of an exponent field j and a kept part of one digit more than the mantissa, the carry into the next exponent included. -/
theorem sameValue_mag (f : Fmt) {j n : Nat} (hn : n ≤ 2 ^ (f.m + 1)) (hj : j = 0 ∨ 2 ^ f.m ≤ n) :
    SameValue n (f.qmin + j) (f.sig (j * 2 ^ f.m + n)) (f.expo (j * 2 ^ f.m + n)) := by
  have hp : 0 < 2 ^ f.m := by positivity
  have hd : (j * 2 ^ f.m + n) / 2 ^ f.m = j + n / 2 ^ f.m := by rw [add_comm, Nat.add_mul_div_right _ _ hp, add_comm]
  have hr : (j * 2 ^ f.m + n) % 2 ^ f.m = n % 2 ^ f.m := by rw [add_comm, Nat.add_mul_mod_self_right]
  unfold Fmt.sig Fmt.expo
  rw [hd, hr]
  rw [pow_succ] at hn
  generalize 2 ^ f.m = p at *
  by_cases h0 : n < p
  · obtain rfl : j = 0 := by omega
    exact ⟨0, 0, by simp [Nat.div_eq_of_lt h0], by simp [Nat.div_eq_of_lt h0]⟩
  · by_cases h1 : n = p * 2
    · subst h1
      refine ⟨0, 1, ?_, ?_⟩ <;> simp [Nat.mul_div_cancel_left 2 hp]
      omega
    · have hn1 : n / p = 1 := Nat.div_eq_of_lt_le (by omega) (by omega)
      have hm : n % p + p = n := by have := Nat.div_add_mod n p; rw [hn1] at this; omega
      exact ⟨0, 0, by simp [hn1, hm], by simp [hn1]⟩

/-! ### The grid of a rounding, what it keeps and what it drops (R66) -/

/-- The exponent of the grid on which m × 2^e is rounded. -/
def gridExp (f : Fmt) (m : Nat) (e : Int) : Int := max ((Nat.log2 m : Int) + e - (f.m : Int)) f.qmin
/-- The exponent field of that grid, 0 for the subnormal numbers and the least binade alike. -/
def Fmt.field (f : Fmt) (m : Nat) (e : Int) : Nat := (gridExp f m e - f.qmin).toNat
/-- How many places below the grid the number reaches. -/
def Fmt.places (f : Fmt) (m : Nat) (e : Int) : Nat := (gridExp f m e - e).toNat
/-- The number in units of the finer one of its own grid and the format's. -/
def Fmt.fine (f : Fmt) (m : Nat) (e : Int) : Nat := m * 2 ^ (e - gridExp f m e).toNat
/-- The part of the number on the grid, and the part below it. -/
def Fmt.kept (f : Fmt) (m : Nat) (e : Int) : Nat := f.fine m e / 2 ^ f.places m e
def Fmt.dropped (f : Fmt) (m : Nat) (e : Int) : Nat := f.fine m e % 2 ^ f.places m e

/-- The magnitude of the part on the grid: the greatest of the format's, counted on beyond its end, that is not above the number. -/
def Fmt.lower (f : Fmt) (m : Nat) (e : Int) : Nat := f.field m e * 2 ^ f.m + f.kept m e

theorem roundsUp_exact (mode : RMode) (neg odd : Bool) {half : Nat} (h : half ≠ 0) : roundsUp mode neg odd 0 half = false := by
  cases mode <;> simp [roundsUp, Ne.symm h]

theorem roundMag_eq (f : Fmt) (mode : RMode) (neg : Bool) (m : Nat) (e : Int) :
    roundMag f mode neg m e =
      (f.lower m e +
        if roundsUp mode neg (f.kept m e % 2 == 1) (f.dropped m e) (2 ^ (f.places m e - 1)) then 1 else 0, f.dropped m e != 0) := by
  have e0 : roundMag f mode neg m e =
      if gridExp f m e ≤ e then ((gridExp f m e - f.qmin).toNat <<< f.m + m <<< (e - gridExp f m e).toNat, false)
      else
        ((gridExp f m e - f.qmin).toNat <<< f.m + m >>> (gridExp f m e - e).toNat +
          (if roundsUp mode neg (m >>> (gridExp f m e - e).toNat % 2 == 1) (m % 2 ^ (gridExp f m e - e).toNat) (2 ^ ((gridExp f m e - e).toNat - 1)) then 1 else 0),
          m % 2 ^ (gridExp f m e - e).toNat != 0) := rfl
  rw [e0]
  unfold Fmt.lower Fmt.field Fmt.kept Fmt.dropped Fmt.fine Fmt.places
  simp only [Nat.shiftLeft_eq, Nat.shiftRight_eq_div_pow]
  split
  · have h0 : (gridExp f m e - e).toNat = 0 := by omega
    simp [h0, Nat.mod_one, roundsUp_exact]
  · have h0 : (e - gridExp f m e).toNat = 0 := by omega
    simp [h0]

theorem qmin_le_gridExp (f : Fmt) (m : Nat) (e : Int) : f.qmin ≤ gridExp f m e := le_max_right ..

theorem gridExp_eq (f : Fmt) (m : Nat) (e : Int) : gridExp f m e = f.qmin + f.field m e := by
  have := qmin_le_gridExp f m e
  unfold Fmt.field
  omega

theorem fine_eq (f : Fmt) (m : Nat) (e : Int) : f.fine m e = f.kept m e * 2 ^ f.places m e + f.dropped m e :=
  (Nat.div_add_mod' ..).symm

theorem dropped_lt (f : Fmt) (m : Nat) (e : Int) : f.dropped m e < 2 ^ f.places m e := Nat.mod_lt _ (by positivity)

/-- In units of a grid finer than both, a number is its parts. -/
theorem scaled_fine (f : Fmt) (m : Nat) {e k : Int} (he : k ≤ e) (hq : k ≤ gridExp f m e) :
    m * 2 ^ (e - k).toNat = f.fine m e * 2 ^ (min e (gridExp f m e) - k).toNat := by
  unfold Fmt.fine
  rw [mul_assoc, ← pow_add]
  congr 2
  omega

theorem scaled_gridExp (f : Fmt) (m : Nat) {e k : Int} (n : Nat) (he : k ≤ e) (hq : k ≤ gridExp f m e) :
    n * 2 ^ (gridExp f m e - k).toNat = n * 2 ^ f.places m e * 2 ^ (min e (gridExp f m e) - k).toNat := by
  unfold Fmt.places
  rw [mul_assoc, ← pow_add]
  congr 2
  omega

/-- The part on the grid has at most one digit more than the mantissa, and no fewer in a normal binade. -/
theorem kept_bounds (f : Fmt) {m : Nat} (e : Int) (hm : m ≠ 0) :
    f.kept m e < 2 ^ (f.m + 1) ∧ (f.field m e = 0 ∨ 2 ^ f.m ≤ f.kept m e) := by
  have hlo := Nat.log2_self_le hm
  have hhi := Nat.lt_log2_self (n := m)
  have hgrid : (Nat.log2 m : Int) + e - f.m ≤ gridExp f m e := le_max_left ..
  unfold Fmt.kept Fmt.fine
  constructor
  · rw [Nat.div_lt_iff_lt_mul (by positivity), ← pow_add]
    calc m * 2 ^ (e - gridExp f m e).toNat < 2 ^ (Nat.log2 m + 1) * 2 ^ (e - gridExp f m e).toNat := Nat.mul_lt_mul_of_pos_right hhi (by positivity)
      _ = 2 ^ (Nat.log2 m + 1 + (e - gridExp f m e).toNat) := (pow_add ..).symm
      _ ≤ 2 ^ (f.m + 1 + f.places m e) := Nat.pow_le_pow_right (by omega) (by unfold Fmt.places; omega)
  · by_cases h0 : f.field m e = 0
    · exact .inl h0
    · refine .inr ?_
      have hs : gridExp f m e = (Nat.log2 m : Int) + e - f.m := by unfold Fmt.field gridExp at h0; unfold gridExp; omega
      rw [Nat.le_div_iff_mul_le (by positivity), ← pow_add]
      calc 2 ^ (f.m + f.places m e) ≤ 2 ^ (Nat.log2 m + (e - gridExp f m e).toNat) := Nat.pow_le_pow_right (by omega) (by unfold Fmt.places; omega)
        _ = 2 ^ Nat.log2 m * 2 ^ (e - gridExp f m e).toNat := pow_add ..
        _ ≤ _ := Nat.mul_le_mul_right _ hlo

/-- What a rounding keeps, or its neighbour, as a magnitude: the same number in units of the grid. -/
theorem sameValue_kept (f : Fmt) {m : Nat} (e : Int) (hm : m ≠ 0) {i : Nat} (hi : i ≤ 1) :
    SameValue (f.kept m e + i) (gridExp f m e) (f.sig (f.lower m e + i)) (f.expo (f.lower m e + i)) := by
  obtain ⟨h1, h2⟩ := kept_bounds f e hm
  rw [gridExp_eq, Fmt.lower, add_assoc]
  exact sameValue_mag f (by omega) (by omega)

/-- A value that a format holds lies on its grid and rounds to its own magnitude (R66). -/
theorem roundMag_held {f : Fmt} (mode : RMode) (neg : Bool) {m mag : Nat} {e : Int} (hm : m ≠ 0) (hmag : mag ≠ 0)
    (h : SameValue m e (f.sig mag) (f.expo mag)) : roundMag f mode neg m e = (mag, false) := by
  have htop := h.log2 hm (sig_pos hmag)
  have hp : 0 < 2 ^ f.m := by positivity
  have hgrid : gridExp f m e = f.expo mag := by
    unfold gridExp
    rw [htop]
    unfold Fmt.expo Fmt.sig
    split
    · have : mag.log2 < f.m := (Nat.log2_lt hmag).mpr ((Nat.div_eq_zero_iff_lt hp).mp ‹_›)
      omega
    · have : (mag % 2 ^ f.m + 2 ^ f.m).log2 = f.m :=
        (Nat.log2_eq_iff (by omega)).mpr ⟨by omega, by have := Nat.mod_lt mag hp; rw [pow_succ]; omega⟩
      omega
  have hfine : f.fine m e = f.sig mag * 2 ^ f.places m e := by
    have := h.scaled (k := min e (f.expo mag)) (by omega) (by omega)
    unfold Fmt.fine Fmt.places
    rw [hgrid]
    convert this using 3 <;> omega
  have hkept : f.kept m e = f.sig mag := by unfold Fmt.kept; rw [hfine]; exact Nat.mul_div_cancel _ (by positivity)
  have hdrop : f.dropped m e = 0 := by unfold Fmt.dropped; rw [hfine]; exact Nat.mul_mod_left ..
  have hlower : f.lower m e = mag := by
    have hf : f.field m e = mag / 2 ^ f.m - 1 := by unfold Fmt.field; rw [hgrid]; unfold Fmt.expo; omega
    unfold Fmt.lower Fmt.sig at *
    rw [hf, hkept]
    have hd := Nat.div_add_mod mag (2 ^ f.m)
    split
    · simp [*]
    · obtain ⟨c, hc⟩ := Nat.exists_eq_succ_of_ne_zero ‹¬ mag / 2 ^ f.m = 0›
      rw [hc] at hd ⊢
      rw [Nat.succ_sub_one]
      linarith [Nat.mul_comm (2 ^ f.m) c, Nat.mul_succ (2 ^ f.m) c]
  rw [roundMag_eq, hdrop, hlower, roundsUp_exact _ _ _ (by positivity)]
  rfl

/-- Where the number lies on the grid, it is what it keeps. -/
theorem sameValue_lower {f : Fmt} {m : Nat} {e : Int} (hm : m ≠ 0) (hd : f.dropped m e = 0) :
    SameValue m e (f.sig (f.lower m e)) (f.expo (f.lower m e)) := by
  obtain ⟨a, b, h1, h2⟩ := sameValue_kept f e hm (i := 0) (by omega)
  refine ⟨(e - gridExp f m e).toNat + a, f.places m e + b, ?_, ?_⟩
  · have hf := fine_eq f m e
    rw [hd, add_zero] at hf
    rw [pow_add, pow_add, ← mul_assoc, show m * 2 ^ (e - gridExp f m e).toNat = f.fine m e from rfl, hf, mul_right_comm, ← add_zero (f.kept m e), h1,
      add_zero, mul_assoc, mul_comm (2 ^ b)]
  · unfold Fmt.places
    rw [add_zero] at h2
    omega

/-! ### Round of finite values (R66, R70) -/

theorem roundTo_held {f : Fmt} (mode : RMode) (sat neg : Bool) {m mag : Nat} {e : Int} (hm : m ≠ 0) (hmag : mag ≠ 0) (hmax : mag ≤ f.max)
    (h : SameValue m e (f.sig mag) (f.expo mag)) : roundTo f mode sat (.fin neg m e) = (patOf f neg mag, 0) := by
  simp [roundTo, roundMag_held mode neg hm hmag h, hmax]

/-- Round gives back what a format holds. -/
theorem roundTo_valOf {f : Fmt} (mode : RMode) (sat : Bool) {x : Nat} (hx : x < 2 ^ f.width) (hnan : valOf f x ≠ .nan)
    (hinf : ∀ n, valOf f x ≠ .inf n) : roundTo f mode sat (valOf f x) = (x, 0) := by
  cases h : valOf f x with
  | nan => exact absurd h hnan
  | inf n => exact absurd h (hinf n)
  | zero n =>
    obtain ⟨hs, hm⟩ := valOf_zero h
    have := patOf_signOf_magOf hx
    rw [hs, hm] at this
    simp [roundTo, this]
  | fin n m e =>
    obtain ⟨hs, h0, hmax, rfl, rfl⟩ := valOf_fin h
    rw [roundTo_held mode sat n (sig_pos h0) h0 hmax ⟨0, 0, rfl, rfl⟩, ← hs, patOf_signOf_magOf hx]

theorem roundMag_rz (f : Fmt) (neg : Bool) (m : Nat) (e : Int) : roundMag f .rz neg m e = (f.lower m e, f.dropped m e != 0) := by
  simp [roundMag_eq, roundsUp]

theorem roundMag_away (f : Fmt) {mode : RMode} {neg : Bool} (m : Nat) (e : Int) (h : mode = .ru ∧ neg = false ∨ mode = .rd ∧ neg = true) :
    roundMag f mode neg m e = (f.lower m e + if f.dropped m e = 0 then 0 else 1, f.dropped m e != 0) := by
  have hu : ∀ odd half, roundsUp mode neg odd (f.dropped m e) half = (f.dropped m e != 0) := fun _ _ => by
    rcases h with ⟨rfl, rfl⟩ | ⟨rfl, rfl⟩ <;> rfl
  rw [roundMag_eq, hu]
  by_cases hd : f.dropped m e = 0 <;> simp [hd]

theorem roundMag_back (f : Fmt) {mode : RMode} {neg : Bool} (m : Nat) (e : Int) (h : mode = .ru ∧ neg = true ∨ mode = .rd ∧ neg = false) :
    roundMag f mode neg m e = (f.lower m e, f.dropped m e != 0) := by
  rcases h with ⟨rfl, rfl⟩ | ⟨rfl, rfl⟩ <;> simp [roundMag_eq, roundsUp]

/-- A magnitude beside what a rounding keeps, on a grid finer than the rounding's. -/
theorem onGrid_lower {f : Fmt} (hf : f.Sound) {m : Nat} {e k : Int} (hm : m ≠ 0) {i : Nat} (hi : i ≤ 1) (hmax : f.lower m e + i ≤ f.max)
    (hk : k ≤ gridExp f m e) : (valOf f (f.lower m e + i)).onGrid k = ((f.kept m e + i) * 2 ^ (gridExp f m e - k).toNat : Nat) := by
  have hv := valOf_patOf (f := f) false (lt_of_le_of_lt hmax hf.2.1)
  have hp : patOf f false (f.lower m e + i) = f.lower m e + i := by simp [patOf]
  rw [hp] at hv
  rw [hv]
  by_cases h0 : f.lower m e + i = 0
  · have : f.kept m e + i = 0 := by unfold Fmt.lower at h0; omega
    simp [Fmt.valMag, h0, this, Val.onGrid]
  · have hexp : k ≤ f.expo (f.lower m e + i) := by
      obtain ⟨h1, h2⟩ := kept_bounds f e hm
      have hc := gridExp_eq f m e
      have : f.field m e ≤ (f.lower m e + i) / 2 ^ f.m - 1 ∨ f.field m e = 0 := by
        rcases h2 with h2 | h2
        · exact .inr h2
        · refine .inl (Nat.le_sub_of_add_le ((Nat.le_div_iff_mul_le (by positivity)).mpr ?_))
          unfold Fmt.lower
          rw [Nat.add_mul]
          omega
      unfold Fmt.expo
      omega
    rw [(sameValue_kept f e hm hi).scaled hk hexp]
    rw [Fmt.valMag, if_neg h0, if_pos hmax, Val.onGrid, Nat.shiftLeft_eq]
    rfl

/-- Round to nearest takes the part kept, or the next, by the part dropped against half of the grid's step. -/
theorem roundMag_rne (f : Fmt) (neg : Bool) (m : Nat) (e : Int) :
    ∃ i ≤ 1, (roundMag f .rne neg m e).1 = f.lower m e + i ∧
      (2 * f.dropped m e < 2 ^ f.places m e → i = 0) ∧ (2 ^ f.places m e < 2 * f.dropped m e → i = 1) ∧
      (2 * f.dropped m e = 2 ^ f.places m e → f.dropped m e ≠ 0 → (f.kept m e + i) % 2 = 0) := by
  rw [roundMag_eq]
  have hlt := dropped_lt f m e
  have hp : f.dropped m e ≠ 0 → 2 ^ f.places m e = 2 * 2 ^ (f.places m e - 1) := fun hd => by
    rw [← pow_succ']
    congr 1
    have : f.places m e ≠ 0 := fun h0 => hd (by rw [h0] at hlt; omega)
    omega
  by_cases hd : f.dropped m e = 0
  · refine ⟨0, by omega, ?_, fun _ => rfl, by omega, fun _ h => absurd hd h⟩
    rw [hd, roundsUp_exact _ _ _ (by positivity)]
    rfl
  · have hp := hp hd
    refine ⟨_, ?_, rfl, ?_⟩
    · split <;> omega
    · simp only [roundsUp, Bool.or_eq_true, Bool.and_eq_true, decide_eq_true_eq, beq_iff_eq]
      rw [hp]
      generalize 2 ^ (f.places m e - 1) = half at *
      split <;> omega

/-- The number and its two brackets on a common grid: the number lies above the lower one by what is dropped, the upper one by the
step of the rounding's grid. -/
theorem onGrid_brackets {f : Fmt} (hf : f.Sound) {m : Nat} (e : Int) (hm : m ≠ 0) (hmax : f.lower m e + 1 ≤ f.max ∨ f.dropped m e = 0 ∧ f.lower m e ≤ f.max) :
    ∃ k : Int, k ≤ e ∧ k ≤ f.qmin ∧ ∃ d : Int, 0 < d ∧
      (Val.fin false m e).onGrid k = (valOf f (f.lower m e)).onGrid k + f.dropped m e * d ∧
      (f.dropped m e ≠ 0 → (valOf f (f.lower m e + 1)).onGrid k = (valOf f (f.lower m e)).onGrid k + (2 ^ f.places m e : Nat) * d) := by
  have hq := qmin_le_gridExp f m e
  have hk : min e f.qmin ≤ gridExp f m e := by omega
  refine ⟨min e f.qmin, min_le_left .., min_le_right .., (2 ^ (min e (gridExp f m e) - min e f.qmin).toNat : Nat), by positivity, ?_, fun hd => ?_⟩
  · have hL := onGrid_lower hf hm (i := 0) (by omega) (by omega) hk
    rw [add_zero, add_zero, scaled_gridExp f m _ (min_le_left ..) hk] at hL
    rw [hL, Val.onGrid, Nat.shiftLeft_eq, scaled_fine f m (min_le_left ..) hk, fine_eq, if_neg Bool.false_ne_true]
    push_cast
    ring
  · have hL := onGrid_lower hf hm (i := 0) (by omega) (by omega) hk
    have hU := onGrid_lower hf hm (i := 1) (by omega) (by omega) hk
    rw [add_zero, add_zero, scaled_gridExp f m _ (min_le_left ..) hk] at hL
    rw [scaled_gridExp f m _ (min_le_left ..) hk] at hU
    rw [hL, hU]
    push_cast
    ring

/-- The brackets of a number without overflow, and the nearer of them, the even one of two equally near (R66). -/
theorem fp32_bracket (n : Bool) {m : Nat} (e : Int) (hm : m ≠ 0) :
    let lo := fp32.lower m e
    let near := (roundMag fp32 .rne n m e).1
    let up := lo + if fp32.dropped m e = 0 then 0 else 1
    (near = lo ∨ near = up) ∧
    (up ≤ fp32.max → ∃ k : Int, k ≤ e ∧ k ≤ -149 ∧
      let L := (valOf fp32 lo).onGrid k
      let V := (Val.fin false m e).onGrid k
      let U := (valOf fp32 up).onGrid k
      L ≤ V ∧ V ≤ U ∧ (2 * (V - L) < U - L → near = lo) ∧ (U - L < 2 * (V - L) → near = up) ∧ (L < V → 2 * (V - L) = U - L → near % 2 = 0)) := by
  intro lo near up
  obtain ⟨i, hi, hnear, hless, hmore, htie⟩ := roundMag_rne fp32 n m e
  have hnear : near = lo + i := hnear
  have heven : near % 2 = (fp32.kept m e + i) % 2 := by
    have : lo = fp32.field m e * 2 ^ 23 + fp32.kept m e := rfl
    omega
  have hsound : fp32.Sound := sound_formats _ (by simp)
  by_cases hd : fp32.dropped m e = 0
  · have hi0 : i = 0 := hless (by rw [hd]; positivity)
    have hup : up = lo := by simp [up, hd]
    refine ⟨.inl (by omega), fun hmax => ?_⟩
    obtain ⟨k, hk, hk', d, -, hV, -⟩ := onGrid_brackets hsound e hm (.inr ⟨hd, by omega⟩)
    rw [hd, Nat.cast_zero, zero_mul, add_zero] at hV
    exact ⟨k, hk, hk', by rw [hV], by rw [hV, hup], fun _ => by omega, fun _ => by omega, fun hlt => absurd hlt (by rw [hV]; exact lt_irrefl _)⟩
  · have hup : up = lo + 1 := by simp [up, hd]
    refine ⟨by omega, fun hmax => ?_⟩
    obtain ⟨k, hk, hk', d, hd0, hV, hU⟩ := onGrid_brackets hsound e hm (.inl (by omega))
    have hU := hU hd
    refine ⟨k, hk, hk', ?_⟩
    intro L V U
    have hVL : V = L + fp32.dropped m e * d := hV
    have hUL : U = L + (2 ^ fp32.places m e : Nat) * d := by rw [← hU, ← hup]
    have hlt := dropped_lt fp32 m e
    have hV2 : 2 * (V - L) = (2 * fp32.dropped m e : Nat) * d := by rw [hVL]; push_cast; ring
    have hU2 : U - L = (2 ^ fp32.places m e : Nat) * d := by rw [hUL]; ring
    have hscale : ∀ x y : Nat, (x : Int) * d < y * d ↔ x < y := fun x y => by rw [mul_lt_mul_iff_left₀ hd0, Nat.cast_lt]
    have hV1 : V < U := by rw [hVL, hUL]; exact Int.add_lt_add_left ((hscale ..).mpr hlt) L
    rw [hV2, hU2, hscale, hscale, mul_left_inj' hd0.ne', Nat.cast_inj]
    refine ⟨by rw [hVL]; exact le_add_of_nonneg_right (by positivity), hV1.le, fun h => ?_, fun h => ?_, fun _ h => ?_⟩
    · rw [hnear, hless h, add_zero]
    · rw [hnear, hmore h, hup]
    · rw [heven, htie h hd]

/-- A number of at most 24 bits within FP32's exponents is a value of FP32 (R62). -/
theorem fp32_holds {m : Nat} {e : Int} (h0 : m ≠ 0) (hm : m < 2 ^ 24) (he : -149 ≤ e) (htop : (Nat.log2 m : Int) + e ≤ 127) :
    ∃ mag ≤ fp32.max, mag ≠ 0 ∧ SameValue m e (fp32.sig mag) (fp32.expo mag) := by
  have hlog : Nat.log2 m < 24 := (Nat.log2_lt h0).mpr hm
  have hgrid : gridExp fp32 m e = max ((Nat.log2 m : Int) + e - 23) (-149) := rfl
  have hfield : (fp32.field m e : Int) = gridExp fp32 m e + 149 := by
    have := gridExp_eq fp32 m e
    have : fp32.qmin = -149 := rfl
    omega
  have hplaces : fp32.places m e = 0 := by unfold Fmt.places; omega
  obtain ⟨hkept, -⟩ := kept_bounds fp32 e h0
  have hk0 : fp32.kept m e ≠ 0 := by
    unfold Fmt.kept Fmt.fine
    rw [hplaces, pow_zero, Nat.div_one]
    positivity
  have hlower : fp32.lower m e = fp32.field m e * 2 ^ 23 + fp32.kept m e := rfl
  have hkept : fp32.kept m e < 2 ^ 24 := hkept
  have hmax : fp32.max = 0x7F7FFFFF := rfl
  exact ⟨fp32.lower m e, by omega, by omega, sameValue_lower h0 (by unfold Fmt.dropped; rw [hplaces, pow_zero, Nat.mod_one])⟩

/-- Settles O7: what a format holds rounds to itself, and the brackets of other numbers in FP32. -/
theorem roundIsExactOrBracketed : Obligations.RoundIsExactOrBracketed := by
  unfold Obligations.RoundIsExactOrBracketed
  refine ⟨fun f _ m sat x hx hnan hinf => roundTo_valOf m sat hx hnan hinf, fun n m e hm => ?_⟩
  obtain ⟨hnear, hbr⟩ := fp32_bracket n e hm
  rw [roundMag_rz, roundMag_away fp32 m e (.inl ⟨rfl, rfl⟩), roundMag_away fp32 m e (.inr ⟨rfl, rfl⟩), roundMag_back fp32 m e (.inl ⟨rfl, rfl⟩),
    roundMag_back fp32 m e (.inr ⟨rfl, rfl⟩)]
  have hinexact : (roundMag fp32 .rne n m e).2 = (fp32.dropped m e != 0) := by rw [roundMag_eq]
  refine ⟨rfl, ?_, hnear, ?_, rfl, rfl, hbr⟩
  · by_cases hd : fp32.dropped m e = 0 <;> simp [hd]
  · rw [hinexact]
    by_cases hd : fp32.dropped m e = 0 <;> simp [hd]

end Sys2Proof.Machine
end


section
/-! PROOF. FP32 sums, products, minima, maxima and integral values in the manual's special cases (R65, R69, R70, R370, R371, R373), and the
obligation. -/
namespace Sys2Proof.Machine
open Sys2Proof

/-! ### Numbers rounded to integers (R73, R373) -/

/-- A number rounded up to a multiple of q is the next after the quotient where something is left. -/
theorem div_ceil (m : Nat) {q : Nat} (hq : 0 < q) : (m + q - 1) / q = m / q + if m % q = 0 then 0 else 1 := by
  rw [Nat.add_sub_assoc hq, Nat.add_div hq, Nat.div_eq_of_lt (Nat.sub_one_lt_of_lt hq), Nat.mod_eq_of_lt (Nat.sub_one_lt_of_lt hq), add_zero]
  have hlt := Nat.mod_lt m hq
  split <;> split <;> omega

theorem roundInt_inexact (mode : RMode) (neg : Bool) (m : Nat) (e : Int) : (roundInt mode neg m e).2 = !decide (Whole m e) := by
  unfold roundInt Whole
  by_cases he : 0 ≤ e
  · simp [he]
  · simp only [he, ↓reduceIte, false_or]
    by_cases hr : m % 2 ^ (-e).toNat = 0 <;> simp [hr]

/-- A number rounded to an integer is one of its neighbours, as the mode says. -/
theorem roundInt_roundsTo (mode : RMode) (neg : Bool) (m : Nat) (e : Int) : RoundsTo mode neg m e (roundInt mode neg m e).1 := by
  unfold RoundsTo roundInt
  by_cases he : 0 ≤ e
  · simp only [he, ↓reduceIte, Nat.shiftLeft_eq, true_and, forall_const]
    omega
  · obtain ⟨s, hs⟩ : ∃ s, (-e).toNat = s + 1 := ⟨(-e).toNat - 1, by omega⟩
    simp only [he, ↓reduceIte, hs, Nat.shiftRight_eq_div_pow, Nat.add_sub_cancel]
    have hp : 2 ^ (s + 1) = 2 * 2 ^ s := pow_succ' ..
    have hpos : 0 < 2 ^ (s + 1) := by positivity
    refine ⟨fun h => absurd h (by simp), fun _ => ⟨?_, ?_, ?_, ?_⟩⟩
    · rintro rfl
      rfl
    · rintro rfl
      rw [div_ceil m hpos]
      by_cases hr : m % 2 ^ (s + 1) = 0 <;> cases neg <;> simp [roundsUp, hr]
    · rintro rfl
      rw [div_ceil m hpos]
      by_cases hr : m % 2 ^ (s + 1) = 0 <;> cases neg <;> simp [roundsUp, hr]
    · rintro rfl
      have hd := Nat.div_add_mod' m (2 ^ (s + 1))
      have hlt := Nat.mod_lt m hpos
      simp only [roundsUp, Bool.or_eq_true, Bool.and_eq_true, decide_eq_true_eq, beq_iff_eq]
      generalize m / 2 ^ (s + 1) = n at *
      generalize m % 2 ^ (s + 1) = r at *
      rw [hp] at *
      rw [add_mul]
      split <;> omega

/-- A number of less than 2^24 units of an exponent below 0 rounds to an integer of at most 2^23. -/
theorem roundInt_le (mode : RMode) (neg : Bool) {m : Nat} {e : Int} (hm : m < 2 ^ 24) (he : e < 0) : (roundInt mode neg m e).1 ≤ 2 ^ 23 := by
  have h1 : m / 2 ^ (-e).toNat ≤ m / 2 ^ 1 := Nat.div_le_div_left (Nat.pow_le_pow_right (by omega) (by omega)) (by norm_num)
  unfold roundInt
  simp only [show ¬ 0 ≤ e by omega, ↓reduceIte, Nat.shiftRight_eq_div_pow]
  split <;> omega

/-- A finite number of FP32 rounded to an integer is a value of FP32 again, so that storing it raises nothing (R373). -/
theorem roundTo_integral (mode : RMode) {x : Nat} {n : Bool} {m : Nat} {e : Int} (h : valOf fp32 x = .fin n m e) :
    ∃ mag ≤ fp32.max, roundTo fp32 .rne false (if (roundInt mode n m e).1 = 0 then .zero n else .fin n (roundInt mode n m e).1 0) = (patOf fp32 n mag, 0) := by
  obtain ⟨-, h0, hmax, hm, he⟩ := valOf_fin h
  have hm24 : m < 2 ^ 24 := hm ▸ sig_lt fp32 _
  have hm0 : m ≠ 0 := hm ▸ sig_pos h0
  by_cases hj : (roundInt mode n m e).1 = 0
  · rw [if_pos hj]
    exact ⟨0, Nat.zero_le _, rfl⟩
  · rw [if_neg hj]
    by_cases he0 : 0 ≤ e
    · have hint : (roundInt mode n m e).1 = m * 2 ^ e.toNat := by simp [roundInt, he0, Nat.shiftLeft_eq]
      refine ⟨_, hmax, roundTo_held .rne false n hj h0 hmax ?_⟩
      rw [hint, ← hm, ← he]
      exact ⟨0, e.toNat, by rw [pow_zero, mul_one], by omega⟩
    · have hle := roundInt_le mode n hm24 (by omega : e < 0)
      have hlog : Nat.log2 (roundInt mode n m e).1 < 24 := (Nat.log2_lt hj).mpr (by omega)
      obtain ⟨mag, hmag, hmag0, hs⟩ := fp32_holds (e := 0) hj (by omega) (by omega) (by omega)
      exact ⟨mag, hmag, roundTo_held .rne false n hj hmag0 hmag hs⟩

theorem patOf_fp32_lt (n : Bool) {mag : Nat} (h : mag ≤ fp32.max) : patOf fp32 n mag < 2 ^ 32 := patOf_lt n (lt_of_le_of_lt h (by decide))

/-- FRND of a finite number (R373). -/
theorem frndW_fin (mode : RMode) {a : Word} {n : Bool} {m : Nat} {e : Int} (h : valOf fp32 a.toNat = .fin n m e) :
    roundTo fp32 .rne false (if (roundInt mode n m e).1 = 0 then .zero n else .fin n (roundInt mode n m e).1 0) = ((frndW mode a).1.toNat, 0) ∧
      (frndW mode a).2 = if Whole m e then 0 else fNX := by
  have e0 : frndW mode a =
      (BitVec.ofNat 32 (roundTo fp32 .rne false (if (roundInt mode n m e).1 = 0 then .zero n else .fin n (roundInt mode n m e).1 0)).1,
        if (roundInt mode n m e).2 then fNX else 0) := by
    unfold frndW
    rw [h]
    simp only [beq_iff_eq]
  obtain ⟨mag, hmag, hr⟩ := roundTo_integral mode h
  rw [e0, hr, roundInt_inexact]
  refine ⟨?_, ?_⟩
  · rw [BitVec.toNat_ofNat, Nat.mod_eq_of_lt (patOf_fp32_lt n hmag)]
  · by_cases hw : Whole m e <;> simp [hw]

/-! ### Sums and products (R65, R69, R70) -/

theorem vadd_comm (mode : RMode) (x y : Val) : vadd mode x y = vadd mode y x := by
  cases x <;> cases y <;> simp only [vadd]
  case inf.inf a b => cases a <;> cases b <;> rfl
  case zero.zero a b => cases a <;> cases b <;> rfl
  case fin.fin a m e b n g => rw [min_comm, add_comm]

theorem vmul_comm (x y : Val) : vmul x y = vmul y x := by
  have hxor : ∀ a b : Bool, (a != b) = (b != a) := by decide
  cases x <;> cases y <;> simp only [vmul, Val.neg, hxor]
  case fin.fin a m e b n g => rw [mul_comm, add_comm]

theorem vadd_nan (mode : RMode) (y : Val) : vadd mode .nan y = (.nan, false) := by cases y <;> rfl
theorem vmul_nan (y : Val) : vmul .nan y = (.nan, false) := by cases y <;> rfl

/-- A finite number less itself is the zero of the mode (R69). -/
theorem vadd_negate_self (mode : RMode) (n : Bool) (m : Nat) (e : Int) :
    vadd mode (.fin n m e) (Val.fin n m e).negate = (.zero (mode == .rd), false) := by
  have : (Val.fin n m e).onGrid (min e e) + (Val.fin (!n) m e).onGrid (min e e) = 0 := by cases n <;> simp [Val.onGrid]
  simp only [Val.negate, vadd, this]
  rfl

/-- A NaN gives way to a number in a minimum and a maximum, and two NaNs give the canonical one (R69). -/
theorem fMin_fMax_nan (f : Fmt) {x : Nat} (y : Nat) (hx : valOf f x = .nan) :
    (valOf f y ≠ .nan → fMin f x y = y ∧ fMin f y x = y ∧ fMax f x y = y ∧ fMax f y x = y) ∧
      (valOf f y = .nan → fMin f x y = nanPat f ∧ fMax f x y = nanPat f) := by
  unfold fMin fMax
  rw [hx]
  cases valOf f y <;> simp

/-- Settles O6: NaNs, infinities and zeros in sums, products, minima and maxima, and the integral values. -/
theorem floatSpecialCases : Obligations.FloatSpecialCases := by
  unfold Obligations.FloatSpecialCases
  refine ⟨fun m x y hx => ?_, fun m x y n hx => ⟨fun hy => ?_, fun k hy => ?_⟩, fun m x n k e hx => ?_, fun m x y => ?_,
    fun m a => ⟨fun ha => ?_, fun n ha => ?_, fun n k e ha => ?_⟩, rfl, rfl, rfl, rfl⟩
  · refine ⟨?_, ?_, ?_, ?_, fMin_fMax_nan fp32 y hx⟩
    · rw [fAdd, hx, vadd_nan]; rfl
    · rw [fAdd, hx, vadd_comm, vadd_nan]; rfl
    · rw [fMul, hx, vmul_nan]; rfl
    · rw [fMul, hx, vmul_comm, vmul_nan]; rfl
  · rw [fAdd, fSub, hx, hy]
    cases n <;> exact ⟨rfl, rfl⟩
  · rw [fMul, fMul, hx, hy]
    exact ⟨rfl, rfl⟩
  · rw [fSub, hx, vadd_negate_self]
    cases m <;> rfl
  · unfold fAdd fMul
    rw [vadd_comm, vmul_comm]
    exact ⟨rfl, rfl⟩
  · unfold frndW
    rw [ha]
  · unfold frndW
    rcases ha with ha | ha <;> rw [ha]
  · exact ⟨_, roundInt_roundsTo m n k e, frndW_fin m ha⟩

end Sys2Proof.Machine
end


section
/-! PROOF. The element sum of the Anvil (R80, R81, R403): integers wrap, special values come first, and the order of the products does
not matter; and the obligation. -/
namespace Sys2Proof.Machine
open Sys2Proof

/-- An INT8 element wraps modulo 2^32 (R81). -/
theorem anvilElement_int {f : MatForm} (h : f.af = 4) (acc : Word) (a b sa sb : List Nat) :
    anvilElement f acc a b sa sb = acc + BitVec.ofInt 32 ((a.zip b).map fun x => sext x.1 8 * sext x.2 8).sum := by
  unfold anvilElement word
  rw [h, ← List.sum_eq_foldl, BitVec.ofInt_add, BitVec.ofInt_toInt]
  rfl

/-- The greatest place of a list does not depend on its order. -/
theorem foldl_max_perm {l l' : List Int} (h : l.Perm l') : l.foldl max (l.headD 0) = l'.foldl max (l'.headD 0) := by
  have hmax : ∀ l : List Int, l.foldl max (l.headD 0) = l.max?.getD 0 := fun l => by
    cases l with
    | nil => rfl
    | cons x t => rw [List.max?_cons', List.headD_cons, List.foldl_cons, max_self, Option.getD_some]
  rw [hmax, hmax]
  congr 1
  exact Option.ext fun a => by rw [List.max?_eq_some_iff, List.max?_eq_some_iff]; simp only [h.mem_iff]

theorem anvilSum_perm (acc : Word) {ps qs : List Val} (h : ps.Perm qs) : anvilSum acc ps = anvilSum acc qs := by
  have hany : ∀ v : Val, (valOf fp32 acc.toNat :: ps).any (fun x => decide (x = v)) = (valOf fp32 acc.toNat :: qs).any fun x => decide (x = v) :=
    fun v => (h.cons _).any_eq
  have htop := foldl_max_perm (h.filterMap Val.top)
  have hsum : ∀ q, (ps.map (Val.truncTo q)).foldl (· + ·) 0 = (qs.map (Val.truncTo q)).foldl (· + ·) 0 := fun q => by
    rw [← List.sum_eq_foldl, ← List.sum_eq_foldl]
    exact (h.map _).sum_eq
  unfold anvilSum
  simp only [hany, htop, hsum]

/-- The special values of a sum (R80). -/
theorem anvilSum_special (acc : Word) (ps : List Val) :
    let vs := valOf fp32 acc.toNat :: ps
    (Val.nan ∈ vs ∨ (Val.inf true ∈ vs ∧ Val.inf false ∈ vs) → anvilSum acc ps = 0x7FC00000) ∧
      (Val.nan ∉ vs → Val.inf true ∉ vs → Val.inf false ∈ vs → anvilSum acc ps = 0x7F800000) ∧
      (Val.nan ∉ vs → Val.inf false ∉ vs → Val.inf true ∈ vs → anvilSum acc ps = 0xFF800000) := by
  intro vs
  have hhas : ∀ v : Val, (vs.any fun x => decide (x = v)) = decide (v ∈ vs) := fun v => Bool.eq_iff_iff.mpr (by simp)
  unfold anvilSum
  simp only [vs] at *
  simp only [hhas]
  refine ⟨?_, fun h1 h2 h3 => ?_, fun h1 h2 h3 => ?_⟩
  · rintro (h | ⟨h1, h2⟩)
    · simp only [h, decide_true, Bool.true_or, ↓reduceIte]
    · simp only [h1, h2, decide_true, Bool.and_self, Bool.or_true, ↓reduceIte]
  · simp only [h1, h2, h3, decide_true, decide_false, Bool.and_false, Bool.or_self, Bool.false_eq_true, ↓reduceIte]
  · simp only [h1, h2, h3, decide_true, decide_false, Bool.false_and, Bool.or_self, Bool.false_eq_true, ↓reduceIte]

/-- With products that are all zero an element keeps its accumulator, but a zero loses its sign (R80). -/
theorem anvilSum_zeros (acc : Word) {ps : List Val} (h : ∀ p ∈ ps, ∃ n, p = Val.zero n) (hinf : ∀ n, valOf fp32 acc.toNat ≠ .inf n)
    (hnan : valOf fp32 acc.toNat ≠ .nan) : anvilSum acc ps = if acc.toNat % 2 ^ 31 = 0 then 0 else acc := by
  have hno : ∀ v : Val, (∀ n, v ≠ .zero n) → valOf fp32 acc.toNat ≠ v → (valOf fp32 acc.toNat :: ps).any (fun x => decide (x = v)) = false :=
    fun v hz hv => by
      rw [List.any_eq_false]
      intro x hx
      rcases List.mem_cons.mp hx with rfl | hx
      · simpa using hv
      · obtain ⟨n, rfl⟩ := h x hx
        simpa using (hz n).symm
  have hsum : ∀ q, (ps.map (Val.truncTo q)).foldl (· + ·) 0 = 0 := fun q => by
    rw [← List.sum_eq_foldl]
    refine List.sum_eq_zero fun x hx => ?_
    obtain ⟨p, hp, rfl⟩ := List.mem_map.mp hx
    obtain ⟨n, rfl⟩ := h p hp
    rfl
  have hround := roundTo_valOf .rne false (f := fp32) (x := acc.toNat) acc.isLt hnan hinf
  unfold anvilSum
  simp only [hno .nan (by simp) hnan, hno (.inf true) (by simp) (hinf true), hno (.inf false) (by simp) (hinf false), hsum, Bool.or_self, Bool.and_self, Bool.false_eq_true,
    ↓reduceIte, show ∀ q, valInt 0 q false = .zero false from fun _ => rfl]
  cases hv : valOf fp32 acc.toNat with
  | nan => exact absurd hv hnan
  | inf n => exact absurd hv (hinf n)
  | zero n =>
    have : acc.toNat % 2 ^ 31 = 0 := (valOf_zero hv).2
    rw [if_pos this]
    rfl
  | fin n m e =>
    have : acc.toNat % 2 ^ 31 ≠ 0 := (valOf_fin hv).2.1
    rw [hv] at hround
    rw [if_neg this]
    show BitVec.ofNat 32 (roundTo fp32 .rne false (.fin n m e)).1 = acc
    rw [hround, BitVec.ofNat_toNat, BitVec.setWidth_eq]

/-- Settles O30: INT8 elements, the order of the products, special values and zero products. -/
theorem anvilElements : Obligations.AnvilElements := by
  unfold Obligations.AnvilElements
  refine ⟨fun f acc a b sa sb h => anvilElement_int h acc a b sa sb, fun acc ps qs h => anvilSum_perm acc h, fun acc ps => ?_⟩
  obtain ⟨h1, h2, h3⟩ := anvilSum_special acc ps
  exact ⟨h1, h2, h3, fun h hinf hnan => anvilSum_zeros acc h hinf hnan⟩

end Sys2Proof.Machine
end


section
/-! PROOF. Packed arithmetic (R76, R77, R421-R427): each sub-element's own operation and the flags together; and the obligation. -/
namespace Sys2Proof.Machine
open Sys2Proof

/-! ### The sub-elements of a packed register (R76, R77) -/

/-- Sub-elements put side by side. -/
def joined (w n : Nat) (g : Nat → Nat) : Nat := (List.range n).foldl (fun r k => r + g k * 2 ^ (w * k)) 0

theorem joined_succ (w n : Nat) (g : Nat → Nat) : joined w (n + 1) g = joined w n g + g n * 2 ^ (w * n) := by
  unfold joined
  rw [List.range_succ, List.foldl_append]
  rfl

theorem joined_lt {w : Nat} (n : Nat) {g : Nat → Nat} (hg : ∀ k, g k < 2 ^ w) : joined w n g < 2 ^ (w * n) := by
  induction n with
  | zero => exact Nat.one_pos
  | succ n ih =>
    have := Nat.mul_le_mul_right (2 ^ (w * n)) (hg n)
    rw [joined_succ, show w * (n + 1) = w + w * n by ring, pow_add]
    rw [Nat.succ_mul] at this
    omega

/-- Each sub-element stands in its own place. -/
theorem joined_place {w n : Nat} {g : Nat → Nat} (hg : ∀ k, g k < 2 ^ w) {k : Nat} (hk : k < n) : joined w n g / 2 ^ (w * k) % 2 ^ w = g k := by
  induction n with
  | zero => omega
  | succ n ih =>
    rw [joined_succ]
    rcases Nat.lt_succ_iff_lt_or_eq.mp hk with hk | rfl
    · obtain ⟨d, rfl⟩ : ∃ d, n = k + 1 + d := ⟨n - k - 1, by omega⟩
      have hp : g (k + 1 + d) * 2 ^ (w * (k + 1 + d)) = 2 ^ (w * k) * (2 ^ w * (2 ^ (w * d) * g (k + 1 + d))) := by ring
      rw [hp, Nat.add_mul_div_left _ _ (by positivity), Nat.add_mul_mod_self_left, ih hk]
    · rw [Nat.add_mul_div_right _ _ (by positivity), Nat.div_eq_of_lt (joined_lt k hg), zero_add, Nat.mod_eq_of_lt (hg k)]

theorem subEl_eq (w k : Nat) (x : Word) : subEl w k x = x.toNat / 2 ^ (w * k) % 2 ^ w := by
  unfold subEl bits
  rw [Nat.shiftRight_eq_div_pow]

/-- A packed result holds each sub-element in its place. -/
theorem subEl_packed {w : Nat} {f : Nat → Nat × Flags} (hf : ∀ k, (f k).1 < 2 ^ w) {k : Nat} (hk : k < 32 / w) :
    subEl w k (packed w f).1 = (f k).1 := by
  have hlt : joined w (32 / w) (fun k => (f k).1) < 2 ^ 32 :=
    lt_of_lt_of_le (joined_lt _ hf) (Nat.pow_le_pow_right (by omega) (Nat.mul_div_le 32 w))
  rw [subEl_eq]
  show (BitVec.ofNat 32 (joined w (32 / w) fun k => (f k).1)).toNat / _ % _ = _
  rw [BitVec.toNat_ofNat, Nat.mod_eq_of_lt hlt]
  exact joined_place hf hk

/-- A flag of a packed result is raised when any sub-element raises it. -/
theorem packed_flag (w : Nat) (f : Nat → Nat × Flags) (i : Nat) :
    (packed w f).2.getLsbD i = (List.range (32 / w)).any fun k => (f k).2.getLsbD i :=
  foldl_seen (fun (l : List Nat) (b : Flags) => b.getLsbD i = l.any fun k => (f k).2.getLsbD i)
    (fun l b k h => by rw [BitVec.getLsbD_or, h, List.any_append]; simp) (by simp) _

theorem packed2_eq (t : BitVec 2) (g : Fmt → Nat → Nat → Nat × Flags) (y z : Word) :
    packed2 t g y z = packed (packFmt t).2 fun k => g (packFmt t).1 (subEl (packFmt t).2 k y) (subEl (packFmt t).2 k z) := rfl

theorem packed3_eq (t : BitVec 2) (g : Fmt → Nat → Nat → Nat → Nat × Flags) (y z v : Word) :
    packed3 t g y z v = packed (packFmt t).2 fun k =>
      g (packFmt t).1 (subEl (packFmt t).2 k y) (subEl (packFmt t).2 k z) (subEl (packFmt t).2 k v) := rfl

/-- An operation that raises nothing raises nothing packed. -/
theorem packed2_quiet (t : BitVec 2) (g : Fmt → Nat → Nat → Nat) (y z : Word) : (packed2 t (fun f p q => (g f p q, 0)) y z).2 = 0 :=
  BitVec.eq_of_getLsbD_eq fun i _ => by rw [packed2_eq, packed_flag]; simp

theorem packFmt_eq (t : BitVec 2) :
    packFmt t = if t = 0 then (bf16, 16) else if t = 1 then (fp16, 16) else if t = 2 then (e4m3, 8) else (e5m2, 8) := by
  revert t
  decide

/-! ### The instructions -/

/-- An instruction does its work whose value and flags are those of its operation on the operands. -/
theorem computes_by {i : Instr} {d : Reg} {srcs : List Nat} {g : List (Word × Bool) → Word × Flags} {f : Thread → Word} {fl : Thread → Flags}
    (h : ∀ s, exec i s = fpOp s false d srcs none g) (hg : ∀ t : Thread, g (srcs.map t.reg) = (f t, fl t)) :
    Computes i srcs [d.toNat] (fun t => [f t]) fl := by
  have := computes_of_fpOp h
  simpa only [hg] using this

/-- An instruction that raises no flags does its work. -/
theorem computes_quiet {i : Instr} {d : Reg} {srcs : List Nat} {g : List (Word × Bool) → Word × Flags}
    (h : ∀ s, exec i s = fpOp s false d srcs none g) (hg : ∀ l, (g l).2 = 0) :
    Computes i srcs [d.toNat] (fun t => [(g (srcs.map t.reg)).1]) (fun _ => 0) := by
  have := computes_of_fpOp h
  simpa only [hg] using this

/-- Settles O10: the packed instructions complete, and what their packed operations give sub-element by sub-element. -/
theorem packedArithmeticResults : Obligations.PackedArithmeticResults := by
  unfold Obligations.PackedArithmeticResults
  refine ⟨fun t sat rz d a b e x => ⟨?_, ?_, ?_, ?_, ?_, ?_, ?_, ?_, ?_, ?_⟩, fun t g y z k hk hg => ?_, fun t g y z v k hk hg => ?_,
    fun t g h y z v i _ => ⟨?_, ?_⟩, packFmt_eq⟩
  · exact computes_by (fun _ => rfl) fun _ => rfl
  · exact computes_by (fun _ => rfl) fun _ => rfl
  · exact computes_by (fun _ => rfl) fun _ => rfl
  · exact computes_by (fun _ => rfl) fun _ => rfl
  · exact computes_by (fun _ => rfl) fun _ => rfl
  · exact computes_by (fun _ => rfl) fun _ => rfl
  · exact computes_quiet (fun _ => rfl) fun l => packed2_quiet t fMin (opd l 0) (opd l 1)
  · exact computes_quiet (fun _ => rfl) fun l => packed2_quiet t fMin (opd l 0) x
  · exact computes_quiet (fun _ => rfl) fun l => packed2_quiet t fMax (opd l 0) (opd l 1)
  · exact computes_quiet (fun _ => rfl) fun l => packed2_quiet t fMax (opd l 0) x
  · exact subEl_packed (fun _ => hg _ _) hk
  · exact subEl_packed (fun _ => hg _ _ _) hk
  · exact packed_flag _ _ i
  · exact packed_flag _ _ i

end Sys2Proof.Machine
end


section
/-! PROOF. The special functions (R78, R79, R361, R401, R432, R433): they complete under their window, with the manual's results for
special operands; and the obligation. -/
namespace Sys2Proof.Machine
open Sys2Proof

/-- The same of an instruction with an X word whose limits are met. -/
theorem computesLate_by {i : Instr} {d : Reg} {srcs : List Nat} {is : Issue} {g : List (Word × Bool) → Word × Flags} {f : Thread → Word}
    {fl : Thread → Flags} (hwf : Instr.wf i = true) (h : ∀ s, exec i s = fpOp s (!(Instr.wf i)) d srcs (some is) g)
    (hg : ∀ t : Thread, g (srcs.map t.reg) = (f t, fl t)) : ComputesLate i is srcs [d.toNat] (fun t => [f t]) fl := by
  have := computesLate_of_fpOp (i := i) fun s => by rw [h, hwf]; rfl
  simpa only [hg] using this

/-- Each special function of a NaN is the canonical NaN, and raises nothing (R65). -/
theorem special_nan {w : Word} (h : valOf fp32 w.toNat = .nan) :
    exp2W w = (0x7FC00000, 0) ∧ log2W w = (0x7FC00000, 0) ∧ rcpW w = (0x7FC00000, 0) ∧ rsqW w = (0x7FC00000, 0) ∧ tanhW w = (0x7FC00000, 0) ∧
      ∀ m, sqrtW m w = (0x7FC00000, 0) := by
  unfold exp2W log2W rcpW rsqW tanhW sqrtW
  simp only [h, implies_true, and_self]

/-- Settles O9: the special functions complete under their window, and their results for NaNs, zeros and infinities. -/
theorem specialFunctionResults : Obligations.SpecialFunctionResults := by
  unfold Obligations.SpecialFunctionResults
  refine ⟨fun rm d a is hok => ⟨?_, ?_, ?_, ?_, ?_, ?_⟩, fun w h => special_nan h, ?_, rfl, rfl, rfl, rfl, rfl, rfl, rfl, rfl, rfl, rfl⟩
  · exact computesLate_by hok (fun _ => rfl) fun _ => rfl
  · exact computesLate_by hok (fun _ => rfl) fun _ => rfl
  · exact computesLate_by hok (fun _ => rfl) fun _ => rfl
  · exact computesLate_by hok (fun _ => rfl) fun _ => rfl
  · exact computesLate_by hok (fun _ => rfl) fun _ => rfl
  · exact computesLate_by hok (fun _ => rfl) fun _ => rfl
  · simp only [List.forall_mem_cons, List.not_mem_nil, false_implies, implies_true, and_true]
    exact ⟨⟨rfl, rfl, rfl, rfl, rfl, fun _ => rfl⟩, rfl, rfl, rfl, rfl, rfl, fun _ => rfl⟩

end Sys2Proof.Machine
end


section
/-! PROOF. The statement on conversions fails for source codes that name no format (R353, R354). -/
namespace Sys2Proof.Machine
open Sys2Proof

/-- A code that names no format has elements of no bits, so the model converts a zero. -/
theorem cvtW_unnamed (a : Word) : cvtW 0 9 0 false 0 a = (0, 0) := by
  have hx : bits a.toNat 0 0 = 0 := by simp [bits, Nat.mod_one]
  show asWord (roundTo fp32 .rne false (valOf e2m1 (bits a.toNat 0 0))) = (0, 0)
  rw [hx]
  rfl

/-- Refutes O11: its clause on CVT holds source code 9, which names no format, to 32-bit elements of the last format, while the model's
elements of that code have no bits. Of the register 1 it asks for 0.5, and the model gives 0. -/
theorem not_conversionResults : ¬ Obligations.ConversionResults := by
  unfold Obligations.ConversionResults
  rintro ⟨-, -, -, -, -, -, hcvt, -⟩
  have h := (hcvt 0 9 0 false 0 1).1 (by decide) (by decide)
  rw [cvtW_unnamed] at h
  exact absurd h (by decide)

end Sys2Proof.Machine
end


section
/-! PROOF. A chunk of a copy between scratch and scratch (R84, R154, R155, R165, R167): what reading, keeping and writing an element
leave, the elements one after another; and the obligation. -/
namespace Sys2Proof.Machine
open Sys2Proof

/-! ### The copy at its tag -/

theorem tag_setCopy (s : State) (core i : Nat) (c : Copy) : ((setCopy s core i c).tag core i).copy = some c := by
  unfold setCopy State.setTag State.tag
  simp

theorem team_setCopy (s : State) (core i : Nat) (c : Copy) (u : Nat) : (setCopy s core i c).team u = s.team u := rfl
theorem hasTeam_setCopy (s : State) (core i : Nat) (c : Copy) (u : Nat) : (setCopy s core i c).hasTeam u = s.hasTeam u := rfl
theorem byte_setCopy (s : State) (core i : Nat) (c : Copy) (k : Nat) : (setCopy s core i c).byte k = s.byte k := rfl

/-! ### The places of a chunk in scratch -/

/-- Scratch offsets of an element's source, scale and destination. -/
def Copy.scrSrc (c : Copy) (n : Nat) : Nat := c.srcAt n % 2 ^ 32
def Copy.scrSc (c : Copy) (n : Nat) : Nat := (c.src.toNat + c.shape.soff.toNat + n / 32) % 2 ^ 64 % 2 ^ 32
def Copy.scrDst (c : Copy) (n : Nat) : Nat := c.dstAt n % 2 ^ 32
/-- An element of a copy between scratch and scratch. -/
def Copy.scrElem (c : Copy) (n : Nat) : Elem :=
  ⟨n, .scr (c.scrSrc n), .scr (if c.shape.mx then c.scrSc n else c.scrSrc n), .scr (c.scrDst n), BitVec.ofNat 64 (c.dstAt n)⟩

theorem reachElems_scratch {c : Copy} (hs : c.shape.ssp = true) (hd : c.shape.dsp = true) (s : State) (core : Nat) (strict : Bool) (ns : List Nat) :
    reachElems core c strict s ns = (s, ns.map c.scrElem, none) := by
  induction ns with
  | nil => rfl
  | cons n ns ih =>
    simp only [reachElems, reachSide, hs, hd, ↓reduceIte]
    cases hm : c.shape.mx <;> simp [Copy.scrElem, Copy.scrSrc, Copy.scrSc, Copy.scrDst, hm, ih]

theorem memPlaces_scratch (c : Copy) (ns : List Nat) : memPlaces (ns.map c.scrElem) = [] := by
  simp [memPlaces, Copy.scrElem]

theorem farOf_scratch (c : Copy) (ns : List Nat) : farOf (ns.map c.scrElem) = none := by
  simp [farOf, Copy.scrElem]

theorem cohere_nil (s : State) : cohere s [] = (s, true) := by
  simp [cohere]

theorem asideFor_scratch {s : State} (h : waitingSnapshots s = []) (c : Copy) (es : List Elem) : asideFor s c es = none := by
  unfold asideFor
  rw [List.findSome?_eq_none_iff]
  intro e _
  simp [snapshotHit, h]

theorem touchElems_scratch (s : State) (c : Copy) (ns : List Nat) : touchElems s c (ns.map c.scrElem) = s := by
  unfold touchElems
  induction ns with
  | nil => rfl
  | cons n ns ih => exact ih

/-! ### Reading an element -/

/-- Bytes of a team's scratch from an offset. -/
def scrAt (s : State) (team o n : Nat) : List Byte := (List.range n).map fun j => tget 0 (s.team team).scratch (o + j)

/-- A read of scratch of which nothing is set aside gives what stands there. -/
theorem srcRead_scratch (s : State) {c : Copy} {o n : Nat} (h : ∀ e ∈ c.aside, e.1 < o ∨ o + n ≤ e.1) :
    (srcRead s c (.scr o) n).1 = s ∧ (srcRead s c (.scr o) n).2.1 = scrAt s c.team o n := by
  refine ⟨rfl, ?_⟩
  simp only [srcRead, sideRead, scrAt, List.map_map]
  refine List.ext_getElem (by simp) fun i h1 h2 => ?_
  have hi : i < n := by simpa using h2
  have hfind : c.aside.find? (fun e => e.1 == o + i) = none := by
    rw [List.find?_eq_none]
    intro e he
    have := h e he
    simp only [beq_iff_eq]
    omega
  simp [Side.key, hfind]

/-- Nothing poisoned is read where no word of scratch is marked. -/
theorem srcRead_clean {s : State} {c : Copy} (ha : c.aside = []) (hp : (s.team c.team).spois = []) (o n : Nat) :
    (srcRead s c (.scr o) n).2.2 = false := by
  rw [srcRead, List.any_eq_false]
  simp [sideRead, ha, Team.anyPoison, hp, nmem]

/-! ### What a copy keeps aside of what it writes itself (R118, R119, R155) -/

/-- Keeping bytes aside changes the copy's content set aside alone, by bytes of the place. -/
theorem keepOwn_scratch (s : State) (core : Nat) (c : Copy) (o n : Nat) :
    ∃ a, keepOwn s core c (.scr o) n = { c with aside := a } ∧ ∀ e ∈ a, e ∈ c.aside ∨ o ≤ e.1 ∧ e.1 < o + n := by
  unfold keepOwn
  refine List.foldlRecOn (motive := fun c' : Copy => ∃ a, c' = { c with aside := a } ∧ ∀ e ∈ a, e ∈ c.aside ∨ o ≤ e.1 ∧ e.1 < o + n) _ _
    ⟨c.aside, rfl, fun e he => .inl he⟩ ?_
  rintro c' ⟨a, rfl, ha⟩ i hi
  dsimp only
  split
  · refine ⟨_, rfl, fun e he => ?_⟩
    rcases List.mem_append.mp he with he | he
    · exact ha e he
    · have := List.mem_range.mp hi
      rw [List.mem_singleton.mp he]
      exact .inr ⟨Nat.le_add_right .., Nat.add_lt_add_left this o⟩
  · exact ⟨a, rfl, ha⟩

theorem keepOld_scratch (s : State) (c : Copy) (o n : Nat) : ∃ l, c.keepOld s (.scr o) n = { c with old := l } := ⟨_, rfl⟩

/-! ### Moving an element -/

/-- What an element writes: R154's value of its source, its scale and its destination's old bytes, as they stand in a state. -/
def Copy.written (c : Copy) (s : State) (n : Nat) : List Byte :=
  bytesOf (elemOut c.shape (natOf (scrAt s c.team (c.scrSrc n) (elemBytes c.shape.sfmt))) (if c.shape.mx then natOf (scrAt s c.team (c.scrSc n) 1) else 0)
    (natOf (scrAt s c.team (c.scrDst n) (elemBytes c.shape.dfmt)))) (elemBytes c.shape.dfmt)

/-- Without a reduction the old bytes do not matter (R154). -/
theorem elemOut_plain {h : Shape} (hr : h.red = 0) (x sc old old' : Nat) : elemOut h x sc old = elemOut h x sc old' := by
  simp [elemOut, hr]

/-- A copy that has moved some elements: only what it keeps aside differs, and that by bytes it has written. -/
def Copy.Keeps (y c : Copy) (ns : List Nat) : Prop :=
  ∃ a o, c = { y with aside := a, old := o } ∧ ∀ e ∈ a, ∃ n ∈ ns, y.scrDst n ≤ e.1 ∧ e.1 < y.scrDst n + elemBytes y.shape.dfmt

/-- A copy reads and writes an element of scratch in one event. -/
theorem moveElem_eq {t : State} {core tag : Nat} {c : Copy} (hc : (t.tag core tag).copy = some c) (y : Copy) (n : Nat) (hm : y.shape = c.shape) :
    ∃ p, (moveElem core tag t (y.scrElem n)).1 =
      sideWrite (setCopy t core tag ((keepOwn t core c (.scr (y.scrDst n)) (elemBytes c.shape.dfmt)).keepOld t (.scr (y.scrDst n)) (elemBytes c.shape.dfmt)))
        c.team (.scr (y.scrDst n))
        (bytesOf (elemOut c.shape (natOf (srcRead t c (.scr (y.scrSrc n)) (elemBytes c.shape.sfmt)).2.1)
          (if c.shape.mx then natOf (srcRead t c (.scr (y.scrSc n)) 1).2.1 else 0)
          (natOf (scrAt t c.team (y.scrDst n) (elemBytes c.shape.dfmt)))) (elemBytes c.shape.dfmt)) p := by
  have hold : ((sideRead t c.team (.scr (y.scrDst n)) (elemBytes c.shape.dfmt)).2.map (·.1)) = scrAt t c.team (y.scrDst n) (elemBytes c.shape.dfmt) := by
    simp [sideRead, scrAt, Function.comp_def]
  unfold moveElem Copy.scrElem
  rw [hc, hm, ← hold]
  by_cases hr : c.shape.red = 0
  · refine ⟨false, ?_⟩
    rw [elemOut_plain hr _ _ (natOf _) (natOf [])]
    simp only [hr, beq_self_eq_true, ↓reduceIte]
    cases hmx : c.shape.mx <;> rfl
  · refine ⟨(sideRead t c.team (.scr (y.scrDst n)) (elemBytes c.shape.dfmt)).2.any (·.2), ?_⟩
    simp only [hr, beq_iff_eq, ↓reduceIte]
    cases hmx : c.shape.mx <;> rfl

/-- A write of scratch of a team that is there changes those bytes of it. -/
theorem sideWrite_scratch {s : State} {u : Nat} (hu : s.hasTeam u = true) (o : Nat) (b : List Byte) (p : Bool) (k : Nat) :
    tget 0 ((sideWrite s u (.scr o) b p).team u).scratch k = if o ≤ k ∧ k < o + b.length then b.getD (k - o) 0 else tget 0 (s.team u).scratch k := by
  have huid : ((s.team u).scrWrite o b p).uid = u := State.team_uid hu
  show tget 0 ((s.setTeam ((s.team u).scrWrite o b p)).team u).scratch k = _
  rw [State.team_setTeam, if_pos ⟨huid.symm, hu⟩]
  exact tget_putScratch ..

theorem Copy.Keeps.shape_eq {y c : Copy} {ns : List Nat} (h : y.Keeps c ns) : c.shape = y.shape := by
  obtain ⟨_, _, rfl, -⟩ := h
  rfl
theorem Copy.Keeps.team_eq {y c : Copy} {ns : List Nat} (h : y.Keeps c ns) : c.team = y.team := by
  obtain ⟨_, _, rfl, -⟩ := h
  rfl
theorem Copy.Keeps.mem {y c : Copy} {ns : List Nat} (h : y.Keeps c ns) :
    ∀ e ∈ c.aside, ∃ n ∈ ns, y.scrDst n ≤ e.1 ∧ e.1 < y.scrDst n + elemBytes y.shape.dfmt := by
  obtain ⟨_, _, rfl, ha⟩ := h
  exact ha

/-- What a copy keeps as it writes one more element. -/
theorem Copy.Keeps.next {y c : Copy} {ns : List Nat} (h : y.Keeps c ns) (t : State) (core n : Nat) :
    y.Keeps ((keepOwn t core c (.scr (y.scrDst n)) (elemBytes y.shape.dfmt)).keepOld t (.scr (y.scrDst n)) (elemBytes y.shape.dfmt)) (ns ++ [n]) := by
  have hmem := h.mem
  obtain ⟨a, ha, hin⟩ := keepOwn_scratch t core c (y.scrDst n) (elemBytes y.shape.dfmt)
  obtain ⟨_, _, rfl, -⟩ := h
  rw [ha]
  refine ⟨a, _, rfl, fun e he => ?_⟩
  rcases hin e he with he | he
  · obtain ⟨m, hm, h⟩ := hmem e he
    exact ⟨m, List.mem_append_left _ hm, h⟩
  · exact ⟨n, List.mem_append_right _ (List.mem_singleton_self _), he⟩

/-- A read of scratch that the copy has not written gives what stands there. -/
theorem Copy.Keeps.srcRead_eq {y c : Copy} {ns : List Nat} (h : y.Keeps c ns) (t : State) {o n : Nat}
    (ho : ∀ m ∈ ns, y.scrDst m + elemBytes y.shape.dfmt ≤ o ∨ o + n ≤ y.scrDst m) : (srcRead t c (.scr o) n).2.1 = scrAt t y.team o n := by
  rw [← h.team_eq]
  refine (srcRead_scratch t fun e he => ?_).2
  obtain ⟨m, hm, h1, h2⟩ := h.mem e he
  have := ho m hm
  omega

/-- An element whose source and scale are not written by the elements before it: it moves, and its destination alone changes. -/
theorem moveElem_scratch {t : State} {core tag : Nat} {y c : Copy} {ns : List Nat} {n : Nat} (hc : (t.tag core tag).copy = some c) (hk : y.Keeps c ns)
    (hteam : t.hasTeam y.team = true)
    (hsrc : ∀ m ∈ ns, y.scrDst m + elemBytes y.shape.dfmt ≤ y.scrSrc n ∨ y.scrSrc n + elemBytes y.shape.sfmt ≤ y.scrDst m)
    (hsc : y.shape.mx = true → ∀ m ∈ ns, y.scrDst m + elemBytes y.shape.dfmt ≤ y.scrSc n ∨ y.scrSc n + 1 ≤ y.scrDst m) :
    let t' := (moveElem core tag t (y.scrElem n)).1
    (∀ k, t'.byte k = t.byte k) ∧ t'.hasTeam y.team = true ∧ (∃ c', (t'.tag core tag).copy = some c' ∧ y.Keeps c' (ns ++ [n])) ∧
      ∀ k, tget 0 (t'.team y.team).scratch k =
        if y.scrDst n ≤ k ∧ k < y.scrDst n + elemBytes y.shape.dfmt then (y.written t n).getD (k - y.scrDst n) 0 else tget 0 (t.team y.team).scratch k := by
  obtain ⟨p, he⟩ := moveElem_eq hc y n hk.shape_eq.symm
  have hw : bytesOf (elemOut y.shape (natOf (srcRead t c (.scr (y.scrSrc n)) (elemBytes y.shape.sfmt)).2.1)
      (if y.shape.mx then natOf (srcRead t c (.scr (y.scrSc n)) 1).2.1 else 0)
      (natOf (scrAt t y.team (y.scrDst n) (elemBytes y.shape.dfmt)))) (elemBytes y.shape.dfmt) = y.written t n := by
    unfold Copy.written
    rw [hk.srcRead_eq t hsrc]
    cases hmx : y.shape.mx
    · rfl
    · rw [hk.srcRead_eq t (hsc hmx)]
  rw [hk.shape_eq, hk.team_eq, hw] at he
  intro t'
  refine ⟨fun k => ?_, ?_, ⟨_, ?_, hk.next t core n⟩, fun k => ?_⟩
  · simp only [t', he]
    rfl
  · simp only [t', he]
    exact (State.hasTeam_setTeam ..).trans hteam
  · simp only [t', he]
    exact tag_setCopy ..
  · simp only [t', he]
    rw [sideWrite_scratch ((hasTeam_setCopy ..).trans hteam), show (y.written t n).length = elemBytes y.shape.dfmt from bytesOf_length ..]
    rfl

/-! ### Moving a chunk -/

/-- Elements written apart from each other and from what they read, by a copy of a state (R155). -/
def Copy.Apart (y : Copy) (ns : List Nat) : Prop :=
  ∀ n ∈ ns, ∀ m ∈ ns,
    (n ≠ m → y.scrDst n + elemBytes y.shape.dfmt ≤ y.scrDst m ∨ y.scrDst m + elemBytes y.shape.dfmt ≤ y.scrDst n) ∧
    (y.scrDst n + elemBytes y.shape.dfmt ≤ y.scrSrc m ∨ y.scrSrc m + elemBytes y.shape.sfmt ≤ y.scrDst n) ∧
    (y.shape.mx = true → y.scrDst n + elemBytes y.shape.dfmt ≤ y.scrSc m ∨ y.scrSc m + 1 ≤ y.scrDst n)

/-- Some elements of a copy have moved: their destinations hold what they write, all else of scratch and memory is as before. -/
structure Copy.Moved (y : Copy) (s t : State) (core tag : Nat) (ns : List Nat) : Prop where
  memory : ∀ k, t.byte k = s.byte k
  here   : t.hasTeam y.team = true
  copy   : ∃ c, (t.tag core tag).copy = some c ∧ y.Keeps c ns
  done   : ∀ n ∈ ns, ∀ j < elemBytes y.shape.dfmt, tget 0 (t.team y.team).scratch (y.scrDst n + j) = (y.written s n).getD j 0
  rest   : ∀ k, (∀ n ∈ ns, k < y.scrDst n ∨ y.scrDst n + elemBytes y.shape.dfmt ≤ k) → tget 0 (t.team y.team).scratch k = tget 0 (s.team y.team).scratch k

/-- Bytes that no moved element writes are as before. -/
theorem Copy.Moved.scrAt_eq {y : Copy} {s t : State} {core tag : Nat} {ns : List Nat} (h : y.Moved s t core tag ns) {o n : Nat}
    (ho : ∀ m ∈ ns, y.scrDst m + elemBytes y.shape.dfmt ≤ o ∨ o + n ≤ y.scrDst m) : scrAt t y.team o n = scrAt s y.team o n := by
  refine List.map_congr_left fun j hj => h.rest _ fun m hm => ?_
  have := List.mem_range.mp hj
  have := ho m hm
  omega

/-- One more element moves. -/
theorem Copy.Moved.step {y : Copy} {s t : State} {core tag : Nat} {ns : List Nat} {n : Nat} (h : y.Moved s t core tag ns) (hap : y.Apart (ns ++ [n]))
    (hn : n ∉ ns) : y.Moved s (moveElem core tag t (y.scrElem n)).1 core tag (ns ++ [n]) := by
  have hmem : n ∈ ns ++ [n] := by simp
  have hsep : ∀ m ∈ ns, _ := fun m hm => hap m (List.mem_append_left _ hm) n hmem
  obtain ⟨c, hc, hk⟩ := h.copy
  obtain ⟨h1, h2, h3, h4⟩ := moveElem_scratch hc hk h.here (fun m hm => (hsep m hm).2.1) fun hmx m hm => (hsep m hm).2.2 hmx
  have hw : y.written t n = y.written s n := by
    unfold Copy.written
    rw [h.scrAt_eq fun m hm => (hsep m hm).2.1, h.scrAt_eq fun m hm => (hsep m hm).1 fun e => hn (e ▸ hm)]
    cases hmx : y.shape.mx
    · rfl
    · rw [h.scrAt_eq fun m hm => (hsep m hm).2.2 hmx]
  refine ⟨fun k => (h1 k).trans (h.memory k), h2, h3, fun m hm j hj => ?_, fun k hk => ?_⟩
  · rw [h4]
    rcases List.mem_append.mp hm with hm | hm
    · have := (hsep m hm).1 fun e => hn (e ▸ hm)
      rw [if_neg (by omega), h.done m hm j hj]
    · rw [List.mem_singleton.mp hm, if_pos (by omega), hw, Nat.add_sub_cancel_left]
  · have := hk n hmem
    rw [h4, if_neg (by omega)]
    exact h.rest k fun m hm => hk m (List.mem_append_left _ hm)

/-- The elements of a list move one after another. -/
theorem Copy.Moved.all {y : Copy} {s : State} {core tag : Nat} (l : List Nat) {t : State} {ns : List Nat} (h : y.Moved s t core tag ns)
    (hap : y.Apart (ns ++ l)) (hn : (ns ++ l).Nodup) (o : List (Elem × List Byte)) :
    y.Moved s ((l.map y.scrElem).foldl (fun (x : State × List (Elem × List Byte)) e => ((moveElem core tag x.1 e).1, x.2 ++ (moveElem core tag x.1 e).2))
      (t, o)).1 core tag (ns ++ l) := by
  induction l generalizing t ns o with
  | nil => simpa using h
  | cons n l ih =>
    rw [List.append_cons] at hap hn ⊢
    have hap' : y.Apart (ns ++ [n]) := fun a ha b hb => hap a (List.mem_append_left _ ha) b (List.mem_append_left _ hb)
    have hfresh : n ∉ ns := fun hm => (List.nodup_append.mp (List.nodup_append.mp hn).1).2.2 n hm n (List.mem_singleton_self _) rfl
    exact ih (h.step hap' hfresh) hap hn _

/-- What a chunk leaves: its elements moved, and the cursor one chunk further. -/
theorem moveChunk_scratch {s : State} {core tag : Nat} {y : Copy} {ns : List Nat} (hc : (s.tag core tag).copy = some y) (ha : y.aside = [])
    (hteam : s.hasTeam y.team = true) (hp : (s.team y.team).spois = []) (hap : y.Apart ns) (hn : ns.Nodup) (far : Option Nat) (path : Nat) :
    ∃ t, y.Moved s t core tag ns ∧ ∃ a p, moveChunk s core tag y (ns.map y.scrElem) far path =
      setCopy t core tag { ((t.tag core tag).copy.getD y) with cursor := y.cursor + 1, aside := a, pool := p } := by
  have hmoved : y.Moved s s core tag [] :=
    ⟨fun _ => rfl, hteam, ⟨y, hc, y.aside, y.old, rfl, by simp [ha]⟩, by simp, fun _ _ => rfl⟩
  refine ⟨_, hmoved.all ns hap hn [], ?_⟩
  have hbad : ((ns.map y.scrElem).any fun e =>
      (srcRead s y e.src (elemBytes y.shape.sfmt)).2.2 || (y.shape.mx && (srcRead s y e.sc 1).2.2)) = false := by
    simp [Copy.scrElem, srcRead_clean ha hp]
  unfold moveChunk
  simp only [hbad, Bool.false_eq_true, ↓reduceIte, touchElems_scratch]
  split
  · rename_i haway
    simp [Copy.scrElem] at haway
  · exact ⟨_, _, rfl⟩

/-- The elements of the next chunk, each once. -/
theorem chunk_nodup (y : Copy) : y.chunk.Nodup := by
  unfold Copy.chunk
  exact (List.nodup_range.map fun a b h => Nat.add_left_cancel h).filter _

/-- COPY_CHUNK_COMMIT of a running copy between scratch and scratch moves its chunk (R165). -/
theorem execCopyChunkCommit_scratch {s : State} {core tag : Nat} {y : Copy} (hc : (s.tag core tag).copy = some y) (hph : y.phase = .running)
    (hs : y.shape.ssp = true) (hd : y.shape.dsp = true) (hy : yields s core y = false) (hw : waitingSnapshots s = [])
    (hpath : y.shape.path = 0x40 ∨ y.shape.path = 0x42) (hne : y.chunk ≠ []) :
    execCopyChunkCommit core tag s = .next (moveChunk s core tag y (y.chunk.map y.scrElem) none 0x41) := by
  have hbad : pathBad y (y.chunk.map y.scrElem) none = false := by
    rcases hpath with h | h <;> simp [pathBad, Copy.scrElem, h]
  have hgo : (y.phase != .running || y.chunk == [] || yields s core y) = false := by simp [hph, hne, hy]
  unfold execCopyChunkCommit
  simp only [hc, hgo, Bool.false_eq_true, ↓reduceIte, reachElems_scratch hs hd, farOf_scratch, hbad, asideFor_scratch hw, memPlaces_scratch, cohere_nil]

/-! ### Integer reductions (R84) -/

theorem sext_word (x : Word) : sext x.toNat 32 = x.toInt := by
  have := x.isLt
  rw [BitVec.toInt_eq_toNat_cond]
  simp only [sext]
  split <;> split <;> omega

/-- INT32 reductions of a copy are sums modulo 2^32 and signed minima and maxima (R84, R154). -/
theorem elemOut_int {h : Shape} (hf : h.sfmt = 10) (x old : Word) (sc : Nat) :
    (h.red = 1 → elemOut h x.toNat sc old.toNat = (old + x).toNat) ∧
      (h.red = 2 → elemOut h x.toNat sc old.toNat = (if x.slt old then x else old).toNat) ∧
      (h.red = 3 → elemOut h x.toNat sc old.toNat = (if old.slt x then x else old).toNat) := by
  refine ⟨fun hr => ?_, fun hr => ?_, fun hr => ?_⟩ <;>
    simp only [elemOut, hr, hf, intRmw, sext_word, BitVec.slt, decide_eq_true_eq, Nat.reduceMul, Nat.reduceSub, Nat.reduceBEq, ↓reduceIte, Bool.false_eq_true,
      Option.getD_some, beq_self_eq_true, apply_ite BitVec.toNat, BitVec.toNat_add]

/-- Settles O34: the chunk's elements move one after another, each from what stood there before, and the integer reductions. -/
theorem copyChunksMoveElements : Obligations.CopyChunksMoveElements := by
  unfold Obligations.CopyChunksMoveElements
  refine ⟨fun s core tag y hc hph hs hd ha hteam hp hy hw hpath => ?_, fun h x sc old hr hf => ?_, fun h x old sc hf => elemOut_int hf x old sc⟩
  · intro h ns sn dn src dst sc old rd hne hap
    obtain ⟨t, hm, a, p, he⟩ := moveChunk_scratch hc ha hteam hp (ns := y.chunk) hap (chunk_nodup y) none 0x41
    refine ⟨_, (execCopyChunkCommit_scratch hc hph hs hd hy hw hpath hne).trans (congrArg _ he), fun k => ?_, ?_, fun n hn j hj => ?_, fun k hk => ?_⟩
    · exact (byte_setCopy ..).trans (hm.memory k)
    · rw [tag_setCopy]
      rfl
    · rw [team_setCopy]
      exact hm.done n hn j hj
    · rw [team_setCopy]
      exact hm.rest k hk
  · simp [elemOut, hr, hf]

end Sys2Proof.Machine
end


section
/-! PROOF. The queue of matrix operations (R136, R141-R143, R146): a queue without accesses, an operation replaced in its queues, and the
operand phase step by step. -/
namespace Sys2Proof.Machine
open Sys2Proof

/-! ### A queue without accesses (R146) -/

/-- A core's queue holds operations alone. -/
def OpsAlone (s : State) (k : Nat) : Prop := ∀ x ∈ (s.core k).anvil, ∃ y, x = AnvilItem.op y

theorem firstReady_ops (s : State) (before : List AnvilItem) {l : List AnvilItem} (h : ∀ x ∈ l, ∃ y, x = AnvilItem.op y) : firstReady s before l = none := by
  induction l generalizing before with
  | nil => rfl
  | cons x l ih =>
    obtain ⟨y, rfl⟩ := h x List.mem_cons_self
    exact ih _ fun z hz => h z (List.mem_cons_of_mem _ hz)

theorem drain_ops {s : State} {k : Nat} (h : OpsAlone s k) : drain s k = s := by
  unfold drain
  cases (s.core k).anvil.length with
  | zero => rfl
  | succ n => simp only [drainAnvil, firstReady_ops s [] h]

theorem foldl_drain_ops {s : State} {cs : List Nat} (h : ∀ k ∈ cs, OpsAlone s k) : cs.foldl drain s = s := by
  induction cs with
  | nil => rfl
  | cons k cs ih =>
    rw [List.foldl_cons, drain_ops (h k List.mem_cons_self)]
    exact ih fun j hj => h j (List.mem_cons_of_mem _ hj)

theorem accAhead_ops (o : MatOp) {l : List AnvilItem} (h : ∀ x ∈ l, ∃ y, x = AnvilItem.op y) : accAhead o l = false := by
  induction l with
  | nil => rfl
  | cons x l ih =>
    obtain ⟨y, rfl⟩ := h x List.mem_cons_self
    simp only [accAhead, ih fun z hz => h z (List.mem_cons_of_mem _ hz), ite_self]

theorem mstAhead_ops (o : MatOp) {l : List AnvilItem} (h : ∀ x ∈ l, ∃ y, x = AnvilItem.op y) : mstAhead o l = false := by
  induction l with
  | nil => rfl
  | cons x l ih =>
    obtain ⟨y, rfl⟩ := h x List.mem_cons_self
    simp only [mstAhead, ih fun z hz => h z (List.mem_cons_of_mem _ hz), ite_self]

/-! ### An operation in its queues -/

/-- The operation of an item of a queue, when its team is resident. -/
def residentOp (s : State) : AnvilItem → Option MatOp
  | .op o => if (s.team o.team).place == .resident then some o else none
  | .acc _ _ _ => none

theorem coreOps_eq (s : State) (k : Nat) : coreOps s k = (s.core k).anvil.filterMap (residentOp s) := by
  unfold coreOps
  refine congrArg (List.filterMap · _) (funext fun x => ?_)
  cases x <;> rfl

theorem residentOp_of_mem {s : State} {k : Nat} {o : MatOp} (h : o ∈ coreOps s k) : (s.team o.team).place = .resident := by
  rw [coreOps_eq] at h
  obtain ⟨x, _, hx⟩ := List.mem_filterMap.mp h
  cases x with
  | acc t g a => exact absurd hx (by simp [residentOp])
  | op y =>
    simp only [residentOp] at hx
    split at hx
    · obtain rfl := Option.some.inj hx
      simpa using ‹((s.team y.team).place == .resident) = true›
    · exact absurd hx (by simp)

/-- Replacing an operation in a queue replaces it among those of resident teams. -/
theorem filterMap_changeOp {s : State} {o x : MatOp} (ho : (s.team o.team).place = .resident) (hx : x.team = o.team) (l : List AnvilItem) :
    (changeOp o (some x) l).filterMap (residentOp s) = (l.filterMap (residentOp s)).replace o x := by
  have hso : residentOp s (.op o) = some o := by simp [residentOp, ho]
  have hsx : residentOp s (.op x) = some x := by simp [residentOp, hx, ho]
  induction l with
  | nil => rfl
  | cons z l ih =>
    cases z with
    | acc t g a => exact ih
    | op y =>
      by_cases hy : y = o
      · subst hy
        simp [changeOp, hso, hsx]
      · have hb : (y == o) = false := beq_eq_false_iff_ne.mpr hy
        have hb' : (o == y) = false := beq_eq_false_iff_ne.mpr (Ne.symm hy)
        simp only [changeOp, hy, decide_false, Bool.false_eq_true, ↓reduceIte, List.filterMap_cons, ih]
        cases hr : residentOp s (.op y) with
        | none => rfl
        | some y' =>
          have : y' = y := by
            simp only [residentOp] at hr
            split at hr
            · exact (Option.some.inj hr).symm
            · exact absurd hr (by simp)
          rw [this, List.replace_cons, hb']

theorem putOp_eq (s : State) (cs : List Nat) (o x : MatOp) : putOp s cs o x = { s with cores := (putOp s cs o x).cores } := by
  unfold putOp
  refine List.foldlRecOn (motive := fun t : State => t = { s with cores := t.cores }) _ _ rfl ?_
  intro t ht k _
  rw [ht]
  rfl

/-- The queues of a list of cores, each once, after an operation is replaced in them. -/
theorem putOp_core (s : State) {cs : List Nat} (hn : cs.Nodup) (o x : MatOp) (k : Nat) :
    ((putOp s cs o x).core k).anvil = if k ∈ cs then changeOp o (some x) (s.core k).anvil else (s.core k).anvil := by
  unfold putOp
  induction cs generalizing s with
  | nil => rfl
  | cons c cs ih =>
    obtain ⟨hc, hn⟩ := List.nodup_cons.mp hn
    rw [List.foldl_cons, ih _ hn, State.core_setCore]
    by_cases hk : k = c
    · subst hk
      simp [hc]
    · simp [hk]

/-- The operations of a core after one of a resident team is replaced. -/
theorem coreOps_putOp {s : State} {cs : List Nat} (hn : cs.Nodup) {o x : MatOp} (ho : (s.team o.team).place = .resident) (hx : x.team = o.team)
    {k : Nat} (hk : k ∈ cs) : coreOps (putOp s cs o x) k = (coreOps s k).replace o x := by
  have hres : residentOp (putOp s cs o x) = residentOp s := by
    rw [putOp_eq]
    rfl
  rw [coreOps_eq, coreOps_eq, putOp_core s hn, if_pos hk, hres, filterMap_changeOp ho hx]

theorem opCores_nodup (s : State) (tm : Team) (pair : Bool) (core : Nat) : (opCores s tm pair core).Nodup := by
  unfold opCores
  split <;> simp

/-! ### The operand phase (R117, R121, R143) -/

/-- An operation whose next operand step has been read, each byte once. -/
def MatOp.stepped (o : MatOp) (tm : Team) : MatOp :=
  { o with phase := .operands, steps := o.steps + 1
           bytes := o.bytes ++ ((o.allSteps.getD o.steps []).filter fun a => !(o.bytes.any (·.1 == a))).eraseDups.map fun a => (a, tget 0 tm.scratch a, tm.anyPoison a 1) }

theorem MatOp.stepped_byte (o : MatOp) (tm : Team) (a : Nat) :
    (o.stepped tm).byte a = if a ∈ o.allSteps.getD o.steps [] ∧ (o.bytes.any (·.1 == a)) = false then (tget 0 tm.scratch a, tm.anyPoison a 1) else o.byte a := by
  have hbyte : (o.stepped tm).byte a = (((o.bytes.find? (·.1 == a)).or ((((o.allSteps.getD o.steps []).filter fun a => !(o.bytes.any (·.1 == a))).eraseDups.find?
      (· == a)).map fun a => (a, tget 0 tm.scratch a, tm.anyPoison a 1))).map (·.2)).getD (0, false) := by
    unfold MatOp.byte MatOp.stepped
    rw [List.find?_append, List.find?_map]
    rfl
  rw [hbyte]
  unfold MatOp.byte
  cases hin : o.bytes.find? (·.1 == a) with
  | some e =>
    have hany : (o.bytes.any (·.1 == a)) = true := List.any_eq_true.mpr ⟨e, List.mem_of_find?_eq_some hin, by simpa using List.find?_some hin⟩
    simp [hany]
  | none =>
    have hany : (o.bytes.any (·.1 == a)) = false := List.any_eq_false.mpr (List.find?_eq_none.mp hin)
    simp only [hany, and_true, Option.none_or]
    cases hf : ((o.allSteps.getD o.steps []).filter fun a => !(o.bytes.any (·.1 == a))).eraseDups.find? (· == a) with
    | some b =>
      obtain rfl : b = a := by simpa using List.find?_some hf
      have hmem := (List.mem_filter.mp (List.mem_eraseDups.mp (List.mem_of_find?_eq_some hf))).1
      rw [if_pos hmem]
      rfl
    | none =>
      have hmem : a ∉ o.allSteps.getD o.steps [] := fun hm =>
        absurd (List.find?_eq_none.mp hf a (List.mem_eraseDups.mpr (List.mem_filter.mpr ⟨hm, by simp [hany]⟩))) (by simp)
      rw [if_neg hmem]
      rfl

/-- With no lock held, no access in its queues, the next step is read. -/
theorem operandPhase_eq {s : State} {core : Nat} {o : MatOp} (hl : lockHolders s = []) (h : ∀ k ∈ opCores s (s.team o.team) o.pair core, OpsAlone s k) :
    operandPhase s core o = putOp s (opCores s (s.team o.team) o.pair core) o (o.stepped (s.team o.team)) := by
  have hmst : ((opCores s (s.team o.team) o.pair core).any fun k => mstAhead o (s.core k).anvil) = false := by
    rw [List.any_eq_false]
    intro k hk
    simp [mstAhead_ops o (h k hk)]
  have hlock : ∀ os : List Nat, locksHit s (os.map fun a => .scr (s.team o.team).uid a) false = none := fun os =>
    locksHit_free hl (fun f _ l hm => by obtain ⟨a, _, rfl⟩ := List.mem_map.mp hm; rfl) (by simp)
  unfold operandPhase
  simp only [hmst, hlock]
  rfl

/-! ### MATRIX_COMPUTE_START (R142, R143) -/

theorem firstOp_eq_some {s : State} {core : Nat} {o : MatOp} (h : firstOp s core = some o) : ∃ rest, coreOps s core = o :: rest := by
  unfold firstOp at h
  cases hc : coreOps s core with
  | nil => rw [hc] at h; exact absurd h (by simp)
  | cons y rest =>
    rw [hc] at h
    exact ⟨rest, by rw [Option.some.inj h]⟩

/-- The first operation of its cores after it is replaced. -/
theorem firstOp_putOp {s : State} {cs : List Nat} (hn : cs.Nodup) {o x : MatOp} (hx : x.team = o.team) {k : Nat} (hk : k ∈ cs) (h : firstOp s k = some o) :
    firstOp (putOp s cs o x) k = some x := by
  obtain ⟨rest, hr⟩ := firstOp_eq_some h
  have ho := residentOp_of_mem (s := s) (k := k) (o := o) (by rw [hr]; exact List.mem_cons_self)
  unfold firstOp
  rw [coreOps_putOp hn ho hx hk, hr, List.replace_cons_self]
  rfl

theorem mem_replace_self {l : List MatOp} {a b : MatOp} (h : a ∈ l) : b ∈ l.replace a b := by
  induction l with
  | nil => exact absurd h (by simp)
  | cons c l ih =>
    rw [List.replace_cons]
    cases hc : a == c with
    | true => exact List.mem_cons_self
    | false => exact List.mem_cons_of_mem _ (ih ((List.mem_cons.mp h).resolve_left (beq_eq_false_iff_ne.mp hc)))

/-- An operation among the first two of its core is still so after it is replaced. -/
theorem take_putOp {s : State} {cs : List Nat} (hn : cs.Nodup) {o x : MatOp} (hx : x.team = o.team) {k : Nat} (hk : k ∈ cs) (h : o ∈ (coreOps s k).take 2) :
    x ∈ (coreOps (putOp s cs o x) k).take 2 := by
  have ho := residentOp_of_mem (List.mem_of_mem_take h)
  rw [coreOps_putOp hn ho hx hk, ← List.replace_take]
  exact mem_replace_self h

section
variable {s : State} {core : Nat} {o : MatOp} (hf : firstOp s core = some o)
include hf

/-- The first operation of its cores, not all its operands read: a step of its operand phase. -/
theorem computeStart_step (hph : o.phase ≠ .compute) (h : ∀ k ∈ opCores s (s.team o.team) o.pair core, firstOp s k = some o ∧ OpsAlone s k)
    (hr : o.read = false) : execMatrixComputeStart core s = .next (operandPhase s core o) := by
  obtain ⟨rest, hc⟩ := firstOp_eq_some hf
  have hall : ((opCores s (s.team o.team) o.pair core).all fun k => ((coreOps s k).take 2).contains o) = true := by
    rw [List.all_eq_true]
    intro k hk
    obtain ⟨rest', hk'⟩ := firstOp_eq_some (h k hk).1
    simp [hk']
  unfold execMatrixComputeStart
  simp only [hc, beq_iff_eq, hph, ↓reduceIte, foldl_drain_ops fun k hk => (h k hk).2, hr, Bool.not_false, hall]

/-- The first operation of its cores, all its operands read, computes. -/
theorem computeStart_compute (hph : o.phase ≠ .compute) (h : ∀ k ∈ opCores s (s.team o.team) o.pair core, firstOp s k = some o ∧ OpsAlone s k)
    (hr : o.read = true) : execMatrixComputeStart core s = .next (putOp s (opCores s (s.team o.team) o.pair core) o { o with phase := .compute }) := by
  obtain ⟨rest, hc⟩ := firstOp_eq_some hf
  have hall : ((opCores s (s.team o.team) o.pair core).all fun k => firstOp s k == some o && !(accAhead o (s.core k).anvil)) = true := by
    rw [List.all_eq_true]
    intro k hk
    simp [(h k hk).1, accAhead_ops o (h k hk).2]
  unfold execMatrixComputeStart
  simp only [hc, beq_iff_eq, hph, ↓reduceIte, foldl_drain_ops fun k hk => (h k hk).2, hr, Bool.not_true, Bool.false_eq_true, hall]

end

/-- While the first computes, the second reads a step of its operands. -/
theorem computeStart_ahead {s : State} {core : Nat} {o y : MatOp} {rest : List MatOp} (hc : coreOps s core = o :: y :: rest) (hph : o.phase = .compute)
    (hr : y.read = false) (h : ∀ k ∈ opCores s (s.team y.team) y.pair core, y ∈ (coreOps s k).take 2) :
    execMatrixComputeStart core s = .next (operandPhase s core y) := by
  have hall : ((opCores s (s.team y.team) y.pair core).all fun k => ((coreOps s k).take 2).contains y) = true := by
    rw [List.all_eq_true]
    intro k hk
    simpa using h k hk
  unfold execMatrixComputeStart
  simp only [hc, hph, beq_self_eq_true, ↓reduceIte, operandAhead, hr, Bool.not_false, hall, Bool.and_self]

end Sys2Proof.Machine
end


section
/-! PROOF. The tile of a completed matrix operation (R80, R141, R147, R148): every element on each half, and the marks of rows and columns. -/
namespace Sys2Proof.Machine
open Sys2Proof

/-! ### One half (R80, R147) -/

/-- The A row of a row of a core's half: a pair operation's rows go on over both cores (R142). -/
def MatOp.rowOf (o : MatOp) (half r : Nat) : Nat := if o.pair then 128 * half + r else r
/-- The element of row r and column j of a half, from its old value (R80). -/
def MatOp.cell (o : MatOp) (half : Nat) (old : Word) (r j : Nat) : Word :=
  anvilElement o.form old (o.aRow (o.rowOf half r)) (o.bCol j)
    [bits (o.sign (o.rowOf half r)).scale.1.toNat 0 8, bits (o.sign (o.rowOf half r)).scale.1.toNat 8 8] [(o.bScale j 0).1.toNat, (o.bScale j 1).1.toNat]

/-- The elements of row r of a half, each with its key, from the old values of a team. -/
def MatOp.rowCells (o : MatOp) (tm : Team) (half r : Nat) : List (Nat × Word) :=
  (List.range o.form.n).map fun j =>
    (accKey half (o.form.unit + j / 128) r (j % 128), o.cell half (tm.accAt half (o.form.unit + j / 128) r (j % 128)) r j)
/-- The marks that row r of a half sets. -/
def MatOp.rowMarks (o : MatOp) (half r : Nat) : List Nat :=
  if o.rowPoison (o.rowOf half r) then (from_ o.form.unit (unitsOf o.form.n)).map fun u => markKey half u r else []
/-- The marks that the columns set on a half. -/
def MatOp.colMarks (o : MatOp) (half : Nat) : List Nat :=
  ((List.range o.form.n).filter o.colPoison).map fun j => markKey half (o.form.unit + j / 128) (j % 128)

theorem foldl_rowCells (o : MatOp) (tm : Team) (half r : Nat) (x : Team) :
    (List.range o.form.n).foldl (fun (x : Team) j =>
      x.setAcc half (o.form.unit + j / 128) r (j % 128) (o.cell half (tm.accAt half (o.form.unit + j / 128) r (j % 128)) r j)) x =
      { x with acc := (o.rowCells tm half r).foldl (fun t x => tset 0 t x.1 x.2) x.acc } := by
  unfold MatOp.rowCells
  rw [List.foldl_map]
  generalize List.range o.form.n = l
  induction l generalizing x with
  | nil => rfl
  | cons j l ih => exact ih _

/-- A row's elements and marks put on a team. -/
def MatOp.putRow (o : MatOp) (tm : Team) (half : Nat) (x : Team) (r : Nat) : Team :=
  { x with acc := (o.rowCells tm half r).foldl (fun t x => tset 0 t x.1 x.2) x.acc, rmark := (o.rowMarks half r).foldl nins x.rmark }

theorem foldl_putRow (o : MatOp) (tm : Team) (half : Nat) (rs : List Nat) (x : Team) :
    rs.foldl (o.putRow tm half) x =
      { x with acc := (rs.flatMap (o.rowCells tm half)).foldl (fun t x => tset 0 t x.1 x.2) x.acc
               rmark := (rs.flatMap (o.rowMarks half)).foldl nins x.rmark } := by
  induction rs generalizing x with
  | nil => rfl
  | cons r rs ih =>
    rw [List.foldl_cons, ih, List.flatMap_cons, List.flatMap_cons, List.foldl_append, List.foldl_append]
    rfl

theorem foldl_colMarks (o : MatOp) (half : Nat) (l : List Nat) :
    (List.range o.form.n).foldl (fun l j => if o.colPoison j then nins l (markKey half (o.form.unit + j / 128) (j % 128)) else l) l =
      (o.colMarks half).foldl nins l := by
  unfold MatOp.colMarks
  rw [List.foldl_map, List.foldl_filter]

/-- What a completed operation leaves of a team on one half. -/
theorem matWrite_eq (tm : Team) (o : MatOp) (half : Nat) :
    matWrite tm o half =
      { tm with acc := ((List.range 128).flatMap (o.rowCells tm half)).foldl (fun t x => tset 0 t x.1 x.2) tm.acc
                rmark := ((List.range 128).flatMap (o.rowMarks half)).foldl nins tm.rmark
                cmark := (o.colMarks half).foldl nins tm.cmark } := by
  have hrow : ∀ (x : Team) (r : Nat),
      (let y := (List.range o.form.n).foldl (fun (x : Team) j =>
        x.setAcc half (o.form.unit + j / 128) r (j % 128) (o.cell half (tm.accAt half (o.form.unit + j / 128) r (j % 128)) r j)) x
      if o.rowPoison (o.rowOf half r) then { y with rmark := (from_ o.form.unit (unitsOf o.form.n)).foldl (fun l u => nins l (markKey half u r)) y.rmark } else y) =
        o.putRow tm half x r := fun x r => by
    rw [foldl_rowCells]
    unfold MatOp.putRow MatOp.rowMarks
    dsimp only
    split
    · rw [List.foldl_map]
    · rfl
  have hrows : (List.range 128).foldl (o.putRow tm half) tm = _ := foldl_putRow o tm half (List.range 128) tm
  have hcols := foldl_colMarks o half ((List.range 128).foldl (o.putRow tm half) tm).cmark
  have e : matWrite tm o half = { (List.range 128).foldl (o.putRow tm half) tm with
      cmark := (List.range o.form.n).foldl (fun l j => if o.colPoison j then nins l (markKey half (o.form.unit + j / 128) (j % 128)) else l)
        ((List.range 128).foldl (o.putRow tm half) tm).cmark } := by
    rw [← funext fun x => funext (hrow x)]
    unfold matWrite
    simp only [List.foldl_map]
    rfl
  rw [e, hcols, hrows]

/-! ### Reading a half (R53, R147) -/

section
variable {o : MatOp} (hn : o.form.n ≤ 512)
include hn

/-- An element's key tells its half, row and column. -/
theorem accKey_inj {h h' r r' j j' : Nat} (hr : r < 128) (hr' : r' < 128) (hj : j < o.form.n) (hj' : j' < o.form.n)
    (e : accKey h (o.form.unit + j / 128) r (j % 128) = accKey h' (o.form.unit + j' / 128) r' (j' % 128)) : h = h' ∧ r = r' ∧ j = j' := by
  unfold accKey at e
  omega

/-- An element of a half after an operation has completed on a half (R80). -/
theorem matWrite_accAt (tm : Team) {half h r j : Nat} (hr : r < 128) (hj : j < o.form.n) :
    (matWrite tm o half).accAt h (o.form.unit + j / 128) r (j % 128) =
      if h = half then o.cell half (tm.accAt half (o.form.unit + j / 128) r (j % 128)) r j else tm.accAt h (o.form.unit + j / 128) r (j % 128) := by
  have hmem : ∀ x, x ∈ (List.range 128).flatMap (o.rowCells tm half) ↔ ∃ r' < 128, ∃ j' < o.form.n,
      (accKey half (o.form.unit + j' / 128) r' (j' % 128), o.cell half (tm.accAt half (o.form.unit + j' / 128) r' (j' % 128)) r' j') = x := fun x => by
    simp [MatOp.rowCells, List.mem_flatMap]
  rw [matWrite_eq]
  unfold Team.accAt at *
  rw [tget_foldl_tset 0 _ _ (v := o.cell half (tget 0 tm.acc (accKey half (o.form.unit + j / 128) r (j % 128))) r j) fun x hx e => by
    obtain ⟨r', hr', j', hj', rfl⟩ := (hmem x).mp hx
    obtain ⟨-, rfl, rfl⟩ := accKey_inj hn hr' hr hj' hj e
    rfl]
  refine if_congr ?_ rfl rfl
  rw [List.any_eq_true]
  constructor
  · rintro ⟨x, hx, e⟩
    obtain ⟨r', hr', j', hj', rfl⟩ := (hmem x).mp hx
    exact (accKey_inj hn hr' hr hj' hj (beq_iff_eq.mp e)).1.symm
  · rintro rfl
    exact ⟨_, (hmem _).mpr ⟨r, hr, j, hj, rfl⟩, beq_iff_eq.mpr rfl⟩

/-- Rows marked on a half: those whose A row is poisoned. -/
theorem rowMarks_contains {half h r j : Nat} (hr : r < 128) (hj : j < o.form.n) :
    ((List.range 128).flatMap (o.rowMarks half)).contains (markKey h (o.form.unit + j / 128) r) = (decide (h = half) && o.rowPoison (o.rowOf half r)) := by
  rw [Bool.eq_iff_iff]
  simp only [List.contains_iff_mem, List.mem_flatMap, List.mem_range, Bool.and_eq_true, decide_eq_true_eq, MatOp.rowMarks]
  constructor
  · rintro ⟨r', hr', hm⟩
    split at hm
    · obtain ⟨u, hu', e⟩ := List.mem_map.mp hm
      unfold from_ at hu'
      obtain ⟨i, hi, rfl⟩ := List.mem_map.mp hu'
      have := List.mem_range.mp hi
      unfold unitsOf at this
      unfold markKey at e
      obtain ⟨rfl, rfl⟩ : h = half ∧ r' = r := by omega
      exact ⟨rfl, ‹_›⟩
    · exact absurd hm (by simp)
  · rintro ⟨rfl, hp⟩
    refine ⟨r, hr, ?_⟩
    rw [if_pos hp]
    refine List.mem_map.mpr ⟨o.form.unit + j / 128, List.mem_map.mpr ⟨j / 128, List.mem_range.mpr ?_, rfl⟩, rfl⟩
    unfold unitsOf
    omega

/-- Columns marked on a half: those that are poisoned. -/
theorem colMarks_contains {half h j : Nat} (hj : j < o.form.n) :
    (o.colMarks half).contains (markKey h (o.form.unit + j / 128) (j % 128)) = (decide (h = half) && o.colPoison j) := by
  rw [Bool.eq_iff_iff]
  simp only [List.contains_iff_mem, MatOp.colMarks, List.mem_map, List.mem_filter, List.mem_range, Bool.and_eq_true, decide_eq_true_eq]
  constructor
  · rintro ⟨j', ⟨hj', hp⟩, e⟩
    unfold markKey at e
    obtain ⟨rfl, rfl⟩ : h = half ∧ j' = j := by omega
    exact ⟨rfl, hp⟩
  · rintro ⟨rfl, hp⟩
    exact ⟨j, ⟨hj, hp⟩, rfl⟩

/-- The poison of an element of a half after an operation has completed on a half (R147). -/
theorem matWrite_accPoison (tm : Team) {half h r j : Nat} (hr : r < 128) (hj : j < o.form.n) :
    (matWrite tm o half).accPoison h (o.form.unit + j / 128) r (j % 128) =
      (tm.accPoison h (o.form.unit + j / 128) r (j % 128) || (decide (h = half) && (o.rowPoison (o.rowOf half r) || o.colPoison j))) := by
  rw [matWrite_eq]
  unfold Team.accPoison
  simp only [nmem_foldl_nins, rowMarks_contains hn hr hj, colMarks_contains hn hj]
  cases decide (h = half) <;> simp [Bool.or_assoc, Bool.or_left_comm, Bool.or_comm]

/-- Elements and poison after an operation has completed on several halves. -/
theorem foldl_matWrite {hs : List Nat} (hnd : hs.Nodup) (tm : Team) {h r j : Nat} (hr : r < 128) (hj : j < o.form.n) :
    let t := hs.foldl (fun x h => matWrite x o h) tm
    t.accAt h (o.form.unit + j / 128) r (j % 128) =
        (if h ∈ hs then o.cell h (tm.accAt h (o.form.unit + j / 128) r (j % 128)) r j else tm.accAt h (o.form.unit + j / 128) r (j % 128)) ∧
      t.accPoison h (o.form.unit + j / 128) r (j % 128) =
        (tm.accPoison h (o.form.unit + j / 128) r (j % 128) || (decide (h ∈ hs) && (o.rowPoison (o.rowOf h r) || o.colPoison j))) := by
  induction hs generalizing tm with
  | nil => simp
  | cons g hs ih =>
    obtain ⟨hg, hnd⟩ := List.nodup_cons.mp hnd
    obtain ⟨h1, h2⟩ := ih hnd (matWrite tm o g)
    rw [matWrite_accAt hn tm hr hj] at h1
    rw [matWrite_accPoison hn tm hr hj] at h2
    rw [List.foldl_cons]
    refine ⟨h1.trans ?_, h2.trans ?_⟩
    · by_cases e : h = g
      · subst e
        simp [hg]
      · simp [e]
    · by_cases e : h = g
      · subst e
        simp [hg]
      · simp [e]

end

/-- The rest of a team stays as it is. -/
theorem foldl_matWrite_rest (o : MatOp) (hs : List Nat) (tm : Team) :
    ∃ a r c, hs.foldl (fun x h => matWrite x o h) tm = { tm with acc := a, rmark := r, cmark := c } := by
  refine List.foldlRecOn (motive := fun t : Team => ∃ a r c, t = { tm with acc := a, rmark := r, cmark := c }) _ _ ⟨_, _, _, rfl⟩ ?_
  rintro t ⟨a, r, c, rfl⟩ h _
  exact ⟨_, _, _, matWrite_eq ..⟩

end Sys2Proof.Machine
end


section
/-! PROOF. MATRIX_COMPLETE and DEFERRED_MATRIX_TRAP (R136-R138, R141, R143, R147, R258): the tile, the queues, the signers' counters and the
threads in MWAIT; and the obligation on matrix operations. -/
namespace Sys2Proof.Machine
open Sys2Proof

/-! ### The signers' counters (R136, R316) -/

theorem sbDone_hasThread (s : State) (u k v : Nat) : (sbDone s u k).hasThread v = s.hasThread v := by
  unfold sbDone
  split
  · exact State.hasThread_setThread ..
  · rfl

theorem sbDone_eq (s : State) (u k : Nat) : sbDone s u k = { s with threads := (sbDone s u k).threads } := by
  unfold sbDone
  split <;> rfl

theorem renew_uid (s : State) (old new : Thread) : (renew s old new).uid = new.uid := by
  show (renew s old new).unstamped.uid = new.unstamped.uid
  rw [renew_unstamped]

/-- A counter falls in its own thread, when it lives; a ready stamp may change. -/
theorem sbDone_thread (s : State) (u k v : Nat) :
    ((sbDone s u k).thread v).unstamped = if v = u ∧ s.hasThread u = true then ((s.thread u).sbDown k).unstamped else (s.thread v).unstamped := by
  unfold sbDone
  by_cases hu : s.hasThread u = true
  · have huid : (renew s (s.thread u) ((s.thread u).sbDown k)).uid = u := (renew_uid ..).trans ((Thread.sbDown_uid ..).trans (State.thread_uid hu))
    rw [if_pos hu, State.thread_setThread, huid]
    by_cases hv : v = u
    · subst hv
      simp [hu, renew_unstamped]
    · simp [hv]
  · simp [hu]

/-- The counters of an operation's signers fall. -/
def signersDone (s : State) (l : List Sign) : State := l.foldl (fun s g => sbDone s g.thread g.sb) s

theorem signersDone_eq (s : State) (l : List Sign) : signersDone s l = { s with threads := (signersDone s l).threads } := by
  unfold signersDone
  refine List.foldlRecOn (motive := fun t : State => t = { s with threads := t.threads }) _ _ rfl ?_
  intro t ht g _
  rw [sbDone_eq, ht]

theorem signersDone_hasThread (s : State) (l : List Sign) (v : Nat) : (signersDone s l).hasThread v = s.hasThread v := by
  unfold signersDone
  induction l generalizing s with
  | nil => rfl
  | cons g l ih => exact (ih _).trans (sbDone_hasThread ..)

/-- A thread but for its counters and its ready stamp. -/
def Thread.uncounted (t : Thread) : Thread := { t.unstamped with sb := [] }

theorem uncounted_status {t t' : Thread} (h : t.uncounted = t'.uncounted) : t.status = t'.status := by
  show t.uncounted.status = t'.uncounted.status
  rw [h]

theorem uncounted_pc {t t' : Thread} (h : t.uncounted = t'.uncounted) : t.pc = t'.pc := by
  show t.uncounted.pc = t'.uncounted.pc
  rw [h]

theorem uncounted_team {t t' : Thread} (h : t.uncounted = t'.uncounted) : t.team = t'.team := by
  show t.uncounted.team = t'.uncounted.team
  rw [h]

theorem sbDown_uncounted (t : Thread) (k : Nat) : (t.sbDown k).unstamped.uncounted = t.unstamped.uncounted := by
  unfold Thread.sbDown
  split <;> rfl

theorem signersDone_uncounted (s : State) (l : List Sign) (v : Nat) : ((signersDone s l).thread v).uncounted = (s.thread v).uncounted := by
  unfold signersDone
  induction l generalizing s with
  | nil => rfl
  | cons g l ih =>
    refine (ih _).trans ?_
    show ((sbDone s g.thread g.sb).thread v).unstamped.uncounted = (s.thread v).unstamped.uncounted
    rw [sbDone_thread]
    split
    · rename_i h
      rw [h.1, sbDown_uncounted]
    · rfl

/-- A thread that has not signed keeps its counters. -/
theorem signersDone_other (s : State) {l : List Sign} {v : Nat} (h : v ∉ l.map (·.thread)) :
    ((signersDone s l).thread v).unstamped = (s.thread v).unstamped := by
  unfold signersDone
  induction l generalizing s with
  | nil => rfl
  | cons g l ih =>
    rw [List.map_cons, List.mem_cons, not_or] at h
    exact (ih _ h.2).trans ((sbDone_thread ..).trans (if_neg fun e => h.1 e.1))

/-- A signer's counter falls once where every signer has signed once. -/
theorem signersDone_signer (s : State) {l : List Sign} (hn : (l.map (·.thread)).Nodup) {g : Sign} (hg : g ∈ l) (hs : s.hasThread g.thread = true) :
    ((signersDone s l).thread g.thread).unstamped = ((s.thread g.thread).sbDown g.sb).unstamped := by
  induction l generalizing s with
  | nil => exact absurd hg (by simp)
  | cons g' l ih =>
    rw [List.map_cons, List.nodup_cons] at hn
    rcases List.mem_cons.mp hg with rfl | hg
    · exact (signersDone_other _ hn.1).trans ((sbDone_thread ..).trans (if_pos ⟨rfl, hs⟩))
    · have hne : g.thread ≠ g'.thread := fun e => hn.1 (e ▸ List.mem_map_of_mem hg)
      refine (ih (sbDone s g'.thread g'.sb) hn.2 hg ((sbDone_hasThread ..).trans hs)).trans ?_
      rw [sbDown_stampless, sbDone_thread, if_neg fun e => hne e.1, sbDown_stampless]

/-! ### Threads in MWAIT (R138) -/

/-- A thread after the MWAITs that have nothing left to wait for are released. -/
def released (s : State) (team : Nat) (t : Thread) : Thread :=
  match t.status with
  | .waiting (.matrix c) => if t.team == team && !(signedOn s t c) then t.readyAt (t.pc + 8) s.cycle else t
  | _ => t

theorem wakeMwait_eq (s : State) (team : Nat) : wakeMwait s team = { s with threads := s.threads.map (released s team) } := by
  unfold wakeMwait
  refine congrArg (fun f => { s with threads := s.threads.map f }) (funext fun t => ?_)
  unfold released
  rfl

theorem released_uid (s : State) (team : Nat) (t : Thread) : (released s team t).uid = t.uid := by
  unfold released
  split
  · split
    · exact Thread.readyAt_uid ..
    · rfl
  · rfl

theorem wakeMwait_thread {s : State} {v : Nat} (h : s.hasThread v = true) (team : Nat) : (wakeMwait s team).thread v = released s team (s.thread v) := by
  rw [wakeMwait_eq]
  unfold State.thread
  rw [find_map_uid (released_uid s team)]
  obtain ⟨x, hx, hv⟩ := List.any_eq_true.mp h
  cases hf : s.threads.find? (·.uid == v) with
  | none => exact absurd hv (List.find?_eq_none.mp hf x hx)
  | some t => rfl

theorem released_busy {s : State} {team : Nat} {t : Thread} (h : ∀ k, t.status ≠ .waiting (.matrix k)) : released s team t = t := by
  unfold released
  split
  · exact absurd ‹_› (h _)
  · rfl

theorem released_waiting {s : State} {team c : Nat} {t : Thread} (h : t.status = .waiting (.matrix c)) (ht : t.team = team) (hs : signedOn s t c = false) :
    released s team t = t.readyAt (t.pc + 8) s.cycle := by
  unfold released
  rw [h]
  simp [ht, hs]

/-! ### The tile and the queues of a completed operation (R136, R141) -/

/-- The tile written on each of some cores, and the operation gone from their queues. -/
def tileDone (s : State) (o : MatOp) (base : Nat) (cs : List Nat) : State :=
  cs.foldl (fun (s : State) k => (s.setTeam (matWrite (s.team o.team) o (k - base))).setCore k { s.core k with anvil := changeOp o none (s.core k).anvil }) s

theorem tileDone_eq (s : State) (o : MatOp) (base : Nat) (cs : List Nat) :
    tileDone s o base cs = { s with teams := (tileDone s o base cs).teams, cores := (tileDone s o base cs).cores } := by
  unfold tileDone
  refine List.foldlRecOn (motive := fun t : State => t = { s with teams := t.teams, cores := t.cores }) _ _ rfl ?_
  intro t ht k _
  rw [ht]
  rfl

theorem tileDone_team {s : State} {o : MatOp} (h : s.hasTeam o.team = true) (base : Nat) (cs : List Nat) :
    (tileDone s o base cs).team o.team = (cs.map (· - base)).foldl (fun x h => matWrite x o h) (s.team o.team) := by
  unfold tileDone
  rw [List.foldl_map]
  induction cs generalizing s with
  | nil => rfl
  | cons k cs ih =>
    have huid : (matWrite (s.team o.team) o (k - base)).uid = o.team := by
      rw [matWrite_eq]
      exact State.team_uid h
    have hhas : (s.setTeam (matWrite (s.team o.team) o (k - base))).hasTeam o.team = true := (State.hasTeam_setTeam ..).trans h
    have hteam : (s.setTeam (matWrite (s.team o.team) o (k - base))).team o.team = matWrite (s.team o.team) o (k - base) := by
      rw [State.team_setTeam, if_pos ⟨huid.symm, h⟩]
    rw [List.foldl_cons, List.foldl_cons]
    refine (ih (s := (s.setTeam (matWrite (s.team o.team) o (k - base))).setCore k { s.core k with anvil := changeOp o none (s.core k).anvil }) hhas).trans ?_
    rw [State.setCore_team_at, hteam]

theorem tileDone_anvil (s : State) (o : MatOp) (base : Nat) {cs : List Nat} (hn : cs.Nodup) (k : Nat) :
    ((tileDone s o base cs).core k).anvil = if k ∈ cs then changeOp o none (s.core k).anvil else (s.core k).anvil := by
  unfold tileDone
  induction cs generalizing s with
  | nil => rfl
  | cons c cs ih =>
    obtain ⟨hc, hn⟩ := List.nodup_cons.mp hn
    rw [List.foldl_cons, ih _ hn, State.core_setCore]
    by_cases hk : k = c
    · subst hk
      simp [hc]
    · simp [hk]

/-- The halves of an operation's cores are different ones. -/
theorem opCores_halves (s : State) (tm : Team) (pair : Bool) (core : Nat) : ((opCores s tm pair core).map (· - tm.core)).Nodup := by
  unfold opCores
  split <;> simp

/-! ### MATRIX_COMPLETE (R136, R138, R141, R143) -/

/-- The state after an operation has completed, before the accesses that waited for it. -/
def completed (s : State) (o : MatOp) (cs : List Nat) : State := wakeMwait (signersDone (tileDone s o (s.team o.team).core cs) o.signs) (s.team o.team).uid

theorem completed_teams (s : State) (o : MatOp) (cs : List Nat) : (completed s o cs).teams = (tileDone s o (s.team o.team).core cs).teams := by
  unfold completed
  rw [wakeMwait_eq, signersDone_eq]

theorem completed_cores (s : State) (o : MatOp) (cs : List Nat) : (completed s o cs).cores = (tileDone s o (s.team o.team).core cs).cores := by
  unfold completed
  rw [wakeMwait_eq, signersDone_eq]

theorem completed_byte (s : State) (o : MatOp) (cs : List Nat) (k : Nat) : (completed s o cs).byte k = s.byte k := by
  unfold completed
  rw [wakeMwait_eq, signersDone_eq, tileDone_eq]
  rfl

theorem completed_team {s : State} {o : MatOp} (h : s.hasTeam o.team = true) (cs : List Nat) :
    (completed s o cs).team o.team = (cs.map (· - (s.team o.team).core)).foldl (fun x h => matWrite x o h) (s.team o.team) := by
  rw [← tileDone_team h]
  exact congrFun (team_congr (completed_teams s o cs)) o.team

/-- An operation alone in its queues leaves them empty. -/
theorem completed_anvil {s : State} {o : MatOp} {cs : List Nat} (hn : cs.Nodup) {k : Nat} (h : (s.core k).anvil = if k ∈ cs then [.op o] else []) :
    ((completed s o cs).core k).anvil = [] := by
  have e : (completed s o cs).core k = (tileDone s o (s.team o.team).core cs).core k := by unfold State.core; rw [completed_cores]
  rw [e, tileDone_anvil s o _ hn, h]
  split
  · simp [changeOp]
  · rfl

theorem matrixComplete_eq {s : State} {core : Nat} {o : MatOp} (hf : firstOp s core = some o) (hph : o.phase = .compute)
    (ha : ∀ k ∈ opCores s (s.team o.team) o.pair core, (s.core k).anvil = [.op o]) :
    execMatrixComplete core s = .next (completed s o (opCores s (s.team o.team) o.pair core)) := by
  have hdrain : (opCores s (s.team o.team) o.pair core).foldl drain (completed s o (opCores s (s.team o.team) o.pair core)) =
      completed s o (opCores s (s.team o.team) o.pair core) := foldl_drain_ops fun k hk x hx => by
    rw [completed_anvil (opCores_nodup ..) ((ha k hk).trans (if_pos hk).symm)] at hx
    exact absurd hx (by simp)
  unfold execMatrixComplete
  rw [hf]
  simp only [hph, beq_self_eq_true, ↓reduceIte]
  exact congrArg Host.Outcome.next hdrain

/-- A thread's status, team and place after an operation has completed, but for the MWAITs that end. -/
theorem completed_thread {s : State} {o : MatOp} (cs : List Nat) {v : Nat} (hv : s.hasThread v = true) :
    ∃ t : Thread, (completed s o cs).thread v = released (signersDone (tileDone s o (s.team o.team).core cs) o.signs) (s.team o.team).uid t ∧
      t.uncounted = (s.thread v).uncounted ∧
      ((o.signs.map (·.thread)).Nodup → ∀ g ∈ o.signs, g.thread = v → t.sb = ((s.thread v).sbDown g.sb).sb) := by
  have hhas : (tileDone s o (s.team o.team).core cs).hasThread v = true := by
    rw [tileDone_eq]
    exact hv
  have hth : (tileDone s o (s.team o.team).core cs).thread v = s.thread v := by
    rw [tileDone_eq]
    rfl
  refine ⟨_, wakeMwait_thread ((signersDone_hasThread ..).trans hhas) _, ?_, fun hn g hg e => ?_⟩
  · rw [signersDone_uncounted, hth]
  · subst e
    have := congrArg Thread.sb (signersDone_signer _ hn hg hhas)
    rw [hth] at this
    exact this

/-- No thread has a signature outstanding on a register whose one operation has completed and that gathers nothing (R138). -/
theorem signedOn_completed {s : State} {o : MatOp} {cs : List Nat} (hteam : s.hasTeam o.team = true) (hn : cs.Nodup)
    (ha : ∀ k ∈ [(s.team o.team).core, (s.team o.team).core + 1], (s.core k).anvil = if k ∈ cs then [.op o] else []) {c : Nat}
    (hc : (tget {} (s.team o.team).convs c).signs = []) {t : Thread} (ht : t.team = o.team) :
    signedOn (signersDone (tileDone s o (s.team o.team).core cs) o.signs) t c = false := by
  obtain ⟨a, r, m, hrest⟩ := foldl_matWrite_rest o (cs.map (· - (s.team o.team).core)) (s.team o.team)
  have hteamOf : (signersDone (tileDone s o (s.team o.team).core cs) o.signs).teamOf t = { s.team o.team with acc := a, rmark := r, cmark := m } := by
    rw [signersDone_eq, State.teamOf, ht, ← hrest]
    exact tileDone_team hteam _ cs
  have hcore : ∀ k ∈ [(s.team o.team).core, (s.team o.team).core + 1], ((signersDone (tileDone s o (s.team o.team).core cs) o.signs).core k).anvil = [] := by
    intro k hk
    rw [signersDone_eq]
    refine (tileDone_anvil s o _ hn k).trans ?_
    rw [ha k hk]
    split
    · simp [changeOp]
    · rfl
  unfold signedOn
  simp only [hteamOf, hc, List.any_nil, Bool.false_or]
  rw [List.any_eq_false]
  intro k hk
  rw [hcore k hk]
  simp

/-! ### DEFERRED_MATRIX_TRAP (R137, R258) -/

/-- A deferred trap is taken at a boundary a thread has come to. -/
theorem deferredTrap_taken {s : State} {u : Nat} {addr : DWord} {info : Word} {rest : List (DWord × Word)} (hs : s.hasThread u = true)
    (hd : (s.thread u).defer = (addr, info) :: rest) (hp : (s.teamOf (s.thread u)).place = .resident) (hh : (s.thread u).hnd = false)
    (hsc : (s.thread u).scout = none) {pc : DWord}
    (hpc : (s.thread u).status = .ready ∧ (s.thread u).mid = none ∧ pc = (s.thread u).pc ∨
      (∃ k, (s.thread u).status = .waiting (.matrix k)) ∧ pc = (s.thread u).pc + 8) :
    execDeferredMatrixTrap u s = .next (takeTrap (s.setThread { s.thread u with defer := rest, pc := pc, mid := none }) u 0x06 addr info pc) := by
  unfold execDeferredMatrixTrap
  rcases hpc with ⟨h1, h2, rfl⟩ | ⟨⟨k, h1⟩, rfl⟩ <;> simp [*]

/-! ### The obligation -/

/-- A step of the operand phase changes the cores alone: the operation goes on where it stood in its queues. -/
theorem operandPhase_spec {s : State} {o : MatOp} (core : Nat) (hl : lockHolders s = []) (h : ∀ k ∈ opCores s (s.team o.team) o.pair core, OpsAlone s k) :
    operandPhase s core o = { s with cores := (operandPhase s core o).cores } ∧
      ∀ k ∈ opCores s (s.team o.team) o.pair core,
        (firstOp s k = some o → firstOp (operandPhase s core o) k = some (o.stepped (s.team o.team))) ∧
        (o ∈ (coreOps s k).take 2 → o.stepped (s.team o.team) ∈ (coreOps (operandPhase s core o) k).take 2) := by
  have hx : (o.stepped (s.team o.team)).team = o.team := rfl
  rw [operandPhase_eq hl h]
  exact ⟨putOp_eq .., fun k hk => ⟨firstOp_putOp (opCores_nodup ..) hx hk, take_putOp (opCores_nodup ..) hx hk⟩⟩

section
variable {s : State} {o : MatOp} {cs : List Nat} (hteam : s.hasTeam o.team = true)
include hteam

/-- A cell of a completed tile on each of the operation's cores (R80, R147). -/
theorem completed_cell (hn : o.form.n ≤ 512) (hcs : (cs.map (· - (s.team o.team).core)).Nodup) {k : Nat} (hk : k ∈ cs) {r y : Nat} (hr : r < 128)
    (hy : y < o.form.n) :
    let h := k - (s.team o.team).core
    ((completed s o cs).team o.team).accAt h (o.form.unit + y / 128) r (y % 128) =
        o.cell h ((s.team o.team).accAt h (o.form.unit + y / 128) r (y % 128)) r y ∧
      ((completed s o cs).team o.team).accPoison h (o.form.unit + y / 128) r (y % 128) =
        ((s.team o.team).accPoison h (o.form.unit + y / 128) r (y % 128) || o.rowPoison (o.rowOf h r) || o.colPoison y) := by
  obtain ⟨h1, h2⟩ := foldl_matWrite (o := o) hn hcs (s.team o.team) (h := k - (s.team o.team).core) hr hy
  have hmem : k - (s.team o.team).core ∈ cs.map (· - (s.team o.team).core) := List.mem_map_of_mem hk
  rw [completed_team hteam]
  refine ⟨h1.trans (if_pos hmem), h2.trans ?_⟩
  rw [decide_eq_true hmem, Bool.true_and, ← Bool.or_assoc]

omit hteam in
/-- The counter of a signer that does not wait in MWAIT falls (R136). -/
theorem completed_signer (hn : (o.signs.map (·.thread)).Nodup) {g : Sign} (hg : g ∈ o.signs) (hs : s.hasThread g.thread = true)
    (hw : ∀ k, (s.thread g.thread).status ≠ .waiting (.matrix k)) :
    ((completed s o cs).thread g.thread).sb = ((s.thread g.thread).sbDown g.sb).sb := by
  obtain ⟨t, he, hun, hsb⟩ := completed_thread (o := o) cs hs
  have hstat : t.status = (s.thread g.thread).status := uncounted_status hun
  rw [he, released_busy fun k => hstat ▸ hw k]
  exact hsb hn g hg rfl

/-- A thread that waits for the register is ready after its MWAIT (R138). -/
theorem completed_waiter (hcs : cs.Nodup)
    (ha : ∀ k ∈ [(s.team o.team).core, (s.team o.team).core + 1], (s.core k).anvil = if k ∈ cs then [.op o] else [])
    (hc : (tget {} (s.team o.team).convs o.conv).signs = []) {v : Nat} (hv : s.hasThread v = true) (hvt : (s.thread v).team = o.team)
    (hvs : (s.thread v).status = .waiting (.matrix o.conv)) :
    ((completed s o cs).thread v).status = .ready ∧ ((completed s o cs).thread v).pc = (s.thread v).pc + 8 := by
  obtain ⟨t, he, hun, -⟩ := completed_thread (o := o) cs hv
  have hstat : t.status = (s.thread v).status := uncounted_status hun
  have hpc : t.pc = (s.thread v).pc := uncounted_pc hun
  have ht : t.team = o.team := (uncounted_team hun).trans hvt
  rw [he, released_waiting (hstat.trans hvs) (ht.trans (State.team_uid hteam).symm) (signedOn_completed hteam hcs ha hc ht), ← hpc]
  exact ⟨rfl, rfl⟩

end

/-- Settles O29: the operand phase step by step, the tile, the queues, the counters and the MWAITs of a completed operation, and the
deferred traps. -/
theorem matrixOperationsRun : Obligations.MatrixOperationsRun := by
  unfold Obligations.MatrixOperationsRun
  refine ⟨fun s core o hf hteam _ => ?_, fun s u addr info rest hs hd hp hh hsc => ⟨fun h1 h2 => ?_, fun k h1 => ?_⟩⟩
  · intro tm cs alone stepped
    have hst : ∀ y : MatOp, stepped y (y.stepped (s.team y.team)) := fun y => ⟨rfl, fun a => y.stepped_byte _ a⟩
    refine ⟨fun hph h hr hl => ?_, fun hph h hr => ?_, ?_, fun hph hn ha => ?_⟩
    · obtain ⟨hcores, hops⟩ := operandPhase_spec core hl fun k hk => (h k hk).2
      exact ⟨_, computeStart_step hf hph h hr, hcores, fun k hk => ⟨o.stepped tm, (hops k hk).1 (h k hk).1, hst o⟩⟩
    · exact ⟨_, computeStart_compute hf hph h hr, putOp_eq .., fun k hk => firstOp_putOp (opCores_nodup ..) (by rfl) hk (h k hk).1⟩
    · intro y rest hc hph hr hl ys h
      obtain ⟨hcores, hops⟩ := operandPhase_spec core hl fun k hk => (h k hk).2
      exact ⟨_, computeStart_ahead hc hph hr fun k hk => (h k hk).1, hcores, fun k hk => ⟨y.stepped (s.team y.team), (hops k hk).2 (h k hk).1, hst y⟩⟩
    · have hcs : cs.Nodup := opCores_nodup ..
      have hn512 : o.form.n ≤ 512 := by
        simp only [matNOk, Bool.and_eq_true, decide_eq_true_eq] at hn
        exact hn.2
      have hcsmem : ∀ k ∈ cs, k ∈ tm.core :: (tm.core + 1) :: cs := fun k hk => by simp [hk]
      have hpair : ∀ k ∈ [tm.core, tm.core + 1], k ∈ tm.core :: (tm.core + 1) :: cs := fun k hk => List.mem_append_left cs hk
      exact ⟨_, matrixComplete_eq hf hph fun k hk => (ha k (hcsmem k hk)).trans (if_pos hk), fun k => completed_byte ..,
        fun k hk => completed_anvil hcs (ha k (hcsmem k hk)), fun k hk r hr y hy => completed_cell hteam hn512 (opCores_halves ..) hk hr hy,
        fun hnd g hg hs hw => completed_signer hnd hg hs hw,
        fun hc v hv hvt hvs => completed_waiter hteam hcs (fun k hk => ha k (hpair k hk)) hc hv hvt hvs⟩
  · exact deferredTrap_taken hs hd hp hh hsc (.inl ⟨h1, h2, rfl⟩)
  · exact deferredTrap_taken hs hd hp hh hsc (.inr ⟨⟨k, h1⟩, rfl⟩)

end Sys2Proof.Machine
end
